-- ==== Sys2Proof/Word.lean ====
section
/-! DEFINITION. The widths the manual computes in, and the plainest arithmetic on them: the unsigned
helper `bits` of R6, two's complement reading (`sx`), and the 32-entry lane lists. -/

namespace Sys2Proof

/-- A 32-bit register word (R8). -/
abbrev Word := BitVec 32
/-- A 64-bit value: an address, a pair, a latch, SRGEN, a handle (R8, R16, R177). -/
abbrev DWord := BitVec 64
/-- One byte of storage (R25). -/
abbrev Byte := BitVec 8
/-- A set of lanes: bit l stands for lane l (R131). -/
abbrev Mask := BitVec 32

/-- `bits(x, lo, n)` of R6 on a natural number. -/
def bits (x lo n : Nat) : Nat := (x >>> lo) % 2 ^ n

/-- The two's-complement value of the low `n` bits of `x` (R86, R2). -/
def sx (n x : Nat) : Int :=
  let y := x % 2 ^ n
  if y < 2 ^ (n - 1) then (y : Int) else (y : Int) - (2 ^ n : Nat)

/-- `bits` of a negative integer, from its two's-complement form of unbounded width (the preamble of
R86): the low `n` bits of an integer, as a natural number. -/
def intBits (n : Nat) (i : Int) : Nat := (i % ((2 ^ n : Nat) : Int)).toNat

/-- A list of 32 entries, one for each lane. -/
def tab {α : Type} (f : Nat → α) : List α := (List.range 32).map f

/-- Entry `l` of a lane list, with a default beyond its end. -/
def lane {α : Type} (dflt : α) (xs : List α) (l : Nat) : α := xs.getD l dflt

/-- The lanes of a mask, in ascending order (R6). -/
def lanesOf (m : Mask) : List Nat := (List.range 32).filter (fun l => m.getLsbD l)

/-- The mask of the lanes for which `f` holds. -/
def maskOf (f : Nat → Bool) : Mask :=
  BitVec.ofNat 32 ((List.range 32).foldl (fun acc l => acc + (if f l then 2 ^ l else 0)) 0)

/-- The lowest-numbered lane of a mask (R10). -/
def lowest (m : Mask) : Option Nat := (lanesOf m).head?

end Sys2Proof
end

