-- ==== Sys2Proof/Config.lean ====
section
/-! DEFINITION. What the manual fixes once for every VQ880 (R1, R133, R333, R376), and the values it leaves
open: each open value is an opaque constant applied to a plain counter or to operands, so nothing can be
proved about which value it is. -/

namespace Sys2Proof.Config

/-! ### Figures -/

/-- Physical spires of a tower (R1, R353). -/
def spiresPerTower : Nat := 34
/-- Towers of a device (R1). -/
def towers : Nat := 4
/-- Warps a spire holds (R133). -/
def warpsPerSpire : Nat := 64
/-- Warp-registers a spire holds (R133). -/
def warpRegs : Nat := 4096
/-- Scratchpad of a spire in KiB (R133). -/
def scratchKiB : Nat := 384
/-- Crews a spire holds (R133). -/
def crewsPerSpire : Nat := 16
/-- Accumulator banks of a spire (R133). -/
def banks : Nat := 16
/-- Entries of the handle resolution table (R376). -/
def handleEntries : Nat := 65536
/-- The pre-emption deadline that DEADLINE 0 selects, in ac (R333). -/
def defaultDeadline : Nat := 2700000
/-- The time after which a request or a target counts as unreachable, in ac (R369, R379). -/
def unreachableAfter : Nat := 2700000
/-- Unacknowledged messages a device may hold (R379). -/
def maxMessages : Nat := 4096
/-- The object number of the argument object (R175). -/
def argObject : Nat := 0x3FFFFF
/-- Outstanding commands of one copy channel (R282). -/
def channelDepth : Nat := 16
/-- Undelivered trap entries a warp holds (R306). -/
def trapDepth : Nat := 8

/-! ### Open values (DESIGN CHOICE, safe: log entry 7) -/

/-- Whether a faulted or cancelled copy command wrote the element of position `q` (R298, R304): not stated. -/
opaque copyWrote (n : Nat) (q : Nat) : Bool
/-- The L2 slice (24t + k of tower t) that serves a line, given the fenced towers (R361, R414): not stated. -/
opaque homeSlice (fenced : List Bool) (line : Nat) : Nat
/-- What Damosk answers an SPDM request with, beyond the contents the manual lists (R417). -/
opaque spdmBits (n : Nat) (request : Nat) : BitVec 384
/-- The parts of a line that poison leaves readable as unspecified data (R325). -/
opaque poisonData (n : Nat) : BitVec 128
/-- A numeric result that the manual does not state. -/
opaque unstatedWord (n : Nat) : Word

end Sys2Proof.Config
end

