-- ==== Sys2Proof/Syntax.lean ====
section
/-! DEFINITION. The instructions and the events of the VQ880: `Instr` has one constructor for each row of
the opcode table. The first 245 rows are instruction words (R34 to R47); the remaining rows are the steps
of the engines, the dispatcher, the fabric, the host and Damosk, whose constructors carry what the step
is given from outside (the message, the register write, the outcome of a transfer). -/

namespace Sys2Proof

/-- An operand code of R41, but for the reserved codes 237 to 255. -/
inductive Opnd
  | v (n : Fin 192)   -- vector register, codes 0 to 191
  | s (n : Fin 32)    -- uniform register, codes 192 to 223
  | q (n : Fin 8)     -- queue port, codes 224 to 231
  | b (n : Fin 3)     -- bypass latch, codes 232 to 234
  | z                 -- zero, code 235
  | lid               -- lane index, code 236
  deriving DecidableEq, Repr

/-- A predicate number, 0 to 7; 7 reads true (R43). -/
abbrev Pred := Fin 8

/-- A format slot number (R60). -/
abbrev FSlot := Fin 16

/-- The G field (R29, R35). -/
structure Guard where
  p   : Pred
  neg : Bool
  deriving DecidableEq, Repr

/-- The guard, W and L fields of an instruction that has a result (R29, R30, R31). -/
structure Hdr where
  g : Guard
  w : Bool
  l : Option (Fin 3)
  deriving DecidableEq, Repr

/-- The conditions of `icmp` (R47, R97). -/
inductive ICond
  | eq | ne | lt | le | gt | ge | ltu | leu | gtu | geu
  deriving DecidableEq, Repr

/-- The conditions of `fcmp` (R121). -/
inductive FCond
  | eq | ne | lt | le | gt | ge | un | ord
  deriving DecidableEq, Repr

/-- A scope, SCP 0 to 4 (R38). -/
inductive Scope
  | wrp | crw | die | dev | dom
  deriving DecidableEq, Repr

/-- An order, ORD 0 to 3 (R38). -/
inductive Order
  | rlx | acq | rel | ar
  deriving DecidableEq, Repr

/-- The memory operand of an M-format instruction (R38). -/
structure MemOp where
  nt  : Bool
  scp : Scope
  ord : Order
  off : BitVec 16
  sc  : BitVec 3
  b   : Opnd
  a   : Opnd
  deriving DecidableEq, Repr

/-- The memory operand of an A-format instruction (R39). -/
structure AtomOp where
  scp : Scope
  ord : Order
  sc  : BitVec 3
  b   : Opnd
  a   : Opnd
  deriving DecidableEq, Repr

/-- The status word that `rdflag` and `clrflag` select (R127). -/
inductive FlagSel
  | ff | qs | as
  deriving DecidableEq, Repr

/-- The sets of paths of `fencex` (R275): LS, MX, CP, CL in bits 0 to 3. -/
abbrev PathSet := BitVec 4

/-! ### What the events are given -/

/-- The 24-byte Vuine header (R366), as the 192 bits that arrive. -/
abbrev Vuine := BitVec 192

/-- A request that arrives from the fabric (R366, R373): its header, the bit address at the holding device's
physical memory, its width, the data of a write, and for an atomic the operation, its operand and its swap
value, the slot word of a slot operation and the lane and generator output that its rounding uses; `port` is the port
on which it travels (R367, R368). `part` is for a combining step on an element whose other bits the sender holds: its width,
the place of the request's bits in it, and the other bits at their places (R290; DESIGN CHOICE, unsafe: log entry 26). -/
structure FabReq where
  hdr   : Vuine
  frame : Nat
  bit   : Nat
  nbits : Nat
  data  : Nat
  aop   : Nat
  swap  : Nat
  slot  : Word
  lane  : Nat
  rnd   : Word
  port  : Nat
  part  : Option (Nat × Nat × Nat) := none
  deriving DecidableEq, Repr

/-- A multicast header (R371): its 32-bit word and the node words that follow. -/
structure Multicast where
  word  : Word
  nodes : List (BitVec 16)
  deriving DecidableEq, Repr

/-- A reply that arrives (R369, R373): the data of a read or of an atomic, a refusal, or data that cannot be
corrected (R325). -/
structure FabReply where
  hdr     : Vuine
  refused : Bool
  soft    : Bool
  data    : Nat
  deriving DecidableEq, Repr

/-- A failed read of an engine or of the fault unit: the trap cause, its detail, and the element index or
position at which the failure lies (R221, R298, R325, R369). -/
structure ReadFail where
  cause  : Nat
  detail : Nat
  index  : Nat
  deriving DecidableEq, Repr

/-- How the copy of a migration ended (R242). -/
inductive MigResult
  | ok
  | sourceError
  | unreachable
  deriving DecidableEq, Repr

/-- One sub-tile of one object of one context; `rep` is the replica of a REPL object (R238). -/
structure SubTile where
  ctx : Nat
  obj : Nat
  sub : Nat
  rep : Nat
  deriving DecidableEq, Repr

/-- A launch on its way to a device: the captured record, argument block and format table, the handle it
carries, the comet it is addressed to, and whether its capture failed (R379, R381). -/
structure LaunchMsg where
  record  : List Byte
  args    : List Byte
  fmt     : List Word
  handle  : DWord
  comet   : Option DWord
  src     : Nat
  ctx     : Nat
  queue   : Nat
  capFail : Bool
  deriving DecidableEq, Repr

/-- A report of a handle's state to its home, or of its home to a device that has asked (R378, R386): `ctx` is the context for
which it answers, and `asker` the warp whose instruction it answers. -/
structure HandleReport where
  handle  : DWord
  state   : Nat
  dev     : Nat
  code    : Nat
  detail  : Nat
  result  : DWord
  origin  : DWord
  up      : DWord
  ocode   : Nat
  odetail : Nat
  arverr  : Bool
  refs    : Nat
  ctx     : Nat
  asker   : Option Nat
  deriving DecidableEq, Repr

/-- A break notice (R386): the comet that broke and the first failure of its chain. -/
structure Notice where
  handle  : DWord
  origin  : DWord
  ocode   : Nat
  odetail : Nat
  deriving DecidableEq, Repr

/-- The fields of a collective that members compare (R390). -/
structure CollShape where
  nrank  : Nat
  devr   : List Nat
  op     : Nat
  red    : Nat
  count  : Nat
  unord  : Bool
  narrow : Bool
  wslot  : Nat
  o      : Nat
  root   : Nat
  deriving DecidableEq, Repr

/-- The collective of one communicator (R390): its context, object number and CSEQ. -/
structure CollKey where
  ctx  : Nat
  obj  : Nat
  cseq : Nat
  deriving DecidableEq, Repr

/-- A contribution of a rank, with the handle of its command: the elements from `first` on (R392). -/
structure Contribution where
  key   : CollKey
  rank  : Nat
  h     : DWord
  shape : CollShape
  first : Nat
  elems : List Word
  deriving DecidableEq, Repr

/-- An ABANDON (R396): the abandoning rank's handle, CODE and DETAIL. -/
structure Abandon where
  key    : CollKey
  handle : DWord
  code   : Nat
  detail : Nat
  deriving DecidableEq, Repr

/-- What fails in LINK_FAILURE (R324, R356, R368). -/
inductive Link
  | ring (tower station : Nat)
  | dieLink (tower dome : Nat)
  | domeLink
  | cxl (port : Nat)
  | plane (p : Nat)
  deriving DecidableEq, Repr

/-- A change that the debugger makes to a halted warp (R328). -/
inductive DebugEdit
  | vreg (reg lane : Nat) (x : Word)
  | sreg (reg : Nat) (x : Word)
  | pred (reg : Nat) (m : Mask)
  | latch (k lane : Nat) (x : DWord)
  | slotWord (k : Nat) (x : Word)
  | srgen (x : DWord)
  | fflags (x : Word)
  | qstat (x : Word)
  | accstat (x : Word)
  | shadow (k lane : Nat) (x : DWord)
  | csr (n : Nat) (x : Word)
  | pc (slotB : Bool) (x : DWord)
  | lanes (slotB : Bool) (m : Mask)
  | slot (slotB : Bool) (x : BitVec 512)
  | stack (last : Bool) (ssn : BitVec 16)
  | split (k : Nat) (x : BitVec 256)
  | current (x : Option (BitVec 256))
  | trapQueue (xs : List (BitVec 256))
  | port (q7 : Bool) (xs : List (BitVec 128))
  | band (n : Nat) (x : Word)
  | barrier (n : Nat) (x : BitVec 16)
  | channel (c : Nat) (entries : List (List Word))
  | scratch (addr : Nat) (x : Byte)
  | bank (b row col : Nat) (x : Word)
  | weight (shadow : Bool) (k n : Nat) (x : DWord)
  | plane (shadow : Bool) (x : DWord)
  deriving DecidableEq, Repr

/-- The instructions and events, one constructor for each row of the opcode table. -/
inductive Instr
  -- major 0x01 (R88)
  | nop (g : Guard)
  -- major 0x10 (R89)
  | iadd (h : Hdr) (d a b : Opnd)
  | isub (h : Hdr) (d a b : Opnd)
  | imin (h : Hdr) (d a b : Opnd)
  | imax (h : Hdr) (d a b : Opnd)
  | iminu (h : Hdr) (d a b : Opnd)
  | imaxu (h : Hdr) (d a b : Opnd)
  | iabs (h : Hdr) (d a : Opnd)
  | ineg (h : Hdr) (d a : Opnd)
  | iaddsat (h : Hdr) (d a b : Opnd)
  | isubsat (h : Hdr) (d a b : Opnd)
  -- major 0x11 (R90)
  | and (h : Hdr) (d a b : Opnd)
  | or (h : Hdr) (d a b : Opnd)
  | xor (h : Hdr) (d a b : Opnd)
  | andn (h : Hdr) (d a b : Opnd)
  | orn (h : Hdr) (d a b : Opnd)
  | not (h : Hdr) (d a : Opnd)
  | ltab (h : Hdr) (d a b c : Opnd) (tt : BitVec 8)
  -- major 0x12 (R91, R92)
  | imul (h : Hdr) (d a b : Opnd)
  | imulh (h : Hdr) (d a b : Opnd)
  | imulhu (h : Hdr) (d a b : Opnd)
  | imad (h : Hdr) (d a b c : Opnd)
  | imulw (h : Hdr) (d a b : Opnd)
  | imulwu (h : Hdr) (d a b : Opnd)
  | idiv (h : Hdr) (d a b : Opnd)
  | idivu (h : Hdr) (d a b : Opnd)
  | irem (h : Hdr) (d a b : Opnd)
  | iremu (h : Hdr) (d a b : Opnd)
  -- major 0x13 (R93)
  | shl (h : Hdr) (d a b : Opnd)
  | shr (h : Hdr) (d a b : Opnd)
  | sar (h : Hdr) (d a b : Opnd)
  | rotl (h : Hdr) (d a b : Opnd)
  | rotr (h : Hdr) (d a b : Opnd)
  -- major 0x14 (R94, R95)
  | popc (h : Hdr) (d a : Opnd)
  | clz (h : Hdr) (d a : Opnd)
  | ctz (h : Hdr) (d a : Opnd)
  | brev (h : Hdr) (d a : Opnd)
  | bfe (h : Hdr) (d a b : Opnd)
  | bfes (h : Hdr) (d a b : Opnd)
  | bfi (h : Hdr) (d a b c : Opnd)
  | bgat (h : Hdr) (d a b c : Opnd)
  -- major 0x15 (R96)
  | iadd2 (h : Hdr) (d a b : Opnd)
  | isub2 (h : Hdr) (d a b : Opnd)
  | shl2 (h : Hdr) (d a b : Opnd)
  | shr2 (h : Hdr) (d a b : Opnd)
  | sar2 (h : Hdr) (d a b : Opnd)
  | padd (h : Hdr) (d a b : Opnd)
  -- majors 0x16, 0x17, 0x18 (R97, R98, R99)
  | icmp (h : Hdr) (cond : ICond) (wide : Bool) (d : Pred) (a b : Opnd)
  | mov (h : Hdr) (d a : Opnd)
  | sel (h : Hdr) (d a b : Opnd) (p : Pred)
  | movp (h : Hdr) (d : Opnd) (p : Pred)
  | setp (h : Hdr) (d : Pred) (a : Opnd)
  | mov2 (h : Hdr) (d a : Opnd)
  | pand (h : Hdr) (d a b : Pred)
  | por (h : Hdr) (d a b : Pred)
  | pxor (h : Hdr) (d a b : Pred)
  | pnot (h : Hdr) (d a : Pred)
  | pandn (h : Hdr) (d a b : Pred)
  -- majors 0x1A to 0x1F (R100)
  | movi (h : Hdr) (d : Opnd) (imm : Word)
  | iaddi (h : Hdr) (d a : Opnd) (imm : Word)
  | andi (h : Hdr) (d a : Opnd) (imm : Word)
  | ori (h : Hdr) (d a : Opnd) (imm : Word)
  | xori (h : Hdr) (d a : Opnd) (imm : Word)
  | movi2 (h : Hdr) (zx : Bool) (d : Opnd) (imm : Word)
  -- majors 0x40 to 0x4A (R101 to R106, R334, R335)
  | bra (g : Guard) (u : Bool) (rj : BitVec 17) (tgt : BitVec 24)
  | call (g : Guard) (u : Bool) (rj : BitVec 17) (tgt : BitVec 24) (k : Opnd)
  | brx (g : Guard) (a : Opnd)
  | callx (h : Hdr) (d a : Opnd)
  | ret (g : Guard) (a : Opnd)
  | exit (g : Guard)
  | yield (g : Guard)
  | trap (g : Guard) (code : BitVec 8)
  | brk (g : Guard) (code : BitVec 8)
  | pchk (h : Hdr) (d : Pred)
  | pyield (g : Guard) (dead : BitVec 3)
  -- majors 0x50 to 0x5D (R110, R112)
  | ld8 (h : Hdr) (m : MemOp) (d : Opnd)
  | ld8s (h : Hdr) (m : MemOp) (d : Opnd)
  | ld16 (h : Hdr) (m : MemOp) (d : Opnd)
  | ld16s (h : Hdr) (m : MemOp) (d : Opnd)
  | ld32 (h : Hdr) (m : MemOp) (d : Opnd)
  | ld64 (h : Hdr) (m : MemOp) (d : Opnd)
  | ld128 (h : Hdr) (m : MemOp) (d : Opnd)
  | ldp (h : Hdr) (m : MemOp) (d : Opnd)
  | st8 (g : Guard) (m : MemOp) (d : Opnd)
  | st16 (g : Guard) (m : MemOp) (d : Opnd)
  | st32 (g : Guard) (m : MemOp) (d : Opnd)
  | st64 (g : Guard) (m : MemOp) (d : Opnd)
  | st128 (g : Guard) (m : MemOp) (d : Opnd)
  | stp (g : Guard) (m : MemOp) (d : Opnd)
  -- majors 0x5E to 0x62 (R255 to R258)
  | pref (g : Guard) (m : MemOp)
  | prom (h : Hdr) (d a b : Opnd)
  | promPin (h : Hdr) (d a b : Opnd)
  | dem (h : Hdr) (d a b : Opnd)
  | objqRec (h : Hdr) (d a b : Opnd)
  | objqRes (h : Hdr) (d a : Opnd)
  | cflush (g : Guard) (a b : Opnd)
  | cinv (g : Guard) (selI selD : Bool) (a b : Opnd)
  -- major 0x60 (R272, R273)
  | atomAdd (h : Hdr) (m : AtomOp) (wide : Bool) (d c : Opnd)
  | atomSub (h : Hdr) (m : AtomOp) (wide : Bool) (d c : Opnd)
  | atomMin (h : Hdr) (m : AtomOp) (wide : Bool) (d c : Opnd)
  | atomMax (h : Hdr) (m : AtomOp) (wide : Bool) (d c : Opnd)
  | atomMinu (h : Hdr) (m : AtomOp) (wide : Bool) (d c : Opnd)
  | atomMaxu (h : Hdr) (m : AtomOp) (wide : Bool) (d c : Opnd)
  | atomAnd (h : Hdr) (m : AtomOp) (wide : Bool) (d c : Opnd)
  | atomOr (h : Hdr) (m : AtomOp) (wide : Bool) (d c : Opnd)
  | atomXor (h : Hdr) (m : AtomOp) (wide : Bool) (d c : Opnd)
  | atomXchg (h : Hdr) (m : AtomOp) (wide : Bool) (d c : Opnd)
  | atomCas (h : Hdr) (m : AtomOp) (wide : Bool) (d c : Opnd)
  | atomFadd (h : Hdr) (m : AtomOp) (f : FSlot) (d c : Opnd)
  | atomFmin (h : Hdr) (m : AtomOp) (f : FSlot) (d c : Opnd)
  | atomFmax (h : Hdr) (m : AtomOp) (f : FSlot) (d c : Opnd)
  -- majors 0x63, 0x64 (R274, R275)
  | fence (g : Guard) (scp : Scope) (ord : Order) (sc : Bool)
  | fencex (g : Guard) (scp : Scope) (src dst : PathSet)
  -- majors 0x68 to 0x6E (R164, R165)
  | lds32 (h : Hdr) (m : MemOp) (d : Opnd)
  | lds64 (h : Hdr) (m : MemOp) (d : Opnd)
  | lds128 (h : Hdr) (m : MemOp) (d : Opnd)
  | sts32 (g : Guard) (m : MemOp) (d : Opnd)
  | sts64 (g : Guard) (m : MemOp) (d : Opnd)
  | sts128 (g : Guard) (m : MemOp) (d : Opnd)
  | atomsAdd (h : Hdr) (m : AtomOp) (wide : Bool) (d c : Opnd)
  | atomsSub (h : Hdr) (m : AtomOp) (wide : Bool) (d c : Opnd)
  | atomsMin (h : Hdr) (m : AtomOp) (wide : Bool) (d c : Opnd)
  | atomsMax (h : Hdr) (m : AtomOp) (wide : Bool) (d c : Opnd)
  | atomsMinu (h : Hdr) (m : AtomOp) (wide : Bool) (d c : Opnd)
  | atomsMaxu (h : Hdr) (m : AtomOp) (wide : Bool) (d c : Opnd)
  | atomsAnd (h : Hdr) (m : AtomOp) (wide : Bool) (d c : Opnd)
  | atomsOr (h : Hdr) (m : AtomOp) (wide : Bool) (d c : Opnd)
  | atomsXor (h : Hdr) (m : AtomOp) (wide : Bool) (d c : Opnd)
  | atomsXchg (h : Hdr) (m : AtomOp) (wide : Bool) (d c : Opnd)
  | atomsCas (h : Hdr) (m : AtomOp) (wide : Bool) (d c : Opnd)
  | atomsFadd (h : Hdr) (m : AtomOp) (f : FSlot) (d c : Opnd)
  | atomsFmin (h : Hdr) (m : AtomOp) (f : FSlot) (d c : Opnd)
  | atomsFmax (h : Hdr) (m : AtomOp) (f : FSlot) (d c : Opnd)
  -- majors 0x30 to 0x35 (R154 to R160)
  | lxchSel (h : Hdr) (seg : Fin 6) (d a b : Opnd)
  | lxchRdn (h : Hdr) (seg : Fin 6) (clip : Bool) (d a b : Opnd)
  | lxchRup (h : Hdr) (seg : Fin 6) (clip : Bool) (d a b : Opnd)
  | lxchXor (h : Hdr) (seg : Fin 6) (d a b : Opnd)
  | lxchRev (h : Hdr) (seg : Fin 6) (d a : Opnd)
  | lmaskSome (h : Hdr) (d a : Pred)
  | lmaskEvery (h : Hdr) (d a : Pred)
  | lmaskMask (h : Hdr) (d : Opnd) (a : Pred)
  | lmaskSame (h : Hdr) (d : Pred) (a : Opnd)
  | lmaskCount (h : Hdr) (d : Opnd) (a : Pred)
  | lredAdd (h : Hdr) (d a : Opnd)
  | lredMin (h : Hdr) (d a : Opnd)
  | lredMax (h : Hdr) (d a : Opnd)
  | lredMinu (h : Hdr) (d a : Opnd)
  | lredMaxu (h : Hdr) (d a : Opnd)
  | lredAnd (h : Hdr) (d a : Opnd)
  | lredOr (h : Hdr) (d a : Opnd)
  | lredXor (h : Hdr) (d a : Opnd)
  | xswap (h : Hdr) (d a : Opnd)
  | rdsr (h : Hdr) (d : Opnd) (n : Fin 24)
  | prof (g : Guard) (code : BitVec 8) (a : Opnd)
  -- majors 0x70 to 0x72 (R166 to R170)
  | barSync (g : Guard) (n : Fin 16) (b : Opnd)
  | barArv (g : Guard) (n : Fin 16) (b : Opnd)
  | barWait (g : Guard) (n : Fin 16)
  | mbarInit (g : Guard) (a b : Opnd)
  | mbarArv (h : Hdr) (d a : Opnd)
  | mbarArvtx (h : Hdr) (d a b : Opnd)
  | mbarTest (h : Hdr) (d : Pred) (a b : Opnd)
  | mbarWait (g : Guard) (a b : Opnd)
  | mbarInval (g : Guard) (a : Opnd)
  | qctlQbind (g : Guard) (d : Fin 6) (a : Opnd)
  | qctlQstat (h : Hdr) (d : Opnd) (a : Fin 8)
  -- majors 0x80 to 0x89 (R210 to R217)
  | macal (g : Guard) (a : Opnd)
  | mafree (g : Guard) (a : Opnd)
  | mown (g : Guard) (band : Fin 4) (a : Opnd)
  | mload (g : Guard) (f : FSlot) (obj blk : Bool) (o : BitVec 2) (a b c : Opnd)
  | mswap (g : Guard)
  | mstream (g : Guard) (f : FSlot) (blk : Bool) (o : BitVec 2) (a b c : Opnd)
  | mdrain (g : Guard) (w : Bool) (f : FSlot) (clr : Bool) (rows : Fin 64) (d a : Opnd)
  | mfill (g : Guard) (f : FSlot) (rows : Fin 64) (a d : Opnd)
  | mzero (g : Guard) (rows : Fin 64) (a : Opnd)
  | mwait (g : Guard)
  -- majors 0x90 to 0x95 (R302 to R304)
  | cpy (h : Hdr) (chan : Fin 8) (d a : Opnd)
  | cpyg (h : Hdr) (chan : Fin 8) (d a b : Opnd)
  | cpys (h : Hdr) (chan : Fin 8) (d a b : Opnd)
  | cpyq (h : Hdr) (chan : Fin 8) (d a : Opnd)
  | cwait (g : Guard) (a : Opnd)
  | ccan (g : Guard) (a : Opnd)
  -- majors 0xA0 to 0xA7 (R194, R195, R379, R381, R387, R398)
  | lnch (h : Hdr) (d a : Opnd) (qn : BitVec 8)
  | hwait (h : Hdr) (d a : Opnd)
  | hstat (h : Hdr) (d a : Opnd)
  | hstatOrg (h : Hdr) (d a : Opnd)
  | hstatUp (h : Hdr) (d a : Opnd)
  | hstatOcd (h : Hdr) (d a : Opnd)
  | hfree (g : Guard) (a : Opnd)
  | hdup (h : Hdr) (d a : Opnd)
  | invk (h : Hdr) (p : Pred) (ntf : Bool) (d a b : Opnd)
  | hsend (h : Hdr) (p : Pred) (ntf : Bool) (d a b c : Opnd)
  | coll (h : Hdr) (p : Pred) (ntf : Bool) (d a : Opnd)
  -- majors 0x20 to 0x28 (R117 to R130)
  | fadd (h : Hdr) (f : FSlot) (d a b : Opnd)
  | fsub (h : Hdr) (f : FSlot) (d a b : Opnd)
  | fmul (h : Hdr) (f : FSlot) (d a b : Opnd)
  | fmin (h : Hdr) (f : FSlot) (d a b : Opnd)
  | fmax (h : Hdr) (f : FSlot) (d a b : Opnd)
  | fabs (h : Hdr) (f : FSlot) (d a : Opnd)
  | fneg (h : Hdr) (f : FSlot) (d a : Opnd)
  | fsgn (h : Hdr) (f : FSlot) (d a b : Opnd)
  | ffma (h : Hdr) (f : FSlot) (d a b c : Opnd)
  | ffms (h : Hdr) (f : FSlot) (d a b c : Opnd)
  | fnma (h : Hdr) (f : FSlot) (d a b c : Opnd)
  | fnms (h : Hdr) (f : FSlot) (d a b c : Opnd)
  | fdiv (h : Hdr) (f : FSlot) (d a b : Opnd)
  | fsqrt (h : Hdr) (f : FSlot) (d a : Opnd)
  | frcp (h : Hdr) (f : FSlot) (d a : Opnd)
  | frsq (h : Hdr) (f : FSlot) (d a : Opnd)
  | fex2 (h : Hdr) (f : FSlot) (d a : Opnd)
  | flg2 (h : Hdr) (f : FSlot) (d a : Opnd)
  | fsin (h : Hdr) (f : FSlot) (d a : Opnd)
  | fcos (h : Hdr) (f : FSlot) (d a : Opnd)
  | ftanh (h : Hdr) (f : FSlot) (d a : Opnd)
  | fsigm (h : Hdr) (f : FSlot) (d a : Opnd)
  | fcmp (h : Hdr) (f : FSlot) (cond : FCond) (k : Fin 8) (d : Pred) (a b : Opnd)
  | fclass (h : Hdr) (f : FSlot) (k : Fin 8) (d : Pred) (a b : Opnd)
  | fcvt (h : Hdr) (f src : FSlot) (grp : Fin 8) (d a : Opnd)
  | fcvti (h : Hdr) (f : FSlot) (k : Fin 8) (uns trunc : Bool) (d a : Opnd)
  | ficvt (h : Hdr) (f : FSlot) (k : Fin 8) (uns : Bool) (d a b : Opnd)
  | fdot (h : Hdr) (f : FSlot) (d a b c : Opnd)
  | fsum (h : Hdr) (f : FSlot) (d a c : Opnd)
  | setfs (g : Guard) (f : FSlot) (a : Opnd)
  | getfs (h : Hdr) (f : FSlot) (d : Opnd)
  | srseed (g : Guard) (a : Opnd)
  | getsr (h : Hdr) (d : Opnd)
  | rdflag (h : Hdr) (sel : FlagSel) (d : Opnd)
  | clrflag (g : Guard) (sel : FlagSel) (a : Opnd)
  | qnt (g : Guard) (w : Bool) (f : FSlot) (o : Fin 3) (d a b : Opnd)
  | qntr (g : Guard) (w : Bool) (f : FSlot) (o : Fin 3) (d a b c : Opnd)
  | rqnt (g : Guard) (w : Bool) (f : FSlot) (o : Fin 3) (d a b : Opnd)
  | dqnt (g : Guard) (w : Bool) (f : FSlot) (o : Fin 3) (d a : Opnd)
  -- majors 0xC0 to 0xC6 (R319 to R323)
  | csrr (h : Hdr) (d : Opnd) (n : BitVec 9)
  | csrw (g : Guard) (n : BitVec 9) (a : Opnd)
  | csrs (h : Hdr) (d : Opnd) (n : BitVec 9) (a : Opnd)
  | csrc (h : Hdr) (d : Opnd) (n : BitVec 9) (a : Opnd)
  | tretRes (g : Guard)
  | tretLanes (g : Guard)
  | tretWarp (g : Guard)
  | tretCrew (g : Guard)
  | tretLaunch (g : Guard)
  | tqpop (g : Guard) (d : Opnd)
  | orinvObj (g : Guard) (a : Opnd)
  | orinvSub (g : Guard) (a : Opnd)
  | orinvAll (g : Guard)
  -- major 0x00: every word with OP 0, whatever its other fields (R88)
  | ill
  -- the Matrix Engine and the copy channels
  | mloadComplete (crew : Nat) (fail : Option ReadFail)
  | mstreamComplete (crew : Nat) (softErr : Bool)
  | copyCommandEnd (spire : Nat) (chan : Fin 8) (fail : Option ReadFail)
  | completionRecordArrival (warp : Nat) (q7 : Bool)
  -- traps, warps, crews and the dispatcher
  | trapDelivery (warp : Nat)
  | trapQueueOverflow (warp : Nat)
  | warpRelease (warp : Nat)
  | crewEnd (crew : Nat)
  | launchAccept (q : Nat)
  | crewPlace (spire : Nat)
  | queueAgeing (q : Nat)
  | preemptWithdraw (crew : Nat)
  | cooperativeSave (crew : Nat)
  | forcedSave (crew : Nat)
  | crewRestore (spire : Nat)
  | launchDone (h : DWord)
  | launchCancel (h : DWord)
  -- the fault unit
  | faultUnitMigration (tower : Nat) (t : SubTile)
  | migrationComplete (t : SubTile) (r : MigResult)
  | relocationCommand (ctx : Nat)
  | relocationInvalidated (t : SubTile)
  | relocationCopyDone (t : SubTile)
  | relocationDone (t : SubTile)
  -- the fabric and the package
  | fabricRead (r : FabReq)
  | fabricWrite (r : FabReq)
  | fabricAtomic (r : FabReq)
  | fabricReply (r : FabReply)
  | fabricInvalidate (hdr : Vuine) (line : Nat)
  | fabricInvalidateAck (hdr : Vuine) (line : Nat)
  -- the nodes of the multicast header that follows the Vuine header, or none, its COUNT and LEVELS, and its bits from
  -- ROOTN up (R371)
  | fabricMulticast (hdr : Vuine) (tree : Option (List (BitVec 16))) (count : BitVec 8) (levels : BitVec 2)
      (rootn : BitVec 22) (line : Nat)
  | routeChange (port : Nat) (up : Bool)
  | routeChangeNotice (src line plane port : Nat)
  | requestTimeout (rseq : Nat)
  | ackTimeoutReissue (rseq : Nat)
  | linkFailure (l : Link)
  | dieLinkModuleRetire (tower dome : Nat)
  | towerFence (tower : Nat)
  | spireRetire (spire : Nat) (working : Bool)
  | domeFailure (dome : Nat)
  | memoryDataError (warp : Nat) (lanes : Mask) (addr pc : DWord)
  -- comets: an engine message with its header
  | invokeArrival (m : Vuine × LaunchMsg)
  | messageAccept (m : Vuine × Bool × LaunchMsg)
  | messageReoffer (home : Nat)
  | stateReport (r : Vuine × HandleReport)
  | breakNotice (n : Vuine × Notice)
  | resultMove (ctx : Nat)
  | resultMoveAck (h : Vuine × DWord) (dev : Nat)
  -- collectives
  | collContribution (c : Vuine × Contribution)
  | collComplete (h : DWord)
  | collAbandon (a : Vuine × Abandon)
  | collDisagreement (k : Vuine × CollKey)
  -- the debugger
  | haltPresented (warp : Nat)
  | debugStateWrite (warp : Nat) (e : DebugEdit)
  | debugResume (warp : Nat)
  -- the host
  | contextStop (fn ctx : Nat)
  | contextStopComplete (ctx : Nat)
  | contextResume (fn ctx : Nat)
  | contextCreate (fn ctx : Nat)
  | contextDestroy (fn ctx : Nat)
  | dirtyTrackingEnable (fn ctx : Nat) (on : Bool)
  | qtailWrite (fn q : Nat) (x : Word)
  | queueEnable (fn q : Nat) (qcfg : Word)
  | queueDisable (fn q : Nat) (qcfg : Word)
  | hostOrtbaseWrite (fn ctx : Nat) (high : Bool) (x : Word)
  | olctlModeChange (fn ctx : Nat) (x : Word)
  | dlOverflowClear (fn ctx : Nat) (x : Word)
  | registerWrite (fn : Nat) (off : Nat) (x : Word)
  | hostMemoryRead (fn addr len : Nat)
  | hostMemoryWrite (fn addr : Nat) (data : List Byte)
  -- start-up, identity, power
  | coldStart
  | warmStart
  | startComplete (passed : Bool)
  | getVersion
  | getCapabilities
  | negotiateAlgorithms
  | getDigests
  | getCertificate
  | challenge (nonce : Nat)
  | getMeasurements
  | thermalThrottle
  | thermalRecover
  | thermalShutdown
  | collfault (h : DWord) (code : Nat) (addr : DWord)
  | poisonedWriteback (line : Nat) (words : List Nat)
  deriving DecidableEq, Repr

end Sys2Proof
end

