-- ==== Sys2Proof/Machine/State.lean ====
section
/-! DEFINITION. Everything the manual gives the machine to hold, as plain data: warps, crews, launches and
their queues, contexts and their control registers, physical memory, the engines' outstanding work, the
fault unit, the caches that can return an old value, the fabric, and the platform. -/

namespace Sys2Proof.Machine

/-- Why a step stops. -/
inductive Fault
  /-- Raised by every warp instruction when `exec` is called with no issuing warp. Safe: `step` always
  names one, and the manual has no such case. -/
  | noWarp
  deriving DecidableEq, Repr

/-- Why an instruction has no meaning here. -/
inductive Refusal
  /-- Raised by no arm once every instruction has its meaning. Safe: the model stops. -/
  | notModelled (mnemonic : String)
  deriving DecidableEq, Repr

/-- The privilege mode of a warp (R15). -/
inductive Mode
  | user
  | supervisor
  deriving DecidableEq, Repr

/-- A sparse byte store: addresses strictly rising, and no zero byte listed. -/
abbrev Memory := List Host.Cell

/-- A path of a warp (R136): PC, MASK, RJPC (all ones for none) and DEPTH. -/
structure Path where
  pc    : DWord
  mask  : Mask
  rjpc  : DWord
  depth : Nat
  deriving DecidableEq, Repr

/-- Why a path reissues its instruction (R146, R340 kind 7). -/
inductive Reissue
  | ports (pops : List Nat) (push : Option Nat)   -- ports with too few entries or no space (R147, R148)
  | ring (q : Nat)                   -- a full launch ring (R194)
  | channel (chan : Nat)             -- a full copy channel (R301)
  | residency (ts : List SubTile)    -- sub-tiles that the fault unit serves (R240)
  | messages                         -- too many unacknowledged messages (R379)
  | colls                            -- sixteen outstanding collectives (R397)
  | relocation                       -- RLCMD awaits acceptance (R318)
  | resultMove                       -- CMDEV.GO reads 1 (R385)
  | order                            -- the order log holds the event back (R280)
  | partner                          -- the push of the partner's side of an `xswap` has no space (R147, R157)
  deriving DecidableEq, Repr

/-- Where the result of an instruction goes: destination, W, L and the taking lanes. -/
structure Dest where
  h      : Hdr
  d      : Opnd
  lanes  : Mask
  deriving DecidableEq, Repr

/-- What a parked path waits for (R146, R340). -/
inductive Park
  | pyield (dead : BitVec 3)
  | mbar (off : Nat) (parity : Bool)
  | bar (n : Nat) (phase : Bool)
  | cwait (token : Word)
  | ccan (tokens : List Word)
  | hwait (h : DWord) (dst : Dest)
  | handed (h : DWord) (dst : Dest) (status : Word)   -- an `hwait` whose result waits for room in its port (R147)
  | mwait (upTo : Nat)
  | xswap (dst : Dest) (a : List Word) (took : Option Nat)   -- `took`: the port that A has come from (R147, R157)
  | reissue (r : Reissue)
  deriving DecidableEq, Repr

/-- What an instruction with logged events keeps from the time at which they first have to wait for their turn (R278, R280):
the SEQ that it has taken, and of an `atom` of which some lanes have been performed the output of the generator (R75)
and the old value and the flags of each lane. -/
structure Turned where
  seq  : Nat
  gen  : Option Word
  done : List (Nat × Nat × Nat)
  deriving DecidableEq, Repr

/-- A PC slot, or the handler's path: live or free, its path, its park, and what the next issue of the
path must know: `stale` when R144 clears the latches, `aside` after a `yield` that stepped aside (R171),
`skipBp` when breakpoints are not checked (R326), and the sub-tiles whose service failed (R242); `waited`
counts the instructions that its spire has issued from other paths while it was eligible (R135), and `turned` is what
the instruction at the PC keeps while its logged events wait (R280). -/
structure Slot where
  live   : Bool
  path   : Path
  park   : Option Park
  stale  : Bool
  aside  : Bool
  skipBp : Bool
  failed : List (SubTile × Nat × Nat)
  waited : Nat
  turned : Option Turned
  deriving DecidableEq, Repr

/-- An entry of the trap queue (R306, R307): the 32-byte record and the issue number of its instruction. -/
structure TrapEntry where
  bits  : BitVec 256
  issue : Nat
  deriving DecidableEq, Repr

/-- The load or atomic whose data returned last, for an error found in that data (R325). -/
structure LoadReturn where
  pc    : DWord
  dst   : Dest
  words : Nat
  issue : Nat
  fslot : Nat
  deriving DecidableEq, Repr

/-- The debugger's hold on a warp (R327). -/
inductive Halt
  | no
  | pending      -- halts at its next instruction boundary
  | halted       -- issues nothing; engine commands drain
  | presented    -- shown to the debugger
  deriving DecidableEq, Repr

/-- One warp (R8, R136, R306, R313). -/
structure Warp where
  crew    : Nat
  wid     : Nat
  role    : Nat
  roleIx  : Nat
  regs    : Nat
  v       : List (List Word)
  s       : List Word
  p       : List Mask
  b       : List (List DWord)
  fs      : List Word
  srgen   : DWord
  fflags  : Word
  qstat   : Word
  accstat : Word
  mode    : Mode
  sa      : Slot
  sb      : Slot
  last    : Bool
  ssn     : Nat
  ents    : List (BitVec 256)
  alive   : Mask
  hdl     : Slot
  shadow  : List (List DWord)
  cur     : Option TrapEntry
  tq      : List TrapEntry
  tpc     : DWord
  tfflags : Word
  tscr    : List Word
  q6      : List (BitVec 128)
  q7      : List (BitVec 128)
  w6      : List (BitVec 128)
  w7      : List (BitVec 128)
  bands   : List Word
  xsn     : Nat
  olseq   : Nat
  issued  : Nat
  lastLd  : Option LoadReturn
  halt    : Halt
  step    : Bool
  holdSl  : Option Bool
  gone    : Bool
  deriving DecidableEq, Repr

/-- A plane of the matrix array (R196); the weights are held as binary64, w[k][n] at byte 8(64k + n). -/
structure Plane where
  valid : Bool
  k     : Nat
  n     : Nat
  fw    : Word
  blk   : Bool
  nf    : Bool
  wt    : Memory
  deriving DecidableEq, Repr

/-- An outstanding `mload` or `mstream` (R198): its place in engine order, operands and captured slot, and the
scratchpad bytes that it has read already (R218). -/
structure EngCmd where
  load   : Bool
  seq    : Nat
  obj    : Bool
  blk    : Bool
  o      : Nat
  a      : DWord
  cfg    : Word
  fw     : Word
  mb     : Option Nat
  warp   : Nat
  lane   : Nat
  lanes  : Mask
  pc     : DWord
  issue  : Nat
  fslot  : Nat
  failed : List (SubTile × Nat × Nat)
  taken  : List (Nat × Byte)
  deriving DecidableEq, Repr

/-- A named barrier (R149): arrivals, the count its phase names (none before an arrival), phase bit. -/
structure Barrier where
  arr   : Nat
  exp   : Option Nat
  phase : Bool
  deriving DecidableEq, Repr

/-- A queue channel q0 to q5 (R147, R169). -/
structure Chan where
  bound   : Bool
  prod    : Nat
  cons    : Nat
  depth   : Nat
  entries : List (List Word)
  deriving DecidableEq, Repr

/-- One crew (R132): its place, resources, engine, barriers, channels and pre-emption. -/
structure Crew where
  launch  : DWord
  ctx     : Nat
  lin     : Nat
  tower   : Nat
  phys    : Nat
  logical : Nat
  slotNo  : Nat
  warps   : List Nat
  scr     : Memory
  scrLen  : Nat
  accb    : Nat
  matrix  : Bool
  abank   : BitVec 16
  acc     : Memory
  plA     : Plane
  plS     : Plane
  eng     : List EngCmd
  engSeq  : Nat
  bars    : List Barrier
  chans   : List Chan
  cseqn   : List Nat
  req     : Option Nat
  frame   : Option Nat
  reserve : Option Nat
  prio    : Nat
  region  : Option Nat
  placed  : Nat
  saving  : Bool
  gone    : Bool
  deriving DecidableEq, Repr

/-- The four copy instructions (R302). -/
inductive CopyOp
  | plain
  | gather
  | scatter
  | quant
  deriving DecidableEq, Repr

/-- A remote write of a copy command that has been sent: the request, its position and element address, and
the operand of a combining step (R290, R298). `near` are the bits of this device's memory, each with its place in the element
and its width, that the answer of a step on a divided element changes: no one else does until then. -/
structure CopyOut where
  r    : FabReq
  q    : Nat
  addr : Nat
  comb : Bool
  near : List (Nat × Nat × Nat)
  deriving DecidableEq, Repr

/-- An outstanding copy command (R282, R285, R341). `out` holds the remote writes that it has sent, once the
local part of the positions before `next` has been performed; `shape` is the O field of the destination record once it has been read (R295), and
`dying` says that a `ccan` ends the command as soon as what it has sent is performed (R304). -/
structure CopyCmd where
  tower  : Nat
  phys   : Nat
  chan   : Nat
  crew   : Nat
  warp   : Nat
  lane   : Nat
  seq    : Nat
  op     : CopyOp
  desc   : List Byte
  idx    : Nat
  slotw  : Word
  pc     : DWord
  issue  : Nat
  gen    : DWord
  next   : Nat
  flags  : Nat
  cnt    : List Nat
  out    : List CopyOut
  shape  : Option Nat
  dying  : Bool
  failed : List (SubTile × Nat × Nat)
  deriving DecidableEq, Repr

/-- The state of a launch on the device that runs it (R178). -/
inductive LState
  | pending
  | placed
  | running
  | done
  | broken
  deriving DecidableEq, Repr

/-- A crew saved in a frame (R337), with what the record has no field for: its warps, its copy commands, the handles of its
collectives in the order of their issue (R397), and the trap entries that have arrived for its warps since, by warp
number (R306, R398). -/
structure SavedCrew where
  lin    : Nat
  crew   : Nat
  frame  : Nat
  warps  : List Warp
  copies : List CopyCmd
  colls  : List DWord
  late   : List (Nat × TrapEntry)
  deriving DecidableEq, Repr

/-- A launch accepted on this device (R174, R178, R183). `late` says that its next crew found no save frame for an early
start, and waits until every dependence is DONE (R182). -/
structure Launch where
  h      : DWord
  ctx    : Nat
  queue  : Nat
  record : List Byte
  args   : List Byte
  fmt    : List Word
  prio   : Nat
  lseq   : Nat
  order  : Nat
  state  : LState
  next   : Nat
  redo   : List Nat
  saved  : List SavedCrew
  ended  : Nat
  comet  : Option DWord
  result : DWord
  since  : Nat
  late   : Bool
  deriving DecidableEq, Repr

/-- How a record came into a ring: written by the host, by `lnch`, or sent by `invk` or `hsend`. -/
inductive RingKind
  | host
  | lnch
  | sent
  deriving DecidableEq, Repr

/-- A record of a launch queue ring that has its handle: entered by `lnch`, `invk` or `hsend` with the one it carries (R194,
R379, R382), or a host record whose acceptance has begun (R174). -/
structure RingRec where
  pos  : Nat
  msg  : LaunchMsg
  kind : RingKind
  deriving DecidableEq, Repr

/-- A launch queue (R173, R409). `begun` says that the dispatcher has begun to read the record at its head (R410). -/
structure Queue where
  base   : DWord
  log    : Nat
  en     : Bool
  tail   : Word
  head   : Word
  ageth  : Word
  owner  : Nat
  qprio  : Nat
  func   : Nat
  raised : Nat
  since  : Nat
  ring   : List RingRec
  wait   : List LaunchMsg
  begun  : Bool
  failed : List (SubTile × Nat × Nat)
  deriving DecidableEq, Repr

/-- An entry of the handle resolution table (R376), with the messages and subscriptions it holds, in the entry
and in overflow buffers (R382, R384, R386), the warp that asked for a notification (R388) and the mbar error of a collective (R395). -/
structure HEnt where
  serial  : Nat
  state   : Nat
  dev     : Nat
  ctx     : Nat
  kind    : Nat
  moving  : Bool
  refs    : Nat
  code    : Nat
  detail  : Nat
  ocode   : Nat
  odetail : Nat
  result  : DWord
  origin  : DWord
  up      : DWord
  aseq    : Word
  msgs    : List LaunchMsg
  subs    : List Nat
  ovf     : List (Nat × LaunchMsg)
  ovfSubs : List (Nat × Nat)
  ntf     : Option Nat
  arverr  : Bool
  deriving DecidableEq, Repr

/-- What this device knows of a handle of another home, for one context (R378, R386): the last report, of STATE
8 while the first is still to come, and the warps whose instruction reads the home's entry, each with the answer once it is
here. -/
structure Remote where
  ctx   : Nat
  rep   : HandleReport
  reads : List (Nat × Option HandleReport)
  deriving DecidableEq, Repr

/-- Dispatcher state (R183 to R186, R357, R384, R385). `moved` names the results of other homes that have moved from here, and the
devices where they went, and `tell` the handles of other homes with the warps here that asked to be told of their resolution
(R388). -/
structure Disp where
  master   : Nat
  serial   : Nat
  ents     : List HEnt
  known    : List Remote
  served   : List Nat
  order    : Nat
  placed   : Nat
  wanted   : List (Nat × List Nat)
  heldMsgs : List LaunchMsg
  offers   : List LaunchMsg
  refused  : List LaunchMsg
  moved    : List (DWord × Nat)
  tell     : List (DWord × Nat)
  deriving DecidableEq, Repr

/-- A context (R313, R409, R411). `olEnded` are the launches, by queue and LSEQ, that have ended in replay and whose entries
have still to be looked for in the order log (R280); `cmMove` is the result that a write of GO asked to move, with its new
device, while GO reads 1 (R385). -/
structure Ctx where
  stopping : Bool
  stopped  : Bool
  dten     : Bool
  csr      : List Word
  dl       : List Word
  dlOvf    : Bool
  ortF     : DWord
  lseq     : List (Nat × Nat)
  replayed : List Nat
  olEnded  : List (Nat × Nat)
  profLost : Bool
  rlCmd    : Option (Nat × Nat × Nat × Nat)
  rlTower  : Nat
  cmMove   : Option (DWord × Nat)
  cmAsked  : Bool
  slHeld   : List (BitVec 128)
  ranWarp  : Bool
  deriving DecidableEq, Repr

/-- A phase of a migration or of a relocation (R241, R244). -/
inductive FuPhase
  | migrating
  | invalidating
  | copying
  | closing
  deriving DecidableEq, Repr

/-- Work of a fault unit (R241, R244). -/
structure FuJob where
  tower : Nat
  t     : SubTile
  phase : FuPhase
  old   : DWord
  new   : DWord
  deriving DecidableEq, Repr

/-- The fault units: sub-tiles asked for and not yet begun, and work in progress. -/
structure FaultUnit where
  asked : List (Nat × SubTile)
  jobs  : List FuJob
  deriving DecidableEq, Repr

/-- A cached directory pointer and record (R233, R237): `words` is empty when the record is absent. -/
structure OrcEnt where
  ctx   : Nat
  obj   : Nat
  words : List Word
  deriving DecidableEq, Repr

/-- A cached residency entry (R237). -/
structure ResEnt where
  t     : SubTile
  entry : DWord
  deriving DecidableEq, Repr

/-- A line of a spire's instruction cache (R114, R249): the physical line and its bytes. -/
structure ILine where
  tower : Nat
  phys  : Nat
  line  : Nat
  bytes : List Byte
  deriving DecidableEq, Repr

/-- The copies that can return an old value until a cache operation drops them; L1 and L2 hold none (DESIGN CHOICE,
unsafe: log entry 4). -/
structure Caches where
  orc    : List OrcEnt
  res    : List ResEnt
  ilines : List ILine
  deriving DecidableEq, Repr

/-- A promotion slot (R251). -/
structure PSlot where
  slot   : Nat
  row    : Nat
  pinned : Bool
  deriving DecidableEq, Repr

/-- The directory state of a line (R374). -/
inductive Dir
  | shared (devs : List Nat)
  | groups (v : Word)
  deriving DecidableEq, Repr

/-- Who has sent a request: a warp, a copy command (crew, channel, sequence number), an engine command (crew,
place), a collective, a fault unit (for a sub-tile), a warp for a write of its split stack, which it does not wait for
(R139), or a crew that has been lost (R359). -/
inductive Owner
  | warp (w : Nat)
  | copy (crew chan seq : Nat)
  | engine (crew seq : Nat)
  | coll (h : DWord)
  | unit (t : SubTile)
  | stack (w : Nat)
  | lost
  deriving DecidableEq, Repr

/-- A request this device has sent and not finished with (R324, R369): the reply, when it has come, or why the
request ended: the NORES details 4 and 5 of R369, or 2 for data that cannot be corrected (R325). -/
structure OutReq where
  rseq  : Nat
  req   : FabReq
  sent  : Nat
  plane : Nat
  port  : Nat
  reply : Option FabReply
  dead  : Option Nat
  owner : Owner
  deriving DecidableEq, Repr

/-- A write or atomic that waits for invalidation acknowledgements (R374): the devices still to answer, whether
it is an atomic, the record and frames with which it passed its checks (R373), and since when it waits. -/
structure DirWait where
  req    : FabReq
  line   : Nat
  devs   : List Nat
  atom   : Bool
  rec_   : List Word
  frames : List (Nat × Nat)
  since  : Nat
  deriving DecidableEq, Repr

/-- The fabric and the die links (R355, R356, R364 to R374); `held` are the writes and atomics (true) that wait for a
relocation (R244, R373), `noticed` the devices and lines that have been sent a notice of a route (R368), and `cut` says since
when no plane leads anywhere (R369, R379). -/
structure Fabric where
  portUp   : List Bool
  planeUp  : List Bool
  links    : List (List Nat)
  domeLink : Nat
  rseq     : Nat
  reqs     : List OutReq
  filter   : List (Nat × Nat × FabReply)
  dir      : List (Nat × Dir)
  waits    : List DirWait
  held     : List (FabReq × Bool)
  peers    : List (Nat × Nat × Nat)
  oldRoute : List (Nat × Nat × Nat × Nat)
  noticed  : List (Nat × Nat)
  cut      : Option Nat
  barred   : List Nat
  discards : Nat
  deriving DecidableEq, Repr

/-- A rank's contribution as gathered here (R392): the elements from index 0 on. -/
structure Gathered where
  rank  : Nat
  h     : DWord
  elems : List Word
  deriving DecidableEq, Repr

/-- A collective command (R390 to R398). Its shape is empty (NRANK 0) until its communicator copy has been read;
`sent` is the number of ranks that have been sent the block `next`, `begun` says that its destination has been checked,
`wrote` that it has been written, and `since` when it was issued. One that is not live has broken, and what still arrives for
it is discarded; `owes` are CODE and DETAIL of the ABANDON that it sends once its communicator copy has been read (R396). -/
structure CollCmd where
  h      : DWord
  key    : CollKey
  crew   : Nat
  warp   : Nat
  lane   : Nat
  pc     : DWord
  issue  : Nat
  desc   : List Byte
  slotw  : Word
  rank   : Nat
  shape  : CollShape
  phase  : Nat
  next   : Nat
  sent   : Nat
  gen    : DWord
  begun  : Bool
  wrote  : Bool
  got    : List Gathered
  merged : List (Nat × List Nat)
  live   : Bool
  owes   : Option (Nat × Nat)
  since  : Nat
  failed : List (SubTile × Nat × Nat)
  deriving DecidableEq, Repr

/-- The collective engine: commands, contributions and abandons that came before their `coll`, and member
devices that disagreement notices named, and the collectives that have moved with their context, and where to (R347). -/
structure CollEngine where
  cmds   : List CollCmd
  parts  : List Contribution
  gone   : List Abandon
  broken : List CollKey
  moved  : List (CollKey × Nat)
  deriving DecidableEq, Repr

/-- What moves with a context to another device (R346, R347, R385): its registers, its launches with their saved crews by number,
the records of its queues that have handles, the messages held for its comets, what is known of other homes, its collectives,
and the resolutions of which a warp of a crew by number is to be told (R388). -/
structure CtxMove where
  ctx      : Ctx
  launches : List Launch
  crews    : List (Nat × Crew)
  rings    : List (Nat × List RingRec × List LaunchMsg)
  held     : List LaunchMsg
  known    : List Remote
  colls    : List CollCmd
  tells    : List (DWord × Nat × Nat)
  deriving DecidableEq, Repr

/-- A request at the management interface besides those of SPDM (R417): the entry of a serial number, a halted warp, the
count of corrected errors, and the stop and the resumption of a context. -/
inductive Manage
  | entry (serial : Nat)
  | warp (w : Nat)
  | errors
  | stop (ctx : Nat)
  | resume (ctx : Nat)
  deriving DecidableEq, Repr

/-- A message that leaves the device; the others are known by messages only (DESIGN CHOICE: log entry 3). -/
inductive Out
  | request (dst : Nat) (r : FabReq)
  | reply (dst : Nat) (r : FabReply)
  | invalidate (dst : Nat) (hdr : Vuine) (line : Nat)
  | invalidateAck (dst : Nat) (hdr : Vuine) (line : Nat)
  | multicast (port : Nat) (hdr : Vuine) (mc : Option Multicast) (line : Nat)
  | routeNotice (dst : Nat) (line plane port : Nat)
  | routeAck (dst : Nat) (line : Nat)
  | invoke (dst : Nat) (m : LaunchMsg)
  | message (dst : Nat) (m : LaunchMsg)
  | forward (dst : Nat) (m : LaunchMsg)
  | decline (dst : Nat) (m : LaunchMsg)
  | report (dst : Nat) (r : HandleReport)
  | subscribe (dst : Nat) (h : DWord) (ctx : Nat) (asker : Option Nat)
  | refs (dst : Nat) (h : DWord) (up : Bool)
  | notice (dst : Nat) (n : Notice)
  | moveAsk (dst ctx : Nat) (h : DWord) (dev : Nat)
  | moveGo (dst : Nat) (h : DWord) (dev : Nat)
  | moveAck (dst : Nat) (h : DWord) (dev : Nat)
  | context (dst ctx : Nat) (m : CtxMove)
  | contribution (dst : Nat) (c : Contribution)
  | abandon (dst : Nat) (a : Abandon)
  | disagree (dst : Nat) (k : CollKey)
  | spdm (request : Nat) (body : List Nat)
  | managed (m : Manage) (data : Memory)
  | readData (fn addr : Nat) (data : List Byte)
  | msixData (fn : Nat) (vec : Option Nat) (data : List Byte)
  | unsupported (fn : Nat)
  deriving DecidableEq, Repr

/-- A message that has been sent and not yet acknowledged, with the time of its sending (R379) and, for an engine
message, its header (R366, KIND 7). -/
structure Sent where
  out  : Out
  time : Nat
  hdr  : Option Vuine
  deriving DecidableEq, Repr

/-- What the signed configuration holds (R354, R365, R413, R414): applied at start-up. -/
structure Flash where
  devnum : Nat
  repair : List (Option Nat)
  cxl    : List Nat
  acl    : List (Nat × Nat × BitVec 8)
  wf     : Nat
  cf     : Nat
  deriving DecidableEq, Repr

/-- STATE of R415. -/
inductive RunState
  | reset
  | cold
  | warm
  | ready
  | safe
  deriving DecidableEq, Repr

/-- A vector of a function's MSI-X table (R412), as PCI Express lays it out: message address and data, and the mask bit. -/
structure MsixVec where
  fn     : Nat
  vec    : Nat
  addr   : DWord
  data   : Word
  masked : Bool
  deriving DecidableEq, Repr

/-- The MSI-X control of a function (R412), as PCI Express lays it out: MSI-X Enable and Function Mask. -/
structure MsixCtl where
  fn     : Nat
  enable : Bool
  mask   : Bool
  deriving DecidableEq, Repr

/-- The platform (R408 to R418): start-up, identity, access tables, spires, power. `started` is the clock when the device
last started (R161); `msix` are the interrupts sent, `msixTab` the vectors and `msixCtl` the controls that the host has
written, and `msixPend` the pending bits; `hostWrites` are host writes to lines that other devices still hold (R374). -/
structure Platform where
  st      : RunState
  started : Nat
  flash   : Flash
  devnum  : Nat
  bar2    : List Word
  funcs   : List (Nat × Nat)
  repair  : List (Option Nat)
  retired : List Nat
  cxl     : List Nat
  cxlUp   : List Bool
  acl     : List (Nat × Nat × BitVec 8)
  fenced  : List Bool
  msix    : List (Nat × Nat)
  msixTab : List MsixVec
  msixCtl : List MsixCtl
  msixPend : List (Nat × Nat)
  hostWrites : List (Nat × List Byte)
  poison  : List Nat
  ecc     : Nat
  clock   : Nat
  deriving DecidableEq, Repr

/-- Which path issues: slot A, slot B or the handler's path. -/
inductive Which
  | a
  | b
  | handler
  deriving DecidableEq, Repr

/-- The issuing path of the current step. -/
structure Cur where
  w     : Nat
  which : Which
  deriving DecidableEq, Repr

/-- What moves next, where the manual leaves the choice to timing (DESIGN CHOICE: log entry 5). -/
inductive Turn
  | issue (w : Nat)
  | upset (w : Nat) (detail addr : Nat)
  | event (e : Instr)
  | wait (n : Nat)
  | deliver (i : Nat)
  | lost (i : Nat)
  | silent (dev : Nat)
  | ask (hdr : Vuine) (h : DWord) (ctx : Nat) (asker : Option Nat)
  | count (hdr : Vuine) (h : DWord) (up : Bool)
  | declined (hdr : Vuine) (m : LaunchMsg)
  | moveAsk (hdr : Vuine) (ctx : Nat) (h : DWord) (dev : Nat)
  | moveGo (hdr : Vuine) (h : DWord) (dev : Nat)
  | ctxLeave (ctx dev : Nat)
  | ctxArrive (hdr : Vuine) (ctx : Nat) (m : CtxMove)
  | collRun (h : DWord)
  | preempt (crew : Nat)
  | view (path : Nat)
  | engineRead (crew seq addr : Nat)
  | msixWrite (v : MsixVec)
  | msixControl (c : MsixCtl)
  | msixRead (fn : Nat) (vec : Option Nat)
  | corrected
  | manage (m : Manage)
  | barRead (fn off : Nat)
  | fillOrc (ctx obj : Nat)
  | dropOrc (ctx obj : Nat)
  | fillRes (t : SubTile)
  | dropRes (t : SubTile)
  | fillLine (tower phys line : Nat)
  | dropLine (tower phys line : Nat)
  deriving DecidableEq, Repr

end Sys2Proof.Machine

namespace Sys2Proof.Machine

/-- A write that a path of the engines does not see yet: the bytes that it found, and through which accesses a `fencex` can
make it seen, each as a path (R27: 0 LS, 1 MX, 2 CP, 3 CL) and the warp of the access (R266, R275). -/
structure Hidden where
  addr : Nat
  old  : List Byte
  via  : List (Nat × Nat)
  deriving DecidableEq, Repr

/-- What the matrix path (1) or the copy path (2) does not see of the writes of other paths, oldest first (R218, R275,
R300). -/
structure View where
  path   : Nat
  hidden : List Hidden
  deriving DecidableEq, Repr

/-- The machine. -/
structure State where
  now      : Nat
  cur      : Option Cur
  turns    : List Turn
  free     : Nat
  mem      : Memory
  warps    : List Warp
  crews    : List Crew
  launches : List Launch
  queues   : List Queue
  disp     : Disp
  ctxs     : List (Nat × Ctx)
  copies   : List CopyCmd
  coll     : CollEngine
  fu       : FaultUnit
  caches   : Caches
  views    : List View
  promo    : List (Nat × List PSlot)
  fab      : Fabric
  outbox   : List Sent
  plat     : Platform
  deriving DecidableEq, Repr

/-- A launch queue after reset (R409): disabled, every field zero. -/
def Queue.zero : Queue :=
  { base := 0, log := 0, en := false, tail := 0, head := 0, ageth := 0, owner := 0, qprio := 0, func := 0,
    raised := 0, since := 0, ring := [], wait := [], begun := false, failed := [] }

/-- The dispatcher after reset: no handle issued, every entry free (R376), round-robin not begun. -/
def Disp.zero : Disp :=
  { master := 0, serial := 1, ents := [], known := [], served := List.replicate 8 255, order := 0,
    placed := 0, wanted := [], heldMsgs := [], offers := [], refused := [], moved := [], tell := [] }

/-- The fabric after reset: every port and plane up, every die link with its modules (R355). -/
def Fabric.zero : Fabric :=
  { portUp := List.replicate 24 true, planeUp := List.replicate 8 true,
    links := List.replicate 4 [24, 24], domeLink := 12, rseq := 0, reqs := [], filter := [], dir := [],
    waits := [], held := [], peers := [], oldRoute := [], noticed := [], cut := none, barred := [], discards := 0 }

/-- The signed configuration of the model's device (DESIGN CHOICE, unsafe: log entry 2). -/
def Flash.zero : Flash :=
  { devnum := 0, repair := (List.range 128).map (fun l => some (l % 32)), cxl := [0, 0, 0, 0], acl := [],
    wf := 0, cf := 0 }

/-- The platform after reset (R409, R415): STATE 0. -/
def Platform.zero : Platform :=
  { st := .reset, started := 0, flash := Flash.zero, devnum := 0, bar2 := List.replicate 64 0, funcs := [], repair := Flash.zero.repair, retired := [], cxl := [0, 0, 0, 0],
    cxlUp := [true, true, true, true], acl := [], fenced := [false, false, false, false], msix := [],
    msixTab := [], msixCtl := [], msixPend := [], hostWrites := [], poison := [], ecc := 0, clock := 0 }

/-- The machine right after reset: STATE 0, every context absent (R411), every queue disabled, nothing
resident, memory with nothing listed. The values that the manual does not give are DESIGN CHOICE, unsafe: log
entry 6. -/
def State.reset : State :=
  { now := 0, cur := none, turns := [], free := 0, mem := [], warps := [], crews := [], launches := [],
    queues := List.replicate 256 Queue.zero, disp := Disp.zero, ctxs := [], copies := [],
    coll := { cmds := [], parts := [], gone := [], broken := [], moved := [] }, fu := { asked := [], jobs := [] },
    caches := { orc := [], res := [], ilines := [] }, views := [], promo := [], fab := Fabric.zero, outbox := [],
    plat := Platform.zero }

end Sys2Proof.Machine
end

