-- ==== Sys2Proof/Machine/Route.lean ====
section
/-! DEFINITION. Handles (R177, R376), the Vuine header (R366), the plane and port of a line (R367), and sending a message
(R366, R379). -/

namespace Sys2Proof.Machine

/-! ### Handles (R177, R376) -/

def hSerial (h : DWord) : Nat := bits h.toNat 0 48
def hHome (h : DWord) : Nat := bits h.toNat 48 13
def hKind (h : DWord) : Nat := bits h.toNat 61 3
def handleMake (serial home kind : Nat) : DWord :=
  BitVec.ofNat 64 (serial % 2 ^ 48 + 2 ^ 48 * (home % 2 ^ 13) + 2 ^ 61 * kind)

/-- Whether a handle's home is this device. -/
def ownHome (s : State) (h : DWord) : Bool := hHome h == s.plat.devnum

/-- The entry of a handle of this device; none when it is stale. -/
def entFind (s : State) (h : DWord) : Option HEnt :=
  if h = 0 ∨ !ownHome s h then none
  else s.disp.ents.find? (fun e => e.serial == hSerial h && e.kind == hKind h)

/-- The context of a handle, as this device knows it: of its own entry, of the launch that runs here, or of what is known of
another home. -/
def handleCtx (s : State) (h : DWord) : Nat :=
  match entFind s h with
  | some e => e.ctx
  | none => match s.launches.find? (fun l => l.h == h) with
    | some l => l.ctx
    | none => ((s.disp.known.find? (fun k => k.rep.handle == h)).map (·.ctx)).getD 0

/-! ### The Vuine header (R366) -/

def vuKind (h : Vuine) : Nat := bits h.toNat 4 4
def vuDst (h : Vuine) : Nat := bits h.toNat 8 13
def vuSrc (h : Vuine) : Nat := bits h.toNat 21 13
def vuPlane (h : Vuine) : Nat := bits h.toNat 34 3
def vuCtx (h : Vuine) : Nat := bits h.toNat 40 12
def vuObj (h : Vuine) : Nat := bits h.toNat 64 22
def vuSubt (h : Vuine) : Nat := bits h.toNat 86 29
def vuRseq (h : Vuine) : Nat := bits h.toNat 128 40

/-- A header with its fields at their places. -/
def vuMake (kind dst src plane ctx obj subt rseq : Nat) : Vuine :=
  BitVec.ofNat 192 (1 + 2 ^ 4 * kind + 2 ^ 8 * (dst % 2 ^ 13) + 2 ^ 21 * (src % 2 ^ 13) + 2 ^ 34 * (plane % 8) +
    2 ^ 40 * (ctx % 2 ^ 12) + 2 ^ 64 * (obj % 2 ^ 22) + 2 ^ 86 * (subt % 2 ^ 29) + 2 ^ 128 * (rseq % 2 ^ 40))

/-- A header that its receiver discards (R366). -/
def vuBad (h : Vuine) : Bool :=
  bits h.toNat 0 4 != 1 || decide (7 < vuKind h) || bits h.toNat 37 3 != 0 || bits h.toNat 52 12 != 0 ||
  bits h.toNat 115 13 != 0 || bits h.toNat 168 24 != 0

/-! ### Planes and ports (R367) -/

/-- Counts a header that is discarded (R366). -/
def fabDiscard (s : State) : State := { s with fab := { s.fab with discards := s.fab.discards + 1 } }

/-- Whether a header is for this device and of a kind. -/
def fabMine (s : State) (h : Vuine) (kind : Nat) : Bool :=
  !vuBad h && vuKind h == kind && vuDst h == s.plat.devnum

/-- The plane that a line number names before dead planes are passed over. -/
def planeOf (ln : Nat) : Nat := (List.range 17).foldl (fun acc j => acc ^^^ bits ln (3 * j) 3) 0

/-- The first of `p`, `p + 1`, … modulo `n` that `up` accepts. -/
def firstUp (up : Nat → Bool) (n p : Nat) : Option Nat :=
  ((List.range n).map (fun k => (p + k) % n)).find? up

/-- The live plane and port of a line; none when no plane leads anywhere. -/
def routeOf (f : Fabric) (ln : Nat) : Option (Nat × Nat) :=
  match firstUp (fun p => f.planeUp.getD p false && (List.range 3).any (fun k => f.portUp.getD (p + 8 * k) false))
      8 (planeOf ln) with
  | none => none
  | some p => (firstUp (fun k => f.portUp.getD (p + 8 * k) false) 3 (bits ln 3 8 % 3)).map
      (fun k => (p, p + 8 * k))

/-- The 128-byte line of a bit address. -/
def lineOf (bit : Nat) : Nat := bit / 1024

/-! ### Sending -/

/-- Whether a request has been answered or ended. -/
def reqOver (o : OutReq) : Bool := o.reply.isSome || o.dead.isSome

/-- The device that an engine message goes to (KIND 7): none for requests, replies, invalidations and multicasts, which
carry a header of their own, for route notices, and for answers that do not cross the fabric. -/
def Out.engineDst : Out → Option Nat
  | .request _ _ => none
  | .reply _ _ => none
  | .invalidate _ _ _ => none
  | .invalidateAck _ _ _ => none
  | .multicast _ _ _ _ => none
  | .routeNotice _ _ _ _ => none
  | .routeAck _ _ => none
  | .invoke d _ => some d
  | .message d _ => some d
  | .forward d _ => some d
  | .decline d _ => some d
  | .report d _ => some d
  | .subscribe d _ _ _ => some d
  | .refs d _ _ => some d
  | .notice d _ => some d
  | .moveAsk d _ _ _ => some d
  | .moveGo d _ _ => some d
  | .moveAck d _ _ => some d
  | .context d _ _ => some d
  | .contribution d _ => some d
  | .abandon d _ => some d
  | .disagree d _ => some d
  | .spdm _ _ => none
  | .managed _ _ => none
  | .readData _ _ _ => none
  | .msixData _ _ _ => none
  | .unsupported _ => none

/-- The context of an engine message: the one that it names, or that of its handle. -/
def Out.engineCtx (s : State) : Out → Nat
  | .invoke _ m => m.ctx
  | .message _ m => m.ctx
  | .forward _ m => m.ctx
  | .decline _ m => m.ctx
  | .subscribe _ _ c _ => c
  | .moveAsk _ c _ _ => c
  | .context _ c _ => c
  | .contribution _ c => c.key.ctx
  | .abandon _ a => a.key.ctx
  | .disagree _ k => k.ctx
  | .report _ r => handleCtx s r.handle
  | .refs _ h _ => handleCtx s h
  | .notice _ n => handleCtx s n.handle
  | .moveGo _ h _ => handleCtx s h
  | .moveAck _ h _ => handleCtx s h
  | .request _ _ => 0
  | .reply _ _ => 0
  | .invalidate _ _ _ => 0
  | .invalidateAck _ _ _ => 0
  | .multicast _ _ _ _ => 0
  | .routeNotice _ _ _ _ => 0
  | .routeAck _ _ => 0
  | .spdm _ _ => 0
  | .managed _ _ => 0
  | .readData _ _ _ => 0
  | .msixData _ _ _ => 0
  | .unsupported _ => 0

/-- The header of an engine message: KIND 7 with the next sequence number and its context; it is about no object, and it
takes the plane of line 0 (DESIGN CHOICE: log entry 3: the manual gives engine messages no line). -/
def engineHdr (s : State) (o : Out) (dst : Nat) : Vuine :=
  vuMake 7 dst s.plat.devnum (((routeOf s.fab 0).map (·.1)).getD 0) (o.engineCtx s) 0 0 s.fab.rseq

/-- Sends a message; an engine message takes the next sequence number in its header (R366). -/
def send (s : State) (o : Out) : State :=
  { s with
    outbox := s.outbox ++ [⟨o, s.now, o.engineDst.map (engineHdr s o)⟩]
    fab := { s.fab with rseq := s.fab.rseq + (if o.engineDst.isSome then 1 else 0) } }

end Sys2Proof.Machine
end

