-- ==== Sys2Proof/Machine/Mem.lean ====
section
/-! DEFINITION. The byte store (R25): one canonical form, and every access of a width built on one byte read
and one byte write, so that byte order and bit order are decided once. -/

namespace Sys2Proof.Machine

/-- The byte at an address; an unlisted address reads zero (DESIGN CHOICE, unsafe: log entry 1). -/
def memGet : Memory → Nat → Byte
  | [], _ => 0
  | (k, x) :: m, a => if k = a then x else memGet m a

/-- Writes one byte, keeping the canonical form: writing zero removes the entry. -/
def memSet : Memory → Nat → Byte → Memory
  | [], a, b => if b = 0 then [] else [(a, b)]
  | (k, x) :: m, a, b =>
    if a < k then (if b = 0 then (k, x) :: m else (a, b) :: (k, x) :: m)
    else if a = k then (if b = 0 then m else (a, b) :: m)
    else (k, x) :: memSet m a b

/-- Every listed address is at least `lo`, addresses rise strictly, and no listed byte is zero. -/
def memWfFrom : Nat → Memory → Bool
  | _, [] => true
  | lo, (k, x) :: m => decide (lo ≤ k) && decide (x ≠ 0) && memWfFrom (k + 1) m

/-- The canonical form of a byte store. -/
def Memory.wf (m : Memory) : Bool := memWfFrom 0 m

/-- Clears the bytes from `lo` to `hi - 1`. -/
def memClear (m : Memory) (lo hi : Nat) : Memory :=
  m.filter (fun c => !(decide (lo ≤ c.1) && decide (c.1 < hi)))

/-- `n` bytes from `a` on, lowest address first. -/
def memBytes (m : Memory) (a : Nat) : Nat → List Byte
  | 0 => []
  | n + 1 => memGet m a :: memBytes m (a + 1) n

/-- Writes bytes from `a` on. -/
def memPut (m : Memory) (a : Nat) : List Byte → Memory
  | [] => m
  | b :: bs => memPut (memSet m a b) (a + 1) bs

/-- The number whose bytes, lowest first, are given (R25). -/
def bytesNat : List Byte → Nat
  | [] => 0
  | b :: bs => b.toNat + 256 * bytesNat bs

/-- The low `n` bytes of a number, lowest first (R25). -/
def natBytes : Nat → Nat → List Byte
  | 0, _ => []
  | n + 1, x => BitVec.ofNat 8 x :: natBytes n (x / 256)

/-- `n` bytes from `a` on, as a number. -/
def memNat (m : Memory) (a n : Nat) : Nat := bytesNat (memBytes m a n)

/-- Writes the low `n` bytes of `x` at `a`. -/
def memPutNat (m : Memory) (a n x : Nat) : Memory := memPut m a (natBytes n x)

/-- `n` bits from bit address `bit` on (R25). -/
def memBits (m : Memory) (bit n : Nat) : Nat :=
  bits (memNat m (bit / 8) ((bit % 8 + n + 7) / 8)) (bit % 8) n

/-- Replaces the `n` bits from bit `lo` of `old` by the low `n` bits of `x`. -/
def setBits (old lo n x : Nat) : Nat :=
  old % 2 ^ lo + 2 ^ lo * (x % 2 ^ n) + 2 ^ (lo + n) * (old / 2 ^ (lo + n))

/-- Writes the low `n` bits of `x` at bit address `bit`, and no other bit (R25, R259). -/
def memPutBits (m : Memory) (bit n x : Nat) : Memory :=
  let k := (bit % 8 + n + 7) / 8
  memPutNat m (bit / 8) k (setBits (memNat m (bit / 8) k) (bit % 8) n x)

/-- Copies `n` bytes from `src` of store `from_` to `dst` of store `m`, through the listed bytes only. -/
def memCopy (m : Memory) (dst : Nat) (from_ : Memory) (src n : Nat) : Memory :=
  (from_.filter (fun c => decide (src ≤ c.1) && decide (c.1 < src + n))).foldl
    (fun acc c => memSet acc (c.1 - src + dst) c.2) (memClear m dst (dst + n))

/-- Part of a byte store, moved down to address 0. -/
def memSlice (m : Memory) (src n : Nat) : Memory := memCopy [] 0 m src n

end Sys2Proof.Machine
end

