-- ==== Sys2Proof/Machine/Trans.lean ====
section
/-! DEFINITION. From an element address to storage: object records (R16 to R24, R235, R236), the mapping of
an element index to a bit address (R23), the storage bound (R109), the residency table (R238 to R240), and
the access tables (R414). -/

namespace Sys2Proof.Machine

/-! ### Physical ranges (R234) -/

/-- The physical ranges that hold memory. -/
inductive Region
  | near
  | far
  | capacity (port : Nat)
  deriving DecidableEq, Repr

/-- The range of a physical byte address; none where the range is reserved or no port maps it. -/
def regionOf (p : Platform) (pa : Nat) : Option Region :=
  if pa < 0x800000000 then some .near
  else if pa < 0xF800000000 then some .far
  else if 0x100000000000 ≤ pa ∧ pa < 0x180000000000 then
    let port := (pa - 0x100000000000) / 2 ^ 41
    if (pa - 0x100000000000) % 2 ^ 41 < p.cxl.getD port 0 then some (.capacity port) else none
  else none

/-- Whether `n` bytes lie wholly within one range that is not reserved (R235). -/
def inOneRange (p : Platform) (pa n : Nat) : Bool :=
  match regionOf p pa, regionOf p (pa + n - 1) with
  | some .near, some .near => true
  | some .far, some .far => true
  | some (.capacity _), some (.capacity _) => true
  | _, _ => false

/-- The lowest and the highest frame of a tier (R234, R239). -/
def tierRange (tier : Nat) : Nat × Nat :=
  match tier with
  | 0 => (0x80000, 0xF7FFFF)
  | 1 => (0, 0x7FFFF)
  | _ => (0x10000000, 0x17FFFFFF)

/-- Whether a frame lies in its tier's range. -/
def frameInTier (tier frame : Nat) : Bool :=
  decide ((tierRange tier).1 ≤ frame) && decide (frame ≤ (tierRange tier).2)

/-! ### Access tables (R414) -/

/-- Where a physical address lies in HBM (R250): stack, channel, pseudo-channel, bank, bank group, row, and
the byte within the row. -/
structure HbmAt where
  stack   : Nat
  channel : Nat
  pch     : Nat
  bank    : Nat
  group   : Nat
  row     : Nat
  column  : Nat
  deriving DecidableEq, Repr

/-- The map of R250. -/
def hbmPlace (pa : Nat) : HbmAt :=
  let near := decide (pa < 2 ^ 35)
  let x := if near then pa else pa - 2 ^ 35
  let base := if near then 0 else 4096
  let l := x / 128
  let r := l / 2 ^ 17
  let bank := bits l 13 4 ^^^ bits r 1 4
  { stack := bits l 0 4 ^^^ bits r 0 4, channel := bits l 4 5 ^^^ bits r 4 5, pch := bits l 9 1 ^^^ bits r 9 1,
    bank := bank, group := bits bank 2 2, row := base + r, column := bits l 10 3 * 128 + bits x 0 7 }

/-- A target that holds an access table (R414): an L2 slice, an HBM controller (one for each stack), a CXL port, a
block of BAR0 in the order of R409's table, and the two pools. -/
inductive Target
  | slice (n : Nat)
  | hbm (stack : Nat)
  | cxl (port : Nat)
  | bar0 (block : Nat)
  | savePool
  | messagePool
  deriving DecidableEq, Repr

/-- The number under which the signed configuration lists a target's table. -/
def Target.number : Target → Nat
  | .slice n => n
  | .hbm n => 96 + n
  | .cxl n => 112 + n
  | .bar0 n => 116 + n
  | .savePool => 120
  | .messagePool => 121

/-- The rights of a master at a target: bits 0 to 3 are R, W, A and C (R414). -/
def aclRights (p : Platform) (target : Target) (master : Nat) : BitVec 8 :=
  if 209 < master then 0
  else match p.acl.find? (fun e => e.1 == target.number && e.2.1 == master) with
  | some e => e.2.2
  | none => 0x0F

/-- Whether a master has a right at a target. -/
def mayAt (p : Platform) (target : Target) (master bit : Nat) : Bool := (aclRights p target master).getLsbD bit

/-- Whether a master may read (bit 0), write (1), or do an atomic (2) at a physical address: at the L2 slice that
serves its line, and at the controller or port behind it. -/
def aclOk (p : Platform) (master pa bit : Nat) : Bool :=
  mayAt p (.slice (Config.homeSlice p.fenced (pa / 128) % 96)) master bit &&
  match regionOf p pa with
  | some (.capacity port) => mayAt p (.cxl port) master bit
  | _ => mayAt p (.hbm (hbmPlace pa).stack) master bit

/-- Whether a master has a right at every line of n bits of memory. -/
def aclRange (p : Platform) (master bit n right : Nat) : Bool :=
  (List.range ((bit + n - 1) / 1024 - bit / 1024 + 1)).all (fun k => aclOk p master ((bit / 1024 + k) * 128) right)

/-! ### Physical accesses of the device's own units -/

/-- Whether an ECC word (8 bytes) of a physical byte range is poisoned (R325). -/
def rangePoisoned (p : Platform) (pa n : Nat) : Bool :=
  p.poison.any (fun w => decide (w * 8 < pa + n) && decide (pa < w * 8 + 8))

/-- Whether two byte ranges, each an address and a count, overlap. -/
def bytesMeet (r t : Nat × Nat) : Bool := decide (r.1 < t.1 + t.2) && decide (t.1 < r.1 + r.2)

/-- The bytes that a hidden write covers. -/
def Hidden.bytes (h : Hidden) : Nat × Nat := (h.addr, h.old.length)

/-- A write is about to be performed: one of a path by a warp is hidden from the views of other paths (R218, R300); its own
path, and every path where the writer is another unit, see it, and with it the writes that it covers. -/
def hideWrite (s : State) (by_ : Option (Nat × Nat)) (rs : List (Nat × Nat)) : State :=
  if s.views.isEmpty then s
  else { s with views := s.views.map (fun v =>
    if by_.any (·.1 != v.path) then { v with
      hidden := v.hidden ++ rs.map (fun r => ⟨r.1, memBytes s.mem r.1 r.2, by_.toList⟩) }
    else { v with hidden := v.hidden.filter (fun h => !rs.any (bytesMeet h.bytes)) }) }

/-- A device unit writes n bytes of a ring, a record or an entry: never in a range that is reserved (R234), and poison
that the write covers whole is gone (R325). -/
def physPut (s : State) (pa n x : Nat) : State :=
  if inOneRange s.plat pa n then
    { hideWrite s none [(pa, n)] with
      mem := memPutNat s.mem pa n x
      plat := { s.plat with poison := s.plat.poison.filter (fun w => !(decide (pa ≤ w * 8) && decide (w * 8 + 8 ≤ pa + n))) } }
  else s

/-- A device unit reads n bytes; none in a range that is reserved (R234). -/
def physGet (s : State) (pa n : Nat) : Option Nat :=
  if inOneRange s.plat pa n then some (memNat s.mem pa n) else none

/-! ### Object records -/

/-- The 64 words of an object record (R18). -/
abbrev Rec := List Word

/-- Word k of a record, as a number. -/
def rw (r : Rec) (k : Nat) : Nat := (r.getD k 0).toNat

def recV (r : Rec) : Bool := bits (rw r 0) 0 1 == 1
def recKind (r : Rec) : Nat := bits (rw r 0) 1 2
def recProp (r : Rec) : Bool := bits (rw r 0) 10 1 == 1
def recPlace (r : Rec) : Nat := bits (rw r 0) 11 2
def recEW (r : Rec) : Nat := bits (rw r 1) 0 7
def recND (r : Rec) : Nat := bits (rw r 1) 7 4
def recLayout (r : Rec) : Nat := bits (rw r 1) 11 2
def recOutl (r : Rec) : Nat := bits (rw r 1) 13 2
def recCount (r : Rec) : Nat := rw r 2 + 2 ^ 32 * rw r 3
/-- Extent dk (R20). -/
def recD (r : Rec) (k : Nat) : Nat := rw r (4 + k)
/-- Stride sk (R20). -/
def recS (r : Rec) (k : Nat) : Nat := rw r (18 + 2 * k) + 2 ^ 32 * rw r (19 + 2 * k)
def recT0 (r : Rec) : Nat := 2 ^ bits (rw r 48) 0 4
def recT1 (r : Rec) : Nat := 2 ^ bits (rw r 48) 4 4
/-- The physical address of the residency table; zero for none (R236). -/
def recRtab (r : Rec) : Nat := bits (rw r 46 + 2 ^ 32 * rw r 47) 3 53 * 8
def recRmask (r : Rec) : Nat := bits (rw r 49) 16 4
def recBusy (r : Rec) : Bool := bits (rw r 51) 31 1 == 1

/-- The permissions of a record, by their bit in word 0 (R18). -/
inductive Perm
  | r | w | a | x | c | m | g
  deriving DecidableEq, Repr

/-- The bit of word 0 that holds a permission. -/
def permBit : Perm → Nat
  | .r => 3 | .w => 4 | .a => 5 | .x => 6 | .c => 7 | .m => 8 | .g => 9

/-- Whether a record grants a permission. -/
def recPerm (r : Rec) (p : Perm) : Bool := bits (rw r 0) (permBit p) 1 == 1

/-- The words from `lo` to `hi - 1` are zero. -/
def recZero (r : Rec) (lo hi : Nat) : Bool :=
  (List.range (hi - lo)).all (fun k => rw r (lo + k) == 0)

/-- KIND and LAYOUT agree (the table of R22). -/
def recKindOk (r : Rec) : Bool :=
  match recKind r with
  | 0 => recLayout r == 3 && recND r == 1 && recZero r 18 46
  | 1 => recLayout r == 0 ||
      (recLayout r == 1 && decide (2 ≤ recND r) && decide (recT0 r ≤ recD r 0) &&
        decide (recT1 r ≤ recD r 1))
  | 2 => recLayout r == 3 && recND r == 1 && recEW r == 8 && recZero r 18 46
  | _ => recLayout r == 2 && decide (2 ≤ recEW r) && decide (recEW r ≤ 8) && recD r 0 % 48 == 0 &&
      recZero r 18 46

/-- A record that breaks R20, R22 or R236. -/
def recMalformed (r : Rec) : Bool :=
  let n := recND r
  recEW r == 0 || decide (64 < recEW r) || n == 0 || decide (14 < n) ||
  recPlace r == 3 || recOutl r == 3 ||
  recCount r != ((List.range n).map (recD r)).foldl (· * ·) 1 || decide (2 ^ 42 < recCount r) ||
  (List.range n).any (fun k => recD r k == 0) ||
  !recZero r (4 + n) 18 || !recZero r (18 + 2 * n) 46 ||
  (recLayout r != 1 && rw r 48 != 0) ||
  bits (rw r 0) 14 18 != 0 || bits (rw r 1) 19 13 != 0 || bits (rw r 48) 8 24 != 0 ||
  bits (rw r 46) 0 3 != 0 || bits (rw r 47) 24 8 != 0 ||
  bits (rw r 49) 13 3 != 0 || bits (rw r 49) 20 12 != 0 || bits (rw r 51) 29 2 != 0 ||
  !recZero r 52 64 || (recProp r == (recRmask r == 0)) || !recKindOk r

/-! ### Element index to bit address (R23) -/

/-- The coordinates of an index, c0 first. -/
def coords (r : Rec) : Nat → Nat → Nat → List Nat
  | 0, _, _ => []
  | n + 1, k, i => i % recD r k :: coords r n (k + 1) (i / recD r k)

/-- A number of `xs` times the strides from k on, summed. -/
def strideSum (r : Rec) : Nat → List Nat → Nat
  | _, [] => 0
  | k, c :: cs => c * recS r k + strideSum r (k + 1) cs

/-- The bytes of one 48-element block (R23, R77). -/
def blockBytes (w o : Nat) : Nat := 6 * w + 1 + 3 * o

/-- The bit address of element i; none is OOS. -/
def translate (r : Rec) (i : Nat) : Option Nat :=
  if recCount r ≤ i then none
  else
    let c := coords r (recND r) 0 i
    match recLayout r with
    | 3 => some (i * recEW r)
    | 2 => some (i / 48 * 8 * blockBytes (recEW r) (recOutl r) + i % 48 * recEW r)
    | 0 =>
      let p := strideSum r 0 c
      if 2 ^ 42 ≤ p then none else some (p * recEW r)
    | _ =>
      let c0 := c.getD 0 0
      let c1 := c.getD 1 0
      let p := c0 / recT0 r * recS r 0 + c1 / recT1 r * recS r 1 + strideSum r 2 (c.drop 2) +
        c0 % recT0 r + recT0 r * (c1 % recT1 r)
      if 2 ^ 42 ≤ p then none else some (p * recEW r)

/-- The largest floor(c/t)·s + m·(c mod t) for c below d. -/
def dimMax (d t s m : Nat) : Nat :=
  let f := fun c => c / t * s + m * (c % t)
  let e := (d - 1) / t * t
  if e = 0 then f (d - 1) else max (f (d - 1)) (f (e - 1))

/-- The storage bound in bits (the table of R109). -/
def storageBound (r : Rec) : Nat :=
  match recLayout r with
  | 3 => recCount r * recEW r
  | 2 => recCount r / 48 * 8 * blockBytes (recEW r) (recOutl r)
  | 0 => (strideSum r 0 ((List.range (recND r)).map (fun k => recD r k - 1)) + 1) * recEW r
  | _ => (dimMax (recD r 0) (recT0 r) (recS r 0) 1 + dimMax (recD r 1) (recT1 r) (recS r 1) (recT0 r) +
      strideSum r 2 (((List.range (recND r)).drop 2).map (fun k => recD r k - 1)) + 1) * recEW r

/-! ### Looking a record up -/

/-- Who makes an access: its context, the tower whose replica it reads (R240), the argument object that
0x3F_FFFF names (R175), its master ID (R414), the sub-tiles whose service failed for it (R242), and the right that a
change of memory needs: W, in bit 1, or for an atomic A, in bit 2 (R414). -/
structure Agent where
  ctx    : Nat
  tower  : Option Nat
  args   : Option (List Byte)
  master : Nat
  failed : List (SubTile × Nat × Nat)
  right  : Nat := 1
  deriving DecidableEq, Repr

/-- The context of a number, when it exists (R411). -/
def ctxGet (s : State) (c : Nat) : Option Ctx := (s.ctxs.find? (fun e => e.1 == c)).map Prod.snd

/-- Replaces a context that exists. -/
def ctxPut (s : State) (c : Nat) (x : Ctx) : State :=
  { s with ctxs := s.ctxs.map (fun e => if e.1 == c then (c, x) else e) }

/-- Control register n of a context, as a number (R314). -/
def csrN (x : Ctx) (n : Nat) : Nat := (x.csr.getD n 0).toNat

/-- A pair of control registers as one number (R314). -/
def csrPair (x : Ctx) (n : Nat) : Nat := csrN x n + 2 ^ 32 * csrN x (n + 1)

/-- `n` 32-bit words of memory from a byte address on. -/
def memWords (m : Memory) (a n : Nat) : List Word :=
  (List.range n).map (fun k => BitVec.ofNat 32 (memNat m (a + 4 * k) 4))

/-- The physical address of an object's record, through the directory (R235); none when it is absent. -/
def recordAddr (s : State) (x : Ctx) (obj : Nat) : Option Nat :=
  let base := bits x.ortF.toNat 0 56
  if obj = 0 then none
  else if !inOneRange s.plat base 32768 then none
  else
    let ptr := memNat s.mem (base + 8 * bits obj 10 12) 8
    let blk := bits ptr 8 48 * 256
    if bits ptr 63 1 = 0 ∨ bits ptr 0 8 ≠ 0 ∨ bits ptr 56 7 ≠ 0 then none
    else if !inOneRange s.plat blk 0x40000 then none
    else some (blk + 256 * bits obj 0 10)

/-- The record of the argument object (R175). -/
def argRecord (args : List Byte) : Rec :=
  let n := if args.length = 0 then 4 else args.length
  [BitVec.ofNat 32 (1 + 2 ^ 3 + 2 ^ 7), BitVec.ofNat 32 (8 + 2 ^ 7 + 3 * 2 ^ 11), BitVec.ofNat 32 n, 0,
    BitVec.ofNat 32 n] ++ List.replicate 59 0

/-- The record as the walkers and the object record cache see it (R235, R237): empty when absent. -/
def recordWords (s : State) (ctx obj : Nat) : Rec :=
  match s.caches.orc.find? (fun e => e.ctx == ctx && e.obj == obj) with
  | some e => e.words
  | none =>
    match ctxGet s ctx with
    | none => []
    | some x => match recordAddr s x obj with
      | none => []
      | some pa => memWords s.mem pa 64

/-- Whether the walk to an object's record meets a poisoned word of memory: the directory pointer or the record. -/
def recordSoft (s : State) (ctx obj : Nat) : Bool :=
  if s.plat.poison.isEmpty ∨ (s.caches.orc.any (fun e => e.ctx == ctx && e.obj == obj)) = true then false
  else match ctxGet s ctx with
  | none => false
  | some x => rangePoisoned s.plat (bits x.ortF.toNat 0 56 + 8 * bits obj 10 12) 8 ||
    (match recordAddr s x obj with
    | some pa => rangePoisoned s.plat pa 256
    | none => false)

/-- A failed check: cause, detail and the element index of its address. -/
structure Fail where
  cause  : Nat
  detail : Nat
  idx    : Nat
  deriving DecidableEq, Repr

/-- The record of an object, or NOOBJ with detail 0 or 1 (R16, R22, R175); SOFTERR with detail 2 where the walk reads a
poisoned word (R325; DEDUCED, unsafe: log entry 11). -/
def recordOf (s : State) (ag : Agent) (obj i : Nat) : Except Fail Rec :=
  if obj = Config.argObject then
    match ag.args with
    | some b => .ok (argRecord b)
    | none => .error ⟨4, 0, i⟩
  else
    let r := recordWords s ag.ctx obj
    if recordSoft s ag.ctx obj then .error ⟨0x16, 2, i⟩
    else if !recV r then .error ⟨4, 0, i⟩
    else if recMalformed r then .error ⟨4, 1, i⟩
    else .ok r

/-! ### Residency (R238 to R240) -/

/-- Whether an entry breaks R239. -/
def entryMalformed (own : Nat) (e : Nat) : Bool :=
  let tier := bits e 61 2
  bits e 13 3 != 0 || bits e 56 2 != 0 || (bits e 58 1 == 1 && bits e 63 1 == 0) ||
  (if tier = 3 then bits e 0 13 == own
   else bits e 0 13 != own || !frameInTier tier (bits e 16 40))

/-- The place of an entry in the residency table (R238). -/
def entryAddr (r : Rec) (sub rep : Nat) : Nat :=
  recRtab r + 8 * (if recProp r then 4 * sub + rep else sub)

/-- An entry as stored in memory, or none when it cannot be read (R234). -/
def entryStored (s : State) (r : Rec) (sub rep : Nat) : Option Nat :=
  if inOneRange s.plat (entryAddr r sub rep) 8 then some (memNat s.mem (entryAddr r sub rep) 8) else none

/-- Whether reading an entry meets a poisoned word of memory (R325). -/
def entrySoft (s : State) (ctx obj : Nat) (r : Rec) (sub rep : Nat) : Bool :=
  !s.plat.poison.isEmpty && !(s.caches.res.any (fun e => e.t == ⟨ctx, obj, sub, rep⟩)) &&
    rangePoisoned s.plat (entryAddr r sub rep) 8

/-- An entry as an access finds it: a cached copy where there is one (R237). -/
def entryOf (s : State) (ctx obj : Nat) (r : Rec) (sub rep : Nat) : Option Nat :=
  match s.caches.res.find? (fun e => e.t == ⟨ctx, obj, sub, rep⟩) with
  | some e => some e.entry.toNat
  | none => entryStored s r sub rep

/-- The replica an agent's lookup uses (R240); 0 for an object with PROP = 0. -/
def replicaOf (r : Rec) (tower : Option Nat) : Nat :=
  if !recProp r then 0
  else match tower with
    | some t => if bits (recRmask r) t 1 = 1 then t else
        ((List.range 4).find? (fun k => bits (recRmask r) k 1 == 1)).getD 0
    | none => ((List.range 4).find? (fun k => bits (recRmask r) k 1 == 1)).getD 0

/-- The replicas that a write is performed in (R248). -/
def replicasOf (r : Rec) : List Nat :=
  if recProp r then (List.range 4).filter (fun k => bits (recRmask r) k 1 == 1) else [0]

/-- What the residency check says of one sub-tile (R240). -/
inductive Look
  | bad (cause detail : Nat)
  | unit (t : SubTile)
  | here (frame tier : Nat)
  | there (dev frame : Nat)
  deriving DecidableEq, Repr

/-- Whether the fault unit has work on a sub-tile. -/
def fuBusy (s : State) (t : SubTile) : Bool := s.fu.jobs.any (fun j => j.t == t)

/-- Whether a relocation of a sub-tile has begun its copy: its writes wait until it is over, also where its entry names the new
frame already (R244, R361). -/
def fuMoving (s : State) (t : SubTile) : Bool :=
  s.fu.jobs.any (fun j => j.t == t && (j.phase == .copying || j.phase == .closing))

/-- Whether a capacity frame lies where a port maps it and that port is up (R253). -/
def capacityUp (p : Platform) (frame : Nat) : Bool :=
  (regionOf p (frame * 65536)).isSome && p.cxlUp.getD ((frame - 0x10000000) / 2 ^ 25) false

/-- The residency check of one sub-tile and one replica. A path that waited for a service that failed traps,
whatever has become of the entry (R242). -/
def lookSub (s : State) (ag : Agent) (obj : Nat) (r : Rec) (sub rep : Nat) (write : Bool) : Look :=
  let t : SubTile := ⟨ag.ctx, obj, sub, rep⟩
  if recRtab r = 0 then .bad 7 3
  else if entrySoft s ag.ctx obj r sub rep then .bad 0x16 2
  else match ag.failed.find? (fun f => f.1 == t) with
  | some f => .bad f.2.1 f.2.2
  | none => match entryOf s ag.ctx obj r sub rep with
  | none => .bad 7 2
  | some e =>
    let tier := bits e 61 2
    let res := bits e 63 1
    let frame := bits e 16 40
    if entryMalformed s.plat.devnum e then .bad 7 2
    else if res = 0 ∧ tier < 2 then .bad 7 1
    else if res = 0 ∨ ((bits e 59 1 = 1 ∨ fuMoving s t) ∧ write) then .unit t
    else if tier = 3 then .there (bits e 0 13) frame
    else if tier = 2 ∧ !capacityUp s.plat frame then .bad 7 1
    else .here frame tier

/-! ### Checking an access (R109) -/

/-- A checked access: record, object, element, bit address in the object's storage, width. -/
structure Loc where
  rec_ : Rec
  obj  : Nat
  i    : Nat
  a    : Nat
  n    : Nat
  deriving DecidableEq, Repr

/-- What an access needs: permission (none where an entry says without PERM), direction, alignment. -/
structure Need where
  perm  : Option Perm
  write : Bool
  align : Bool
  deriving DecidableEq, Repr

/-- The permission step (R24, R28, R248, R273): KIND before PERM_X, and PROP before PERM_A. -/
def permFail (r : Rec) (p : Perm) : Option Nat :=
  if p = .x ∧ recKind r ≠ 2 then some 3
  else if p = .a ∧ recProp r = true then some 2
  else if recPerm r p then none else some 1

/-- Steps 1 to 4 of R109 for an access of n bits at element i, which may be negative or too large. -/
def checkShape (s : State) (ag : Agent) (obj : Nat) (i : Int) (n : Nat) (nd : Need) : Except Fail Loc :=
  let idx := intBits 42 i
  match recordOf s ag obj idx with
  | .error f => .error f
  | .ok r =>
    match nd.perm.bind (permFail r) with
    | some d => .error ⟨5, d, idx⟩
    | none =>
      if i < 0 ∨ (recCount r : Int) ≤ i then .error ⟨6, 0, idx⟩
      else match translate r idx with
      | none => .error ⟨6, 0, idx⟩
      | some a =>
        if storageBound r < a + n then .error ⟨6, 0, idx⟩
        else if nd.align ∧ a % n ≠ 0 then .error ⟨3, 0, idx⟩
        else .ok ⟨r, obj, idx, a, n⟩

/-- The sub-tiles that bits a to a + n - 1 lie in (R238). -/
def subTilesOf (a n : Nat) : List Nat :=
  (List.range ((a + n - 1) / 2 ^ 19 - a / 2 ^ 19 + 1)).map (· + a / 2 ^ 19)

/-- Where a piece of an access lies: in this device's memory, in an argument object, or on another device
(the sub-tile and a bit address in that device's physical memory). -/
inductive Place
  | phys (bit : Nat)
  | arg (bit : Nat)
  | far (dev sub bit : Nat)
  deriving DecidableEq, Repr

/-- One piece of an access: where it lies, and which bits of the value it holds. -/
structure Piece where
  place : Place
  lo    : Nat
  n     : Nat
  deriving DecidableEq, Repr

/-- The residency step of an access (R240): a failure, sub-tiles for the fault unit, or the pieces for one
replica. -/
structure Found where
  bad    : Option (Nat × Nat)
  units  : List SubTile
  pieces : List Piece
  deriving DecidableEq, Repr

/-- The residency step over the sub-tiles of an access, for one replica. -/
def findPieces (s : State) (ag : Agent) (l : Loc) (rep : Nat) (write : Bool) : Found :=
  if l.obj = Config.argObject then ⟨none, [], [⟨.arg l.a, 0, l.n⟩]⟩
  else (subTilesOf l.a l.n).foldl (fun acc sub =>
    let lo := max l.a (sub * 2 ^ 19)
    let hi := min (l.a + l.n) ((sub + 1) * 2 ^ 19)
    match lookSub s ag l.obj l.rec_ sub rep write with
    | .bad c d => if acc.bad.isNone then { acc with bad := some (c, d) } else acc
    | .unit t => { acc with units := acc.units ++ [t] }
    | .here frame _ =>
      if aclRange s.plat ag.master (frame * 2 ^ 19 + lo % 2 ^ 19) (hi - lo) (if write then ag.right else 0) then
        { acc with pieces := acc.pieces ++ [⟨.phys (frame * 2 ^ 19 + lo % 2 ^ 19), lo - l.a, hi - lo⟩] }
      else if acc.bad.isNone then { acc with bad := some (5, 4) } else acc
    | .there dev frame =>
      { acc with pieces := acc.pieces ++
          [⟨.far dev sub (frame * 2 ^ 19 + lo % 2 ^ 19), lo - l.a, hi - lo⟩] })
    ⟨none, [], []⟩

/-- The residency step of an access: of the agent's replica for a read, of every replica for a write. -/
def findAll (s : State) (ag : Agent) (l : Loc) (write : Bool) : Found :=
  if write then
    (replicasOf l.rec_).foldl (fun acc rep =>
      let f := findPieces s ag l rep true
      ⟨acc.bad.or f.bad, acc.units ++ f.units, acc.pieces ++ f.pieces⟩) ⟨none, [], []⟩
  else findPieces s ag l (replicaOf l.rec_ ag.tower) false

/-! ### Reading and writing a checked access -/

/-- The bits of a local piece. -/
def readPiece (s : State) (args : List Byte) (p : Piece) : Nat :=
  match p.place with
  | .phys bit => memBits s.mem bit p.n
  | .arg bit => bits (bytesNat args) bit p.n
  | .far _ _ _ => 0

/-- The value of an access whose pieces are local. -/
def readPieces (s : State) (args : List Byte) (ps : List Piece) : Nat :=
  ps.foldl (fun acc p => acc + 2 ^ p.lo * readPiece s args p) 0

/-- Writes the pieces of an access that lie in this device's memory. -/
def writePieces (m : Memory) (ps : List Piece) (x : Nat) : Memory :=
  ps.foldl (fun m p => match p.place with
    | .phys bit => memPutBits m bit p.n (bits x p.lo p.n)
    | _ => m) m

/-- Whether a piece touches an ECC word that is poisoned (R325): words of 8 bytes. -/
def piecePoisoned (s : State) (p : Piece) : Bool :=
  match p.place with
  | .phys bit => s.plat.poison.any (fun w => decide (w * 64 < bit + p.n) && decide (bit < w * 64 + 64))
  | _ => false

/-- The poisoned words that remain after a write: one that the write covers whole is clean again (R325). -/
def unpoison (pl : Platform) (ps : List Piece) : Platform :=
  { pl with poison := pl.poison.filter (fun w => !ps.any (fun p => match p.place with
      | .phys bit => decide (bit ≤ w * 64) && decide (w * 64 + 64 ≤ bit + p.n)
      | _ => false)) }

/-! ### What the engines' paths see (R218, R266, R275, R300) -/

/-- The bytes of the pieces of an access that lie in this device's memory. -/
def pieceBytes (ps : List Piece) : List (Nat × Nat) :=
  ps.filterMap (fun p => match p.place with
    | .phys bit => some (bit / 8, (bit % 8 + p.n + 7) / 8)
    | _ => none)

/-- The length of the least start of a list of hidden writes that holds `k` of those over some bytes. -/
def uptoMeets (r : Nat × Nat) : Nat → List Hidden → Nat
  | 0, _ => 0
  | _, [] => 0
  | k + 1, h :: hs =>
    if bytesMeet h.bytes r then uptoMeets r k hs + 1
    else match uptoMeets r (k + 1) hs with
      | 0 => 0
      | n + 1 => n + 2

/-- A warp reads bytes through a path: every write that another path does not see yet, up to the last one that this read
has seen, is now known through it too (R266, R269). -/
def sawBytes (s : State) (path w : Nat) (rs : List (Nat × Nat)) : State :=
  if s.views.isEmpty then s
  else
    let own := ((s.views.find? (fun v => v.path == path)).map (·.hidden)).getD []
    { s with views := s.views.map (fun v => if v.path = path then v else
        let n := rs.foldl (fun n r => max n (uptoMeets r
          (v.hidden.countP (fun h => bytesMeet h.bytes r) - own.countP (fun h => bytesMeet h.bytes r)) v.hidden)) 0
        { v with hidden := (v.hidden.take n).map (fun h =>
            if h.via.contains (path, w) then h else { h with via := h.via ++ [(path, w)] }) ++ v.hidden.drop n }) }

/-- The hidden writes that are left when those that `hit` accepts are seen, and with each the older ones over its bytes. -/
def revealed (hit : Hidden → Bool) : List Hidden → List Hidden
  | [] => []
  | h :: hs =>
    if hit h || hs.any (fun k => hit k && bytesMeet k.bytes h.bytes) then revealed hit hs else h :: revealed hit hs

/-- A `fencex` of warp w: what has been accessed through its FROM paths in its scope is seen by its TO paths, and known
through these from now on (R275). -/
def fenceViews (s : State) (src dst : PathSet) (inScope : Nat → Bool) (w : Nat) : State :=
  let hit := fun (h : Hidden) => h.via.any (fun x => src.getLsbD x.1 && inScope x.2)
  { s with views := s.views.map (fun v =>
      if dst.getLsbD v.path then { v with hidden := revealed hit v.hidden }
      else { v with hidden := v.hidden.map (fun h => if hit h then
          { h with via := h.via ++ ((List.range 4).filter dst.getLsbD).map (fun p => (p, w)) } else h) }) }

/-- Memory as a path of the engines sees it. -/
def viewMem (s : State) (path : Nat) : Memory :=
  match s.views.find? (fun v => v.path == path) with
  | some v => v.hidden.foldr (fun h m => memPut m h.addr h.old) s.mem
  | none => s.mem

/-! ### Dirty tracking (R246, R247) -/

/-- The function that reaches a context: FUNC of its CTXHOST (R409). -/
def ctxFunc (s : State) (c : Nat) : Nat := ((s.plat.funcs.find? (fun f => f.1 == c)).map (·.2)).getD 0

/-- The MSI-X control of a function: disabled and not masked after reset (PRESUMED, unsafe: log entry 24). -/
def msixCtlOf (p : Platform) (fn : Nat) : MsixCtl := (p.msixCtl.find? (fun c => c.fn == fn)).getD ⟨fn, false, false⟩

/-- The entry of a vector in its function's table: masked after reset (PRESUMED, unsafe: log entry 24). -/
def msixVecOf (p : Platform) (fn vec : Nat) : MsixVec :=
  (p.msixTab.find? (fun v => v.fn == fn && v.vec == vec)).getD ⟨fn, vec, 0, 0, true⟩

/-- Whether a vector sends no message: its function is disabled or masked, or it is masked itself. -/
def msixMasked (p : Platform) (fn vec : Nat) : Bool :=
  !(msixCtlOf p fn).enable || (msixCtlOf p fn).mask || (msixVecOf p fn vec).masked

/-- Raises an MSI-X cause (R412): a message, or the pending bit of a masked vector. -/
def raiseMsix (s : State) (fn vec : Nat) : State :=
  if msixMasked s.plat fn vec then
    { s with plat := { s.plat with msixPend := (s.plat.msixPend.filter (· ≠ (fn, vec))) ++ [(fn, vec)] } }
  else { s with plat := { s.plat with msix := s.plat.msix ++ [(fn, vec)] } }

/-- Whether a ring of 2^lg places became half full when it came to hold `used` (R412). -/
def becameHalf (used lg : Nat) : Bool := decide (2 ^ lg ≤ used * 2) && decide ((used - 1) * 2 < 2 ^ lg)

/-- Appends a dirty log record, or sets the overflow flag when the ring is full (R246, R247). -/
def dirtyLog (s : State) (t : SubTile) : State :=
  match ctxGet s t.ctx with
  | none => s
  | some x =>
    if !x.dten then s
    else
      let wr := (x.dl.getD 3 0).toNat
      let rd := (x.dl.getD 4 0).toNat
      let lg := bits (x.dl.getD 2 0).toNat 0 5
      let base := bits ((x.dl.getD 0 0).toNat + 2 ^ 32 * (x.dl.getD 1 0).toNat) 0 56
      if (wr + 2 ^ 32 - rd) % 2 ^ 32 = 2 ^ lg then
        raiseMsix (ctxPut s t.ctx { x with dlOvf := true }) (ctxFunc s t.ctx) 0
      else
        let word := t.obj + 2 ^ 22 * t.ctx + 2 ^ 34 * t.sub
        let s := physPut s (base + 8 * (wr % 2 ^ lg)) 8 word
        let s := ctxPut s t.ctx { x with dl := x.dl.set 3 (BitVec.ofNat 32 (wr + 1)) }
        if becameHalf ((wr + 1 + 2 ^ 32 - rd) % 2 ^ 32) lg then raiseMsix s (ctxFunc s t.ctx) 0 else s

/-- Sets DIRTY of a local entry before a write is performed, and logs it (R246). -/
def markDirty (s : State) (ctx obj : Nat) (r : Rec) (sub rep : Nat) : State :=
  let t : SubTile := ⟨ctx, obj, sub, rep⟩
  match entryOf s ctx obj r sub rep with
  | none => s
  | some e =>
    if bits e 60 1 = 1 ∨ bits e 61 2 = 3 then s
    else
      let ea := entryAddr r sub rep
      let st := memNat s.mem ea 8
      let s := { s with
        mem := memPutNat s.mem ea 8 (setBits st 60 1 1)
        caches := { s.caches with res := s.caches.res.map (fun c =>
          if c.t == t then { c with entry := c.entry ||| BitVec.ofNat 64 (2 ^ 60) } else c) } }
      dirtyLog s t

/-- Marks every local sub-tile of a write dirty. -/
def markDirtyLoc (s : State) (ctx : Nat) (l : Loc) : State :=
  if l.obj = Config.argObject then s
  else (subTilesOf l.a l.n).foldl (fun s sub =>
    (replicasOf l.rec_).foldl (fun s rep => markDirty s ctx l.obj l.rec_ sub rep) s) s

/-- Performs the local part of a write through a path by a warp: DIRTY first, then the bits, then the poison that they
cover. -/
def storeLoc (s : State) (by_ : Option (Nat × Nat)) (ctx : Nat) (l : Loc) (ps : List Piece) (x : Nat) : State :=
  let s := hideWrite (markDirtyLoc s ctx l) by_ (pieceBytes ps)
  { s with mem := writePieces s.mem ps x, plat := unpoison s.plat ps }

/-! ### The fault unit's queue -/

/-- Asks a tower's fault unit for sub-tiles that are not asked for and not being served (R241). -/
def askUnit (s : State) (tower : Nat) (ts : List SubTile) : State :=
  { s with fu := { s.fu with asked := ts.foldl (fun acc t =>
      if acc.any (fun e => e.2 == t) || fuBusy s t then acc else acc ++ [(tower, t)]) s.fu.asked } }

/-- Whether a sub-tile is asked for or being served. -/
def fuPending (s : State) (t : SubTile) : Bool := s.fu.asked.any (fun e => e.2 == t) || fuBusy s t

end Sys2Proof.Machine
end

