-- ==== Sys2Proof/Machine/Remote.lean ====
section
/-! DEFINITION. Requests to other devices (R364 to R369, R373, R374): what is outstanding, the exchange that an access
to a TIER 3 sub-tile makes, and the copies of peer lines. -/

namespace Sys2Proof.Machine

/-! ### Outstanding requests -/

/-- Whether two requests are the same access: equal apart from sequence number and plane. -/
def sameReq (a b : FabReq) : Bool :=
  vuKind a.hdr == vuKind b.hdr && vuDst a.hdr == vuDst b.hdr && a.frame == b.frame && a.bit == b.bit &&
  a.nbits == b.nbits && a.data == b.data && a.aop == b.aop && a.swap == b.swap && a.slot == b.slot &&
  a.lane == b.lane && a.rnd == b.rnd && a.part == b.part

/-- A request about bits of a sub-tile that another device holds (R366, R373). -/
def mkReq (s : State) (kind dev ctx obj sub bit nbits data : Nat) : FabReq :=
  { hdr := vuMake kind dev s.plat.devnum 0 ctx obj sub 0, frame := bit / 2 ^ 19, bit := bit,
    nbits := nbits, data := data, aop := 0, swap := 0, slot := 0, lane := 0, rnd := 0, port := 0 }

/-- Sends a request: it takes the next sequence number and its line's plane and port, or is ended at once
when no live plane leads to the device (R367, R369). -/
def sendReq (s : State) (w : Owner) (r : FabReq) : State :=
  let n := s.fab.rseq
  let dev := vuDst r.hdr
  match if s.fab.barred.contains dev then none else routeOf s.fab (lineOf r.bit) with
  | none => { s with fab := { s.fab with
      rseq := n + 1, reqs := s.fab.reqs ++ [⟨n, r, s.now, 0, 0, none, some 4, w⟩] } }
  | some (p, port) =>
    let h := vuMake (vuKind r.hdr) dev s.plat.devnum p (vuCtx r.hdr) (vuObj r.hdr) (vuSubt r.hdr) n
    let r := { r with hdr := h, port := port }
    send { s with fab := { s.fab with
      rseq := n + 1, reqs := s.fab.reqs ++ [⟨n, r, s.now, p, port, none, none, w⟩] } } (.request dev r)

/-- The outstanding request that is the same access of the same owner. -/
def findReq (s : State) (w : Owner) (r : FabReq) : Option OutReq :=
  s.fab.reqs.find? (fun o => o.owner == w && sameReq o.req r)

/-- Whether a line still has requests outstanding on a route that it has left, so that nothing new is sent on
the new one (R368). -/
def routeHeld (s : State) (r : FabReq) : Bool :=
  s.fab.reqs.any (fun o => !reqOver o && vuDst o.req.hdr == vuDst r.hdr && lineOf o.req.bit == lineOf r.bit &&
    routeOf s.fab (lineOf r.bit) != some (o.plane, o.port))

/-- Sends the requests of an access that are not outstanding yet. -/
def sendMissing (s : State) (w : Owner) (rs : List FabReq) : State :=
  rs.foldl (fun s r => if (findReq s w r).isSome || routeHeld s r then s else sendReq s w r) s

/-- The cause of the error that an ended request leads to: NORES, or SOFTERR for bad data (R325, R369). -/
def deadCause (d : Nat) : Nat := if d = 2 then 0x16 else 7

/-- The exchange of an access: none while an answer is missing (the state then holds what was sent);
otherwise, for each request, its reply's data or the detail that ended it (R369), and the state in
which they are outstanding no more. -/
def exchange (s : State) (w : Owner) (rs : List FabReq) : Option (List (Nat × Option Nat)) × State :=
  let s := sendMissing s w rs
  let os := rs.filterMap (findReq s w)
  if os.length = rs.length ∧ os.all reqOver = true then
    (some (os.map (fun o => match o.dead, o.reply with
        | some d, _ => (0, some d)
        | none, some p => (p.data, none)
        | none, none => (0, none))),
      { s with fab := { s.fab with reqs := s.fab.reqs.filter (fun o => !os.contains o) } })
  else (none, s)

/-! ### Peer lines (R374) -/

/-- The directory entry of a line of this device; none when no other device holds it. -/
def dirAt (s : State) (line : Nat) : Option Dir := (s.fab.dir.find? (fun d => d.1 == line)).map (·.2)

/-- Replaces the directory entry of a line. -/
def setDir (s : State) (line : Nat) (d : Option Dir) : State :=
  { s with fab := { s.fab with dir :=
    (s.fab.dir.filter (fun e => e.1 != line)) ++ (match d with | some d => [(line, d)] | none => []) } }

/-- The devices that an entry marks. -/
def dirDevs : Dir → List Nat
  | .shared ds => ds
  | .groups v => (lanesOf v).flatMap (fun g => (List.range 256).map (· + 256 * g))

/-- A device becomes a holder of a line: a fifth sharer turns S into G. -/
def addSharer (d : Option Dir) (dev : Nat) : Dir :=
  match d with
  | none => .shared [dev]
  | some (.groups v) => .groups (v ||| BitVec.ofNat 32 (2 ^ (dev / 256)))
  | some (.shared ds) =>
    if ds.contains dev then .shared ds
    else if ds.length < 4 then .shared (ds ++ [dev])
    else .groups (maskOf (fun g => (dev :: ds).any (fun x => x / 256 == g)))

/-- The top tier of a multicast from one device to devices of another leaf switch (R370). -/
def mcLevels (own dev : Nat) : Nat := if own / 1024 ≠ dev / 1024 then 3 else if own / 64 ≠ dev / 64 then 2 else 1

/-- A node word (R371). -/
def mcNode (index children : Nat) : BitVec 16 := BitVec.ofNat 16 (index + 2 ^ 6 * children)

/-- The tree to devices of one leaf switch, with the number of its top nodes. -/
def mcTree (levels : Nat) (ds : List Nat) : Nat × List (BitVec 16) :=
  let ports := ds.map (fun d => mcNode (d % 64) 0)
  let leaf := mcNode (((ds.head?.map (fun d => d / 64 % 16))).getD 0) ds.length :: ports
  match levels with
  | 3 => (1, mcNode ((ds.head?.map (fun d => d / 1024)).getD 0) 1 :: leaf)
  | 2 => (1, leaf)
  | _ => (ds.length, ports)

/-- A multicast header: COUNT, LEVELS and ROOTN in its word, then the nodes (R371). -/
def mcMake (levels rootn : Nat) (nodes : List (BitVec 16)) : Multicast :=
  ⟨BitVec.ofNat 32 (nodes.length % 256 + 2 ^ 8 * levels + 2 ^ 10 * rootn), nodes⟩

/-- The word of a multicast header from its COUNT, its LEVELS, and its bits from ROOTN up (R371). -/
def mcWord (count : BitVec 8) (levels : BitVec 2) (rootn : BitVec 22) : Word := rootn ++ levels ++ count

def mcCount (m : Multicast) : Nat := bits m.word.toNat 0 8
def mcLevel (m : Multicast) : Nat := bits m.word.toNat 8 2
def mcRootn (m : Multicast) : Nat := bits m.word.toNat 10 7

/-- Sends a message about a line with a header that takes the next sequence number; OBJ is 0 in every kind of it but a
multicast (R366). -/
def sendNext (s : State) (o : Vuine → Out) (kind dst plane ctx obj sub : Nat) : State :=
  let h := vuMake kind dst s.plat.devnum plane ctx (if kind = 6 then obj else 0) sub s.fab.rseq
  send { s with fab := { s.fab with rseq := s.fab.rseq + 1 } } (o h)

/-- Asks devices to drop a line, and waits for each: pointers one by one, marked groups by multicast. The write that
waits keeps the record and the frames with which it passed its checks (R373). -/
def askInvalidate (s : State) (line : Nat) (ds : List Nat) (req : FabReq) (atom : Bool) (r : Rec)
    (frames : List (Nat × Nat)) : State :=
  let own := s.plat.devnum
  let route := (routeOf s.fab line).getD (0, 0)
  let ctx := vuCtx req.hdr
  let obj := vuObj req.hdr
  let sub := vuSubt req.hdr
  let s := match dirAt s line with
    | some (.groups _) => (List.range 128).foldl (fun s leaf =>
        let here := ds.filter (fun d => d / 64 == leaf)
        match here with
        | [] => s
        | d :: _ =>
          let lv := mcLevels own d
          let t := mcTree lv here
          sendNext s (fun h => .multicast route.2 h (some (mcMake lv t.1 t.2)) line) 6 own route.1 ctx obj sub) s
    | _ => ds.foldl (fun s d => sendNext s (fun h => .invalidate d h line) 4 d route.1 ctx obj sub) s
  { s with fab := { s.fab with waits := s.fab.waits ++ [⟨req, line, ds, atom, r, frames, s.now⟩] } }


/-- A line of memory that an access needs: the device that holds it, context, object, sub-tile, line. -/
structure LineRef where
  dev  : Nat
  ctx  : Nat
  obj  : Nat
  sub  : Nat
  line : Nat
  deriving DecidableEq, Repr

/-- The lines that bits of memory cover. -/
def pieceLines (bit n : Nat) : List Nat :=
  (List.range (lineOf (bit + n - 1) - lineOf bit + 1)).map (· + lineOf bit)

/-- Whether a line of this device is locked by a combining step on an element that another device holds a part of, at the low
part of the element (`low`) or at the high one (R290). -/
def lineLocked (s : State) (line : Nat) (low : Bool) : Bool :=
  s.copies.any (fun k => k.out.any (fun o => o.near.any (fun p =>
    (p.2.1 == 0) == low && (pieceLines p.1 p.2.2).contains line)))

/-- Whether a write or atomic that touches a line waits for acknowledgements, or a combining step has locked it. -/
def lineWaits (s : State) (line : Nat) : Bool :=
  s.fab.waits.any (fun w => w.line == line || (pieceLines w.req.bit w.req.nbits).contains line) || lineLocked s line true || lineLocked s line false

/-- The lines of this device that the pieces of an access touch. -/
def nearLines (s : State) (ctx : Nat) (l : Loc) (ps : List Piece) : List LineRef :=
  ps.flatMap (fun p => match p.place with
    | .phys bit => (pieceLines bit p.n).map (fun ln => ⟨s.plat.devnum, ctx, l.obj, (l.a + p.lo) / 2 ^ 19, ln⟩)
    | _ => [])

/-- Makes every other copy of the lines of a write of this device's own go, and says whether all are gone. -/
def clearPeers (s : State) (ls : List LineRef) : Bool × State :=
  if s.fab.dir.isEmpty && s.fab.waits.isEmpty && s.copies.all (fun k => k.out.all (·.near.isEmpty)) then (true, s)
  else ls.foldl (fun (acc : Bool × State) q =>
    if lineWaits acc.2 q.line then (false, acc.2)
    else match dirAt acc.2 q.line with
      | none => acc
      | some d =>
        let ds := (dirDevs d).filter (fun x => x != acc.2.plat.devnum && !acc.2.fab.barred.contains x)
        if ds.isEmpty then (acc.1, setDir acc.2 q.line none)
        else (false, askInvalidate acc.2 q.line ds
          (mkReq acc.2 1 acc.2.plat.devnum q.ctx q.obj q.sub (q.line * 1024) 0 0) false [] []))
    (true, s)

def peerLine (s : State) (dev line : Nat) : Option Nat :=
  (s.fab.peers.find? (fun p => p.1 == dev && p.2.1 == line)).map (·.2.2)

/-- Installs a clean copy of a line. -/
def installPeer (s : State) (dev line data : Nat) : State :=
  { s with fab := { s.fab with peers :=
    (s.fab.peers.filter (fun p => !(p.1 == dev && p.2.1 == line))) ++ [(dev, line, data)] } }

/-- The remote pieces of a list, as device, sub-tile, bit, place in the value, width. -/
def farPieces (ps : List Piece) : List (Nat × Nat × Nat × Nat × Nat) :=
  ps.filterMap (fun p => match p.place with
    | .far dev sub bit => some (dev, sub, bit, p.lo, p.n)
    | _ => none)

/-- The request that reads a line. -/
def LineRef.read (s : State) (f : LineRef) : FabReq := mkReq s 0 f.dev f.ctx f.obj f.sub (f.line * 1024) 1024 0

/-- The lines of the remote pieces of an access. -/
def farLines (ctx obj : Nat) (ps : List Piece) : List LineRef :=
  (farPieces ps).flatMap (fun q => (pieceLines q.2.2.1 q.2.2.2.2).map (fun ln => ⟨q.1, ctx, obj, q.2.1, ln⟩))

/-- Whether a write or an atomic of this device on a line has been sent and not answered. The copy of the line is not
read meanwhile: the holding device may have performed the write (R269, R374). -/
def lineOpen (s : State) (dev line : Nat) : Bool :=
  s.fab.reqs.any (fun o => !reqOver o && vuKind o.req.hdr != 0 && vuDst o.req.hdr == dev &&
    (pieceLines o.req.bit o.req.nbits).contains line)

/-- Whether a request has been outstanding for as long as R369 allows. -/
def expired (s : State) (o : OutReq) : Bool := decide (o.sent + Config.unreachableAfter ≤ s.now)

/-- Drops this device's copy of a line. -/
def forgetPeer (s : State) (dev line : Nat) : State :=
  { s with fab := { s.fab with peers := s.fab.peers.filter (fun p => !(p.1 == dev && p.2.1 == line)) } }

/-- Brings lines of other devices into this device's L2. A line is installed when its reply arrives, so that what is
read here is always the copy as it now stands. None while a line is missing or has a write on its way (the state then
holds what was sent); otherwise the lines that could not be had, with the detail that ended their requests. -/
def fetchSet (s : State) (w : Owner) (ls : List LineRef) : Option (List (LineRef × Nat)) × State :=
  let ended := fun (f : LineRef) => (findReq s w (f.read s)).bind (·.dead)
  let mine := ls.filterMap (fun f => findReq s w (f.read s))
  if ls.all (fun f => ((peerLine s f.dev f.line).isSome && !lineOpen s f.dev f.line) || (ended f).isSome) then
    (some (ls.filterMap (fun f => (ended f).map (fun d => (f, d)))),
      { s with fab := { s.fab with reqs := (s.fab.reqs.filter (fun o => !(mine.contains o && reqOver o))).map (fun o =>
        if mine.contains o then { o with owner := .lost } else o) } })
  else
    let gone := (ls.filter (fun f => (peerLine s f.dev f.line).isNone)).filterMap (fun f =>
      (findReq s w (f.read s)).bind (fun o => if o.reply.isSome then some o else none))
    let s1 := { s with fab := { s.fab with reqs := s.fab.reqs.filter (fun o => !gone.contains o) } }
    (none, sendMissing s1 w ((ls.filter (fun f => (peerLine s f.dev f.line).isNone)).map (LineRef.read s)))

/-- Reads the lines of remote pieces: none while one is missing; otherwise the detail when a line could not be had. -/
def fetchLines (s : State) (w : Owner) (ctx obj : Nat) (ps : List Piece) : Option (Option Nat) × State :=
  let r := fetchSet s w (farLines ctx obj ps)
  (r.1.map (fun ds => ds.head?.map (·.2)), r.2)

/-- The bits of a remote piece, from the peer lines. -/
def peerBits (s : State) (dev bit n : Nat) : Nat :=
  let ls := pieceLines bit n
  let whole := ls.foldl (fun (acc : Nat × Nat) ln =>
    (acc.1 + 2 ^ acc.2 * (peerLine s dev ln).getD 0, acc.2 + 1024)) (0, 0)
  bits whole.1 (bit % 1024) n

/-- The value of an access whose remote lines are here. -/
def readAll (s : State) (args : List Byte) (ps : List Piece) : Nat :=
  ps.foldl (fun acc p => acc + 2 ^ p.lo * (match p.place with
    | .far dev _ bit => peerBits s dev bit p.n
    | _ => readPiece s args p)) 0

/-- The requests that write the remote pieces of an access: one for each 128-byte line, since a line has its own plane and
port (R367). -/
def writeReqs (s : State) (ctx obj x : Nat) (ps : List Piece) : List FabReq :=
  (farPieces ps).flatMap (fun q =>
    let bit := q.2.2.1
    let n := q.2.2.2.2
    (pieceLines bit n).map (fun ln =>
      let lo := max bit (ln * 1024)
      let hi := min (bit + n) ((ln + 1) * 1024)
      mkReq s 1 q.1 ctx obj q.2.1 lo (hi - lo) (bits x (q.2.2.2.1 + (lo - bit)) (hi - lo))))

/-- Updates this device's own peer copies of the bits that a request of its own has written (R374). -/
def updatePeers (s : State) (dev bit n x : Nat) : State :=
  (pieceLines bit n).foldl (fun s ln => match peerLine s dev ln with
    | none => s
    | some old =>
      let lo := max bit (ln * 1024)
      let hi := min (bit + n) ((ln + 1) * 1024)
      installPeer s dev ln (setBits old (lo - ln * 1024) (hi - lo) (bits x (lo - bit) (hi - lo)))) s

end Sys2Proof.Machine
end

