-- ==== Sys2Proof/Machine/Path.lean ====
section
/-! DEFINITION. Warps and their paths: register storage, the PC slots and the split stack (R136 to R142),
parking and resuming (R146), barriers and mbar objects (R149 to R151). -/

namespace Sys2Proof.Machine

/-! ### Warps and crews by number -/

def Slot.free : Slot :=
  { live := false, path := { pc := 0, mask := 0, rjpc := 0, depth := 0 }, park := none, stale := false,
    aside := false, skipBp := false, failed := [], waited := 0, turned := none }

/-- A slot that holds a path (R137, R141). -/
def Slot.ofPath (p : Path) : Slot := { Slot.free with live := true, path := p, stale := true }

/-- RJPC of a path with no rejoin address (R136). -/
def noRejoin : DWord := BitVec.allOnes 64

/-- A warp with every register zero (R8). -/
def Warp.zero : Warp :=
  { crew := 0, wid := 0, role := 0, roleIx := 0, regs := 0, v := [], s := List.replicate 32 0,
    p := List.replicate 7 0, b := List.replicate 3 (List.replicate 32 0), fs := List.replicate 16 0,
    srgen := 0, fflags := 0, qstat := 0, accstat := 0, mode := .user, sa := Slot.free, sb := Slot.free,
    last := false, ssn := 0, ents := List.replicate 4 0, alive := 0, hdl := Slot.free,
    shadow := List.replicate 3 (List.replicate 32 0), cur := none, tq := [], tpc := 0, tfflags := 0,
    tscr := List.replicate 4 0, q6 := [], q7 := [], w6 := [], w7 := [], bands := List.replicate 4 0, xsn := 0, olseq := 0,
    issued := 0, lastLd := none, halt := .no, step := false, holdSl := none, gone := true }

def Plane.empty : Plane := { valid := false, k := 0, n := 0, fw := 0, blk := false, nf := false, wt := [] }

def Crew.zero : Crew :=
  { launch := 0, ctx := 0, lin := 0, tower := 0, phys := 0, logical := 0, slotNo := 0, warps := [],
    scr := [], scrLen := 0, accb := 0, matrix := false, abank := 0, acc := [], plA := Plane.empty,
    plS := Plane.empty, eng := [], engSeq := 0,
    bars := List.replicate 16 { arr := 0, exp := none, phase := false },
    chans := List.replicate 6 { bound := false, prod := 0, cons := 0, depth := 0, entries := [] },
    cseqn := List.replicate 8 0, req := none, frame := none, reserve := none, prio := 0, region := none,
    placed := 0, saving := false, gone := true }

def warpAt (s : State) (w : Nat) : Warp := s.warps.getD w Warp.zero
def setWarp (s : State) (w : Nat) (x : Warp) : State := { s with warps := s.warps.set w x }
def crewAt (s : State) (c : Nat) : Crew := s.crews.getD c Crew.zero
def setCrew (s : State) (c : Nat) (x : Crew) : State := { s with crews := s.crews.set c x }
/-- The crew of a warp. -/
def crewOf (s : State) (w : Nat) : Crew := crewAt s (warpAt s w).crew
/-- The context of a warp. -/
def ctxNumOf (s : State) (w : Nat) : Nat := (crewOf s w).ctx

/-- A field of a launch record (R172). -/
def recBits (r : List Byte) (lo n : Nat) : Nat := bits (bytesNat r) lo n

def launchOf (s : State) (h : DWord) : Option Launch := s.launches.find? (fun l => l.h == h)
def putLaunch (s : State) (h : DWord) (f : Launch → Launch) : State :=
  { s with launches := s.launches.map (fun l => if l.h == h then f l else l) }

/-- The launch of a warp. -/
def launchOfWarp (s : State) (w : Nat) : Option Launch := launchOf s (crewOf s w).launch

/-- The deadline of a crew's launch (R333). -/
def deadlineOf (s : State) (c : Nat) : Nat :=
  match launchOf s (crewAt s c).launch with
  | some l => if recBits l.record 448 32 = 0 then Config.defaultDeadline else recBits l.record 448 32
  | none => Config.defaultDeadline

/-- Whether a crew's request has passed its deadline without the beginning of a cooperative save: its save is forced, and
its warps stop at their instruction boundaries (R5, R333). -/
def overdue (s : State) (c : Nat) : Bool :=
  match (crewAt s c).req with
  | some t => !(crewAt s c).gone && !(crewAt s c).saving && decide (t + deadlineOf s c ≤ s.now)
  | none => false

/-- The agent that a warp's own accesses have (R240, R414). -/
def warpAgent (s : State) (w : Nat) : Agent :=
  let c := crewOf s w
  { ctx := c.ctx, tower := some c.tower, args := (launchOf s c.launch).map (·.args),
    master := 34 * c.tower + c.phys, failed := [] }

/-! ### Registers -/

/-- Operand `o` of `k` words in lane `l` (R10, R11, R31, R42); queue ports are read elsewhere. -/
def regNat (x : Warp) (o : Opnd) (k l : Nat) : Nat :=
  match o with
  | .v n => (List.range k).foldl (fun acc j =>
      acc + 2 ^ (32 * j) * (lane 0 (x.v.getD (n.val + j) []) l).toNat) 0
  | .s n => (List.range k).foldl (fun acc j => acc + 2 ^ (32 * j) * (x.s.getD (n.val + j) 0).toNat) 0
  | .q _ => 0
  | .b n => bits (lane 0 (x.b.getD n.val []) l).toNat 0 (32 * k)
  | .z => 0
  | .lid => l

/-- Predicate p in the lanes where it is 1; p7 is 1 everywhere (R8, R43). -/
def predMask (x : Warp) (p : Pred) : Mask := if p.val = 7 then BitVec.allOnes 32 else x.p.getD p.val 0

/-- A lane list with the lanes of a mask replaced. -/
def putLanes {α : Type} (dflt : α) (m : Mask) (old : List α) (f : Nat → α) : List α :=
  tab (fun l => if m.getLsbD l then f l else lane dflt old l)

/-- Writes `k` words to a register operand in the lanes of `m` (R10); discards for `z`. -/
def writeReg (x : Warp) (o : Opnd) (m : Mask) (k : Nat) (val : Nat → Nat) : Warp :=
  match o with
  | .v n => { x with v := (List.range k).foldl (fun vs j =>
      vs.set (n.val + j) (putLanes 0 m (vs.getD (n.val + j) [])
        (fun l => BitVec.ofNat 32 (bits (val l) (32 * j) 32)))) x.v }
  | .s n => match lowest m with
    | none => x
    | some l => { x with s := (List.range k).foldl (fun ss j =>
        ss.set (n.val + j) (BitVec.ofNat 32 (bits (val l) (32 * j) 32))) x.s }
  | .b n => { x with b := x.b.set n.val (putLanes 0 m (x.b.getD n.val [])
      (fun l => BitVec.ofNat 64 (bits (val l) 0 (if k = 1 then 32 else 64)))) }
  | .q _ => x
  | .z => x
  | .lid => x

/-- Routes a result of `k` words to the latch that L names (R31). -/
def writeLatch (x : Warp) (lt : Option (Fin 3)) (m : Mask) (k : Nat) (val : Nat → Nat) : Warp :=
  match lt with
  | none => x
  | some n => writeReg x (.b n) m k val

/-- Writes a result where its destination says: D unless W = 1 (R30), and the latch (R31). -/
def writeDest (x : Warp) (dst : Dest) (k : Nat) (val : Nat → Nat) : Warp :=
  writeLatch (if dst.h.w then x else writeReg x dst.d dst.lanes k val) dst.h.l dst.lanes k val

/-- Writes a predicate in the lanes of `m`; number 7 discards (R43). -/
def writePredReg (x : Warp) (p : Pred) (m : Mask) (val : Nat → Bool) : Warp :=
  if p.val = 7 then x
  else { x with p := x.p.set p.val (maskOf (fun l =>
    if m.getLsbD l then val l else (x.p.getD p.val 0).getLsbD l)) }

/-- Writes a predicate result: D unless W = 1, and 1 or 0 to the latch (R30, R31). -/
def writePred (x : Warp) (h : Hdr) (p : Pred) (m : Mask) (val : Nat → Bool) : Warp :=
  writeLatch (if h.w then x else writePredReg x p m val) h.l m 1 (fun l => if val l then 1 else 0)

/-! ### Slots -/

def slotOf (x : Warp) : Which → Slot
  | .a => x.sa
  | .b => x.sb
  | .handler => x.hdl

def withSlot (x : Warp) (k : Which) (sl : Slot) : Warp :=
  match k with
  | .a => { x with sa := sl }
  | .b => { x with sb := sl }
  | .handler => { x with hdl := sl }

/-- The other PC slot. -/
def otherSlot : Which → Which
  | .a => .b
  | .b => .a
  | .handler => .handler

/-! ### Split-stack entries (R138, R139) -/

/-- PC of an entry: its bits 0 to 2 are always zero (R28). -/
def entPc (e : BitVec 256) : DWord := BitVec.ofNat 64 (bits e.toNat 3 61 * 8)
def entMask (e : BitVec 256) : Mask := BitVec.ofNat 32 (bits e.toNat 64 32)
def entKind (e : BitVec 256) : Nat := bits e.toNat 96 2
def entCnt (e : BitVec 256) : Nat := bits e.toNat 98 6
def entRjpc (e : BitVec 256) : DWord := BitVec.ofNat 64 (bits e.toNat 128 64)
def entDepth (e : BitVec 256) : Nat := bits e.toNat 192 16
def entPath (e : BitVec 256) : Path := { pc := entPc e, mask := entMask e, rjpc := entRjpc e, depth := entDepth e }

/-- A split-stack entry: KIND 1 PATH, 2 JOIN. -/
def entMake (kind cnt : Nat) (p : Path) : BitVec 256 :=
  BitVec.ofNat 256 (p.pc.toNat + 2 ^ 64 * p.mask.toNat + 2 ^ 96 * kind + 2 ^ 98 * cnt +
    2 ^ 128 * p.rjpc.toNat + 2 ^ 192 * (p.depth % 65536))

/-- KIND 0 or 3, a nonzero reserved field, or a CNT outside 1 to 32 in a JOIN (R139). -/
def entMalformed (e : BitVec 256) : Bool :=
  entKind e == 0 || entKind e == 3 || bits e.toNat 104 24 != 0 || bits e.toNat 208 48 != 0 ||
  (entKind e == 2 && (entCnt e == 0 || decide (32 < entCnt e)))

/-- SPLITB of a warp's launch (R172). -/
def splitBytes (s : State) (w : Nat) : Nat :=
  match launchOfWarp s w with
  | some l => recBits l.record 400 21
  | none => 0

/-- Entries a warp's split stack holds (R139). -/
def splitCapacity (s : State) (w : Nat) : Nat := 4 + splitBytes s w / 32

/-- Why an operation on a warp's paths cannot be carried out yet: an entry of the split stack in memory traps with a
cause and detail, lies in sub-tiles that the fault unit must serve first, lies in lines of another device that must come
first (none when only the line's new route is awaited, R368), or lies in lines that other devices hold and must drop
before it is written (R374). -/
inductive Unsettled
  | bad (cause detail : Nat)
  | wait (ts : List SubTile)
  | fetch (ls : List LineRef)
  | clear (ls : List LineRef)
  deriving DecidableEq, Repr

/-- The agent of a warp's own accesses to its split stack; `fl` are the marks of the path that issues. -/
def entAgent (s : State) (w : Nat) (fl : List (SubTile × Nat × Nat)) : Agent := { warpAgent s w with failed := fl }

/-- Where entry k of a warp lies in the private object, for k of 4 or more (R139, R190). The region is that of the
crew; an object that no longer holds it traps as an access to it would (DEDUCED, unsafe: log entry 11). -/
def entLoc (s : State) (ag : Agent) (w k : Nat) : Except Unsettled Loc :=
  let c := crewOf s w
  match launchOf s c.launch, c.region with
  | some l, some region =>
    let sb := recBits l.record 400 21
    let obj := recBits l.record (512 + 42) 22
    let byte := region * (c.warps.length * sb) + (warpAt s w).wid * sb + 32 * (k - 4)
    match recordOf s ag obj byte with
    | .error f => .error (.bad f.cause f.detail)
    | .ok r => if storageBound r < 8 * byte + 256 then .error (.bad 6 0) else .ok ⟨r, obj, byte, 8 * byte, 256⟩
  | _, _ => .error (.bad 4 0)

/-- The pieces of an access to an entry, once its sub-tiles are resident and, where they are on another device, the
lines are here for a read and may be sent for a write (R240, R373, R374). -/
def entPieces (s : State) (ag : Agent) (l : Loc) (write : Bool) : Except Unsettled (List Piece) :=
  let f := findAll s ag l write
  match f.bad with
  | some b => .error (.bad b.1 b.2)
  | none =>
    if !f.units.isEmpty then .error (.wait f.units)
    else if write then
      if !(clearPeers s (nearLines s ag.ctx l f.pieces)).1 then .error (.clear (nearLines s ag.ctx l f.pieces))
      else if (writeReqs s ag.ctx l.obj 0 f.pieces).any (routeHeld s) then .error (.fetch [])
      else .ok f.pieces
    else if f.pieces.any (piecePoisoned s) then .error (.bad 0x16 2)
    else
      let ls := farLines ag.ctx l.obj f.pieces
      if ls.all (fun q => (peerLine s q.dev q.line).isSome && !lineOpen s q.dev q.line) then .ok f.pieces
      else .error (.fetch ls)

/-- Reads entry k of a warp's split stack. -/
def entRead (s : State) (fl : List (SubTile × Nat × Nat)) (w k : Nat) : Except Unsettled (BitVec 256) :=
  if k < 4 then .ok ((warpAt s w).ents.getD k 0)
  else
    let ag := entAgent s w fl
    match entLoc s ag w k with
    | .error x => .error x
    | .ok l => match entPieces s ag l false with
      | .error x => .error x
      | .ok ps => .ok (BitVec.ofNat 256 (readAll s [] ps))

/-- Replaces entry k of a warp's split stack: a write of the private object like any other (R245, R246, R248). The warp
does not wait for one that another device performs: the entry cannot be read before that (`lineOpen`; DEDUCED, unsafe: log
entry 11). -/
def entPut (s : State) (fl : List (SubTile × Nat × Nat)) (w k : Nat) (e : BitVec 256) : Except Unsettled State :=
  if k < 4 then .ok (setWarp s w { warpAt s w with ents := (warpAt s w).ents.set k e })
  else
    let ag := entAgent s w fl
    match entLoc s ag w k with
    | .error x => .error x
    | .ok l => match entPieces s ag l true with
      | .error x => .error x
      | .ok ps => .ok ((writeReqs s ag.ctx l.obj e.toNat ps).foldl (fun s r => sendReq s (.stack w) r)
          (storeLoc s (some (0, w)) ag.ctx l ps e.toNat))

/-- Entry k of a warp's split stack, zero where it cannot be read. -/
def entGet (s : State) (w k : Nat) : BitVec 256 :=
  match entRead s [] w k with
  | .ok e => e
  | .error _ => 0

/-- Whether an entry that is popped or updated traps SPLIT: it lies in memory and is malformed (R139). -/
def entTraps (k : Nat) (e : BitVec 256) : Bool := decide (4 ≤ k) && entMalformed e

def setSsn (s : State) (w n : Nat) : State := setWarp s w { warpAt s w with ssn := n }
def setSlot (s : State) (w : Nat) (k : Which) (sl : Slot) : State := setWarp s w (withSlot (warpAt s w) k sl)

/-! ### Arrivals (R141) -/

/-- A path arrives when its PC equals its RJPC, or its mask is empty; a parked path has not moved on. -/
def arrives (sl : Slot) : Bool :=
  sl.live && sl.park.isNone && (sl.path.mask == 0 || (sl.path.pc == sl.path.rjpc && sl.path.rjpc != noRejoin))

/-- The path in slot k leaves it: steps 1 to 3 of R141. -/
def arriveAt (s : State) (fl : List (SubTile × Nat × Nat)) (w : Nat) (k : Which) : Except Unsettled State :=
  let p := (slotOf (warpAt s w) k).path
  let s := setSlot s w k Slot.free
  if p.depth = 0 then .ok s
  else
    let ix := p.depth - 1
    match entRead s fl w ix with
    | .error x => .error x
    | .ok e =>
      if entTraps ix e then .error (.bad 0x0B 2)
      else if entCnt e ≤ 1 then
        let joined := { entPath e with mask := entMask e &&& (warpAt s w).alive }
        .ok (setSlot (setSsn s w ((warpAt s w).ssn - 1)) w k (Slot.ofPath joined))
      else entPut s fl w ix (entMake 2 (entCnt e - 1) (entPath e))

/-- Step 4 of R141: a free slot takes the top entry when that is a PATH; a free slot that faces a JOIN stays free, and an
entry in memory that is neither is a malformed one that it pops. -/
def popInto (s : State) (fl : List (SubTile × Nat × Nat)) (w : Nat) (k : Which) :
    Except Unsettled (Option State) :=
  let n := (warpAt s w).ssn
  if n = 0 then .ok none
  else match entRead s fl w (n - 1) with
    | .error x => .error x
    | .ok e =>
      if entKind e = 2 then .ok none
      else if entTraps (n - 1) e then .error (.bad 0x0B 2)
      else if entKind e = 1 then .ok (some (setSlot (setSsn s w (n - 1)) w k (Slot.ofPath (entPath e))))
      else .ok none

/-- Carries out arrivals and pops, slot `k` first, until nothing more happens. A joined path that arrives at once does
so before any pop, and a pop fills slot `k` before the other (DESIGN CHOICE, unsafe: log entry 11: R141 states neither
order). -/
def settlePaths : Nat → State → List (SubTile × Nat × Nat) → Nat → Which → Except Unsettled State
  | 0, s, _, _, _ => .ok s
  | f + 1, s, fl, w, k =>
    let o := otherSlot k
    if arrives (slotOf (warpAt s w) k) then (arriveAt s fl w k).bind (fun s => settlePaths f s fl w k)
    else if arrives (slotOf (warpAt s w) o) then (arriveAt s fl w o).bind (fun s => settlePaths f s fl w k)
    else
      let r : Except Unsettled (Option State) :=
        if !(slotOf (warpAt s w) k).live then popInto s fl w k
        else if !(slotOf (warpAt s w) o).live then popInto s fl w o
        else .ok none
      match r with
      | .error x => .error x
      | .ok none => .ok s
      | .ok (some s) => settlePaths f s fl w k

/-- Fuel enough for every arrival and pop of a warp. -/
def settleFuel (s : State) (w : Nat) : Nat := 2 * (warpAt s w).ssn + 8

/-- The arrival check after a change of slot k. -/
def settle (s : State) (w : Nat) (k : Which) : Except Unsettled State :=
  settlePaths (settleFuel s w) s (slotOf (warpAt s w) k).failed w k

/-- Whether both slots are free and the split stack is empty: the warp has ended (R141). -/
def pathsDone (x : Warp) : Bool := !x.sa.live && !x.sb.live && x.ssn == 0

/-! ### Resuming a parked path (R146) -/

/-- The sub-tile of a mark that is not about a sub-tile: object 0 has no record (R235). -/
def noTile : SubTile := ⟨0, 0, 0, 0⟩

/-- A mark that makes the path's next issue trap with a cause and detail, at its PC. -/
def forcedTrap (cause detail : Nat) : SubTile × Nat × Nat := (noTile, cause, detail)

/-- The trap that a path's marks make its next issue take: a forced one, or an error that a service met (R242, R325).
Failed services (causes 7 and 8) trap at the access to their sub-tile. -/
def dueMark (sl : Slot) : Option (SubTile × Nat × Nat) :=
  sl.failed.find? (fun f => f.1 == noTile || (f.2.1 != 7 && f.2.1 != 8))

/-- The mark of a path that has no further instruction: its next fetch traps OOS (R28). -/
def lastMark : SubTile × Nat × Nat := forcedTrap 6 0

/-- Whether an offset is the last of an object: the PC does not go on from it (R28). -/
def pcLast (pc : DWord) : Bool := bits pc.toNat 0 42 == 2 ^ 42 - 8

/-- The PC of a slot goes on by 8 (R28). A fetch offset that would pass 2^42 - 8 is marked to trap OOS. -/
def stepOn (sl : Slot) : Slot :=
  if pcLast sl.path.pc then { sl with failed := [lastMark], turned := none }
  else { sl with path := { sl.path with pc := sl.path.pc + 8 }, turned := none }

/-- The PC of the instruction that a path went on from. -/
def pcBack (sl : Slot) : DWord := if sl.failed.contains lastMark then sl.path.pc else sl.path.pc - 8

/-- The path in a slot keeps waiting to resume. -/
def waitSlot (s : State) (w : Nat) (k : Which) (ts : List SubTile) : State :=
  setSlot s w k { slotOf (warpAt s w) k with park := some (.reissue (.residency ts)), stale := true }

/-- Resumes the path in a slot at the instruction after the one it parked at: its PC already names it. An entry that traps
on the way, a malformed one among them, traps at the parking instruction; one that the fault unit must serve, or that
another device holds or must let go, leaves the path waiting for that (DEDUCED, unsafe: log entry 11). -/
def resumeSlot (s : State) (w : Nat) (k : Which) : State :=
  let sl := slotOf (warpAt s w) k
  let s1 := setSlot s w k { sl with park := none, stale := true }
  match k with
  | .handler => s1
  | _ => match settle s1 w k with
    | .ok s2 => s2
    | .error (.bad c d) => trapBack s c d
    | .error (.wait ts) => askUnit (waitSlot s w k ts) (crewOf s w).tower ts
    | .error (.fetch ls) =>
      match fetchSet s (.warp w) ls with
      | (some (d :: _), s) => trapBack s (deadCause d.2) d.2
      | (_, s) => waitSlot s w k []
    | .error (.clear ls) => waitSlot (clearPeers s ls).2 w k []
where
  trapBack (s : State) (c d : Nat) : State :=
    let sl := slotOf (warpAt s w) k
    setSlot s w k { sl with
      park := none, stale := true, path := { sl.path with pc := pcBack sl }, failed := [forcedTrap c d] }

/-- Makes a path parked after its instruction issue that instruction again, to trap there. -/
def trapParked (s : State) (w : Nat) (k : Which) (cause detail : Nat) (back : Bool) : State :=
  let sl := slotOf (warpAt s w) k
  setSlot s w k { sl with
    park := none, stale := true,
    path := { sl.path with pc := if back then pcBack sl else sl.path.pc },
    failed := [forcedTrap cause detail] }

/-- Entries of a port that parked `xswap`s of a warp have taken: they keep their places until the swap (R146, R147). -/
def swapTook (x : Warp) (n : Nat) : Nat :=
  [x.sa, x.sb, x.hdl].countP (fun sl => sl.live && (match sl.park with
    | some (.xswap _ _ t) => t == some n
    | _ => false))

/-- Applies `f` to every parked path of the given warps. -/
def forParked (s : State) (ws : List Nat) (f : State → Nat → Which → Park → State) : State :=
  ws.foldl (fun s w => [Which.a, Which.b, Which.handler].foldl (fun s k =>
    match (slotOf (warpAt s w) k).live, (slotOf (warpAt s w) k).park with
    | true, some p => f s w k p
    | _, _ => s) s) s

/-- Resumes every parked path of the given warps whose park satisfies `p`. -/
def wakeWhere (s : State) (ws : List Nat) (p : Park → Bool) : State :=
  forParked s ws (fun s w k pk => if p pk then resumeSlot s w k else s)

/-! ### Named barriers (R149) -/

/-- Warps of a crew that have not ended. -/
def liveWarps (s : State) (c : Nat) : List Nat :=
  (crewAt s c).warps.filter (fun w => !pathsDone (warpAt s w))

/-- Completes the phase of barrier n when its arrivals reach the count. -/
def barTest (s : State) (c n : Nat) : State :=
  let x := crewAt s c
  let b := x.bars.getD n { arr := 0, exp := none, phase := false }
  match b.exp with
  | none => s
  | some e =>
    let need := if e = 0 then (liveWarps s c).length else e
    if b.arr < need then s
    else
      let s := setCrew s c { x with bars := x.bars.set n { arr := 0, exp := none, phase := !b.phase } }
      wakeWhere s x.warps (fun p => match p with
        | .bar m ph => m == n && ph == b.phase
        | _ => false)

/-- One arrival at barrier n that names the count `e`. -/
def barArrive (s : State) (c n e : Nat) : State :=
  let x := crewAt s c
  let b := x.bars.getD n { arr := 0, exp := none, phase := false }
  barTest (setCrew s c { x with bars := x.bars.set n { b with arr := b.arr + 1, exp := some e } }) c n

/-! ### Mbar objects (R150, R151) -/

def mbExp (e : Nat) : Nat := bits e 0 16
def mbPend (e : Nat) : Nat := bits e 16 16
def mbTx (e : Nat) : Int := sx 32 (bits e 32 32)
def mbPh (e : Nat) : Bool := bits e 64 1 == 1
def mbInit (e : Nat) : Bool := bits e 65 1 == 1
def mbGet (s : State) (c off : Nat) : Nat := memNat (crewAt s c).scr off 16

/-- Adds to TX, clamping and setting ERR where it leaves its range. -/
def mbAddTx (e : Nat) (d : Int) : Nat :=
  let t := mbTx e + d
  let lo : Int := -2147483648
  let hi : Int := 2147483647
  if t < lo then setBits (setBits e 32 32 0x80000000) 66 1 1
  else if hi < t then setBits (setBits e 32 32 0x7FFFFFFF) 66 1 1
  else setBits e 32 32 (intBits 32 t)

/-- Decreases PEND by 1, or sets ERR when it is 0. -/
def mbArr (e : Nat) : Nat :=
  if mbPend e = 0 then setBits e 66 1 1 else setBits e 16 16 (mbPend e - 1)

/-- The completion test after an update. -/
def mbDone (e : Nat) : Nat :=
  if mbPend e = 0 ∧ mbTx e = 0 then setBits (setBits e 64 1 (if mbPh e then 0 else 1)) 16 16 (mbExp e) else e

/-- An arrival and the completion test. An arrival that finds PEND = 0 sets ERR and changes neither PEND nor PH: no
phase completes by it (R151). -/
def mbArrive (e : Nat) : Nat := if mbPend e = 0 then mbArr e else mbDone (mbArr e)

/-- Stores an updated mbar object and resumes the paths parked on it whose parity its phase left. -/
def mbStore (s : State) (c off : Nat) (e : Nat) : State :=
  let x := crewAt s c
  let s := setCrew s c { x with scr := memPutNat x.scr off 16 e }
  wakeWhere s x.warps (fun p => match p with
    | .mbar o par => o == off && mbPh e != par
    | _ => false)

/-- An engine's arrival (R151, R168): whether INIT was 0, and the state after it. -/
def mbEngine (s : State) (c off bytes : Nat) (arrive : Bool) : Bool × State :=
  let e := mbGet s c off
  if !mbInit e then (true, s)
  else
    let e := mbAddTx e (-(bytes : Int))
    (false, mbStore s c off (if arrive then mbArrive e else mbDone e))

end Sys2Proof.Machine
end

