-- ==== Sys2Proof/Machine/Launch.lean ====
section
/-! DEFINITION. Handles, launches and crews as they end (R177 to R191, R376 to R386): the handle table, the
rings of frames and logs (R317, R336), breaking a comet with everything that depends on it, and resolving
a launch. -/

namespace Sys2Proof.Machine

/-! ### Rings (R317) -/

/-- Whether a log ring is full: WR - RD = 2^LOG. -/
def ringFull (wr rd lg : Nat) : Bool := (wr + 2 ^ 32 - rd % 2 ^ 32) % 2 ^ 32 == 2 ^ lg

def setCsr (x : Ctx) (n : Nat) (v : Nat) : Ctx := { x with csr := x.csr.set n (BitVec.ofNat 32 v) }

/-- Takes entries of a pool ring whose registers start at `n` until `ok` accepts one; the others are consumed and
discarded, and so is one that lies in a reserved range (R234, R317, R336, R384). -/
def poolTake : Nat → State → Nat → Nat → (Nat → Bool) → Option Nat × State
  | 0, s, _, _, _ => (none, s)
  | f + 1, s, c, n, ok =>
    match ctxGet s c with
    | none => (none, s)
    | some x =>
      let head := csrN x (n + 3)
      if head = csrN x (n + 4) then (none, s)
      else
        let base := bits (csrPair x n) 0 56
        let e := physGet s (base + 8 * (head % 2 ^ bits (csrN x (n + 2)) 0 5)) 8
        let s := ctxPut s c (setCsr x (n + 3) (head + 1))
        match e with
        | some e => if ok e then (some e, s) else poolTake f s c n ok
        | none => poolTake f s c n ok

/-- Fuel for a pool: the entries it can hold. -/
def poolFuel (s : State) (c n : Nat) : Nat :=
  match ctxGet s c with
  | none => 0
  | some x => (csrN x (n + 4) + 2 ^ 32 - csrN x (n + 3)) % 2 ^ 32

/-- The master ID of the master dispatcher (R357, R414). -/
def unitMaster (s : State) : Nat := 140 + s.disp.master

/-- Whether a save frame pool entry names a whole frame that memory holds (R336) and that the pool's access table lets
the dispatcher write (R414; DESIGN CHOICE, unsafe: log entry 24: the manual does not say what becomes of the entry of a
frame that the table denies; it is passed over). -/
def frameOk (s : State) (e : Nat) : Bool :=
  bits e 0 21 == 0 && bits e 56 8 == 0 && inOneRange s.plat (bits e 21 35 * 2 ^ 21) (2 ^ 21) &&
    mayAt s.plat .savePool (unitMaster s) 1

/-- Consumes the entries at the head of a save frame pool that name no frame (R317, R336). -/
def poolClean : Nat → State → Nat → State
  | 0, s, _ => s
  | f + 1, s, c =>
    match ctxGet s c with
    | none => s
    | some x =>
      let head := csrN x 0xA3
      let base := bits (csrPair x 0xA0) 0 56
      if head = csrN x 0xA4 then s
      else if (physGet s (base + 8 * (head % 2 ^ bits (csrN x 0xA2) 0 5)) 8).any (frameOk s) then s
      else poolClean f (ctxPut s c (setCsr x 0xA3 (head + 1))) c

/-- Writes one save log entry, or holds it while the log is full (R336). -/
def saveLog (s : State) (c kind frame : Nat) (h : DWord) : State :=
  match ctxGet s c with
  | none => s
  | some x =>
    let e : BitVec 128 := BitVec.ofNat 128 (frame + 2 ^ 56 * kind + 2 ^ 64 * h.toNat)
    let wr := csrN x 0xAB
    let lg := bits (csrN x 0xAA) 0 5
    if !x.slHeld.isEmpty || ringFull wr (csrN x 0xAC) lg then ctxPut s c { x with slHeld := x.slHeld ++ [e] }
    else
      let s := physPut s (bits (csrPair x 0xA8) 0 56 + 16 * (wr % 2 ^ lg)) 16 e.toNat
      raiseMsix (ctxPut s c (setCsr x 0xAB (wr + 1))) (ctxFunc s c) 1

/-- Writes held save log entries as space allows, in the order in which they fell due (R336). -/
def saveLogFlush (s : State) (c : Nat) : State :=
  match ctxGet s c with
  | none => s
  | some x => x.slHeld.foldl (fun s e =>
      saveLog s c (bits e.toNat 56 2) (bits e.toNat 0 56) (BitVec.ofNat 64 (bits e.toNat 64 64)))
      (ctxPut s c { x with slHeld := [] })

/-- Whether the save log has no room, so that no request is raised and no restore begins (R336). -/
def saveLogFull (s : State) (c : Nat) : Bool :=
  match ctxGet s c with
  | none => true
  | some x => !x.slHeld.isEmpty || ringFull (csrN x 0xAB) (csrN x 0xAC) (bits (csrN x 0xAA) 0 5)

/-- Takes a save frame from a context's pool (R330). -/
def takeFrame (s : State) (c : Nat) : Option Nat × State :=
  let r := poolTake (poolFuel s c 0xA0) s c 0xA0 (frameOk s)
  (r.1.map (fun e => bits e 21 35 * 2 ^ 21), r.2)

/-! ### The handle table (R376) -/

/-- The entry of a handle that a context may use; none when the handle is INVALID (R178). -/
def entValid (s : State) (ctx : Nat) (h : DWord) : Option HEnt :=
  match entFind s h with
  | some e => if e.ctx = ctx ∧ hKind h < 2 then some e else none
  | none => none

def setEnts (s : State) (es : List HEnt) : State := { s with disp := { s.disp with ents := es } }

/-- Changes the entry of a serial number. -/
def putEnt (s : State) (serial : Nat) (f : HEnt → HEnt) : State :=
  setEnts s (s.disp.ents.map (fun e => if e.serial == serial then f e else e))

/-- The status word of R178. -/
def statusWord (e : HEnt) : Nat :=
  e.state + (if e.arverr then 8 else 0) + (if e.state = 4 then 2 ^ 8 * e.code + 2 ^ 16 * e.detail else 0)

/-- The entry of a handle of this device, as a report. -/
def entReport (e : HEnt) (h : DWord) : HandleReport :=
  ⟨h, e.state, e.dev, e.code, e.detail, e.result, e.origin, e.up, e.ocode, e.odetail, e.arverr, e.refs, e.ctx, none⟩

/-- The report of an INVALID handle. -/
def invalidReport (h : DWord) : HandleReport := ⟨h, 7, 0, 0, 0, 0, 0, 0, 0, 0, false, 0, 0, none⟩

/-- The status word of R178. -/
def reportStatus (r : HandleReport) : Nat :=
  r.state + (if r.arverr then 8 else 0) + (if r.state = 4 then 2 ^ 8 * r.code + 2 ^ 16 * r.detail else 0)

/-- Allocates the lowest serial above every issued one whose entry is free (R377); none when full. -/
def freeSerial (es : List HEnt) : Nat → Nat → Option Nat
  | 0, _ => none
  | f + 1, n => if es.any (fun e => e.serial % Config.handleEntries == n % Config.handleEntries)
      then freeSerial es f (n + 1) else some n

def newEnt (serial state dev ctx kind : Nat) : HEnt :=
  { serial := serial, state := state, dev := dev, ctx := ctx, kind := kind, moving := false, refs := 1,
    code := 0, detail := 0, ocode := 0, odetail := 0, result := 0, origin := 0, up := 0, aseq := 0,
    msgs := [], subs := [], ovf := [], ovfSubs := [], ntf := none, arverr := false }

/-- Allocates a handle (R377): the handle, and the state that holds its entry. -/
def allocHandle (s : State) (state dev ctx kind : Nat) (ntf : Option Nat) : Option (DWord × State) :=
  if Config.handleEntries ≤ s.disp.ents.length then none
  else match freeSerial s.disp.ents (s.disp.ents.length + 1) s.disp.serial with
    | none => none
    | some n => some (handleMake n s.plat.devnum kind,
        { s with disp := { s.disp with
            serial := n + 1
            ents := s.disp.ents ++ [{ newEnt n state dev ctx kind with ntf := ntf }] } })

/-- Whether the handle table has no free entry (R377). -/
def tableFull (s : State) : Bool := decide (Config.handleEntries ≤ s.disp.ents.length)

/-- The dependence handles of a launch record, null ones left out, and the comet of a message (R172, R381). -/
def launchDeps (l : Launch) : List DWord :=
  (((List.range 4).map (fun k => BitVec.ofNat 64 (recBits l.record (640 + 64 * k) 64))).filter (· ≠ 0)) ++
  (match l.comet with | some h => [h] | none => [])

/-- Whether a path of a warp is parked on a handle in `hwait`. -/
def warpWaits (h : DWord) (x : Warp) : Bool :=
  [x.sa, x.sb, x.hdl].any (fun sl => sl.live && match sl.park with
    | some (.hwait g _) => g == h
    | _ => false)

/-- Whether a path is parked on a handle in `hwait`, in a crew that is here or one that is saved (R179). -/
def hwaitParked (s : State) (h : DWord) : Bool :=
  s.warps.any (warpWaits h) || s.launches.any (fun l => l.saved.any (fun k => k.warps.any (warpWaits h)))

/-- The messages that are on their way to their launch queues here: held for their comet, waiting for their queue, in
its ring, or sent by this device to itself. -/
def messagesHere (s : State) : List LaunchMsg :=
  s.disp.heldMsgs ++ s.queues.flatMap (fun q => q.wait ++ q.ring.map (·.msg)) ++
  s.outbox.filterMap (fun o => match o.out with
    | .message _ m => some m
    | .forward _ m => some m
    | _ => none)

/-- References of the dispatcher that the count does not show (R179, R382). A message keeps the entry of its comet from
the time it is sent until it is a launch, so that it can depend on the comet and read its RESULT (R381; DEDUCED,
unsafe: log entry 21). -/
def hiddenRefs (s : State) (h : DWord) : Bool :=
  s.launches.any (fun l => l.state == .pending && (launchDeps l).contains h) ||
  (messagesHere s).any (fun m => m.comet == some h) ||
  s.launches.any (fun l => l.h == h && !(l.state == .done || l.state == .broken)) ||
  s.coll.cmds.any (fun c => c.live && c.h == h)

/-- Reclaims the entries that are resolved, unreferenced and not waited for (R179). -/
def reclaim (s : State) : State :=
  setEnts s (s.disp.ents.filter (fun e =>
    let h := handleMake e.serial s.plat.devnum e.kind
    !((e.state == 3 || e.state == 4) && e.refs == 0 && e.msgs.isEmpty && e.ovf.isEmpty &&
      !hwaitParked s h && !hiddenRefs s h)))

/-! ### Records for q6 and q7 (R148, R388) -/

/-- Places a record behind those that wait for a port of a saved warp: it enters once the crew is restored (R148,
R388). -/
def savedRecord (s : State) (x : Warp) (q7 : Bool) (r : BitVec 128) : State :=
  { s with launches := s.launches.map (fun l => { l with saved := l.saved.map (fun k =>
      if k.crew == x.crew then { k with warps := k.warps.map (fun y =>
        if y.wid == x.wid && !pathsDone y then
          (if q7 then { y with w7 := y.w7 ++ [r] } else { y with w6 := y.w6 ++ [r] })
        else y) }
      else k) }) }

/-- Places a record in a warp's port, or lets it wait while the port holds 16 (R148). -/
def portRecord (s : State) (w : Nat) (q7 : Bool) (r : BitVec 128) : State :=
  let x := warpAt s w
  if x.gone then savedRecord s x q7 r
  else if pathsDone x then s
  else if q7 then
    (if x.w7.isEmpty && decide (x.q7.length + swapTook x 7 < 16) then setWarp s w { x with q7 := x.q7 ++ [r] }
     else setWarp s w { x with w7 := x.w7 ++ [r] })
  else
    (if x.w6.isEmpty && decide (x.q6.length + swapTook x 6 < 16) then setWarp s w { x with q6 := x.q6 ++ [r] }
     else setWarp s w { x with w6 := x.w6 ++ [r] })

/-- The record that tells a warp of the resolution of a handle, with its status word (R388). -/
def tellWarp (s : State) (w : Nat) (h : DWord) (status : Nat) : State :=
  portRecord s w true (BitVec.ofNat 128 (status + 2 ^ 32 * (if hKind h = 1 then 2 else 1) + 2 ^ 64 * h.toNat))

/-- The notification of a resolved handle (R388). -/
def notify (s : State) (e : HEnt) (h : DWord) : State :=
  match e.ntf with
  | none => s
  | some w => tellWarp s w h (statusWord e)

/-- Whether a result goes to a queue port (R147). -/
def Dest.toPort (d : Dest) : Bool :=
  !d.h.w && match d.d with
    | .q _ => true
    | _ => false

/-- A path parked in `hwait` is given its status word: it goes to D and the latch, and the path resumes; a word that
goes to a port waits for its room there (R147, R195). -/
def giveStatus (s : State) (w : Nat) (k : Which) (h : DWord) (dst : Dest) (status : Nat) : State :=
  if dst.toPort then
    setSlot s w k { slotOf (warpAt s w) k with park := some (.handed h dst (BitVec.ofNat 32 status)) }
  else resumeSlot (setWarp s w (writeDest (warpAt s w) dst 1 (fun _ => status))) w k

/-- Resumes the paths that wait for a handle, writing its status word (R195). -/
def wakeHwait (s : State) (h : DWord) (status : Nat) : State :=
  forParked s (List.range s.warps.length) (fun s w k pk => match pk with
    | .hwait g dst => if g = h then giveStatus s w k h dst status else s
    | _ => s)

/-! ### Crews that end (R134, R219, R299) -/

/-- A warp whose lanes have all ended. -/
def deadWarp (x : Warp) : Warp :=
  { x with sa := Slot.free, sb := Slot.free, hdl := Slot.free, ssn := 0, alive := 0, cur := none, tq := [],
           bands := List.replicate 4 0, w6 := [], w7 := [], mode := .user, halt := .no }

/-- What breaks: the handle, its code and detail, and its origin (R376, R386). -/
structure Brk where
  h       : DWord
  code    : Nat
  detail  : Nat
  origin  : DWord
  up      : DWord
  ocode   : Nat
  odetail : Nat
  deriving DecidableEq, Repr

/-- A break of a handle's own (R386). -/
def Brk.own (h : DWord) (code detail : Nat) : Brk := ⟨h, code, detail, h, 0, code, detail⟩

/-- A break because of another handle's break (R386). -/
def Brk.upstream (h : DWord) (b : Brk) : Brk := ⟨h, 3, 0, b.origin, b.h, b.ocode, b.odetail⟩

/-- The partner crew of a PAIR launch's crew (R187). -/
def partnerLin (lin : Nat) : Nat := if lin % 2 = 0 then lin + 1 else lin - 1

/-- The path in a slot is parked in an `xswap` that will not complete here: the entry that its A has come from is at the
head of its port again, since the instruction has had no effect (R32, R146, R157). The path stays parked. -/
def giveBack (s : State) (w : Nat) (k : Which) : State :=
  let x := warpAt s w
  match (slotOf x k).park with
  | some (.xswap d a (some n)) =>
    let s := setSlot s w k { slotOf x k with park := some (.xswap d a none) }
    let x := warpAt s w
    if n < 6 then
      let c := crewAt s x.crew
      let ch := c.chans.getD n { bound := false, prod := 0, cons := 0, depth := 0, entries := [] }
      setCrew s x.crew { c with chans := c.chans.set n { ch with entries := a :: ch.entries } }
    else
      let r := BitVec.ofNat 128 ((List.range 4).foldl (fun acc j => acc + 2 ^ (32 * j) * (a.getD j 0).toNat) 0)
      setWarp s w (if n = 6 then { x with q6 := r :: x.q6 } else { x with q7 := r :: x.q7 })
  | _ => s

/-- Every `xswap` of a warp that waits gives its entry back. -/
def giveBackAll (s : State) (w : Nat) : State := giveBack (giveBack (giveBack s w .a) w .b) w .handler

/-- Makes paths parked in `xswap` of the partner of warp w trap QUEUE with detail 6 (R157). -/
def xswapEnded (s : State) (w : Nat) : State :=
  let x := warpAt s w
  let c := crewAt s x.crew
  forParked s (List.range s.warps.length) (fun s v k pk => match pk with
    | .xswap _ _ _ =>
      let y := warpAt s v
      let d := crewAt s y.crew
      if d.launch = c.launch ∧ d.lin = partnerLin c.lin ∧ y.wid = x.wid ∧ !d.gone then
        trapParked (giveBack s v k) v k 0x0D 6 false else s
    | _ => s)

/-- What happens when the last lane of a warp ends (R103, R149, R201, R157). -/
def warpEnded (s : State) (w : Nat) : State :=
  let c := (warpAt s w).crew
  let s := setWarp s w { warpAt s w with alive := 0, bands := List.replicate 4 0, w6 := [], w7 := [] }
  let s := (List.range 16).foldl (fun s n => match ((crewAt s c).bars.getD n
      { arr := 0, exp := none, phase := false }).exp with
    | some 0 => barTest s c n
    | _ => s) s
  xswapEnded s w

/-- Releases the frames that a crew holds for a save that will not happen (R330, R182). -/
def releaseFrames (s : State) (c : Nat) : State :=
  let x := crewAt s c
  let s := match x.frame with
    | some f => saveLog s x.ctx 3 f x.launch
    | none => s
  let s := match x.reserve with
    | some f => if x.frame = some f then s else saveLog s x.ctx 3 f x.launch
    | none => s
  setCrew s c { crewAt s c with frame := none, reserve := none, req := none }

/-- NRANK, RANK and DEVR of a communicator copy whose words are given; none when it breaks its layout (R389). -/
def commParse (ws : List Nat) : Option (Nat × Nat × List Nat) :=
  let w0 := ws.getD 0 0
  let n := bits w0 0 14
  let rank := bits w0 16 13
  let hs := (List.range n).map (fun r => bits (ws.getD (4 + r / 2) 0) (16 * (r % 2)) 16)
  if bits w0 14 2 ≠ 0 ∨ bits w0 29 3 ≠ 0 ∨ ws.getD 2 0 ≠ 0 ∨ ws.getD 3 0 ≠ 0 ∨ n = 0 ∨ 8192 < n ∨ n ≤ rank ∨
      hs.any (fun h => decide (8192 ≤ h)) ∨ !decide hs.Nodup then none
  else some (n, rank, hs)

/-- Words in a communicator copy of n ranks. -/
def commWords (n : Nat) : Nat := 4 + (n + 1) / 2

/-- A word of a communicator copy: none while its sub-tile or its line is still to come, and nothing where it cannot be
read. -/
def commPeek (s : State) (ag : Agent) (obj k : Nat) : Option (Option Nat) :=
  match checkShape s ag obj (k : Nat) 32 ⟨some .r, false, false⟩ with
  | .error _ => some none
  | .ok l =>
    let f := findAll s ag l false
    if f.bad.isSome || f.pieces.any (piecePoisoned s) then some none
    else if !f.units.isEmpty || !(farLines ag.ctx obj f.pieces).all (fun q =>
        (peerLine s q.dev q.line).isSome && !lineOpen s q.dev q.line) then none
    else some (some (readAll s (ag.args.getD []) f.pieces))

/-- The agent of a collective command (R240, R414). -/
def collAgent (s : State) (k : CollCmd) : Agent :=
  { warpAgent s k.warp with ctx := k.key.ctx, master := 208, failed := k.failed }

/-- The members of a collective: those of its shape, or of its communicator copy when that has not been read; none while
the copy is still to come. -/
def collDevs (s : State) (k : CollCmd) : Option (List Nat) :=
  if k.shape.nrank ≠ 0 then some k.shape.devr
  else
    let get := commPeek s (collAgent s k) k.key.obj
    match get 0 with
    | none => none
    | some none => some []
    | some (some w0) =>
      let ws := (List.range (commWords (bits w0 0 14))).map get
      if ws.contains (some none) then some []
      else if ws.contains none then none
      else match commParse (ws.map (fun w => (w.getD none).getD 0)) with
        | some (_, _, ds) => some ds
        | none => some []

/-- Sends an ABANDON to other devices. -/
def tellAbandon (s : State) (c : CollCmd) (code detail : Nat) (ds : List Nat) : State :=
  (ds.filter (· ≠ s.plat.devnum)).foldl (fun s d => send s (.abandon d ⟨c.key, c.h, code, detail⟩)) s

/-- Sends an ABANDON to every other member of a collective, or notes that it is owed until the communicator copy has been
read (R396). -/
def sendAbandon (s : State) (c : CollCmd) (code detail : Nat) : State :=
  match collDevs s c with
  | some ds => tellAbandon s c code detail ds
  | none => { s with coll := { s.coll with cmds := s.coll.cmds.map (fun k =>
      if k.h == c.h then { k with owes := some (code, detail) } else k) } }

/-- The collectives of crews that end before they are complete: an ABANDON each, and the breaks (R396). -/
def abandonColls (s : State) (cs : List Nat) : State × List Brk :=
  let mine := s.coll.cmds.filter (fun k => k.live && cs.contains k.crew && k.phase != 2)
  let s := mine.foldl (fun s k => sendAbandon s k 4 0) s
  ({ s with coll := { s.coll with cmds := s.coll.cmds.map (fun k =>
      if k.live && cs.contains k.crew && k.phase != 2 then { k with live := false } else k) } },
    mine.map (fun k => Brk.own k.h 4 0))

/-- The requests of owners that exist no more: an answered one is finished with, and the others stay outstanding for
nobody (R359, R369). -/
def dropOwners (s : State) (p : Owner → Bool) : State :=
  { s with fab := { s.fab with reqs := (s.fab.reqs.filter (fun o => !(p o.owner && reqOver o))).map (fun o =>
      if p o.owner then { o with owner := .lost } else o) } }

/-- Whether a request was sent for a crew: by a warp of it, or for one of its copy or engine commands. -/
def crewOwns (s : State) (c : Nat) : Owner → Bool
  | .warp w => (crewAt s c).warps.contains w
  | .copy d _ _ => d == c
  | .engine d _ => d == c
  | .coll h => s.coll.cmds.any (fun k => k.h == h && k.crew == c)
  | .unit _ => false
  | .stack w => (crewAt s c).warps.contains w
  | .lost => false

/-- Ends a crew by a trap handler, a break or the dispatcher (R219, R299, R396): its engine and copy
commands are discarded, and a contributor abandons a collective that is not complete. -/
def endCrew (s : State) (c : Nat) : State × List Brk :=
  let x := crewAt s c
  if x.gone then (s, [])
  else
    let away := abandonColls s [c]
    let s := { away.1 with copies := away.1.copies.filter (fun k => k.crew != c) }
    let s := releaseFrames (dropOwners s (crewOwns s c)) c
    let s := x.warps.foldl (fun s w => xswapEnded (setWarp s w { deadWarp (warpAt s w) with gone := true }) w) s
    (setCrew s c { crewAt s c with eng := [], gone := true }, away.2)

/-! ### The replayed order log (R278, R280) -/

/-- The agent of the order log's own accesses (R414: it has the master ID of Damosk's units; DESIGN CHOICE: log entry
14); `fl` are the marks of the path whose event it is. -/
def olAgent (ctx : Nat) (fl : List (SubTile × Nat × Nat)) : Agent :=
  { ctx := ctx, tower := none, args := none, master := 209, failed := fl }

/-- Where record n of a context's order log lies, when the log object has it. -/
def olLoc (s : State) (ag : Agent) (x : Ctx) (n : Nat) : Option Loc :=
  let obj := bits (csrPair x 0x070) 42 22
  match recordOf s ag obj 0 with
  | .error _ => none
  | .ok r => if storageBound r < (n + 1) * 256 then none else some ⟨r, obj, 32 * n, 256 * n, 256⟩

/-- Record n of a context's order log; none when it cannot be read. -/
def olRead (s : State) (ag : Agent) (x : Ctx) (n : Nat) : Option Nat :=
  match olLoc s ag x n with
  | none => none
  | some l =>
    let f := findAll s ag l false
    if f.bad.isSome || !f.units.isEmpty then none else some (readAll s [] f.pieces)

/-- The lines of other devices that hold records of a replayed log and are not here. -/
def olFar (s : State) (ag : Agent) (x : Ctx) : List LineRef :=
  ((List.range ((csrN x 0x072 + 3) / 4)).flatMap (fun k => match olLoc s ag x (4 * k) with
    | some l => farLines ag.ctx l.obj (findAll s ag l false).pieces
    | none => [])).filter (fun q => !((peerLine s q.dev q.line).isSome && !lineOpen s q.dev q.line))

/-- The sub-tiles of a replayed log that the fault unit must serve before its records can be read. -/
def olUnits (s : State) (ag : Agent) (x : Ctx) : List SubTile :=
  let sub := fun (n : Nat) => match olLoc s ag x n with
    | some l => (findAll s ag l false).units
    | none => []
  ((List.range ((csrN x 0x072 + 2047) / 2048)).flatMap (fun k => sub (2048 * k)))

/-- The records of a replayed log that no event has taken yet, with their positions (R280). -/
def olLeft (s : State) (ag : Agent) (x : Ctx) : List (Nat × Nat) :=
  ((List.range (csrN x 0x072)).filter (fun n => !x.replayed.contains n)).filterMap (fun n =>
    match olRead s ag x n with
    | some r => if bits r 0 3 = 0 ∨ 4 < bits r 0 3 then none else some (n, r)
    | none => none)

/-- Whether the events of a context are replayed, so that they may have to wait for their turn (R280). -/
def Ctx.replays (x : Ctx) : Bool := bits (csrN x 0x074) 0 2 == 2 && bits (csrN x 0x074) 9 1 == 0

/-- A launch ends in replay: its entries are looked for in the log (R280). -/
def mismEnd (s : State) (h : DWord) : State :=
  match launchOf s h with
  | none => s
  | some l => match ctxGet s l.ctx with
    | none => s
    | some x => if x.replays then ctxPut s l.ctx { x with olEnded := x.olEnded ++ [(l.queue, l.lseq)] } else s

/-- Whether an unperformed entry of the replayed log names a launch that has ended (R280). -/
def olNames (s : State) (ag : Agent) (x : Ctx) : Bool :=
  (olLeft s ag x).any (fun e => bits e.2 0 3 != 3 && x.olEnded.contains (bits e.2 8 8, bits e.2 16 32))

/-! ### Breaking (R386) -/

/-- A break as a report; its state is set by the caller. -/
def Brk.report (b : Brk) (dev : Nat) : HandleReport :=
  ⟨b.h, 0, dev, b.code, b.detail, 0, b.origin, b.up, b.ocode, b.odetail, false, 0, 0, none⟩

/-- What is known of a handle of another home, for one context. -/
def knownOf (s : State) (ctx : Nat) (h : DWord) : Option Remote :=
  s.disp.known.find? (fun k => k.rep.handle == h && k.ctx == ctx)

/-- Enters what is known of a handle of another home. -/
def putKnown (s : State) (k : Remote) : State :=
  { s with disp := { s.disp with known :=
    (s.disp.known.filter (fun j => !(j.rep.handle == k.rep.handle && j.ctx == k.ctx))) ++ [k] } }

/-- What is known of a handle of another home, or that nothing is. -/
def knownOr (s : State) (ctx : Nat) (h : DWord) : Remote :=
  (knownOf s ctx h).getD ⟨ctx, { invalidReport h with state := 8 }, []⟩

/-- Enters the state of a handle of another home, for one context. -/
def knowReport (s : State) (ctx : Nat) (r : HandleReport) : State :=
  putKnown s { knownOr s ctx r.handle with rep := r }

/-- The context of a launch or held message of this device. -/
def brkCtx (s : State) (h : DWord) : Nat :=
  match launchOf s h with
  | some l => l.ctx
  | none => (((messagesHere s).find? (fun m => m.handle == h)).map (·.ctx)).getD 0

/-- Sends the home of a handle a report of its state (R378). -/
def reportHome (s : State) (b : Brk) (state : Nat) (result : DWord) : State :=
  if ownHome s b.h then s
  else send s (.report (hHome b.h) { b.report s.plat.devnum with state := state, result := result })

/-- The launches and messages here that depend on a handle and are not resolved. -/
def dependents (s : State) (h : DWord) : List DWord :=
  ((s.launches.filter (fun l => !(l.state == .done || l.state == .broken) &&
      (launchDeps l).contains h)).map (·.h)) ++
  ((s.disp.heldMsgs.filter (fun m => m.comet == some h)).map (·.handle))

/-- Ends the crews of a launch that breaks here, and drops its records that wait for a queue. -/
def stopLaunch (s : State) (h : DWord) : State × List Brk :=
  match launchOf s h with
  | none => (s, [])
  | some l =>
    let s := mismEnd (l.saved.foldl (fun s k => saveLog s l.ctx 3 k.frame h) s) h
    let away := abandonColls s (l.saved.map (·.crew))
    let s := putLaunch away.1 h (fun l => { l with state := .broken, saved := [], redo := [] })
    (List.range s.crews.length).foldl (fun (acc : State × List Brk) c =>
      if (crewAt acc.1 c).launch = h ∧ !(crewAt acc.1 c).gone then
        let r := endCrew acc.1 c
        (r.1, acc.2 ++ r.2) else acc) (s, away.2)

/-- Breaks one handle: the entry or the report to its home, the launch that runs here, and what breaks
with it (R386). -/
def breakOne (s : State) (b : Brk) : State × List Brk :=
  let final := match entFind s b.h with
    | some e => e.state == 3 || e.state == 4
    | none => ownHome s b.h || s.disp.known.any (fun r => r.rep.handle == b.h && (r.rep.state == 3 || r.rep.state == 4))
  if final then (s, [])
  else
    let ent := entFind s b.h
    let msgs : List DWord := match ent with
      | some e => (e.msgs ++ e.ovf.map (·.2)).map (·.handle)
      | none => []
    let ovf : List Nat := match ent with
      | some e => e.ovf.map (·.1) ++ e.ovfSubs.map (·.1)
      | none => []
    let s := match ent with
      | none =>
        let s := knowReport s (brkCtx s b.h) { b.report s.plat.devnum with state := 4 }
        reportHome s b 4 0
      | some e =>
        let e' := { e with state := 4, dev := s.plat.devnum, code := b.code, detail := b.detail,
                           ocode := b.ocode, odetail := b.odetail, origin := b.origin,
                           up := if b.code = 3 then b.up else 0, msgs := [], ovf := [], subs := [], ovfSubs := [] }
        let s := putEnt s e.serial (fun _ => e')
        let n : Notice := ⟨b.h, b.origin, b.ocode, b.odetail⟩
        let s := if e.dev = s.plat.devnum then s else send s (.notice e.dev n)
        let s := (e.subs ++ e.ovfSubs.map (·.2)).foldl (fun s d => send (send s (.notice d n)) (.report d (entReport e' b.h))) s
        let s := ovf.foldl (fun s a => saveLog s e.ctx 0 a b.h) s
        wakeHwait (notify s e' b.h) b.h (statusWord e')
    let ds := dependents s b.h
    let s := { s with disp := { s.disp with
      heldMsgs := s.disp.heldMsgs.filter (fun m => m.comet != some b.h && m.handle != b.h) } }
    let r := stopLaunch s b.h
    (r.1, r.2 ++ (msgs ++ ds).map (fun h => Brk.upstream h b))

/-- Breaks a list of handles and everything that breaks with them. -/
def breakAll : Nat → List Brk → State → State
  | 0, _, s => s
  | _, [], s => s
  | f + 1, b :: bs, s =>
    let r := breakOne s b
    breakAll f (bs ++ r.2) r.1

/-- Fuel for `breakAll`: every handle breaks at most once. -/
def breakFuel (s : State) : Nat :=
  4 * (s.launches.length + s.disp.ents.length + s.disp.heldMsgs.length + s.disp.known.length +
    s.coll.cmds.length + (messagesHere s).length + 8)

/-- Breaks handles, then reclaims entries that nothing holds (R179, R386). -/
def breakHandles (s : State) (bs : List Brk) : State := reclaim (breakAll (breakFuel s) bs s)

/-- A launch breaks with a code and detail of its own. -/
def breakLaunch (s : State) (h : DWord) (code detail : Nat) : State := breakHandles s [Brk.own h code detail]

/-! ### States of a launch (R178, R181, R378) -/

/-- What this device knows of the state of a handle: 7 for INVALID, 8 for nothing yet. -/
def handleState (s : State) (ctx : Nat) (h : DWord) : Nat :=
  if ownHome s h then (match entValid s ctx h with | some e => e.state | none => 7)
  else match knownOf s ctx h with
    | some r => r.rep.state
    | none => 8

/-- The break that a BROKEN dependence carries on (R386). -/
def brkOf (s : State) (ctx : Nat) (h : DWord) : Brk :=
  match entFind s h with
  | some e => ⟨h, e.code, e.detail, e.origin, e.up, e.ocode, e.odetail⟩
  | none => match knownOf s ctx h with
    | some r => ⟨h, 0, 0, r.rep.origin, 0, r.rep.ocode, r.rep.odetail⟩
    | none => ⟨h, 0, 0, h, 0, 0, 0⟩

/-- Enters the new state of a launch: in its entry here, or by a report to its home (R378). -/
def setLState (s : State) (h : DWord) (st : LState) (code : Nat) : State :=
  let s := putLaunch s h (fun l => { l with state := st, since := if st == .placed then s.now else l.since })
  match entFind s h with
  | some e => if e.state < code then putEnt s e.serial (fun e => { e with state := code, dev := s.plat.devnum }) else s
  | none => reportHome s (Brk.own h 0 0) code 0

/-- Forwards the messages that a comet's entry holds to the running device, in acceptance order (R382). -/
def forwardHeld (s : State) (h : DWord) : State :=
  match entFind s h with
  | none => s
  | some e =>
    if e.moving then s
    else
      let all : List LaunchMsg := e.msgs ++ e.ovf.map (·.2)
      let s := putEnt s e.serial (fun e => { e with msgs := [], ovf := [] })
      let s := e.ovf.foldl (fun s o => saveLog s e.ctx 0 o.1 h) s
      if e.dev = s.plat.devnum then { s with disp := { s.disp with heldMsgs := s.disp.heldMsgs ++ all } }
      else all.foldl (fun s m => send s (.forward e.dev m)) s

/-- Messages held here whose comet is DONE enter their launch queues, in acceptance order (R382). -/
def enterMessages (s : State) : State :=
  let ready := s.disp.heldMsgs.filter (fun m => match m.comet with
    | some h => handleState s m.ctx h == 3
    | none => true)
  let s := { s with disp := { s.disp with heldMsgs := s.disp.heldMsgs.filter (fun m => !ready.contains m) } }
  ready.foldl (fun s m =>
    let q := s.queues.getD m.queue Queue.zero
    if q.owner ≠ m.ctx ∨ (ctxGet s m.ctx).isNone then breakLaunch s m.handle 1 10
    else { s with queues := s.queues.set m.queue { q with wait := q.wait ++ [m] } }) s

/-- Resolves a launch of this device to DONE (R191, R378, R382). -/
def resolveDone (s : State) (h : DWord) : State :=
  match launchOf s h with
  | none => s
  | some l =>
    let s := mismEnd (putLaunch s h (fun l => { l with state := .done })) h
    let res := BitVec.ofNat 64 (recBits l.record 896 64)
    let s := match entFind s h with
      | none => reportHome (knowReport s l.ctx { (Brk.own h 0 0).report s.plat.devnum with state := 3, result := res })
          (Brk.own h 0 0) 3 res
      | some e =>
        let e' := { e with state := 3, dev := s.plat.devnum, result := res, subs := [], ovfSubs := [] }
        let s := putEnt s e.serial (fun _ => e')
        let s := (e.subs ++ e.ovfSubs.map (·.2)).foldl (fun s d => send s (.report d (entReport e' h))) s
        let s := e.ovfSubs.foldl (fun s o => saveLog s e.ctx 0 o.1 h) s
        forwardHeld (wakeHwait (notify s e' h) h (statusWord e')) h
    reclaim (enterMessages s)

/-- Whether the dependences of a PENDING launch allow placement (R181, R182, R381). -/
def depsReady (s : State) (l : Launch) : Bool :=
  (launchDeps l).all (fun h =>
    let st := handleState s l.ctx h
    st == 3 || (st == 2 && recBits l.record 243 8 != 0 && l.comet.isNone))

/-- One pass over the launches: a broken dependence breaks a launch, and ready ones become PLACED, with the messages that
their entries hold (R181, R382). -/
def advanceOnce (s : State) : State :=
  s.launches.foldl (fun s l0 => match launchOf s l0.h with
    | none => s
    | some l =>
      if l.state == .done || l.state == .broken then s
      else match (launchDeps l).find? (fun h => handleState s l.ctx h == 4) with
        | some h => breakHandles s [Brk.upstream l.h (brkOf s l.ctx h)]
        | none => if l.state == .pending && depsReady s l then forwardHeld (setLState s l.h .placed 1) l.h else s) s

/-- Carries dependences through every launch (R181). -/
def advanceLaunches : Nat → State → State
  | 0, s => s
  | f + 1, s => advanceLaunches f (advanceOnce s)

/-- The launches after a state change that others may depend on, and the handles that nothing holds any more (R179). -/
def settleLaunches (s : State) : State := reclaim (advanceLaunches (s.launches.length + 1) (enterMessages s))

end Sys2Proof.Machine
end

