-- ==== Sys2Proof/Machine/Ops.lean ====
section
/-! DEFINITION. The operations every meaning is written over: the issuing path, taking a trap (R305 to R312)
and returning from one (R321), parking, advancing the PC, halting for the debugger (R326, R327), and the
order log (R277 to R280). -/

namespace Sys2Proof.Machine

/-! ### The issuing path -/

/-- The issuing path as it stands before the instruction. -/
structure Env where
  w     : Nat
  which : Which
  x     : Warp
  sl    : Slot
  c     : Nat
  cr    : Crew
  deriving DecidableEq, Repr

def envOf (s : State) (c : Cur) : Env :=
  let x := warpAt s c.w
  { w := c.w, which := c.which, x := x, sl := slotOf x c.which, c := x.crew, cr := crewAt s x.crew }

/-- The PC of the issuing instruction. -/
def Env.pc (e : Env) : DWord := e.sl.path.pc
/-- `active` of the pseudocode: the issuing slot's mask (R131). -/
def Env.mask (e : Env) : Mask := e.sl.path.mask
/-- Whether the warp runs its handler (R15). -/
def Env.sup (e : Env) : Bool := e.x.mode == .supervisor

/-- The lanes that take part (R29, R131). -/
def taking (e : Env) (g : Guard) : Mask :=
  e.mask &&& (if g.neg then ~~~(predMask e.x g.p) else predMask e.x g.p)

/-! ### Traps (R305 to R312) -/

/-- A trap as an instruction raises it: cause, lanes, address, detail. -/
structure Raise where
  cause  : Nat
  lanes  : Mask
  addr   : Nat
  detail : Nat
  deriving DecidableEq, Repr

/-- Why an instruction does not complete: it traps and changes nothing (R32), its path parks (R146), it must wait for
sub-tiles that the fault unit serves, for lines of another device, or until other devices have dropped lines, all of its
effects undone (R240, R373, R374), some of its logged events have been performed and the others wait for their turn
(R280), or the warp issues it again before anything else of the warp (R305, R198) or is halted before it (R326). The state
of a park or a hold has what was asked of another unit. -/
inductive Stop
  | trap (r : Raise)
  | park (p : Park) (s : State)
  | again (ts : List SubTile)
  | fetch (ls : List LineRef)
  | clear (ls : List LineRef)
  | partly (s : State)
  | hold (s : State)

/-- What a path that cannot go on for want of its split stack comes to: a trap at the instruction, or a wait. The trap of an
entry met at a pop, a join or a child update (SPLIT with detail 2 among them) names every lane of the path, those with a
false guard too; one met when a parked path resumes names the taking lanes (DESIGN CHOICE, unsafe: log entry 11: R139 and
R312 give no lane mask). -/
def unsettled (e : Env) : Unsettled → Stop
  | .bad c d => .trap ⟨c, e.mask, e.pc.toNat, d⟩
  | .wait ts => .again ts
  | .fetch ls => .fetch ls
  | .clear ls => .clear ls

/-- A trap record (R307). -/
def trapRecord (cause : Nat) (slotB async : Bool) (fslot : Nat) (lanes : Mask) (pc : DWord)
    (addr detail : Nat) : BitVec 256 :=
  BitVec.ofNat 256 (cause % 256 + (if slotB then 2 ^ 8 else 0) + (if async then 2 ^ 9 else 0) +
    2 ^ 16 * (fslot % 16) + 2 ^ 32 * lanes.toNat + 2 ^ 64 * pc.toNat + 2 ^ 128 * (addr % 2 ^ 64) +
    2 ^ 192 * (detail % 2 ^ 32))

def trCause (r : BitVec 256) : Nat := bits r.toNat 0 8
def trSlotB (r : BitVec 256) : Bool := bits r.toNat 8 1 == 1
def trAsync (r : BitVec 256) : Bool := bits r.toNat 9 1 == 1
def trLanes (r : BitVec 256) : Mask := BitVec.ofNat 32 (bits r.toNat 32 32)
def trPc (r : BitVec 256) : DWord := BitVec.ofNat 64 (bits r.toNat 64 64)

/-- Places an entry behind those of the same or earlier instructions (R306). -/
def insertTrap (t : TrapEntry) : List TrapEntry → List TrapEntry
  | [] => [t]
  | u :: us => if t.issue < u.issue then t :: u :: us else u :: insertTrap t us

/-- The crew of a warp ends and its launch breaks with FAULT(SOFTERR) (R310). -/
def trapOverflow (s : State) (w : Nat) : State :=
  let c := crewOf s w
  let r := endCrew s (warpAt s w).crew
  breakHandles r.1 (r.2 ++ [Brk.own c.launch 2 0x16])

/-- An entry arrives for a warp of a saved crew: it waits beside the record until the crew is restored (R306, R398). -/
def queueSaved (s : State) (x : Warp) (t : TrapEntry) : State :=
  match s.launches.find? (fun l => l.h == (crewAt s x.crew).launch &&
      l.saved.any (fun k => k.crew == x.crew && k.warps.any (fun y => y.wid == x.wid))) with
  | none => s
  | some l =>
    if l.saved.any (fun k => k.crew == x.crew && k.warps.any (fun y => y.wid == x.wid && pathsDone y)) then
      breakLaunch s l.h 2 (trCause t.bits)
    else putLaunch s l.h (fun l => { l with saved := l.saved.map (fun k =>
      if k.crew == x.crew then { k with late := k.late ++ [(x.wid, t)] } else k) })

/-- An entry arrives at a warp's trap queue (R306, R310, R311). -/
def queueTrap (s : State) (w : Nat) (t : TrapEntry) : State :=
  let x := warpAt s w
  if x.gone then queueSaved s x t
  else if pathsDone x then breakLaunch s (crewOf s w).launch 2 (trCause t.bits)
  else if Config.trapDepth ≤ x.tq.length then trapOverflow s w
  else setWarp s w { x with tq := insertTrap t x.tq }

/-- An instruction of the issuing path traps: the entry is queued, or in supervisor mode the launch breaks
(R32, R309). -/
def takeTrap (s : State) (e : Env) (fslot : Nat) (r : Raise) : State :=
  if e.sup then breakLaunch s e.cr.launch 2 r.cause
  else queueTrap s e.w ⟨trapRecord r.cause (e.which == .b) false fslot r.lanes e.pc r.addr r.detail,
    (warpAt s e.w).issued⟩

/-- Delivers the next entry: the handler starts (R308). -/
def deliverTrap (s : State) (w : Nat) : State :=
  let x := warpAt s w
  match x.tq, ctxGet s (ctxNumOf s w) with
  | t :: rest, some cx =>
    let h := trLanes t.bits &&& x.alive
    let h := if h = 0 then maskOf (fun l => lowest x.alive == some l) else h
    let pc := BitVec.ofNat 64 (csrPair cx 0x040)
    setWarp s w { x with
      tq := rest, cur := some t, tpc := trPc t.bits, tfflags := x.fflags, shadow := x.b,
      mode := .supervisor, hdl := Slot.ofPath { pc := pc, mask := h, rjpc := noRejoin, depth := 0 } |> fun sl =>
        { sl with stale := false } }
  | _, _ => s

/-- Whether an entry is due at an instruction boundary (R308). -/
def trapDue (x : Warp) : Bool :=
  x.mode == .user && x.halt == .no && x.holdSl.isNone && !x.tq.isEmpty && !x.gone && !pathsDone x

/-- The end of a warp's last lane: an entry still undelivered breaks its launch (R311). -/
def finishWarp (s : State) (w : Nat) : State :=
  let s := warpEnded s w
  match (warpAt s w).tq with
  | [] => s
  | t :: _ => breakLaunch (setWarp s w { warpAt s w with tq := [] }) (crewOf s w).launch 2 (trCause t.bits)

/-! ### Parking and advancing -/

/-- Whether a park resumes at the next instruction, so that the PC moves on before it (R146). -/
def parkAdvances : Park → Bool
  | .pyield _ => true
  | .mbar _ _ => true
  | .bar _ _ => true
  | .cwait _ => true
  | .ccan _ => true
  | .hwait _ _ => true
  | .handed _ _ _ => true
  | .mwait _ => true
  | .xswap _ _ _ => false
  | .reissue _ => false

/-- Parks a path (R146). -/
def parkPath (s : State) (w : Nat) (k : Which) (p : Park) : State :=
  let sl := slotOf (warpAt s w) k
  setSlot s w k { (if parkAdvances p then stepOn sl else sl) with park := some p }

/-- Puts the issuing path into its slot, then carries out its arrivals (R141) and the end of its warp (R103). -/
def land (s : State) (e : Env) (sl : Slot) : Except Stop State :=
  let s := setSlot s e.w e.which sl
  match e.which with
  | .handler => .ok s
  | k => match settle s e.w k with
    | .error x => .error (unsettled e x)
    | .ok s => .ok (if pathsDone (warpAt s e.w) then finishWarp s e.w else s)

/-- The issuing path goes to an address. -/
def jump (s : State) (e : Env) (pc : DWord) : Except Stop State :=
  let sl := slotOf (warpAt s e.w) e.which
  land s e { sl with path := { sl.path with pc := pc }, turned := none }

/-- The PC after the instruction at `pc`. -/
def nextPc (pc : DWord) : DWord := pc + 8

/-- The instruction completes without a control transfer: the PC advances by 8 (R28). An offset that would
pass 2^42 - 8 makes the next fetch trap OOS. -/
def advance (s : State) (e : Env) : Except Stop State := land s e (stepOn (slotOf (warpAt s e.w) e.which))

/-- The SEQ of the issuing instruction: the one that it has taken, or the warp's count (R278). -/
def Env.seq (e : Env) : Nat := (e.sl.turned.map (·.seq)).getD e.x.olseq

/-- The issuing instruction has logged events: it takes its SEQ, once (R278). -/
def olCount (s : State) (e : Env) : State :=
  if e.sl.turned.isSome then s else setWarp s e.w { warpAt s e.w with olseq := (warpAt s e.w).olseq + 1 }

/-- The issuing instruction keeps its SEQ, and what has been performed of it, while its events wait (R278, R280; DEDUCED,
unsafe: log entry 14). -/
def keepTurn (s : State) (e : Env) (gen : Option Word) (done : List (Nat × Nat × Nat)) : State :=
  let s := olCount s e
  setSlot s e.w e.which { slotOf (warpAt s e.w) e.which with turned := some ⟨e.seq, gen, done⟩ }

/-- The lines of other devices that an instruction needs for its split stack or for the order log: the warp holds the
instruction until they are here, and traps when one cannot be had (R369, R373). -/
def fetchHeld (s : State) (e : Env) (fslot : Nat) (hold : State → State) (ls : List LineRef) : State :=
  match fetchSet s (.warp e.w) ls with
  | (some (d :: _), s) => takeTrap s e fslot ⟨deadCause d.2, e.mask, e.pc.toNat, d.2⟩
  | (_, s) => hold s

/-- The issuing path keeps its instruction: the warp issues it again before anything else (R198, R305). -/
def holdPath (s : State) (e : Env) : State :=
  setWarp s e.w { warpAt s e.w with holdSl := some (e.which == .b) }

/-- Runs the meaning of a warp instruction: ILL, then PRIV, then a trap that a resumed wait left, then the
entry's own checks and effect (R46). `illOk` is the part of R45 that depends on the warp. An instruction that
the order log holds back has had no effect but that it has taken its SEQ (R278, R280). -/
def runInstr (s : State) (fslot : Nat) (illOk : Env → Bool) (priv : Env → Bool) (g : Guard)
    (body : Env → Except Stop State) : Host.Outcome State Fault Refusal :=
  match s.cur with
  | none => .fault .noWarp
  | some c =>
    let e := envOf s c
    if !illOk e then .next (takeTrap s e fslot ⟨1, e.mask, e.pc.toNat, 0⟩)
    else if priv e then .next (takeTrap s e fslot ⟨2, e.mask, e.pc.toNat, 0⟩)
    else match dueMark e.sl with
    | some f => .next (takeTrap s e fslot ⟨f.2.1, taking e g, e.pc.toNat, f.2.2⟩)
    | none => match body e with
      | .ok s' => .next s'
      | .error (.trap r) => .next (takeTrap s e fslot r)
      | .error (.park (.reissue .order) _) =>
        .next (parkPath (if e.sl.turned.isSome then s else keepTurn s e none []) e.w e.which (.reissue .order))
      | .error (.park p s') => .next (parkPath s' e.w e.which p)
      | .error (.again ts) => .next (parkPath (askUnit s e.cr.tower ts) e.w e.which (.reissue (.residency ts)))
      | .error (.fetch ls) => .next (fetchHeld s e fslot (fun s => holdPath s e) ls)
      | .error (.clear ls) => .next (holdPath (clearPeers s ls).2 e)
      | .error (.partly s') => .next (parkPath s' e.w e.which (.reissue .order))
      | .error (.hold s') => .next s'

/-- The path parked and resumed at once, at the next instruction: R144 clears the latches at its next issue. -/
def markStale (s : State) (e : Env) : State :=
  setSlot s e.w e.which { slotOf (warpAt s e.w) e.which with stale := true }

/-- User mode may run the instruction (R15). -/
def anyMode (_ : Env) : Bool := false
/-- The instruction traps PRIV in user mode (R15). -/
def supOnly (e : Env) : Bool := !e.sup

/-! ### Halting (R326, R327) -/

/-- DBGCTL of a warp's context (R315). -/
def dbgctl (s : State) (w : Nat) : Nat :=
  match ctxGet s (ctxNumOf s w) with
  | some x => csrN x 0x050
  | none => 0

/-- The warps of a launch's saved crews that have not ended are to halt once they are back (R327). -/
def haltSaved (s : State) (h : DWord) : State :=
  putLaunch s h (fun l => { l with saved := l.saved.map (fun k => { k with warps := k.warps.map (fun y =>
    if y.halt = .no ∧ !pathsDone y then { y with halt := .pending } else y) }) })

/-- Halts a warp at an instruction boundary, and asks the warps that STOP names to halt at theirs. -/
def haltWarp (s : State) (w : Nat) : State :=
  let c := crewOf s w
  let cix := (warpAt s w).crew
  let stop := bits (dbgctl s w) 2 2
  let s := if stop = 0 then s else
    (List.range s.warps.length).foldl (fun s v =>
      let y := warpAt s v
      if v ≠ w ∧ y.halt = .no ∧ !y.gone ∧ !pathsDone y ∧
          (if stop = 1 then y.crew == cix else (crewAt s y.crew).launch == c.launch) then
        setWarp s v { y with halt := .pending } else s) (if stop = 1 then s else haltSaved s c.launch)
  setWarp s w { warpAt s w with halt := .halted, step := false }

/-! ### Element accesses of lanes -/

/-- The address of an element, as trap records carry it (R109). -/
def elemAddr (obj i : Nat) : Nat := obj * 2 ^ 42 + i

/-- The checks of the lanes of an instruction, in ascending lane order: their results, or the trap of the
lowest failing lane with the mask of the lanes that fail with its cause (R32). -/
def lanesOrTrap {α : Type} (m : Mask) (f : Nat → Except (Fail × Nat) α) : Except Raise (List (Nat × α)) :=
  let rs := (lanesOf m).map (fun l => (l, f l))
  match rs.findSome? (fun r => match r.2 with | .error x => some x | .ok _ => none) with
  | some x => .error ⟨x.1.cause, maskOf (fun l => rs.any (fun r => r.1 == l && match r.2 with
      | .error y => y.1.cause == x.1.cause
      | .ok _ => false)), x.2, x.1.detail⟩
  | none => .ok (rs.filterMap (fun r => match r.2 with | .ok a => some (r.1, a) | .error _ => none))

/-! ### The order log (R277 to R280) -/

/-- A logged event: KIND, lane, ADDR, OBJ. -/
structure OlEvent where
  kind : Nat
  lane : Nat
  addr : Nat
  obj  : Nat
  deriving DecidableEq, Repr

/-- The 32-byte record of the event of a warp's instruction with a SEQ (R278). -/
def olRecord (s : State) (w seq : Nat) (ev : OlEvent) : Nat :=
  let x := warpAt s w
  let c := crewOf s w
  let l := launchOf s c.launch
  let lq := (l.map (·.queue)).getD 0
  let ls := (l.map (·.lseq)).getD 0
  ev.kind + 2 ^ 3 * x.wid + 2 ^ 8 * (lq % 256) + 2 ^ 16 * (ls % 2 ^ 32) + 2 ^ 48 * (c.lin % 2 ^ 31) +
    2 ^ 80 * (seq % 2 ^ 32) + 2 ^ 112 * ev.lane + 2 ^ 128 * (ev.addr % 2 ^ 48) +
    2 ^ 192 * (ev.obj % 2 ^ 22)

/-- The identity of an event: its record without ADDR and OBJ (R278). -/
def olIdentity (r : Nat) : Nat := bits r 0 128
/-- The domain of an event (R277): for a push, its crew and channel; otherwise KIND, ADDR and OBJ. -/
def olDomain (r : Nat) : Nat × Nat × Nat :=
  if bits r 0 3 = 2 then (2, bits r 8 71, bits r 128 48)
  else if bits r 0 3 = 3 then (3, bits r 16 80 % 2 ^ 32 + 2 ^ 32 * bits r 64 32, bits r 192 22)
  else (bits r 0 3, bits r 128 48, bits r 192 22)

/-- What the order log says of an event: it is logged, it must wait for its turn, or the log lies in sub-tiles that the
fault unit must serve first, in lines of another device, or in lines that other devices hold. -/
inductive OlStep
  | done (s : State)
  | wait
  | unit (ts : List SubTile)
  | fetch (ls : List LineRef)
  | clear (ls : List LineRef)

/-- Appends a record in record mode; sets FULL when the log is full (R279). The record is a write of the log object
like any other (R240, R245, R246, R248, R374), and one that lies on another device is sent there (R373); a log that cannot
be reached counts as full (DEDUCED, unsafe: log entry 14). -/
def olAppend (s : State) (ag : Agent) (r : Nat) : OlStep :=
  let ctx := ag.ctx
  match ctxGet s ctx with
  | none => .done s
  | some x =>
    let pos := csrN x 0x073
    let full := OlStep.done (ctxPut s ctx (setCsr x 0x074 (setBits (csrN x 0x074) 8 1 1)))
    if csrN x 0x072 ≤ pos then full
    else match olLoc s ag x pos with
    | none => full
    | some l =>
      let f := findAll s ag l true
      if f.bad.isSome then full
      else if !f.units.isEmpty then .unit f.units
      else if !(clearPeers s (nearLines s ctx l f.pieces)).1 then .clear (nearLines s ctx l f.pieces)
      else if (writeReqs s ctx l.obj 0 f.pieces).any (routeHeld s) then .fetch []
      else
        let s := (writeReqs s ctx l.obj r f.pieces).foldl (fun s q => sendReq s .lost q) (storeLoc s none ctx l f.pieces r)
        match ctxGet s ctx with
        | none => .done s
        | some x => .done (ctxPut s ctx (setCsr x 0x073 (pos + 1)))

/-- Replays one event (R280). -/
def olReplay (s : State) (ag : Agent) (r : Nat) : OlStep :=
  let ctx := ag.ctx
  match ctxGet s ctx with
  | none => .done s
  | some x =>
    let ctl := csrN x 0x074
    if bits ctl 9 1 = 1 then .done s
    else
      let need := olUnits s ag x
      let far := olFar s ag x
      if !need.isEmpty then .unit need
      else if !far.isEmpty then .fetch far
      else
        let dom := (olLeft s ag x).filter (fun e => olDomain e.2 == olDomain r)
        if !dom.any (fun e => olIdentity e.2 == olIdentity r) then
          .done (ctxPut s ctx (setCsr x 0x074 (setBits ctl 9 1 1)))
        else match dom with
          | e :: _ => if olIdentity e.2 = olIdentity r then
              .done (ctxPut s ctx (setCsr { x with replayed := e.1 :: x.replayed } 0x073 (csrN x 0x073 + 1)))
            else .wait
          | [] => .done s

/-- One logged event under the context's mode (R279, R280). -/
def olOne (s : State) (ag : Agent) (r : Nat) : OlStep :=
  match ctxGet s ag.ctx with
  | none => .done s
  | some x => match bits (csrN x 0x074) 0 2 with
    | 1 => olAppend s ag r
    | 2 => olReplay s ag r
    | _ => .done s

/-- Whether the events of a context are replayed, so that they may have to wait for their turn (R280). -/
def olReplays (s : State) (ctx : Nat) : Bool :=
  match ctxGet s ctx with
  | none => false
  | some x => x.replays

/-- Events of one instruction, one after the other. -/
def olFold (s : State) (e : Env) (evs : List OlEvent) : OlStep :=
  evs.foldl (fun (acc : OlStep) ev => match acc with
    | .done t => olOne t (olAgent e.cr.ctx e.sl.failed) (olRecord t e.w e.seq ev)
    | x => x) (.done s)

/-- The logged events of one instruction of a warp, in order (R277). A held-back event parks the path. -/
def olEvents (s : State) (e : Env) (evs : List OlEvent) : Except Stop State :=
  if evs.isEmpty then .ok s
  else match olFold s e evs with
    | .wait => .error (.park (.reissue .order) s)
    | .unit ts => .error (.again ts)
    | .fetch ls => .error (.fetch ls)
    | .clear ls => .error (.clear ls)
    | .done t => .ok (olCount t e)

end Sys2Proof.Machine
end

