-- ==== Sys2Proof/Machine/Operands.lean ====
section
/-! DEFINITION. Every operand form: reading sources (R10, R11, R41, R42), popping and pushing the queue ports
(R147, R148), and writing a result to its register, latch or port. -/

namespace Sys2Proof.Machine

/-- An operand with its width in 32-bit words. -/
abbrev Src := Opnd × Nat

/-- The part of R9 that depends on the warp: every register of the operand lies below the allocation. -/
def srcOk (x : Warp) (o : Src) : Bool :=
  match o.1 with
  | .v n => decide (n.val + o.2 ≤ x.regs)
  | _ => true

/-- The operands of an instruction lie below the warp's allocation. -/
def regsOk (os : List Src) (e : Env) : Bool := os.all (srcOk e.x)

/-- The ports that source fields name, in the order A, B, C. -/
def portsOf (srcs : List Src) : List Nat :=
  srcs.filterMap (fun o => match o.1 with | .q n => some n.val | _ => none)

/-- Warps of a crew whose role is `r`. -/
def roleWarps (s : State) (c r : Nat) : List Nat :=
  (crewAt s c).warps.filter (fun w => (warpAt s w).role == r)

def chanOf (cr : Crew) (n : Nat) : Chan :=
  cr.chans.getD n { bound := false, prod := 0, cons := 0, depth := 0, entries := [] }

/-- The misuse of a port as a source: QUEUE 1 or 2 (R147). -/
def popMisuse (e : Env) (n : Nat) : Option Nat :=
  if 6 ≤ n then none
  else if !(chanOf e.cr n).bound then some 1
  else if (chanOf e.cr n).cons ≠ e.x.role then some 2 else none

/-- The misuse of a port as a destination: QUEUE 1, 2 or 3 (R147, R148). With W = 1 there is no push, so that detail 2
does not arise. -/
def pushMisuse (e : Env) (push : Bool) (n : Nat) : Option Nat :=
  if 6 ≤ n then some 3
  else if !(chanOf e.cr n).bound then some 1
  else if push = true ∧ (chanOf e.cr n).prod ≠ e.x.role then some 2 else none

/-- A QUEUE trap of the issuing instruction. -/
def queueTrapOf (e : Env) (m : Mask) (d : Nat) : Stop := .trap ⟨0x0D, m, e.pc.toNat, d⟩

/-- The head entries that the pops of one instruction take, in order: for a channel the whole entry, for q6
and q7 the record's words by lane (R147, R148). None when a port holds too few. -/
def popEach (x : Warp) (cr : Crew) : List Nat → Option (List (List Word) × Warp × Crew)
  | [] => some ([], x, cr)
  | n :: ns =>
    let r : Option (List Word × Warp × Crew) :=
      if n < 6 then
        let c := chanOf cr n
        match c.entries with
        | [] => none
        | h :: t => some (h, x, { cr with chans := cr.chans.set n { c with entries := t } })
      else
        match if n = 6 then x.q6 else x.q7 with
        | [] => none
        | h :: t => some (tab (fun l => BitVec.ofNat 32 (bits h.toNat (32 * (l % 4)) 32)),
            (if n = 6 then { x with q6 := t } else { x with q7 := t }), cr)
    match r with
    | none => none
    | some (h, x, cr) => match popEach x cr ns with
      | none => none
      | some (hs, x, cr) => some (h :: hs, x, cr)

/-- Entries or records that a port holds, for pops. -/
def portCount (x : Warp) (cr : Crew) (n : Nat) : Nat :=
  if n < 6 then (chanOf cr n).entries.length else if n = 6 then x.q6.length else x.q7.length

/-- Entries of a port that parked `xswap`s have taken: of any warp of the crew for a channel, of its own for q6 and q7. -/
def portTook (s : State) (x : Warp) (cr : Crew) (n : Nat) : Nat :=
  if n < 6 then (cr.warps.map (fun w => swapTook (warpAt s w) n)).foldl (· + ·) 0 else swapTook x n

/-- The value of each source in a lane: a popped word, or the register (R41). -/
def srcVals (x : Warp) : List Src → List (List Word) → Nat → List Nat
  | [], _, _ => []
  | (.q _, _) :: os, h :: hs, l => (lane 0 h l).toNat :: srcVals x os hs l
  | o :: os, hs, l => regNat x o.1 o.2 l :: srcVals x os hs l

/-- The port that a destination names. -/
def dstPort (dst : Option Opnd) : Option Nat :=
  match dst with
  | some (.q n) => some n.val
  | _ => none

/-- Whether the port that a push goes to has no space. -/
def portFull (s : State) (cr : Crew) (push : Bool) (dq : Option Nat) : Bool :=
  match dq with
  | some n => push && decide ((chanOf cr n).depth ≤ (chanOf cr n).entries.length + portTook s Warp.zero cr n)
  | none => false

/-- Reads the sources of an instruction (R12): performs the pops, and checks that the push that follows
will find its port usable and with space (R147). Answers the state after the pops and each lane's values. -/
def readSrcs (s : State) (e : Env) (m : Mask) (srcs : List Src) (dst : Option Opnd) (push : Bool) :
    Except Stop (State × (Nat → List Nat)) :=
  let ports := portsOf srcs
  if m = 0 then .ok (s, fun l => srcVals e.x srcs (ports.map (fun _ => [])) l)
  else match ports.findSome? (popMisuse e) with
  | some d => .error (queueTrapOf e m d)
  | none => match (dstPort dst).bind (pushMisuse e push) with
    | some d => .error (queueTrapOf e m d)
    | none => match popEach e.x e.cr ports with
      | none => .error (.park (.reissue (.ports ports (if push then dstPort dst else none))) s)
      | some (hs, x, cr) =>
        if portFull s cr push (dstPort dst) then .error (.park (.reissue (.ports ports (dstPort dst))) s)
        else
          let s := if ports.isEmpty then s else setCrew (setWarp s e.w x) e.c cr
          .ok (s, fun l => srcVals e.x srcs hs l)

/-- The lane that issues a warp-wide access: the lowest that takes part (R259, R278). -/
def issuingLane (m : Mask) : Nat := (lowest m).getD 0

/-- Pushes one entry into a channel, after its order log event (R147, R277). -/
def pushChan (s : State) (e : Env) (n : Nat) (m : Mask) (val : Nat → Nat) : Except Stop State :=
  let ev := if 1 < (roleWarps s e.c (chanOf e.cr n).prod).length then [OlEvent.mk 2 (issuingLane m) n 0] else []
  match olEvents s e ev with
  | .error x => .error x
  | .ok s =>
    let cr := crewAt s e.c
    let c := chanOf cr n
    let entry := tab (fun l => if m.getLsbD l then BitVec.ofNat 32 (val l) else 0)
    .ok (setCrew s e.c { cr with chans := cr.chans.set n { c with entries := c.entries ++ [entry] } })

/-- Writes a result of `k` words to D, the latch, or the port (R30, R31, R147), and advances. -/
def finish (s : State) (e : Env) (h : Hdr) (d : Opnd) (m : Mask) (k : Nat) (val : Nat → Nat) :
    Except Stop State :=
  let s := setWarp s e.w (writeDest (warpAt s e.w) ⟨h, d, m⟩ k val)
  match d with
  | .q n =>
    if h.w ∨ m = 0 then advance s e
    else match pushChan s e n.val m val with
      | .error x => .error x
      | .ok s => advance s e
  | _ => advance s e

/-- Writes a predicate result and advances (R30, R31, R43). -/
def finishPred (s : State) (e : Env) (h : Hdr) (p : Pred) (m : Mask) (val : Nat → Bool) : Except Stop State :=
  advance (setWarp s e.w (writePred (warpAt s e.w) h p m val)) e

/-- An operand's value in the lowest lane of the mask (R153): 0 when no lane takes part. -/
def warpValue (m : Mask) (f : Nat → List Nat) (k : Nat) : Nat :=
  match lowest m with
  | some l => (f l).getD k 0
  | none => 0

/-! ### Instructions that compute lane by lane -/

/-- An instruction whose D of `dk` words is a function of its sources, lane by lane (R12, R86). -/
def laneOp (s : State) (h : Hdr) (d : Opnd) (dk : Nat) (srcs : List Src) (f : List Nat → Nat) :
    Host.Outcome State Fault Refusal :=
  runInstr s 0 (regsOk ((d, dk) :: srcs)) anyMode h.g (fun e =>
    let m := taking e h.g
    match readSrcs s e m srcs (some d) (!h.w) with
    | .error x => .error x
    | .ok (s, vals) => finish s e h d m dk (fun l => f (vals l)))

/-- An instruction whose predicate result is a function of its sources, lane by lane (R30, R43). -/
def lanePred (s : State) (h : Hdr) (p : Pred) (srcs : List Src) (f : List Nat → Bool) :
    Host.Outcome State Fault Refusal :=
  runInstr s 0 (regsOk srcs) anyMode h.g (fun e =>
    let m := taking e h.g
    match readSrcs s e m srcs none false with
    | .error x => .error x
    | .ok (s, vals) => finishPred s e h p m (fun l => f (vals l)))

end Sys2Proof.Machine
end

