-- ==== Sys2Proof/Machine/Access.lean ====
section
/-! DEFINITION. The accesses of a warp's lanes (R107 to R113, R162, R240, R326): address formation, the checks of
every lane before any effect, the fault unit, remote lines, and asynchronous errors in returned data. -/

namespace Sys2Proof.Machine

/-! ### Address formation -/

/-- Object number and signed element index of a lane (R107). -/
def globalIndex (x : Warp) (b a : Opnd) (sc : Nat) (off : Int) (l : Nat) : Nat × Int :=
  match b with
  | .z =>
    let base := regNat x a 2 l
    (bits base 42 22, (bits base 0 42 : Nat) + off)
  | _ =>
    let base := regNat x b 2 l
    (bits base 42 22, (bits base 0 42 : Nat) + sx 32 (regNat x a 1 l) * (2 ^ sc : Nat) + off)

/-- The operands of a global memory operand, for the check of R9. -/
def globalSrcs (b a : Opnd) : List Src :=
  match b with
  | .z => [(a, 2)]
  | _ => [(b, 2), (a, 1)]

/-- The byte address of a scratchpad access (R162). -/
def scratchIndex (x : Warp) (b a : Opnd) (sc : Nat) (off : Int) (l : Nat) : Int :=
  (regNat x b 1 l : Nat) + sx 32 (regNat x a 1 l) * (2 ^ sc : Nat) + off

def scratchSrcs (b a : Opnd) : List Src := [(b, 1), (a, 1)]

/-! ### Asynchronous entries -/

/-- Queues an asynchronous entry for an instruction of a warp (R306). -/
def asyncTrap (s : State) (w issue : Nat) (fslot cause : Nat) (lanes : Mask) (pc : DWord) (addr detail : Nat) :
    State :=
  queueTrap s w ⟨trapRecord cause false true fslot lanes pc addr detail, issue⟩

/-! ### Watchpoints (R326) -/

/-- Whether watchpoint k of a context matches an access. -/
def watchMatch (x : Ctx) (k : Nat) (l : Loc) (rd wr : Bool) : Bool :=
  let n := 0x056 + 3 * k
  let ctl := csrN x (n + 2)
  let a := csrPair x n
  ((rd && bits ctl 0 1 == 1) || (wr && bits ctl 1 1 == 1)) && bits a 42 22 == l.obj &&
  (List.range (bits ctl 8 24)).any (fun j => match translate l.rec_ (bits a 0 42 + j) with
    | some b => decide (b < l.a + l.n) && decide (l.a < b + recEW l.rec_)
    | none => false)

/-- The watchpoint that an access of a user-mode path matches, with the detail of R312. -/
def watchFail (s : State) (e : Env) (l : Loc) (rd wr : Bool) : Option Nat :=
  if e.sup || e.sl.skipBp then none
  else match ctxGet s e.cr.ctx with
    | none => none
    | some x => ((List.range 2).find? (fun k => watchMatch x k l rd wr)).map
        (fun k => (if rd then 1 else 0) + (if wr then 2 else 0) + 16 * k)

/-! ### The checks of one instruction -/

/-- A lane's accesses, checked, each with what the residency step found. -/
structure LaneAcc where
  lane : Nat
  locs : List (Loc × Found)
  deriving DecidableEq, Repr

/-- The agent of the issuing path. -/
def envAgent (s : State) (e : Env) : Agent := { warpAgent s e.w with failed := e.sl.failed }

/-- Steps 4 to 5 for the accesses of one lane: the watchpoints, then the residency of each (R240, R326). One that reads and
writes is an atomic, which needs the right A (R414). -/
def laneSteps (s : State) (e : Env) (obj : Nat) (rd wr : Bool) (plan : Except Fail (List Loc)) :
    Except (Fail × Nat) (List (Loc × Found)) :=
  match plan with
  | .error f => .error (f, elemAddr obj f.idx)
  | .ok ls =>
    match ls.findSome? (fun l => (watchFail s e l rd wr).map (fun d => (l.i, d))) with
    | some (i, d) => .error (⟨0x15, d, i⟩, elemAddr obj i)
    | none =>
      let fs := ls.map (fun l => (l, findAll s { envAgent s e with right := if rd then 2 else 1 } l wr))
      match fs.findSome? (fun p => p.2.bad.map (fun cd => (p.1.i, cd))) with
      | some (i, cd) => .error (⟨cd.1, cd.2, i⟩, elemAddr obj i)
      | none => .ok fs

/-- The checks of every lane, before any effect (R32, R240, R305): the accesses to perform, or the trap, the
park on the fault unit, or the halt that a watchpoint gives. -/
def checkLanes (s : State) (e : Env) (m : Mask) (rd wr : Bool) (obj : Nat → Nat)
    (plan : Nat → Except Fail (List Loc)) : Except Stop (List LaneAcc) :=
  match lanesOrTrap m (fun l => laneSteps s e (obj l) rd wr (plan l)) with
  | .error r =>
    if r.cause = 0x15 ∧ bits (dbgctl s e.w) 0 1 = 1 then
      .error (.hold (haltWarp (setSlot s e.w e.which { slotOf (warpAt s e.w) e.which with skipBp := true }) e.w))
    else .error (.trap r)
  | .ok rs =>
    let accs := rs.map (fun r => LaneAcc.mk r.1 r.2)
    let units := accs.flatMap (fun a => a.locs.flatMap (·.2.units))
    if units.isEmpty then .ok accs
    else .error (.park (.reissue (.residency units)) (askUnit s e.cr.tower units))

/-- The plan of a fixed-width access: one location (R109). -/
def planFixed (s : State) (e : Env) (idx : Nat → Nat × Int) (n : Nat) (nd : Need) (l : Nat) :
    Except Fail (List Loc) :=
  match checkShape s (envAgent s e) (idx l).1 (idx l).2 n nd with
  | .error f => .error f
  | .ok loc => .ok [loc]

/-- The plan of `ldp` and `stp`: the width test, then each element (R112). -/
def planPacked (s : State) (e : Env) (idx : Nat → Nat × Int) (nd : Need) (l : Nat) :
    Except Fail (List Loc) :=
  let ag := envAgent s e
  let i := (idx l).2
  match recordOf s ag (idx l).1 (intBits 42 i) with
  | .error f => .error f
  | .ok r =>
    if 32 < recEW r then .error ⟨3, 2, intBits 42 i⟩
    else (List.range (32 / recEW r)).foldl (fun acc k => match acc with
      | .error f => .error f
      | .ok ls => match checkShape s ag (idx l).1 (i + k) (recEW r) nd with
        | .error f => .error f
        | .ok loc => .ok (ls ++ [loc])) (.ok [])

/-! ### Loading -/

/-- The lines of other devices that a lane's accesses need. -/
def LaneAcc.farLines (ctx : Nat) (a : LaneAcc) : List LineRef :=
  a.locs.flatMap (fun p => Machine.farLines ctx p.1.obj p.2.pieces)

/-- The lines that the lanes' remote pieces need (R373): none while one is missing; otherwise for each lane the
detail that ended one of its requests. -/
def fetchLanes (s : State) (w ctx : Nat) (accs : List LaneAcc) : Option (List (Nat × Option Nat)) × State :=
  let r := fetchSet s (.warp w) (accs.flatMap (·.farLines ctx))
  (r.1.map (fun ds => accs.map (fun a =>
    (a.lane, (ds.find? (fun d => (a.farLines ctx).contains d.1)).map (·.2)))), r.2)

/-- Every piece of the lanes' accesses. -/
def accPieces (accs : List LaneAcc) : List Piece := accs.flatMap (fun a => a.locs.flatMap (fun p => p.2.pieces))

/-- The lines of this device that the lanes' accesses touch. -/
def accLines (s : State) (ctx : Nat) (accs : List LaneAcc) : List LineRef :=
  accs.flatMap (fun a => a.locs.flatMap (fun p => nearLines s ctx p.1 p.2.pieces))

/-- Whether an access touches poisoned data (R325). -/
def lanePoisoned (s : State) (a : LaneAcc) : Bool := a.locs.any (fun p => p.2.pieces.any (piecePoisoned s))

/-- The packed value of a lane's accesses: element k from bit k·W up (R25, R112). -/
def laneValue (s : State) (args : List Byte) (a : LaneAcc) : Nat :=
  (a.locs.foldl (fun (acc : Nat × Nat) p =>
    (acc.1 + 2 ^ acc.2 * readAll s args p.2.pieces, acc.2 + p.1.n)) (0, 0)).1

/-- The element address of the first access of the lowest lane of a mask. -/
def firstAddr (accs : List LaneAcc) (m : Mask) : Nat :=
  match accs.find? (fun a => m.getLsbD a.lane) with
  | some a => match a.locs with
    | p :: _ => elemAddr p.1.obj p.1.i
    | [] => 0
  | none => 0

/-- The asynchronous entries of a load or atomic whose data returned with errors: NORES 4 and 5 of requests
that ended (R369), SOFTERR 2 of poisoned data (R325). -/
def returnErrors (s : State) (e : Env) (fslot : Nat) (accs : List LaneAcc) (dead : List (Nat × Option Nat)) (bad : Mask) :
    State :=
  let nores := fun (s : State) d =>
    let m := maskOf (fun l => dead.any (fun p => p.1 == l && p.2 == some d))
    if m = 0 then s else asyncTrap s e.w e.x.issued fslot (deadCause d) m e.pc (firstAddr accs m) d
  let s := nores (nores (nores s 4) 5) 2
  if bad = 0 then s else asyncTrap s e.w e.x.issued fslot 0x16 bad e.pc (firstAddr accs bad) 2

/-- A global load (R109, R110, R112): the checks, the data, and the result of `k` words made from it. -/
def loadOp (s : State) (h : Hdr) (m : MemOp) (d : Opnd) (k : Nat) (packed : Bool) (n : Nat)
    (post : Nat → Nat) : Host.Outcome State Fault Refusal :=
  runInstr s 0 (regsOk ((d, k) :: globalSrcs m.b m.a)) anyMode h.g (fun e =>
    let tm := taking e h.g
    let idx := globalIndex e.x m.b m.a m.sc.toNat (sx 16 m.off.toNat)
    let nd : Need := ⟨some .r, false, !packed⟩
    let plan := if packed then planPacked s e idx nd else planFixed s e idx n nd
    match checkLanes s e tm true false (fun l => (idx l).1) plan with
    | .error x => .error x
    | .ok accs =>
      match fetchLanes s e.w e.cr.ctx accs with
      | (none, s) => .error (.hold (holdPath s e))
      | (some dead, s) =>
        let args := ((launchOf s e.cr.launch).map (·.args)).getD []
        let bad := maskOf (fun l => accs.any (fun a => a.lane == l && lanePoisoned s a))
        let lost := maskOf (fun l => dead.any (fun p => p.1 == l && p.2.isSome))
        let val := fun l => match accs.find? (fun a => a.lane == l) with
          | some a => if (bad ||| lost).getLsbD l then 0 else post (laneValue s args a)
          | none => 0
        let s := sawBytes s 0 e.w (pieceBytes (accPieces accs))
        let s := setWarp s e.w { warpAt s e.w with lastLd := some ⟨e.pc, ⟨h, d, tm⟩, k, e.x.issued, 0⟩ }
        match finish s e h d tm k val with
        | .error x => .error x
        | .ok s => .ok (returnErrors s e 0 accs dead bad))

/-! ### Storing -/

/-- Performs the local writes of one lane: each access takes the next bits of the value (R111, R112). -/
def storeLane (s : State) (w ctx : Nat) (a : LaneAcc) (x : Nat) : State :=
  (a.locs.foldl (fun (acc : State × Nat) p =>
    (storeLoc acc.1 (some (0, w)) ctx p.1 p.2.pieces (bits x acc.2 p.1.n), acc.2 + p.1.n)) (s, 0)).1

/-- The remote writes of one lane. -/
def laneWriteReqs (s : State) (ctx : Nat) (a : LaneAcc) (x : Nat) : List FabReq :=
  (a.locs.foldl (fun (acc : List FabReq × Nat) p =>
    (acc.1 ++ (writeReqs s ctx p.1.obj (bits x acc.2 p.1.n) p.2.pieces).map (fun r => { r with lane := a.lane }),
      acc.2 + p.1.n)) ([], 0)).1

/-- A global store (R109 to R112): every lane's checks, then the lanes' writes in ascending order. -/
def storeOp (s : State) (g : Guard) (m : MemOp) (d : Opnd) (k : Nat) (packed : Bool) (n : Nat) :
    Host.Outcome State Fault Refusal :=
  runInstr s 0 (regsOk ((d, k) :: globalSrcs m.b m.a)) anyMode g (fun e =>
    let tm := taking e g
    let idx := globalIndex e.x m.b m.a m.sc.toNat (sx 16 m.off.toNat)
    let nd : Need := ⟨some .w, true, !packed⟩
    let plan := if packed then planPacked s e idx nd else planFixed s e idx n nd
    match checkLanes s e tm false true (fun l => (idx l).1) plan with
    | .error x => .error x
    | .ok accs =>
      let val := fun l => regNat e.x d k l
      let reqs := accs.flatMap (fun a => laneWriteReqs s e.cr.ctx a (val a.lane))
      match clearPeers s (accLines s e.cr.ctx accs) with
      | (false, s) => .error (.hold (holdPath s e))
      | (true, s) => match exchange s (.warp e.w) reqs with
      | (none, s) => .error (.hold (holdPath s e))
      | (some ans, s) =>
        let dead := (reqs.zip ans).map (fun p => (p.1.lane, p.2.2))
        let s := accs.foldl (fun s a => storeLane s e.w e.cr.ctx a (val a.lane)) s
        match advance s e with
        | .error x => .error x
        | .ok s => .ok (returnErrors s e 0 accs dead 0))

/-! ### Scratchpad accesses (R162 to R164) -/

/-- The trap address of a byte offset that may be negative: a 64-bit value with bits 42 to 63 zero (R162). -/
def scratchAddr (a : Int) : Nat := intBits 42 a

/-- OOS, then ALIGN, of a scratchpad access of n bytes aligned to `al` (R162). -/
def scratchCheck (cr : Crew) (a : Int) (n al : Nat) : Except (Fail × Nat) Nat :=
  if a < 0 ∨ (cr.scrLen : Int) < a + n then .error (⟨6, 0, 0⟩, scratchAddr a)
  else if a.toNat % al ≠ 0 then .error (⟨3, 0, 0⟩, scratchAddr a)
  else .ok a.toNat

/-- `lds` (R164). -/
def ldsOp (s : State) (h : Hdr) (m : MemOp) (d : Opnd) (k : Nat) : Host.Outcome State Fault Refusal :=
  runInstr s 0 (regsOk ((d, k) :: scratchSrcs m.b m.a)) anyMode h.g (fun e =>
    let tm := taking e h.g
    match lanesOrTrap tm (fun l =>
      scratchCheck e.cr (scratchIndex e.x m.b m.a m.sc.toNat (sx 16 m.off.toNat) l) (4 * k) (4 * k)) with
    | .error r => .error (.trap r)
    | .ok as => finish s e h d tm k (fun l => match as.find? (fun p => p.1 == l) with
        | some p => memNat e.cr.scr p.2 (4 * k)
        | none => 0))

/-- `sts` (R164): lanes write in ascending order. -/
def stsOp (s : State) (g : Guard) (m : MemOp) (d : Opnd) (k : Nat) : Host.Outcome State Fault Refusal :=
  runInstr s 0 (regsOk ((d, k) :: scratchSrcs m.b m.a)) anyMode g (fun e =>
    let tm := taking e g
    match lanesOrTrap tm (fun l =>
      scratchCheck e.cr (scratchIndex e.x m.b m.a m.sc.toNat (sx 16 m.off.toNat) l) (4 * k) (4 * k)) with
    | .error r => .error (.trap r)
    | .ok as =>
      let scr := as.foldl (fun mem p => memPutNat mem p.2 (4 * k) (regNat e.x d k p.1)) e.cr.scr
      advance (setCrew s e.c { crewAt s e.c with scr := scr }) e)

/-- A warp-value offset into the scratchpad, checked as one access (R162, R167, R194). -/
def scratchWarp (e : Env) (m : Mask) (a n al : Nat) : Except Stop Nat :=
  match scratchCheck e.cr a n al with
  | .ok x => .ok x
  | .error f => .error (.trap ⟨f.1.cause, m, f.2, f.1.detail⟩)

end Sys2Proof.Machine
end

