-- ==== Sys2Proof/Machine/Num.lean ====
section
/-! DEFINITION. Format slots (R60 to R70) and exact arithmetic: slot words, decoding and encoding, exact values
as fractions with a binary exponent, rounding in the seven modes, the generator (R74 to R76), and exact
sums (R73). -/

namespace Sys2Proof.Machine

/-! ### Slot words (R60) -/

def fmRm (f : Word) : Nat := bits f.toNat 3 3
def fmSat (f : Word) : Bool := f.getLsbD 6
def fmNan (f : Word) : Nat := bits f.toNat 7 2
def fmInf (f : Word) : Nat := bits f.toNat 9 2
def fmSub (f : Word) : Nat := bits f.toNat 11 2
def fmBias (f : Word) : Int := sx 9 (bits f.toNat 13 9)
def fmM (f : Word) : Nat := bits f.toNat 22 5
def fmE (f : Word) : Nat := bits f.toNat 27 4
def fmS (f : Word) : Nat := bits f.toNat 31 1
/-- The element width. -/
def fmW (f : Word) : Nat := fmS f + fmE f + fmM f
/-- Sub-elements in a 32-bit register (R71). -/
def fmN (f : Word) : Nat := 32 / fmW f
/-- Every bit below the sign set. -/
def fmTop (f : Word) : Nat := 2 ^ (fmE f + fmM f) - 1

/-- The code of the largest finite value (R62, R65): for E = 0 the largest integer. -/
def fmMaxCode (f : Word) : Nat :=
  if fmE f = 0 then fmTop f
  else if fmInf f = 1 then (2 ^ fmE f - 1) * 2 ^ fmM f - 1
  else if fmNan f = 1 then (2 ^ fmE f - 1) * 2 ^ fmM f
  else if fmNan f = 2 ∨ fmInf f = 2 then fmTop f - 1
  else fmTop f

/-- An illegal definition word (R61). -/
def fmIllegal (f : Word) : Bool :=
  bits f.toNat 0 3 != 0 || fmRm f == 7 || fmInf f == 3 || decide (8 < fmE f) ||
  decide (fmW f < 2) || decide (32 < fmW f) ||
  (fmE f == 0 && (fmInf f != 0 || fmNan f != 0 || fmSub f != 0)) ||
  (fmInf f == 2 && fmNan f == 2) || (fmNan f == 3 && fmS f == 0) || (fmNan f == 1 && fmM f == 0) ||
  (fmInf f == 1 && fmNan f == 2 && fmM f == 0) || fmMaxCode f == 0

/-- binary32, as fs0 of the default table (R70). -/
def fmB32 : Word := 0xC5CFE280
/-- bfloat16, as fs1 of the default table. -/
def fmBf16 : Word := 0xC1CFE280

/-- The default format table (R70). -/
def fmDefault : List Word :=
  [0xC5CFE280, 0xC1CFE280, 0xAA81E280, 0xA0C0E140, 0xA881E280, 0x90402040, 0x81C00000, 0x02000000,
    0x80C00000, 0x98806040] ++ List.replicate 6 0xC5CFE280

/-! ### Exact values -/

/-- A nonzero real: (-1)^neg · (num / den) · 2^exp, with num and den positive. -/
structure Ex where
  neg : Bool
  num : Nat
  den : Nat
  exp : Int
  deriving DecidableEq, Repr

/-- A value of the extended reals with signed zeros, or NaN. -/
inductive Val
  | nan
  | inf (neg : Bool)
  | zero (neg : Bool)
  | fin (x : Ex)
  deriving DecidableEq, Repr

def Val.isNan : Val → Bool
  | .nan => true
  | _ => false
def Val.isInf : Val → Bool
  | .inf _ => true
  | _ => false
def Val.isZero : Val → Bool
  | .zero _ => true
  | _ => false
/-- The sign of a value. -/
def Val.neg : Val → Bool
  | .nan => false
  | .inf n => n
  | .zero n => n
  | .fin x => x.neg
/-- A value with its sign changed. -/
def Val.flip : Val → Val
  | .nan => .nan
  | .inf n => .inf (!n)
  | .zero n => .zero (!n)
  | .fin x => .fin { x with neg := !x.neg }
/-- A value with a given sign. -/
def Val.signed (n : Bool) : Val → Val
  | .nan => .nan
  | .inf _ => .inf n
  | .zero _ => .zero n
  | .fin x => .fin { x with neg := n }

/-- ± m · 2^e, or a zero of the sign. -/
def valDy (neg : Bool) (m : Nat) (e : Int) : Val := if m = 0 then .zero neg else .fin ⟨neg, m, 1, e⟩
/-- An integer, as a value. -/
def valInt (i : Int) : Val := valDy (decide (i < 0)) i.natAbs 0

/-- The product of two reals. -/
def exMul (a b : Ex) : Ex := ⟨a.neg != b.neg, a.num * b.num, a.den * b.den, a.exp + b.exp⟩
/-- The quotient of two reals. -/
def exDiv (a b : Ex) : Ex := ⟨a.neg != b.neg, a.num * b.den, a.den * b.num, a.exp - b.exp⟩
/-- A real scaled by 2^e. -/
def exScale (a : Ex) (e : Int) : Ex := { a with exp := a.exp + e }

/-- The numerator of a real over the denominator `den`, in units of 2^e, with its sign; `e` is at most its
exponent. -/
def exUnits (a : Ex) (e : Int) : Int :=
  let m : Int := (a.num * 2 ^ (a.exp - e).toNat : Nat)
  if a.neg then -m else m

/-- The exact sum of two reals. -/
def exAdd (a b : Ex) : Option Ex :=
  let e := min a.exp b.exp
  let t := exUnits a e * b.den + exUnits b e * a.den
  if t = 0 then none else some ⟨decide (t < 0), t.natAbs, a.den * b.den, e⟩

/-- The exact sum of many reals; none when it is zero. -/
def exSum (xs : List Ex) : Option Ex :=
  xs.foldl (fun acc x => match acc with
    | none => some x
    | some a => exAdd a x) none

/-- The order of magnitudes. -/
def exMagLt (a b : Ex) : Bool :=
  let e := min a.exp b.exp
  decide (a.num * 2 ^ (a.exp - e).toNat * b.den < b.num * 2 ^ (b.exp - e).toNat * a.den)

/-- floor(log2 |x|). -/
def exLog2 (x : Ex) : Int :=
  let l : Int := (x.num.log2 : Int) - x.den.log2
  let fits := if 0 ≤ l then decide (x.den * 2 ^ l.toNat ≤ x.num) else decide (x.den ≤ x.num * 2 ^ (-l).toNat)
  x.exp + (if fits then l else l - 1)

/-- The magnitude in units of 2^g: quotient, remainder and divisor. -/
def exGrid (x : Ex) (g : Int) : Nat × Nat × Nat :=
  let n := if g ≤ x.exp then x.num * 2 ^ (x.exp - g).toNat else x.num
  let d := if g ≤ x.exp then x.den else x.den * 2 ^ (g - x.exp).toNat
  (n / d, n % d, d)

/-! ### The generator (R74, R76) -/

/-- One step of a generator state. -/
def genStep (s : DWord) : DWord :=
  let s := s ^^^ (s <<< 13)
  let s := s ^^^ (s >>> 7)
  s ^^^ (s <<< 17)

/-- The output word of a state just stepped. -/
def genOut (s : DWord) : Word := BitVec.ofNat 32 (bits s.toNat 32 32)

/-- rotl32(o, (5l + 3k) mod 32). -/
def genRot (o : Word) (l k : Nat) : Word :=
  let n := (5 * l + 3 * k) % 32
  o <<< n ||| o >>> (32 - n)

/-- Divides out factors of two, at most `f` of them: how many, and what is left. -/
def dropTwos : Nat → Nat → Nat × Nat
  | 0, x => (0, x)
  | f + 1, x => if x % 2 = 0 then let r := dropTwos f (x / 2); (r.1 + 1, r.2) else (0, x)

/-- Whether a magnitude with fraction r / d of a grid step rounds away from zero, under the word rw (R76). -/
def stochAway (r d : Nat) (rw : Word) : Bool :=
  let f32 := r * 2 ^ 32 / d
  let t := if r * 2 ^ 32 % d = 0 then (dropTwos 31 f32).1 else 0
  let n := 32 - t
  decide (2 ^ n ≤ f32 / 2 ^ t + bits rw.toNat (32 - n) n)

/-! ### Rounding to a grid (R66) -/

/-- Whether a magnitude q + r / d of grid steps, 0 < r < d, goes to q + 1. `odd` tells whether the lower
neighbour's encoding has bit 0 set. -/
def roundsUp (rm : Nat) (neg : Bool) (odd : Bool) (r d : Nat) (rw : Word) : Bool :=
  match rm with
  | 0 => decide (d < 2 * r) || (2 * r == d && odd)
  | 1 => false
  | 2 => neg
  | 3 => !neg
  | 4 => decide (d ≤ 2 * r)
  | 5 => stochAway r d rw
  | _ => !odd

/-- nearest(rm, x, 2^g): the magnitude in grid steps. `base` is bit 0 of the encoding of grid index q. -/
def nearest (rm : Nat) (x : Ex) (g : Int) (odd : Nat → Bool) (rw : Word) : Nat :=
  let r := exGrid x g
  if r.2.1 = 0 then r.1 else r.1 + (if roundsUp rm x.neg (odd r.1) r.2.1 r.2.2 rw then 1 else 0)

/-! ### Encodings (R62 to R65) -/

/-- The canonical NaN of a slot that has one. -/
def fmNanCode (f : Word) : Nat :=
  match fmNan f with
  | 1 => (2 ^ fmE f - 1) * 2 ^ fmM f + 2 ^ (fmM f - 1)
  | 2 => fmTop f
  | _ => 2 ^ (fmE f + fmM f)

/-- A sign bit at its place. -/
def fmSign (f : Word) (neg : Bool) : Nat := if neg && fmS f == 1 then 2 ^ (fmW f - 1) else 0

/-- The infinity of a sign. -/
def fmInfCode (f : Word) (neg : Bool) : Nat :=
  fmSign f neg + (if fmInf f = 1 then (2 ^ fmE f - 1) * 2 ^ fmM f else fmTop f)

/-- The largest finite value of a sign (R65). -/
def fmMaxOf (f : Word) (neg : Bool) : Nat :=
  if !neg then fmMaxCode f
  else if fmS f = 0 then 0
  else if fmE f = 0 then 2 ^ fmM f
  else fmSign f true + fmMaxCode f

/-- A zero of a sign, when the slot has two. -/
def fmZero (f : Word) (neg : Bool) : Nat := if fmE f = 0 ∨ fmNan f = 3 then 0 else fmSign f neg

/-- The magnitude code of q · 2^g in a slot with E ≥ 1: g is the grid of its binade, or the subnormal grid. -/
def fmCode (f : Word) (q : Nat) (g : Int) : Nat :=
  if q < 2 ^ fmM f then q
  else
    let up := decide (2 ^ (fmM f + 1) ≤ q)
    let e := g + fmM f + fmBias f + (if up then 1 else 0)
    e.toNat * 2 ^ fmM f + (if up then 0 else q - 2 ^ fmM f)

/-- decode(fs, w) (R62 to R64), without input flushing. -/
def fmDecode (f : Word) (w : Nat) : Val :=
  if fmE f = 0 then
    let n : Int := if fmS f = 1 then sx (fmW f) w else (bits w 0 (fmW f) : Nat)
    valDy (decide (n < 0)) n.natAbs (-fmBias f)
  else
    let neg := fmS f == 1 && bits w (fmW f - 1) 1 == 1
    let body := bits w 0 (fmE f + fmM f)
    let e := body / 2 ^ fmM f
    let m := body % 2 ^ fmM f
    let ones := e == 2 ^ fmE f - 1
    if fmNan f = 3 ∧ neg ∧ body = 0 then .nan
    else if fmInf f = 2 ∧ body = fmTop f then .inf neg
    else if fmNan f = 1 ∧ ones ∧ m ≠ 0 then .nan
    else if fmNan f = 2 ∧ body = fmTop f then .nan
    else if fmInf f = 1 ∧ ones then .inf neg
    else if e = 0 then valDy neg m (1 - fmBias f - fmM f)
    else valDy neg (2 ^ fmM f + m) (e - fmBias f - fmM f)

/-- Whether an encoding is subnormal. -/
def fmSubnormal (f : Word) (w : Nat) : Bool :=
  let body := bits w 0 (fmE f + fmM f)
  fmE f != 0 && body != 0 && decide (body < 2 ^ fmM f)

/-- in(fs, w): decode after the input flushing of R68. -/
def fmIn (f : Word) (w : Nat) : Val :=
  if (fmSub f = 1 ∨ fmSub f = 3) ∧ fmSubnormal f w then .zero (fmDecode f w).neg else fmDecode f w

/-! ### round_to (R67) -/

/-- A rounded result: its encoding and the flags it raises (R13). -/
structure Rnd where
  code  : Nat
  flags : Nat
  deriving DecidableEq, Repr

def flNX : Nat := 1
def flUF : Nat := 2
def flOF : Nat := 4
def flDZ : Nat := 8
def flNV : Nat := 16

/-- nan_out(fs). -/
def nanOut (f : Word) : Rnd := if fmNan f ≠ 0 then ⟨fmNanCode f, 0⟩ else ⟨0, flNV⟩

/-- A NaN of an invalid case: NV, then nan_out(fs). -/
def nvOut (f : Word) : Rnd := ⟨(nanOut f).code, flNV⟩

/-- inf_out(fs, v). -/
def infOut (f : Word) (neg : Bool) : Rnd :=
  if fmS f = 0 ∧ neg then ⟨(nanOut f).code, flNV⟩
  else if fmInf f ≠ 0 then ⟨fmInfCode f neg, 0⟩
  else ⟨if fmNan f ≠ 0 then fmNanCode f else fmMaxOf f neg, flNV⟩

/-- overflow_out(fs, sg). -/
def overflowOut (f : Word) (neg : Bool) : Nat :=
  if fmSat f then fmMaxOf f neg
  else if fmInf f ≠ 0 then fmInfCode f neg
  else if fmNan f ≠ 0 then fmNanCode f
  else fmMaxOf f neg

/-- The part of round_to after rounding: t is q · 2^g with the sign of x, `fl` the flags so far. -/
def roundEnd (f : Word) (x : Ex) (q : Nat) (g : Int) (fl : Nat) : Rnd :=
  let fl := if (exGrid x g).2.1 ≠ 0 then fl ||| flNX else fl
  if q = 0 then ⟨fmZero f x.neg, fl⟩
  else if fmS f = 0 ∧ x.neg then ⟨(nanOut f).code, fl ||| flNV⟩
  else if fmE f = 0 then
    if (if x.neg then 2 ^ fmM f else fmMaxCode f) < q then ⟨overflowOut f x.neg, fl ||| flOF⟩
    else ⟨if x.neg then 2 ^ fmW f - q else q, fl⟩
  else if fmMaxCode f < fmCode f q g then ⟨overflowOut f x.neg, fl ||| flOF⟩
  else ⟨fmSign f x.neg + fmCode f q g, fl⟩

/-- round_to of a nonzero real; `rw` is the word that RM = 5 draws. -/
def roundEx (f : Word) (x : Ex) (rw : Word) : Rnd :=
  let odd := fun (q : Nat) => q % 2 == 1
  if fmE f = 0 then
    let g := -fmBias f
    roundEnd f x (nearest (fmRm f) x g odd rw) g 0
  else
    let g := exLog2 x - fmM f
    let low := 1 - fmBias f - fmM f
    let q := nearest (fmRm f) x g
      (if fmM f = 0 then fun _ => (g + fmBias f) % 2 == 1 else odd) rw
    if g + exLog2 ⟨false, q, 1, 0⟩ < 1 - fmBias f then
      if fmSub f = 1 ∨ fmSub f = 2 then ⟨fmZero f x.neg, flUF ||| flNX⟩
      else
        let q := nearest (fmRm f) x low odd rw
        roundEnd f x q low (if (exGrid x low).2.1 ≠ 0 then flUF else 0)
    else roundEnd f x q g 0

/-- round_to(fs, v) (R67). -/
def roundTo (f : Word) (v : Val) (rw : Word) : Rnd :=
  match v with
  | .nan => nanOut f
  | .inf n => infOut f n
  | .zero n => ⟨fmZero f n, 0⟩
  | .fin x => roundEx f x rw

/-- round32 (R82): binary32, ties to even. -/
def round32 (v : Val) : Rnd := roundTo fmB32 v 0

/-- The binary32 NaN that exact sums and block values give (R73, R80). -/
def nan32 : Nat := 0x7FC00000

/-! ### Sums of a few terms (R69, R116) -/

/-- The exact sum of two values that are neither NaN nor infinities of both signs; zeros as R69 and R116 say. -/
def addVals (rm : Nat) (a b : Val) : Val :=
  match a, b with
  | .nan, _ => .nan
  | _, .nan => .nan
  | .inf n, _ => .inf n
  | _, .inf n => .inf n
  | .zero m, .zero n => .zero ((m && n) || (rm == 2 && (m || n)))
  | .zero _, .fin y => .fin y
  | .fin x, .zero _ => .fin x
  | .fin x, .fin y => match exAdd x y with
    | some z => .fin z
    | none => .zero (rm == 2)

/-- Infinities of both signs. -/
def infClash (a b : Val) : Bool :=
  match a, b with
  | .inf m, .inf n => m != n
  | _, _ => false

/-- The product of two values that are not 0 and ∞. -/
def mulVals (a b : Val) : Val :=
  let n := a.neg != b.neg
  match a, b with
  | .nan, _ => .nan
  | _, .nan => .nan
  | .inf _, _ => .inf n
  | _, .inf _ => .inf n
  | .zero _, _ => .zero n
  | _, .zero _ => .zero n
  | .fin x, .fin y => .fin (exMul x y)

/-- 0 × ∞. -/
def zeroInf (a b : Val) : Bool := (a.isZero && b.isInf) || (a.isInf && b.isZero)

/-! ### Exact sums (R73) -/

/-- The finite nonzero reals of a list. -/
def finVals (vs : List Val) : List Ex := vs.filterMap (fun v => match v with | .fin x => some x | _ => none)

/-- acc + Σ a·b, as one binary32 word and the flags it raises. -/
def exactSum (acc : Word) (terms : List (Val × Val)) : Rnd :=
  let c := fmDecode fmB32 acc.toNat
  let ps := terms.map (fun t => mulVals t.1 t.2)
  let infs := (c :: ps).filter Val.isInf
  if c.isNan || terms.any (fun t => t.1.isNan || t.2.isNan) then ⟨nan32, 0⟩
  else if terms.any (fun t => zeroInf t.1 t.2) || infs.any (fun x => infs.any (fun y => infClash x y)) then
    ⟨nan32, flNV⟩
  else match infs with
    | v :: _ => ⟨fmInfCode fmB32 v.neg, 0⟩
    | [] =>
      if (finVals ps).isEmpty then ⟨acc.toNat, 0⟩
      else match exSum (finVals (c :: ps)) with
        | none => ⟨0, 0⟩
        | some x => round32 (.fin x)

/-- Newton steps toward floor(√n) from above. -/
def isqrtGo : Nat → Nat → Nat → Nat
  | 0, _, x => x
  | f + 1, n, x => let y := (x + n / x) / 2; if y < x then isqrtGo f n y else x

/-- floor(√n). -/
def isqrt (n : Nat) : Nat := if n = 0 then 0 else isqrtGo (n.log2 + 16) n (2 ^ (n.log2 / 2 + 1))

end Sys2Proof.Machine
end

