-- ==== Sys2Proof/Machine/Block.lean ====
section
/-! DEFINITION. The block-scaled format (R77 to R82): a block as one number, quantization, its values,
requantization and quantization with residual. -/

namespace Sys2Proof.Machine

/-- Element code j of a block with element width w. -/
def blkElem (w blk j : Nat) : Nat := bits blk (j * w) w
/-- The scale byte. -/
def blkScale (w blk : Nat) : Nat := bits blk (48 * w) 8
/-- Outlier entry i: index and bfloat16 value; none when it is ignored (R78). -/
def blkOut (w blk i : Nat) : Option (Nat × Nat) :=
  let e := bits blk (48 * w + 8 + 24 * i) 24
  if bits e 0 6 < 48 then some (bits e 0 6, bits e 8 16) else none

/-- A block from its element codes, scale and outlier entries (R77, R78). -/
def blkMake (w o : Nat) (elems : List Nat) (scale : Nat) (outs : List (Nat × Nat)) : Nat :=
  let el := (elems.foldl (fun (acc : Nat × Nat) c => (acc.1 + 2 ^ acc.2 * (c % 2 ^ w), acc.2 + w)) (0, 0)).1
  let ou := ((List.range o).map (fun i => match outs[i]? with
      | some e => e.1 + 2 ^ 8 * e.2
      | none => 63)).foldl
    (fun (acc : Nat × Nat) e => (acc.1 + 2 ^ acc.2 * e, acc.2 + 24)) (0, 0)
  el + 2 ^ (48 * w) * scale + 2 ^ (48 * w + 8) * ou.1

/-- A non-finite block (R79). -/
def blkNonFinite (w o : Nat) : Nat := blkMake w o [] 255 []

/-- A quantized block with the flags raised and the counters to increment, by their place in QSTAT (R14). -/
structure Quant where
  blk   : Nat
  flags : Nat
  evs   : List Nat
  deriving DecidableEq, Repr

def evZERO : Nat := 0
def evSATB : Nat := 1
def evNONF : Nat := 2
def evOUTL : Nat := 3

/-- floor(log2 maxpos) of a slot. -/
def fmEmax (f : Word) : Int :=
  match fmDecode f (fmMaxCode f) with
  | .fin x => exLog2 x
  | _ => 0

/-- The magnitude bits of a binary32 word: their order is the order of magnitudes. -/
def mag32 (x : Word) : Nat := bits x.toNat 0 31

/-- The outliers among candidates, as indices: largest magnitude first, then lower index (R79). -/
def pickOuts : Nat → List (Nat × Nat) → List Nat
  | 0, _ => []
  | n + 1, cs =>
    match cs with
    | [] => []
    | c :: rest =>
      let b := rest.foldl (fun (best : Nat × Nat) d => if best.2 < d.2 then d else best) c
      b.1 :: pickOuts n (cs.filter (fun d => d.1 != b.1))

/-- A value scaled by 2^e. -/
def valScale (v : Val) (e : Int) : Val :=
  match v with
  | .fin x => .fin (exScale x e)
  | v => v

/-- The counters of step 5 of R79, from the elements' inputs and results. -/
def blockEvents (f : Word) (rs : List (Val × Rnd)) : List Nat :=
  (if rs.any (fun r => !r.1.isZero) && rs.all (fun r => (fmDecode f r.2.code).isZero) then [evZERO] else []) ++
  (if !rs.isEmpty && rs.all (fun r => r.2.flags &&& flOF != 0) then [evSATB] else [])

/-- Quantization of 48 binary32 values (R79). `g` is the generator's output, `l` the lane. -/
def quantBlock (f : Word) (xs : List Word) (cap : Word) (o : Nat) (g : Word) (l : Nat) : Quant :=
  let w := fmW f
  let vs := xs.map (fun x => fmDecode fmB32 x.toNat)
  if (fmNan f == 0 && vs.any Val.isNan) || (fmInf f == 0 && vs.any Val.isInf) then
    ⟨blkNonFinite w o, 0, [evNONF]⟩
  else
    let idx := (List.range 48).map (fun j => (j, xs.getD j 0, vs.getD j .nan))
    let fin := idx.filter (fun t => !(t.2.2.isNan || t.2.2.isInf))
    let capNan := (fmDecode fmB32 cap.toNat).isNan
    let cands := if capNan then [] else
      (fin.filter (fun t => decide (mag32 cap < mag32 t.2.1))).map (fun t => (t.1, mag32 t.2.1))
    let outs := pickOuts o cands
    let rest := fin.filter (fun t => !outs.contains t.1)
    let mx := rest.foldl (fun m t => max m (mag32 t.2.1)) 0
    let e : Int := match fmDecode fmB32 mx with
      | .fin x => max 0 (min 254 (exLog2 x - fmEmax f + 127))
      | _ => 0
    let res := idx.map (fun t =>
      if outs.contains t.1 then (⟨0, 0⟩ : Rnd)
      else if t.2.2.isNan || t.2.2.isInf then roundTo f t.2.2 0
      else roundTo f (valScale t.2.2 (127 - e)) (genRot g l t.1))
    let rr := rest.map (fun t => (t.2.2, res.getD t.1 ⟨0, 0⟩))
    let oes := outs.map (fun j => (j, (roundTo fmBf16 (vs.getD j .nan) 0).code))
    ⟨blkMake w o (res.map (·.code)) e.toNat oes, res.foldl (fun a r => a ||| r.flags) 0,
      blockEvents f rr ++ (if outs.length < cands.length then [evOUTL] else [])⟩

/-- The outlier entry that names element j: the highest-numbered one (R78). -/
def blkOutOf (w o blk j : Nat) : Option Nat :=
  (List.range o).foldl (fun acc i => match blkOut w blk i with
    | some e => if e.1 = j then some e.2 else acc
    | none => acc) none

/-- The value of element j of a block (R80). -/
def blkValue (f : Word) (o blk j : Nat) : Val :=
  let w := fmW f
  if blkScale w blk = 255 then .nan
  else match blkOutOf w o blk j with
    | some v => fmDecode fmBf16 v
    | none => valScale (fmIn f (blkElem w blk j)) ((blkScale w blk : Nat) - 127)

/-- Requantization to a forced scale (R81). -/
def requantBlock (f : Word) (blk o e : Nat) (g : Word) (l : Nat) : Quant :=
  let w := fmW f
  let whole := bits blk 0 (48 * w + 8 + 24 * o)
  if blkScale w blk = 255 then ⟨whole, 0, []⟩
  else if e = 255 then ⟨blkNonFinite w o, 0, [evNONF]⟩
  else
    let res : List (Option (Val × Rnd) × Nat) := (List.range 48).map (fun j =>
      let v := blkValue f o blk j
      if (blkOutOf w o blk j).isSome || v.isNan || v.isInf then (none, blkElem w blk j)
      else
        let r := roundTo f (valScale v (127 - (e : Int))) (genRot g l j)
        (some (v, r), r.code))
    let rr := res.filterMap (·.1)
    let el := (res.foldl (fun (acc : Nat × Nat) c => (acc.1 + 2 ^ acc.2 * c.2, acc.2 + w)) (0, 0)).1
    ⟨el + 2 ^ (48 * w) * e + 2 ^ (48 * w + 8) * bits blk (48 * w + 8) (24 * o),
      rr.foldl (fun a r => a ||| r.2.flags) 0, blockEvents f rr⟩

/-- The sum of two values under ties to even; NaN where the infinities clash. A sum of zeros has the sign that R116 gives
`fadd` (DESIGN CHOICE, unsafe: log entry 12: R82 and R130 state none). -/
def sumVals (a b : Val) : Val := if infClash a b then .nan else addVals 0 a b

/-- Quantization with residual (R82): the block and the new residuals. -/
def quantResid (f : Word) (xs rs : List Word) (cap : Word) (o : Nat) (g : Word) (l : Nat) :
    Quant × List Nat :=
  let ys : List Word := (List.range 48).map (fun j => BitVec.ofNat 32 (round32 (sumVals
    (fmDecode fmB32 (xs.getD j 0).toNat) (fmDecode fmB32 (rs.getD j 0).toNat))).code)
  let q := quantBlock f ys cap o g l
  let nonf := blkScale (fmW f) q.blk == 255
  (q, (List.range 48).map (fun j =>
    let v := fmDecode fmB32 (ys.getD j 0).toNat
    if nonf || v.isNan || v.isInf then 0
    else (round32 (sumVals v (blkValue f o q.blk j).flip)).code))

end Sys2Proof.Machine
end

