-- ==== Sys2Proof/Machine/Flags.lean ====
section
/-! DEFINITION. The status words that instructions raise: FFLAGS (R13), the counters of QSTAT (R14) and ACCSTAT
(R202), and the one way that each changes. -/

namespace Sys2Proof.Machine

/-- Raises flags in FFLAGS (R13). -/
def raiseFlags (s : State) (w fl : Nat) : State :=
  let x := warpAt s w
  setWarp s w { x with fflags := x.fflags ||| BitVec.ofNat 32 fl }

/-- Raises bits in ACCSTAT (R202). -/
def raiseAcc (s : State) (w fl : Nat) : State :=
  let x := warpAt s w
  setWarp s w { x with accstat := x.accstat ||| BitVec.ofNat 32 fl }

/-- Increments the counters of QSTAT that `evs` lists, saturating (R14). -/
def qstatAdd (q : Word) (evs : List Nat) : Word :=
  BitVec.ofNat 32 (evs.foldl (fun x k => if bits x (8 * k) 8 = 255 then x else x + 2 ^ (8 * k)) q.toNat)

/-- The counts of a completed `cpyq` added to the warp's QSTAT (R291, R14). -/
def qstatCounts (q : Word) (cnt : List Nat) : Word :=
  BitVec.ofNat 32 ((List.range 4).foldl (fun acc k =>
    acc + 2 ^ (8 * k) * min 255 (bits q.toNat (8 * k) 8 + cnt.getD k 0)) 0)

/-- The status word that a selector names (R127). -/
def statusOf (x : Warp) (sel : FlagSel) : Word :=
  match sel with
  | .ff => x.fflags
  | .qs => x.qstat
  | .as => x.accstat

/-- Clears bits of the status word that a selector names (R127). -/
def clearStatus (s : State) (w : Nat) (sel : FlagSel) (v : Nat) : State :=
  let x := warpAt s w
  let n := statusOf x sel &&& ~~~(BitVec.ofNat 32 v)
  setWarp s w (match sel with
    | .ff => { x with fflags := n }
    | .qs => { x with qstat := n }
    | .as => { x with accstat := n })

end Sys2Proof.Machine
end

