-- ==== Sys2Proof/Machine/Special.lean ====
section
/-! DEFINITION. The special functions (R84, R119, R120): each is evaluated in an interval of fixed-point numbers
that contains the exact value, with more and more bits until both ends round to one 24-bit significand. -/

namespace Sys2Proof.Machine

/-! ### r24 -/

/-- A real rounded to a 24-bit significand, ties to even, unbounded exponent (R120). -/
def r24 (x : Ex) : Ex :=
  let g := exLog2 x - 23
  ⟨x.neg, nearest 0 x g (fun q => q % 2 == 1) 0, 1, g⟩

def r24Val : Val → Val
  | .fin x => .fin (r24 x)
  | v => v

/-- Whether two reals are equal. -/
def exEq (a b : Ex) : Bool := (exAdd a { b with neg := !b.neg }).isNone

/-! ### Fixed-point intervals of `p` fraction bits -/

/-- An interval [lo, hi] · 2^-p. -/
structure Iv where
  lo : Int
  hi : Int
  deriving DecidableEq, Repr

/-- x ± e. -/
def ivAround (x : Int) (e : Int) : Iv := ⟨x - e, x + e⟩

/-- A real in units of 2^-p, rounded down. -/
def fixOf (p : Nat) (x : Ex) : Int :=
  let m : Int := ((exGrid x (-(p : Int))).1 : Nat)
  if x.neg then -m else m

/-- The common rounding of both ends to 24 bits, when they agree; the interval is scaled by 2^k. -/
def ivRound (p : Nat) (iv : Iv) (k : Int) : Option Val :=
  let r := fun (i : Int) => match valDy (decide (i < 0)) i.natAbs (k - p) with
    | .fin x => some (r24 x)
    | _ => none
  match r iv.lo, r iv.hi with
  | some a, some b => if exEq a b then some (.fin a) else none
  | _, _ => none

/-- What each term of a series is off by, summed, in units of 2^-p: more than enough for 2^12 terms and for
arguments whose own error is up to 2^30 units. -/
def slack : Int := 2 ^ 40

/-- Σ x^k / k! from term `t` of index `k` on. -/
def expSeries (p : Nat) (x : Int) : Nat → Nat → Int → Int → Int
  | 0, _, _, acc => acc
  | f + 1, k, t, acc => if t = 0 then acc else
      expSeries p x f (k + 1) (t * x / 2 ^ p / (k + 1 : Nat)) (acc + t)

/-- e^x for 0 ≤ x < 1. -/
def fixExp (p : Nat) (x : Int) : Int := expSeries p x (p + 8) 0 (2 ^ p) 0

/-- Σ z^(2k+1) / (2k+1): atanh z, or atan z with alternating signs. -/
def oddSeries (p : Nat) (z2 : Int) (alt : Bool) : Nat → Nat → Int → Int → Int
  | 0, _, _, acc => acc
  | f + 1, k, t, acc => if t = 0 then acc else
      let a := t / (2 * k + 1 : Nat)
      oddSeries p z2 alt f (k + 1) (t * z2 / 2 ^ p) (acc + (if alt && k % 2 == 1 then -a else a))

def fixAtanh (p : Nat) (z : Int) : Int := oddSeries p (z * z / 2 ^ p) false (p + 8) 0 z 0
def fixAtan (p : Nat) (z : Int) : Int := oddSeries p (z * z / 2 ^ p) true (p + 8) 0 z 0

/-- ln 2 = 2 atanh (1/3). -/
def fixLn2 (p : Nat) : Int := 2 * fixAtanh p (2 ^ p / 3)
/-- π = 16 atan (1/5) - 4 atan (1/239). -/
def fixPi (p : Nat) : Int := 16 * fixAtan p (2 ^ p / 5) - 4 * fixAtan p (2 ^ p / 239)

/-- Σ ± x^k / k! over every second k, from term `t` of index `k` on: sin and cos of |x| ≤ 1. -/
def trigSeries (p : Nat) (x2 : Int) : Nat → Nat → Int → Int → Int
  | 0, _, _, acc => acc
  | f + 1, k, t, acc => if t = 0 then acc else
      trigSeries p x2 f (k + 2) (-(t * x2 / 2 ^ p) / ((k + 1) * (k + 2) : Nat)) (acc + t)

def fixSin (p : Nat) (x : Int) : Int := trigSeries p (x * x / 2 ^ p) (p + 8) 1 x 0
def fixCos (p : Nat) (x : Int) : Int := trigSeries p (x * x / 2 ^ p) (p + 8) 0 (2 ^ p) 0

/-! ### The functions, for arguments whose value is not exact -/

/-- e^x as an interval mantissa of `p` bits and a binary exponent. -/
def expParts (p : Nat) (x : Ex) : Iv × Int :=
  let ln2 := fixLn2 p
  let v := fixOf p x
  let n := v / ln2
  (ivAround (fixExp p (v - n * ln2)) slack, n)

/-- 2^x for x = n + r, with n kept within ±2^14: no slot tells larger exponents apart. -/
def ex2At (p : Nat) (x : Ex) : Option Val :=
  let v := fixOf p x - (if x.neg then 1 else 0)
  let n := v / 2 ^ p
  let r := v - n * 2 ^ p
  ivRound p (ivAround (fixExp p (r * fixLn2 p / 2 ^ p)) slack) (max (-16384) (min 16384 n))

/-- log2 x: k + ln m / ln 2 for x = m · 2^k. -/
def lg2At (p : Nat) (x : Ex) : Option Val :=
  let k := exLog2 x
  let m := fixOf p ⟨false, x.num, x.den, x.exp - k⟩
  let l := 2 * fixAtanh p ((m - 2 ^ p) * 2 ^ p / (m + 2 ^ p))
  ivRound p (ivAround (k * 2 ^ p + l * 2 ^ p / fixLn2 p) slack) 0

/-- sin of an argument, or its cosine. -/
def trigAt (cos : Bool) (p : Nat) (x : Ex) : Option Val :=
  let v := fixOf p x
  let h := fixPi p / 2
  let q := (v + h / 2) / h
  let r := v - q * h
  let k := (q + if cos then 1 else 0) % 4
  let y := if k % 2 = 0 then fixSin p r else fixCos p r
  ivRound p (ivAround (if k < 2 then y else -y) slack) 0

/-- The 24-bit rounding of a positive fraction, when both bounds agree. -/
def ratRound (neg : Bool) (lo hi : Int × Int) (k : Int) : Option Val :=
  if lo.1 ≤ 0 ∨ lo.2 ≤ 0 ∨ hi.1 ≤ 0 ∨ hi.2 ≤ 0 then none
  else
    let a := r24 ⟨neg, lo.1.natAbs, lo.2.natAbs, k⟩
    let b := r24 ⟨neg, hi.1.natAbs, hi.2.natAbs, k⟩
    if exEq a b then some (.fin a) else none

/-- tanh of |x|, with the sign of x: (1 - E) / (1 + E) for E = e^(-2|x|). -/
def tanhAt (p : Nat) (x : Ex) : Option Val :=
  let e := expParts p ⟨true, 2 * x.num, x.den, x.exp⟩
  let s : Int := 2 ^ (-e.2).toNat
  let one : Int := 2 ^ p * s
  ratRound x.neg (one - e.1.hi, one + e.1.hi) (one - e.1.lo, one + e.1.lo) 0

/-- 1 / (1 + e^-x): E / (1 + E) for E = e^x. -/
def sigmAt (p : Nat) (x : Ex) : Option Val :=
  let e := expParts p x
  if e.2 < 0 then
    let one : Int := 2 ^ p * 2 ^ (-e.2).toNat
    ratRound false (e.1.lo, one + e.1.lo) (e.1.hi, one + e.1.hi) 0
  else
    let s : Int := 2 ^ e.2.toNat
    ratRound false (e.1.lo * s, 2 ^ p + e.1.lo * s) (e.1.hi * s, 2 ^ p + e.1.hi * s) 0

/-- Tries 256 bits, then twice as many, and so on. -/
def withBits (f : Nat → Ex → Option Val) (x : Ex) : Nat → Nat → Option Val
  | 0, _ => none
  | k + 1, p => match f p x with
    | some v => some v
    | none => withBits f x k (2 * p)

/-- r24 of a function of a real, by intervals. -/
def special (f : Nat → Ex → Option Val) (x : Ex) : Val := (withBits f x 6 256).getD .nan

/-- A real just nearer zero: what r24 makes of a function that lies below its argument by less than a
fraction 2^-100 of it. -/
def justBelow (x : Ex) : Val := .fin (r24 { x with num := x.num * 2 ^ 100 - 1, exp := x.exp - 100 })

/-- An argument of `fsigm` of 2^12 and above in magnitude: no slot tells the results apart. -/
def clampEx (x : Ex) : Ex := if 12 ≤ exLog2 x then ⟨x.neg, 1, 1, 12⟩ else x

/-! ### The six functions and `frsq`: y, whether it is exact, and the flag of a special input -/

/-- A special function's value: y, the flags of the special case, and whether y ≠ f(x). -/
structure SpecRes where
  y     : Val
  flags : Nat
  deriving DecidableEq, Repr

/-- The reduced argument of `fsin` and `fcos` (R120). -/
def reduceArg (x : Ex) : Option Ex :=
  if exLog2 x < 16 ∨ exEq ⟨false, x.num, x.den, x.exp⟩ ⟨false, 1, 1, 16⟩ then some x
  else
    let two := fixPi 256 * 2
    let p := (two / 2 ^ 194 + 1) / 2
    let pr : Ex := ⟨false, p.natAbs, 1, -61⟩
    let q := nearest 0 (exDiv x pr) 0 (fun q => q % 2 == 1) 0
    exAdd x ⟨!x.neg, q * p.natAbs, 1, -61⟩

/-- 2^n for an integer n given as a real; its exponent is kept within ±2^14. -/
def twoTo (x : Ex) : Val :=
  let big := decide (14 ≤ exLog2 x)
  let n : Int := if big then 16384 else ((exGrid x 0).1 : Nat)
  .fin ⟨false, 1, 1, if x.neg then -n else n⟩

def fnEx2 (v : Val) : SpecRes :=
  match v with
  | .nan => ⟨.nan, 0⟩
  | .inf n => ⟨if n then .zero false else .inf false, 0⟩
  | .zero _ => ⟨.fin ⟨false, 1, 1, 0⟩, 0⟩
  | .fin x =>
    if (exGrid x 0).2.1 = 0 then ⟨twoTo x, 0⟩
    else ⟨special ex2At x, flNX⟩

def fnLg2 (v : Val) : SpecRes :=
  match v with
  | .nan => ⟨.nan, 0⟩
  | .inf n => if n then ⟨.nan, flNV⟩ else ⟨.inf false, 0⟩
  | .zero _ => ⟨.inf true, flDZ⟩
  | .fin x =>
    if x.neg then ⟨.nan, flNV⟩
    else if (exGrid x (exLog2 x)).2.1 = 0 then ⟨valInt (exLog2 x), 0⟩
    else ⟨special lg2At x, flNX⟩

def fnSin (v : Val) : SpecRes :=
  match v with
  | .nan => ⟨.nan, 0⟩
  | .inf _ => ⟨.nan, flNV⟩
  | .zero n => ⟨.zero n, 0⟩
  | .fin x => match reduceArg x with
    | none => ⟨.zero false, flNX⟩
    | some r => ⟨if exLog2 r < -64 then justBelow r else special (trigAt false) r, flNX⟩

def fnCos (v : Val) : SpecRes :=
  match v with
  | .nan => ⟨.nan, 0⟩
  | .inf _ => ⟨.nan, flNV⟩
  | .zero _ => ⟨.fin ⟨false, 1, 1, 0⟩, 0⟩
  | .fin x => match reduceArg x with
    | none => ⟨.fin ⟨false, 1, 1, 0⟩, flNX⟩
    | some r => ⟨special (trigAt true) r, flNX⟩

def fnTanh (v : Val) : SpecRes :=
  match v with
  | .nan => ⟨.nan, 0⟩
  | .inf n => ⟨.fin ⟨n, 1, 1, 0⟩, 0⟩
  | .zero n => ⟨.zero n, 0⟩
  | .fin x =>
    ⟨if exLog2 x < -64 then justBelow x
     else if 6 ≤ exLog2 x then .fin ⟨x.neg, 1, 1, 0⟩ else special tanhAt x, flNX⟩

def fnSigm (v : Val) : SpecRes :=
  match v with
  | .nan => ⟨.nan, 0⟩
  | .inf n => ⟨if n then .zero false else .fin ⟨false, 1, 1, 0⟩, 0⟩
  | .zero _ => ⟨.fin ⟨false, 1, 1, -1⟩, 0⟩
  | .fin x => ⟨special sigmAt (clampEx x), flNX⟩

/-- √ of a positive real with den = 1: an exact value, or one that lies between the same neighbours on every
grid coarser than 2^-400 of it. -/
def exSqrt (x : Ex) (k : Nat) : Ex × Bool :=
  let odd := x.exp % 2 == 1
  let n := (x.num * (if odd then 2 else 1)) * 2 ^ (2 * k) / x.den
  let rest := (x.num * (if odd then 2 else 1)) * 2 ^ (2 * k) % x.den
  let e := (x.exp - (if odd then 1 else 0)) / 2 - k
  let r := isqrt n
  if r * r = n ∧ rest = 0 then (⟨false, r, 1, e⟩, true) else (⟨false, 2 * r + 1, 1, e - 1⟩, false)

/-- `frsq` (R119): 1/√x, rounded to 24 bits. -/
def fnRsq (v : Val) : SpecRes :=
  match v with
  | .nan => ⟨.nan, 0⟩
  | .inf n => if n then ⟨.nan, flNV⟩ else ⟨.zero false, 0⟩
  | .zero n => ⟨.inf n, flDZ⟩
  | .fin x =>
    if x.neg then ⟨.nan, flNV⟩
    else
      let y := r24 (exSqrt ⟨false, x.den, x.num, -x.exp⟩ 450).1
      ⟨.fin y, if exEq (exMul (exMul y y) x) ⟨false, 1, 1, 0⟩ then 0 else flNX⟩

/-- A special function of one sub-element under slot word f (R120): the input is rounded to 24 bits first. -/
def specialOp (f : Word) (fn : Val → SpecRes) (w : Nat) (rw : Word) : Rnd :=
  let r := fn (r24Val (fmIn f w))
  let o := roundTo f r.y rw
  ⟨o.code, r.flags ||| o.flags⟩

end Sys2Proof.Machine
end

