-- ==== Sys2Proof/Machine/Slots.lean ====
section
/-! DEFINITION. Majors 0x20 to 0x28 (R115 to R130): arithmetic under format slots, compares and conversions,
exact sums, slot and status access, and the block instructions. -/

namespace Sys2Proof.Machine

/-- The word of slot f of the issuing warp. -/
def slotWord (x : Warp) (f : FSlot) : Word := x.fs.getD f.val 0

/-- Steps SRGEN when the instruction rounds under RM = 5 and a lane takes part (R75): the output word. -/
def stepGen (s : State) (w : Nat) (rounds : Bool) (m : Mask) : Word × State :=
  let x := warpAt s w
  if rounds && m != 0 then
    let g := genStep x.srgen
    (genOut g, setWarp s w { x with srgen := g })
  else (0, s)

/-! ### Packed operations (R71) -/

/-- The sub-elements of a result: each is a code of W bits, and flags are OR-ed. -/
def packRnds (w : Nat) (rs : List Rnd) : Rnd :=
  let r := rs.foldl (fun (acc : Rnd × Nat) r =>
    (⟨acc.1.code + 2 ^ acc.2 * r.code, acc.1.flags ||| r.flags⟩, acc.2 + w)) (⟨0, 0⟩, 0)
  r.1

/-- An instruction under a slot, lane by lane: `fn` is given the slot word, the sources, the lane and the
generator's output (R115). -/
def slotLanes (s : State) (h : Hdr) (f : FSlot) (d : Opnd) (srcs : List Src) (extra : Env → Bool)
    (rounds : Word → Bool) (fn : Word → List Nat → Nat → Word → Rnd) : Host.Outcome State Fault Refusal :=
  runInstr s f.val (fun e => regsOk ((d, 1) :: srcs) e && !fmIllegal (slotWord e.x f) && extra e) anyMode h.g
    (fun e =>
      let m := taking e h.g
      let fw := slotWord e.x f
      match readSrcs s e m srcs (some d) (!h.w) with
      | .error x => .error x
      | .ok (s, vals) =>
        let r := stepGen s e.w (rounds fw) m
        let res := tab (fun l => if m.getLsbD l then fn fw (vals l) l r.1 else ⟨0, 0⟩)
        let s := raiseFlags r.2 e.w (res.foldl (fun a x => a ||| x.flags) 0)
        finish s e h d m 1 (fun l => (lane ⟨0, 0⟩ res l).code))

/-- An elementwise operation: a value, or its invalid case, from the encodings of one sub-element (R71). -/
def slotElems (s : State) (h : Hdr) (f : FSlot) (d : Opnd) (srcs : List Opnd)
    (fn : Word → List Nat → Word → Rnd) : Host.Outcome State Fault Refusal :=
  slotLanes s h f d (srcs.map (fun o => (o, 1))) (fun _ => true) (fun fw => fmRm fw == 5)
    (fun fw vals l g => packRnds (fmW fw) ((List.range (fmN fw)).map (fun k =>
      fn fw (vals.map (fun v => bits v (k * fmW fw) (fmW fw))) (genRot g l k))))

/-- The encodings of one sub-element, decoded after input flushing. -/
def argIn (f : Word) (ws : List Nat) (k : Nat) : Val := fmIn f (ws.getD k 0)

/-! ### Elementwise operations (R117) -/

/-- a + b, with the invalid case of infinities of both signs. -/
def rndAdd (f : Word) (a b : Val) (rw : Word) : Rnd :=
  if a.isNan || b.isNan then nanOut f
  else if infClash a b then nvOut f
  else roundTo f (addVals (fmRm f) a b) rw

def rndMul (f : Word) (a b : Val) (rw : Word) : Rnd :=
  if a.isNan || b.isNan then nanOut f
  else if zeroInf a b then nvOut f
  else roundTo f (mulVals a b) rw

/-- The order of two values that are not NaN, with −0 below +0 where `zeros` says so. -/
def valLt (zeros : Bool) (a b : Val) : Bool :=
  match a, b with
  | .zero m, .zero n => zeros && m && !n
  | .inf m, .inf n => m && !n
  | .inf m, _ => m
  | _, .inf n => !n
  | .zero _, .fin y => !y.neg
  | .fin x, .zero _ => x.neg
  | .fin x, .fin y =>
    if x.neg != y.neg then x.neg
    else if x.neg then exMagLt y x else exMagLt x y
  | _, _ => false

/-- The smaller or the larger of two values (R117). -/
def minMaxVal (mx : Bool) (a b : Val) : Val :=
  if a.isNan then b
  else if b.isNan then a
  else if mx then (if valLt true a b then b else a) else (if valLt true b a then b else a)

/-- A value that is exact before `round_to`: NaN gives the canonical NaN. -/
def rndVal (f : Word) (v : Val) (rw : Word) : Rnd := if v.isNan then nanOut f else roundTo f v rw

def execFadd (h : Hdr) (f : FSlot) (d a b : Opnd) (s : State) : Host.Outcome State Fault Refusal :=
  slotElems s h f d [a, b] (fun fw v rw => rndAdd fw (argIn fw v 0) (argIn fw v 1) rw)
def execFsub (h : Hdr) (f : FSlot) (d a b : Opnd) (s : State) : Host.Outcome State Fault Refusal :=
  slotElems s h f d [a, b] (fun fw v rw => rndAdd fw (argIn fw v 0) (argIn fw v 1).flip rw)
def execFmul (h : Hdr) (f : FSlot) (d a b : Opnd) (s : State) : Host.Outcome State Fault Refusal :=
  slotElems s h f d [a, b] (fun fw v rw => rndMul fw (argIn fw v 0) (argIn fw v 1) rw)
def execFmin (h : Hdr) (f : FSlot) (d a b : Opnd) (s : State) : Host.Outcome State Fault Refusal :=
  slotElems s h f d [a, b] (fun fw v rw => rndVal fw (minMaxVal false (argIn fw v 0) (argIn fw v 1)) rw)
def execFmax (h : Hdr) (f : FSlot) (d a b : Opnd) (s : State) : Host.Outcome State Fault Refusal :=
  slotElems s h f d [a, b] (fun fw v rw => rndVal fw (minMaxVal true (argIn fw v 0) (argIn fw v 1)) rw)
def execFabs (h : Hdr) (f : FSlot) (d a : Opnd) (s : State) : Host.Outcome State Fault Refusal :=
  slotElems s h f d [a] (fun fw v rw => rndVal fw ((argIn fw v 0).signed false) rw)
def execFneg (h : Hdr) (f : FSlot) (d a : Opnd) (s : State) : Host.Outcome State Fault Refusal :=
  slotElems s h f d [a] (fun fw v rw => rndVal fw (argIn fw v 0).flip rw)
def execFsgn (h : Hdr) (f : FSlot) (d a b : Opnd) (s : State) : Host.Outcome State Fault Refusal :=
  slotElems s h f d [a, b] (fun fw v rw =>
    rndVal fw ((argIn fw v 0).signed (fmS fw == 1 && bits (v.getD 1 0) (fmW fw - 1) 1 == 1)) rw)

/-! ### Multiply-add (R118) -/

/-- ±(a × b) ± c, rounded once. -/
def rndFma (np nc : Bool) (f : Word) (v : List Nat) (rw : Word) : Rnd :=
  let a := argIn f v 0
  let b := argIn f v 1
  let c := argIn f v 2
  if a.isNan || b.isNan || c.isNan then nanOut f
  else if zeroInf a b then nvOut f
  else
    let p := if np then (mulVals a b).flip else mulVals a b
    let c := if nc then c.flip else c
    if infClash p c then nvOut f else roundTo f (addVals (fmRm f) p c) rw

def execFfma (h : Hdr) (f : FSlot) (d a b c : Opnd) (s : State) : Host.Outcome State Fault Refusal :=
  slotElems s h f d [a, b, c] (rndFma false false)
def execFfms (h : Hdr) (f : FSlot) (d a b c : Opnd) (s : State) : Host.Outcome State Fault Refusal :=
  slotElems s h f d [a, b, c] (rndFma false true)
def execFnma (h : Hdr) (f : FSlot) (d a b c : Opnd) (s : State) : Host.Outcome State Fault Refusal :=
  slotElems s h f d [a, b, c] (rndFma true false)
def execFnms (h : Hdr) (f : FSlot) (d a b c : Opnd) (s : State) : Host.Outcome State Fault Refusal :=
  slotElems s h f d [a, b, c] (rndFma true true)

/-! ### Division and roots (R119) -/

/-- A result with further flags. -/
def withFlags (r : Rnd) (fl : Nat) : Rnd := ⟨r.code, r.flags ||| fl⟩

def rndDiv (f : Word) (a b : Val) (rw : Word) : Rnd :=
  let n := a.neg != b.neg
  match a, b with
  | .nan, _ => nanOut f
  | _, .nan => nanOut f
  | .zero _, .zero _ => nvOut f
  | .inf _, .inf _ => nvOut f
  | .inf _, _ => infOut f n
  | _, .inf _ => roundTo f (.zero n) rw
  | .fin _, .zero _ => withFlags (infOut f n) flDZ
  | .zero _, .fin _ => roundTo f (.zero n) rw
  | .fin x, .fin y => roundTo f (.fin (exDiv x y)) rw

def rndSqrt (f : Word) (a : Val) (rw : Word) : Rnd :=
  match a with
  | .nan => nanOut f
  | .zero n => roundTo f (.zero n) rw
  | .inf n => if n then nvOut f else infOut f false
  | .fin x => if x.neg then nvOut f else roundTo f (.fin (exSqrt x 450).1) rw

def execFdiv (h : Hdr) (f : FSlot) (d a b : Opnd) (s : State) : Host.Outcome State Fault Refusal :=
  slotElems s h f d [a, b] (fun fw v rw => rndDiv fw (argIn fw v 0) (argIn fw v 1) rw)
def execFsqrt (h : Hdr) (f : FSlot) (d a : Opnd) (s : State) : Host.Outcome State Fault Refusal :=
  slotElems s h f d [a] (fun fw v rw => rndSqrt fw (argIn fw v 0) rw)
def execFrcp (h : Hdr) (f : FSlot) (d a : Opnd) (s : State) : Host.Outcome State Fault Refusal :=
  slotElems s h f d [a] (fun fw v rw => rndDiv fw (valInt 1) (argIn fw v 0) rw)

/-! ### Special functions (R119, R120) -/

/-- One special function over packed sub-elements. -/
def slotSpecial (s : State) (h : Hdr) (f : FSlot) (d a : Opnd) (fn : Val → SpecRes) :
    Host.Outcome State Fault Refusal :=
  slotElems s h f d [a] (fun fw v rw => specialOp fw fn (v.getD 0 0) rw)

def execFrsq (h : Hdr) (f : FSlot) (d a : Opnd) (s : State) : Host.Outcome State Fault Refusal :=
  slotSpecial s h f d a fnRsq
def execFex2 (h : Hdr) (f : FSlot) (d a : Opnd) (s : State) : Host.Outcome State Fault Refusal :=
  slotSpecial s h f d a fnEx2
def execFlg2 (h : Hdr) (f : FSlot) (d a : Opnd) (s : State) : Host.Outcome State Fault Refusal :=
  slotSpecial s h f d a fnLg2
def execFsin (h : Hdr) (f : FSlot) (d a : Opnd) (s : State) : Host.Outcome State Fault Refusal :=
  slotSpecial s h f d a fnSin
def execFcos (h : Hdr) (f : FSlot) (d a : Opnd) (s : State) : Host.Outcome State Fault Refusal :=
  slotSpecial s h f d a fnCos
def execFtanh (h : Hdr) (f : FSlot) (d a : Opnd) (s : State) : Host.Outcome State Fault Refusal :=
  slotSpecial s h f d a fnTanh
def execFsigm (h : Hdr) (f : FSlot) (d a : Opnd) (s : State) : Host.Outcome State Fault Refusal :=
  slotSpecial s h f d a fnSigm

/-! ### Compare and classify (R121, R122) -/

/-- The relations of `fcmp`. -/
def fcmpRel (c : FCond) (a b : Val) : Bool :=
  let un := a.isNan || b.isNan
  let lt := valLt false a b
  let gt := valLt false b a
  match c with
  | .eq => !un && !lt && !gt
  | .ne => un || lt || gt
  | .lt => !un && lt
  | .le => !un && !gt
  | .gt => !un && gt
  | .ge => !un && !lt
  | .un => un
  | .ord => !un

/-- The class of an encoding (R122). -/
def fmClass (f : Word) (w : Nat) : Nat :=
  match fmDecode f w with
  | .nan => 8
  | .inf n => if n then 0 else 7
  | .zero n => if n then 3 else 4
  | .fin x =>
    if fmSubnormal f w then (if x.neg then 2 else 5) else (if x.neg then 1 else 6)

/-- A predicate from sub-element k of the sources. -/
def slotPred (s : State) (h : Hdr) (f : FSlot) (k : Fin 8) (d : Pred) (a b : Opnd)
    (fn : Word → Nat → Nat → Bool) : Host.Outcome State Fault Refusal :=
  runInstr s f.val (fun e => regsOk [(a, 1), (b, 1)] e && !fmIllegal (slotWord e.x f) &&
      decide (k.val < fmN (slotWord e.x f))) anyMode h.g (fun e =>
    let m := taking e h.g
    match readSrcs s e m [(a, 1), (b, 1)] none false with
    | .error x => .error x
    | .ok (s, vals) => finishPred s e h d m (fun l =>
        fn (slotWord e.x f) ((vals l).getD 0 0) ((vals l).getD 1 0)))

/-- Sub-element k of a word. -/
def subElem (f : Word) (k v : Nat) : Nat := bits v (k * fmW f) (fmW f)

def execFcmp (h : Hdr) (f : FSlot) (cond : FCond) (k : Fin 8) (d : Pred) (a b : Opnd) (s : State) :
    Host.Outcome State Fault Refusal :=
  slotPred s h f k d a b (fun fw x y => fcmpRel cond (fmIn fw (subElem fw k x)) (fmIn fw (subElem fw k y)))

def execFclass (h : Hdr) (f : FSlot) (k : Fin 8) (d : Pred) (a b : Opnd) (s : State) :
    Host.Outcome State Fault Refusal :=
  slotPred s h f k d a b (fun fw x y => bits y (fmClass fw (subElem fw k x)) 1 == 1)

/-! ### Conversions (R72, R123 to R125) -/

/-- The register `j` places after an operand. -/
def opndAfter (o : Opnd) (j : Nat) : Opnd :=
  match o with
  | .v n => if h : n.val + j < 192 then .v ⟨n.val + j, h⟩ else .z
  | .s n => if h : n.val + j < 32 then .s ⟨n.val + j, h⟩ else .z
  | o => o

/-- The registers that a conversion reads lie in A's class and the allocation (R123). -/
def cvtOk (x : Warp) (a : Opnd) (last : Nat) : Bool :=
  match a with
  | .v n => decide (n.val + last < x.regs) && decide (n.val + last < 192)
  | .s n => decide (n.val + last < 32)
  | _ => false

def execFcvt (h : Hdr) (f src : FSlot) (grp : Fin 8) (d a : Opnd) (s : State) :
    Host.Outcome State Fault Refusal :=
  let ok := fun (e : Env) =>
    let fd := slotWord e.x f
    let fa := slotWord e.x src
    !fmIllegal fd && !fmIllegal fa && regsOk [(d, 1)] e &&
      decide (grp.val * fmN fd + fmN fd ≤ 4 * fmN fa) &&
      cvtOk e.x a ((grp.val * fmN fd + fmN fd - 1) / fmN fa)
  runInstr s f.val ok anyMode h.g (fun e =>
    let m := taking e h.g
    let fd := slotWord e.x f
    let fa := slotWord e.x src
    match readSrcs s e m [] (some d) (!h.w) with
    | .error x => .error x
    | .ok (s, _) =>
      let r := stepGen s e.w (fmRm fd == 5) m
      let res := tab (fun l => if m.getLsbD l then
          packRnds (fmW fd) ((List.range (fmN fd)).map (fun k =>
            let t := grp.val * fmN fd + k
            roundTo fd (fmIn fa (subElem fa (t % fmN fa) (regNat e.x (opndAfter a (t / fmN fa)) 1 l)))
              (genRot r.1 l k)))
        else ⟨0, 0⟩)
      let s := raiseFlags r.2 e.w (res.foldl (fun a x => a ||| x.flags) 0)
      finish s e h d m 1 (fun l => (lane ⟨0, 0⟩ res l).code))

/-- A real rounded to an integer (R124). -/
def exToInt (rm : Nat) (x : Ex) (rw : Word) : Int :=
  let q : Int := (nearest rm x 0 (fun q => q % 2 == 1) rw : Nat)
  if x.neg then -q else q

/-- The integer that `fcvti` gives, with its flags. -/
def toInt32 (rm : Nat) (uns : Bool) (v : Val) (rw : Word) : Rnd :=
  let lo : Int := if uns then 0 else -2147483648
  let hi : Int := if uns then 4294967295 else 2147483647
  match v with
  | .nan => ⟨0, flNV⟩
  | .inf n => ⟨intBits 32 (if n then lo else hi), flNV⟩
  | .zero _ => ⟨0, 0⟩
  | .fin x =>
    let t := exToInt rm x rw
    if t < lo ∨ hi < t then ⟨intBits 32 (max lo (min hi t)), flNV⟩
    else ⟨intBits 32 t, if (exGrid x 0).2.1 = 0 then 0 else flNX⟩

def execFcvti (h : Hdr) (f : FSlot) (k : Fin 8) (uns trunc : Bool) (d a : Opnd) (s : State) :
    Host.Outcome State Fault Refusal :=
  slotLanes s h f d [(a, 1)] (fun e => decide (k.val < fmN (slotWord e.x f)))
    (fun fw => !trunc && fmRm fw == 5)
    (fun fw v l g => toInt32 (if trunc then 1 else fmRm fw) uns (fmIn fw (subElem fw k (v.getD 0 0)))
      (genRot g l k))

def execFicvt (h : Hdr) (f : FSlot) (k : Fin 8) (uns : Bool) (d a b : Opnd) (s : State) :
    Host.Outcome State Fault Refusal :=
  slotLanes s h f d [(a, 1), (b, 1)] (fun e => decide (k.val < fmN (slotWord e.x f)))
    (fun fw => fmRm fw == 5)
    (fun fw v l g =>
      let i : Int := if uns then (v.getD 0 0 : Nat) else sx 32 (v.getD 0 0)
      let r := roundTo fw (valInt i) (genRot g l k)
      ⟨setBits (bits (v.getD 1 0) 0 (fmN fw * fmW fw)) (k * fmW fw) (fmW fw) r.code, r.flags⟩)

/-! ### Exact sums (R126) -/

def execFdot (h : Hdr) (f : FSlot) (d a b c : Opnd) (s : State) : Host.Outcome State Fault Refusal :=
  slotLanes s h f d [(a, 1), (b, 1), (c, 1)] (fun _ => true) (fun _ => false)
    (fun fw v _ _ => exactSum (arg32w v 2) ((List.range (fmN fw)).map (fun k =>
      (fmIn fw (subElem fw k (v.getD 0 0)), fmIn fw (subElem fw k (v.getD 1 0))))))
where
  arg32w (v : List Nat) (k : Nat) : Word := BitVec.ofNat 32 (v.getD k 0)

def execFsum (h : Hdr) (f : FSlot) (d a c : Opnd) (s : State) : Host.Outcome State Fault Refusal :=
  slotLanes s h f d [(a, 1), (c, 1)] (fun _ => true) (fun _ => false)
    (fun fw v _ _ => exactSum (BitVec.ofNat 32 (v.getD 1 0)) ((List.range (fmN fw)).map (fun k =>
      (fmIn fw (subElem fw k (v.getD 0 0)), valInt 1))))

/-! ### Slot and status access (R127) -/

/-- A warp-level update from the warp value of A. -/
def statusWrite (s : State) (fslot : Nat) (g : Guard) (a : Opnd) (k : Nat)
    (act : State → Env → Mask → Nat → Except Stop State) : Host.Outcome State Fault Refusal :=
  runInstr s fslot (regsOk [(a, k)]) anyMode g (fun e =>
    let m := taking e g
    match readSrcs s e m [(a, k)] none false with
    | .error x => .error x
    | .ok (s, vals) =>
      if m = 0 then advance s e
      else match act s e m (warpValue m vals 0) with
        | .error x => .error x
        | .ok s => advance s e)

/-- A warp-level value written to D. -/
def statusRead (s : State) (fslot : Nat) (h : Hdr) (d : Opnd) (k : Nat) (val : Warp → Nat) :
    Host.Outcome State Fault Refusal :=
  runInstr s fslot (regsOk [(d, k)]) anyMode h.g (fun e =>
    let m := taking e h.g
    match readSrcs s e m [] (some d) (!h.w) with
    | .error x => .error x
    | .ok (s, _) => finish s e h d m k (fun _ => val (warpAt s e.w)))

def execSetfs (g : Guard) (f : FSlot) (a : Opnd) (s : State) : Host.Outcome State Fault Refusal :=
  statusWrite s f.val g a 1 (fun s e m v =>
    let fw : Word := BitVec.ofNat 32 v
    if fmIllegal fw then .error (.trap ⟨9, m, 0, v⟩)
    else
      let x := warpAt s e.w
      .ok (setWarp s e.w { x with fs := x.fs.set f.val fw }))

def execGetfs (h : Hdr) (f : FSlot) (d : Opnd) (s : State) : Host.Outcome State Fault Refusal :=
  statusRead s f.val h d 1 (fun x => (slotWord x f).toNat)

def execSrseed (g : Guard) (a : Opnd) (s : State) : Host.Outcome State Fault Refusal :=
  statusWrite s 0 g a 2 (fun s e _ v => .ok (setWarp s e.w { warpAt s e.w with srgen := BitVec.ofNat 64 v }))

def execGetsr (h : Hdr) (d : Opnd) (s : State) : Host.Outcome State Fault Refusal :=
  statusRead s 0 h d 2 (fun x => x.srgen.toNat)

def execRdflag (h : Hdr) (sel : FlagSel) (d : Opnd) (s : State) : Host.Outcome State Fault Refusal :=
  statusRead s 0 h d 1 (fun x => (statusOf x sel).toNat)

def execClrflag (g : Guard) (sel : FlagSel) (a : Opnd) (s : State) : Host.Outcome State Fault Refusal :=
  statusWrite s 0 g a 1 (fun s e _ v => .ok (clearStatus s e.w sel v))

/-! ### Block instructions (R129, R130) -/

/-- Registers of a block in a lane. -/
def blkRegs (fw : Word) (o : Nat) : Nat := (blockBytes (fmW fw) o + 3) / 4

/-- A register range of `n` v registers within the allocation. -/
def rangeOk (x : Warp) (a : Opnd) (n : Nat) : Bool :=
  match a with
  | .v r => decide (r.val + n ≤ x.regs) && decide (r.val + n ≤ 192)
  | _ => false

/-- The words of a register range in a lane. -/
def rangeWords (x : Warp) (a : Opnd) (n l : Nat) : List Word :=
  match a with
  | .v r => (List.range n).map (fun j => lane 0 (x.v.getD (r.val + j) []) l)
  | _ => []

/-- Words as one number, the first lowest (R129). -/
def wordsNat (ws : List Word) : Nat :=
  (ws.foldl (fun (acc : Nat × Nat) w => (acc.1 + 2 ^ acc.2 * w.toNat, acc.2 + 32)) (0, 0)).1

/-- Writes a register range in the lanes of m. -/
def writeRange (x : Warp) (a : Opnd) (n : Nat) (m : Mask) (val : Nat → Nat → Nat) : Warp :=
  match a with
  | .v r => { x with v := (List.range n).foldl (fun vs j =>
      vs.set (r.val + j) (putLanes 0 m (vs.getD (r.val + j) []) (fun l => BitVec.ofNat 32 (val l j)))) x.v }
  | _ => x

/-- What a block instruction computes in one lane: the D range, the residuals, flags and counters. -/
structure BlockRes where
  out   : List Nat
  resid : List Nat
  flags : Nat
  evs   : List Nat
  deriving DecidableEq, Repr

/-- The words of a block, its padding zero (R129). -/
def blkWords (n blk : Nat) : List Nat := (List.range n).map (fun j => bits blk (32 * j) 32)

/-- The block instructions over a lane function (R129, R130). `nd`, `na` and `nc` are the lengths of the D, A
and C ranges for a slot word; where the ranges that `qntr` writes overlap, the manual does not say which
value a shared register holds. -/
def blockOp (s : State) (g : Guard) (w : Bool) (f : FSlot) (o : Fin 3) (d a : Opnd) (b : Option Opnd)
    (c : Option Opnd) (nd na : Word → Nat) (rounds : Bool)
    (fn : Word → List Word → Nat → List Word → Nat → Word → BlockRes) : Host.Outcome State Fault Refusal :=
  let bs : List Src := match b with | some r => [(r, 1)] | none => []
  let ok := fun (e : Env) =>
    let fw := slotWord e.x f
    !fmIllegal fw && decide (2 ≤ fmW fw) && decide (fmW fw ≤ 8) && regsOk bs e && rangeOk e.x d (nd fw) &&
      rangeOk e.x a (na fw) && (match c with | some r => rangeOk e.x r 48 | none => true) && decide (o.val < 3)
  runInstr s f.val ok anyMode g (fun e =>
    let m := taking e g
    let fw := slotWord e.x f
    match readSrcs s e m bs none false with
    | .error x => .error x
    | .ok (s, vals) =>
      let r := stepGen s e.w (rounds && fmRm fw == 5) m
      let res := tab (fun l => if m.getLsbD l then
          fn fw (rangeWords e.x a (na fw) l) ((vals l).getD 0 0)
            (match c with | some r => rangeWords e.x r 48 l | none => []) l r.1
        else ⟨[], [], 0, []⟩)
      let none_ : BlockRes := ⟨[], [], 0, []⟩
      let s := raiseFlags r.2 e.w (res.foldl (fun a x => a ||| x.flags) 0)
      let x := warpAt s e.w
      let x := { x with qstat := res.foldl (fun q y => qstatAdd q y.evs) x.qstat }
      let x := match c with
        | some rc => writeRange x rc 48 m (fun l j => (lane none_ res l).resid.getD j 0)
        | none => x
      let shared := fun (j : Nat) => match c, d with
        | some (.v rc), .v rd => decide (rc.val ≤ rd.val + j) && decide (rd.val + j < rc.val + 48)
        | _, _ => false
      let x := if w then x else writeRange x d (nd fw) m (fun l j =>
        if shared j then (Config.unstatedWord (s.free + 64 * l + j)).toNat else (lane none_ res l).out.getD j 0)
      let s := setWarp s e.w x
      advance (if c.isSome && !w then { s with free := s.free + 2048 } else s) e)

def execQnt (g : Guard) (w : Bool) (f : FSlot) (o : Fin 3) (d a b : Opnd) (s : State) :
    Host.Outcome State Fault Refusal :=
  blockOp s g w f o d a (some b) none (fun fw => blkRegs fw o) (fun _ => 48) true
    (fun fw xs cap _ l gen =>
      let q := quantBlock fw xs (BitVec.ofNat 32 cap) o gen l
      ⟨blkWords (blkRegs fw o) q.blk, [], q.flags, q.evs⟩)

def execQntr (g : Guard) (w : Bool) (f : FSlot) (o : Fin 3) (d a b c : Opnd) (s : State) :
    Host.Outcome State Fault Refusal :=
  blockOp s g w f o d a (some b) (some c) (fun fw => blkRegs fw o) (fun _ => 48) true
    (fun fw xs cap rs l gen =>
      let q := quantResid fw xs rs (BitVec.ofNat 32 cap) o gen l
      ⟨blkWords (blkRegs fw o) q.1.blk, q.2, q.1.flags, q.1.evs⟩)

def execRqnt (g : Guard) (w : Bool) (f : FSlot) (o : Fin 3) (d a b : Opnd) (s : State) :
    Host.Outcome State Fault Refusal :=
  blockOp s g w f o d a (some b) none (fun fw => blkRegs fw o) (fun fw => blkRegs fw o) true
    (fun fw xs e _ l gen =>
      let q := requantBlock fw (wordsNat xs) o (bits e 0 8) gen l
      ⟨blkWords (blkRegs fw o) q.blk, [], q.flags, q.evs⟩)

def execDqnt (g : Guard) (w : Bool) (f : FSlot) (o : Fin 3) (d a : Opnd) (s : State) :
    Host.Outcome State Fault Refusal :=
  blockOp s g w f o d a none none (fun _ => 48) (fun fw => blkRegs fw o) false
    (fun fw xs _ _ _ _ =>
      let rs := (List.range 48).map (fun j => round32 (blkValue fw o (wordsNat xs) j))
      ⟨rs.map (·.code), [], rs.foldl (fun a r => a ||| r.flags) 0, []⟩)

end Sys2Proof.Machine
end

