-- ==== Sys2Proof/Machine/Matrix.lean ====
section
/-! DEFINITION. The matrix engine (R196 to R222): accumulator banks and bands, weight planes, streams, drains and
fills, and the completion of the two asynchronous commands. -/

namespace Sys2Proof.Machine

/-! ### Weights as binary64 (R338) -/

/-- A weight as a binary64 word: every decoded weight has one. -/
def b64Of : Val → Nat
  | .nan => 0x7FF8000000000000
  | .inf n => 0x7FF0000000000000 + (if n then 2 ^ 63 else 0)
  | .zero n => if n then 2 ^ 63 else 0
  | .fin x =>
    let l := exLog2 x
    (l + 1023).toNat * 2 ^ 52 + ((exGrid x (l - 52)).1 - 2 ^ 52) + (if x.neg then 2 ^ 63 else 0)

/-- The value of a binary64 word. -/
def b64Val (w : Nat) : Val :=
  let neg := bits w 63 1 == 1
  let e := bits w 52 11
  let m := bits w 0 52
  if e = 2047 then (if m = 0 then .inf neg else .nan)
  else if e = 0 then valDy neg m (-1074)
  else valDy neg (2 ^ 52 + m) (e - 1075)

/-- The weight store of a K × N tile; a plane has 64 columns (R196). -/
def planeStore (k n : Nat) (w : Nat → Nat → Val) : Memory :=
  (List.range k).flatMap (fun r => (List.range (min n 64)).flatMap (fun c =>
    ((natBytes 8 (b64Of (w r c))).zipIdx.filter (fun b => b.1 != 0)).map
      (fun b => (8 * (64 * r + c) + b.2, b.1))))

/-- Weight w[k][n] of a plane. -/
def planeW (p : Plane) (r c : Nat) : Val := b64Val (memNat p.wt (8 * (64 * r + c)) 8)

/-! ### Accumulator banks (R200) -/

/-- The place of a word of a bank in the crew's store. -/
def accAddr (b r c : Nat) : Nat := b * 0x4000 + 4 * (64 * r + c)
def accGet (cr : Crew) (b r c : Nat) : Word := BitVec.ofNat 32 (memNat cr.acc (accAddr b r c) 4)
def bankOn (cr : Crew) (b : Nat) : Bool := cr.abank.getLsbD b

/-- Zeroes rows of a bank. -/
def accClear (cr : Crew) (b row0 rows : Nat) : Crew :=
  { cr with acc := memClear cr.acc (accAddr b row0 0) (accAddr b (row0 + rows) 0) }

/-! ### Completing the outstanding commands (R199, R203 to R206, R221) -/

/-- The places that an object-form tile is read from: element index, first weight, width in bits (R203, R212). -/
def tilePlaces (cmd : EngCmd) (w bb : Nat) : List (Nat × Nat × Nat × Nat) :=
  let k := bits cmd.cfg.toNat 0 7
  let n := bits cmd.cfg.toNat 8 7
  let p := bits cmd.cfg.toNat 16 16
  let i := bits cmd.a.toNat 0 42
  if cmd.blk then
    (List.range n).flatMap (fun c => (List.range (k / 48)).map (fun t => (i + c * p + 48 * t, 48 * t, c, 8 * bb)))
  else (List.range k).flatMap (fun r => (List.range n).map (fun c => (i + r * p + c, r, c, w)))

/-- The agent of an engine command (R259, R414). -/
def cmdAgent (s : State) (w : Nat) (failed : List (SubTile × Nat × Nat)) : Agent :=
  { warpAgent s w with failed := failed }

/-- A failure that a read of a weight may have after issue (R198, R221): a migration that failed, a request that ended, or
data that cannot be corrected. -/
def lateFail (cause detail : Nat) : Bool :=
  (cause == 7 && (detail == 4 || detail == 5)) || (cause == 8 && decide (1 ≤ detail) && decide (detail ≤ 3)) ||
  (cause == 0x16 && detail == 2)

/-- A value of n bits, n up to 512, that the manual does not state. -/
def freeBits (base n : Nat) : Nat :=
  bits ((List.range ((n + 31) / 32)).foldl (fun acc k => acc + 2 ^ (32 * k) * (Config.unstatedWord (base + k)).toNat) 0) 0 n

/-- What a tile's places hold at a moment: waiting sub-tiles, the failure of the smallest index, or values. -/
structure TileRead where
  units : List SubTile
  fail  : Option ReadFail
  vals  : List (Nat × Nat × Nat)
  wait  : Bool

/-- The earlier of two failures. -/
def firstFail (a b : Option ReadFail) : Option ReadFail :=
  match a, b with
  | none, y => y
  | x, none => x
  | some x, some y => if y.index < x.index then some y else some x

/-- Where one place of a tile lies when it is read, or a failure that R221 has. None where a check of the issue would now
say otherwise: no such error comes later (R198), and the value of the weight is free (DESIGN CHOICE: log entry 15). A block
is named by its first element, also where only another of its bytes cannot be had (DESIGN CHOICE, unsafe: log entry 15: R221
speaks of the failing weight). -/
def placeCheck (s : State) (ag : Agent) (obj e n : Nat) : Except ReadFail (Option (Loc × Found)) :=
  match checkShape s ag obj e n ⟨none, false, false⟩ with
  | .error f => if lateFail f.cause f.detail then .error ⟨f.cause, f.detail, e⟩ else .ok none
  | .ok l =>
    let fd := findAll s ag l false
    match fd.bad with
    | some (c, d) => if lateFail c d then .error ⟨c, d, e⟩ else .ok none
    | none => .ok (some (l, fd))

/-- The value of one place once its remote lines are here, or why it cannot be had; `dead` are the lines that could not
be read. -/
def placeRead (s : State) (ag : Agent) (mem : Memory) (dead : List (LineRef × Nat)) (e : Nat) (p : Loc × Found) :
    Except ReadFail Nat :=
  match dead.find? (fun d => (farLines ag.ctx p.1.obj p.2.pieces).contains d.1) with
  | some d => .error ⟨deadCause d.2, d.2, e⟩
  | none =>
    if p.2.pieces.any (piecePoisoned s) then .error ⟨0x16, 2, e⟩
    else .ok (readAll { s with mem := mem } (ag.args.getD []) p.2.pieces)

/-- Reads every place of an object-form tile, on the matrix path of the issuing warp. -/
def readTile (s : State) (c : Nat) (cmd : EngCmd) : State × TileRead :=
  let w := fmW cmd.fw
  let obj := bits cmd.a.toNat 42 22
  let ag := cmdAgent s cmd.warp cmd.failed
  let ps := (tilePlaces cmd w (blockBytes w cmd.o)).map (fun p => (p, placeCheck s ag obj p.1 p.2.2.2))
  let found := ps.filterMap (fun p => match p.2 with
    | .ok x => x
    | .error _ => none)
  let units := found.flatMap (·.2.units)
  if !units.isEmpty then (s, ⟨units, none, [], false⟩)
  else
    match fetchSet s (.engine c cmd.seq) (found.flatMap (fun x => farLines ag.ctx obj x.2.pieces)) with
    | (none, s) => (s, ⟨[], none, [], true⟩)
    | (some dead, s) =>
      let mem := viewMem s 1
      let val := fun (n : Nat) (p : (Nat × Nat × Nat × Nat) × Except ReadFail (Option (Loc × Found))) =>
        (match p.2 with
        | .error f => .error f
        | .ok none => .ok (freeBits (s.free + 16 * n) p.1.2.2.2)
        | .ok (some x) => placeRead s ag mem dead p.1.1 x : Except ReadFail Nat)
      ({ sawBytes s 1 cmd.warp (pieceBytes (found.flatMap (·.2.pieces))) with
          free := if found.length = ps.length then s.free else s.free + 16 * ps.length },
        ps.foldl (fun (acc : TileRead) p =>
          match val acc.vals.length p with
          | .error f => { acc with fail := firstFail acc.fail (some f) }
          | .ok v => { acc with vals := acc.vals ++ [(p.1.2.1, p.1.2.2.1, v)] }) ⟨[], none, [], false⟩)

/-- Weight w[k][n] of an object-form tile, from the bits its places held. -/
def tileW (cmd : EngCmd) (vals : List (Nat × Nat × Nat)) (r c : Nat) : Val :=
  let r0 := if cmd.blk then r / 48 * 48 else r
  match vals.find? (fun v => v.1 == r0 && v.2.1 == c) with
  | some v => if cmd.blk then blkValue cmd.fw cmd.o v.2.2 (r % 48) else fmIn cmd.fw v.2.2
  | none => .nan

/-- The scratchpad as a command sees it: bytes that it has read already keep the value that they had then (R218). -/
def cmdScr (scr : Memory) (cmd : EngCmd) : Memory := cmd.taken.foldl (fun m b => memPut m b.1 [b.2]) scr

/-- Weight w[k][n] of a scratchpad tile (R203). -/
def scrW (scr : Memory) (cmd : EngCmd) (r c : Nat) : Val :=
  let w := fmW cmd.fw
  let p := bits cmd.cfg.toNat 16 16
  let a := cmd.a.toNat
  let bb := blockBytes w cmd.o
  if cmd.blk then blkValue cmd.fw cmd.o (memNat scr (a + c * p + r / 48 * bb) bb) (r % 48)
  else fmIn cmd.fw (memBits scr (8 * (a + r * p) + c * w) w)

/-- Activation k of row r of a stream (R204). -/
def streamA (scr : Memory) (cmd : EngCmd) (r k : Nat) : Val :=
  let w := fmW cmd.fw
  let q := bits cmd.cfg.toNat 20 12
  let a := cmd.a.toNat
  let bb := blockBytes w cmd.o
  if cmd.blk then blkValue cmd.fw cmd.o (memNat scr (a + r * q + k / 48 * bb) bb) (k % 48)
  else fmIn cmd.fw (memBits scr (8 * (a + r * q) + k * w) w)

/-- The engine's arrival at completion, with ARV where the object is not initialised (R199). -/
def engArrive (s : State) (c : Nat) (cmd : EngCmd) : State :=
  match cmd.mb with
  | none => s
  | some off =>
    let r := mbEngine s c off 0 true
    if r.1 then raiseAcc r.2 cmd.warp 0x40 else r.2

/-- A filled plane (R212). -/
def planeOf8 (cmd : EngCmd) (w : Nat → Nat → Val) : Plane :=
  let k := bits cmd.cfg.toNat 0 7
  let n := bits cmd.cfg.toNat 8 7
  { valid := true, k := k, n := n, fw := cmd.fw, blk := cmd.blk,
    nf := (List.range k).any (fun r => (List.range n).any (fun c => (w r c).isNan || (w r c).isInf)),
    wt := planeStore k n w }

/-- An asynchronous entry for an engine command (R220, R221). Its lane mask is the lowest lane of `taking` at issue, for
SOFTERR detail 4 too, of which R220 states none (DESIGN CHOICE, unsafe: log entry 15). -/
def engTrap (s : State) (cmd : EngCmd) (f : ReadFail) : State :=
  asyncTrap s cmd.warp cmd.issue cmd.fslot f.cause (maskOf (fun l => l == cmd.lane)) cmd.pc
    (if cmd.obj && f.cause != 0x16 || f.detail == 2 then elemAddr (bits cmd.a.toNat 42 22) f.index else 0) f.detail

/-- The effect of an `mload` at completion. -/
def mloadDone (s : State) (c : Nat) (cmd : EngCmd) (w : Option (Nat → Nat → Val)) (f : Option ReadFail) : State :=
  let cr := crewAt s c
  let s := match w, f with
    | some w, none => setCrew s c { cr with plS := planeOf8 cmd w }
    | _, _ => if cmd.obj then setCrew s c { cr with plS := Plane.empty } else s
  let s := engArrive s c cmd
  match f with
  | some f => engTrap s cmd f
  | none => s

/-- One row of a pass (R205): the new words of the bank's row, and the flags. -/
def passRow (cr : Crew) (cmd : EngCmd) (r : Nat) : List Rnd :=
  let bank := bits cmd.cfg.toNat 8 4
  let row0 := bits cmd.cfg.toNat 12 6
  let ovw := bits cmd.cfg.toNat 18 1 == 1
  let as := (List.range cr.plA.k).map (streamA (cmdScr cr.scr cmd) cmd r)
  (List.range cr.plA.n).map (fun n =>
    exactSum (if ovw then 0 else accGet cr bank (row0 + r) n)
      ((as.zipIdx).map (fun a => (a.1, planeW cr.plA a.2 n))))

/-- The pass of an `mstream` (R205), with its flags in ACCSTAT. A pass that meets an error in what it reads writes
nothing, and its arrival is made all the same (DESIGN CHOICE, unsafe: log entry 15: R220 does not speak of it). -/
def mstreamDone (s : State) (c : Nat) (cmd : EngCmd) (softErr : Bool) : State :=
  let m := bits cmd.cfg.toNat 0 7
  let bank := bits cmd.cfg.toNat 8 4
  let row0 := bits cmd.cfg.toNat 12 6
  if softErr then engTrap (engArrive s c cmd) cmd ⟨0x16, 4, 0⟩
  else
    let r := (List.range m).foldl (fun (acc : Crew × Nat) r =>
      let row := passRow acc.1 cmd r
      let acm := (row.zipIdx).foldl (fun m x => memPutNat m (accAddr bank (row0 + r) x.2) 4 x.1.code) acc.1.acc
      ({ acc.1 with acc := acm }, row.foldl (fun f x => f ||| x.flags) acc.2)) (crewAt s c, 0)
    engArrive (raiseAcc (setCrew s c r.1) cmd.warp r.2) c cmd

/-- Whether a command stops in place because its warp is halted under FREEZE (R327). -/
def engFrozen (s : State) (w : Nat) : Bool :=
  ((warpAt s w).halt == .halted || (warpAt s w).halt == .presented) && bits (dbgctl s w) 1 1 == 1

/-- Resumes the paths whose `mwait` has nothing left to wait for (R217). -/
def wakeMwait (s : State) (c : Nat) : State :=
  wakeWhere s (crewAt s c).warps (fun p => match p with
    | .mwait n => (crewAt s c).eng.all (fun k => decide (n ≤ k.seq))
    | _ => false)

/-- Removes the head of a crew's engine order. -/
def engPop (s : State) (c : Nat) : State :=
  let cr := crewAt s c
  setCrew s c { cr with eng := cr.eng.drop 1 }

/-- Completes the head of a crew's engine order: whether it could. `hit` is an uncorrectable error in what it reads, and a
command that FREEZE holds completes with `thaw` only (R327, R333). -/
def engHead (thaw : Bool) (hit : Option ReadFail) (s : State) (c : Nat) : Bool × State :=
  match (crewAt s c).eng with
  | [] => (true, s)
  | cmd :: _ =>
    if !thaw && engFrozen s cmd.warp then (false, s)
    else if !cmd.load then (true, wakeMwait (mstreamDone (engPop s c) c cmd hit.isSome) c)
    else if !cmd.obj then
      (true, wakeMwait (mloadDone (engPop s c) c cmd (if hit.isSome then none
        else some (scrW (cmdScr (crewAt s c).scr cmd) cmd)) hit) c)
    else
      let r := readTile s c cmd
      if !r.2.units.isEmpty then (false, askUnit r.1 (crewAt s c).tower r.2.units)
      else if r.2.wait then (false, r.1)
      else match firstFail r.2.fail hit with
        | some f => (true, wakeMwait (mloadDone (engPop r.1 c) c cmd none (some f)) c)
        | none => (true, wakeMwait (mloadDone (engPop r.1 c) c cmd (some (tileW cmd r.2.vals)) none) c)

/-- Completes every outstanding command in engine order: whether all could. -/
def engSettle (thaw : Bool) : Nat → State → Nat → Bool × State
  | 0, s, c => ((crewAt s c).eng.isEmpty, s)
  | f + 1, s, c =>
    if (crewAt s c).eng.isEmpty then (true, s)
    else
      let r := engHead thaw none s c
      if r.1 then engSettle thaw f r.2 c else (false, r.2)

/-! ### Issuing (R198, R207 to R209) -/

def matrixTrap (m : Mask) (d : Nat) : Stop := .trap ⟨0x0E, m, 0, d⟩
def accTrap (m : Mask) (word d : Nat) : Stop := .trap ⟨0x0C, m, word, d⟩

/-- An instruction of the family: with no lane taking part only the PC moves. `settle` makes every earlier
command complete first, holding the warp while one cannot. -/
def engineOp (s : State) (fslot : Nat) (g : Guard) (ill : Env → Bool) (srcs : List Src) (settle : Bool)
    (body : State → Env → Mask → (Nat → Nat) → Except Stop State) : Host.Outcome State Fault Refusal :=
  runInstr s fslot (fun e => regsOk srcs e && ill e) anyMode g (fun e =>
    let m := taking e g
    if m = 0 then advance s e
    else
      let r := if settle then engSettle false (e.cr.eng.length + 1) s e.c else (true, s)
      if !r.1 then .error (.hold (holdPath r.2 e))
      else
        let e := { e with x := warpAt r.2 e.w, cr := crewAt r.2 e.c }
        match readSrcs r.2 e m srcs none false with
        | .error x => .error x
        | .ok (s, vals) => body s e m (fun k => warpValue m vals k))

/-- A range of `n` bytes that a command reads from the scratchpad (R207). -/
def scrRange (e : Env) (m : Mask) (a n : Nat) : Except Stop Unit :=
  if e.cr.scrLen < a + n then .error (.trap ⟨6, m, max a e.cr.scrLen, 0⟩) else .ok ()

/-- The mbar object of operand C: none for `z` (R207). -/
def mbarOpnd (e : Env) (m : Mask) (c : Opnd) (v : Nat) : Except Stop (Option Nat) :=
  match c with
  | .z => .ok none
  | _ => match scratchWarp e m v 16 16 with
    | .ok off => .ok (some off)
    | .error x => .error x

/-! ### macal, mafree, mown (R210, R211) -/

/-- Banks that a mask names. -/
def maskCount (b : BitVec 16) : Nat := ((List.range 16).filter (fun k => b.getLsbD k)).length

def execMacal (g : Guard) (a : Opnd) (s : State) : Host.Outcome State Fault Refusal :=
  engineOp s 0 g (fun _ => true) [(a, 1)] true (fun s e m v =>
    let cr := crewAt s e.c
    let bm : BitVec 16 := BitVec.ofNat 16 (v 0)
    if bits (v 0) 16 16 ≠ 0 then .error (accTrap m (v 0) 6)
    else if bm &&& cr.abank ≠ 0 ∨ cr.accb < maskCount cr.abank + maskCount bm then .error (accTrap m (v 0) 3)
    else
      let cr := (List.range 16).foldl (fun c b => if bm.getLsbD b then accClear c b 0 64 else c) cr
      advance (setCrew s e.c { cr with abank := cr.abank ||| bm }) e)

def execMafree (g : Guard) (a : Opnd) (s : State) : Host.Outcome State Fault Refusal :=
  engineOp s 0 g (fun _ => true) [(a, 1)] true (fun s e m v =>
    let cr := crewAt s e.c
    let bm : BitVec 16 := BitVec.ofNat 16 (v 0)
    if bits (v 0) 16 16 ≠ 0 then .error (accTrap m (v 0) 6)
    else if bm &&& ~~~cr.abank ≠ 0 then .error (accTrap m (v 0) 4)
    else
      let cr := (List.range 16).foldl (fun c b => if bm.getLsbD b then accClear c b 0 64 else c) cr
      advance (setCrew s e.c { cr with abank := cr.abank &&& ~~~bm }) e)

def bandBank (b : Word) : Nat := bits b.toNat 0 4
def bandRow (b : Word) : Nat := bits b.toNat 8 6
def bandRows (b : Word) : Nat := bits b.toNat 16 7

/-- Whether two bands share rows of a bank. -/
def bandsMeet (a b : Word) : Bool :=
  bandBank a == bandBank b && decide (bandRow a < bandRow b + bandRows b) &&
  decide (bandRow b < bandRow a + bandRows a)

def execMown (g : Guard) (band : Fin 4) (a : Opnd) (s : State) : Host.Outcome State Fault Refusal :=
  engineOp s 0 g (fun _ => true) [(a, 1)] false (fun s e m v =>
    let b : Word := BitVec.ofNat 32 (v 0)
    let bad := bits (v 0) 4 4 != 0 || bits (v 0) 14 2 != 0 || bits (v 0) 23 9 != 0 ||
      decide (64 < bandRow b + bandRows b)
    let clash := e.cr.warps.any (fun w => w != e.w && !pathsDone (warpAt s w) &&
      (warpAt s w).bands.any (fun y => bandsMeet b y))
    if bad then .error (accTrap m (v 0) 6)
    else if bandRows b ≠ 0 ∧ clash then .error (accTrap m (v 0) 5)
    else
      let x := warpAt s e.w
      advance (setWarp s e.w { x with bands := x.bands.set band.val (if bandRows b = 0 then 0 else b) }) e)

/-! ### mload, mswap, mstream (R212 to R214) -/

/-- Appends an outstanding command to the engine order. -/
def engPush (s : State) (e : Env) (m : Mask) (f : FSlot) (load obj blk : Bool) (o : Nat) (a cfg : Nat)
    (mb : Option Nat) : State :=
  let cr := crewAt s e.c
  let cmd : EngCmd := ⟨load, cr.engSeq, obj, blk, o, BitVec.ofNat 64 a, BitVec.ofNat 32 cfg, slotWord e.x f, mb,
    e.w, (lowest m).getD 0, m, e.pc, e.x.issued, f.val, [], []⟩
  setCrew s e.c { cr with eng := cr.eng ++ [cmd], engSeq := cr.engSeq + 1 }

/-- The smallest failing index among checks. -/
def leastFail (xs : List (Option Fail)) : Option Fail :=
  xs.foldl (fun acc x => match acc, x with
    | none, y => y
    | some a, none => some a
    | some a, some b => if b.idx < a.idx then some b else some a) none

/-- The issue checks of an object source (R212): the object's shape, every element, then residency. -/
def mloadObjCheck (s : State) (e : Env) (m : Mask) (blk : Bool) (fw : Word) (a cfg : Nat) :
    Except Stop (Nat × List SubTile) :=
  let obj := bits a 42 22
  let i := bits a 0 42
  let p := bits cfg 16 16
  let ag := envAgent s e
  match recordOf s ag obj i with
  | .error f => .error (.trap ⟨f.cause, m, elemAddr obj i, f.detail⟩)
  | .ok r =>
    if recEW r ≠ fmW fw ∨ (blk ≠ (recLayout r == 2)) then .error (matrixTrap m 5)
    else if blk ∧ (i % 48 ≠ 0 ∨ p % 48 ≠ 0) then .error (matrixTrap m 4)
    else
      let cmd : EngCmd := ⟨true, 0, true, blk, recOutl r, BitVec.ofNat 64 a, BitVec.ofNat 32 cfg, fw, none, 0, 0,
        m, 0, 0, 0, [], []⟩
      let ps := tilePlaces cmd (fmW fw) (blockBytes (fmW fw) (recOutl r))
      match leastFail (ps.map (fun q => match checkShape s ag obj q.1 (fmW fw) ⟨some .m, false, false⟩ with
          | .error f => some { f with idx := q.1 }
          | .ok _ => none)) with
      | some f => .error (.trap ⟨f.cause, m, elemAddr obj (bits f.idx 0 42), f.detail⟩)
      | none =>
        let fs := ps.map (fun q => match checkShape s ag obj q.1 q.2.2.2 ⟨none, false, false⟩ with
          | .error f => ((⟨some (f.cause, f.detail), [], []⟩ : Found), q.1)
          | .ok l => (findAll s ag l false, q.1))
        match leastFail (fs.map (fun p => p.1.bad.map (fun cd => ⟨cd.1, cd.2, p.2⟩))) with
        | some f => .error (.trap ⟨f.cause, m, elemAddr obj f.idx, f.detail⟩)
        | none => .ok (recOutl r, fs.flatMap (·.1.units))

/-- `mload` (R212). -/
def execMload (g : Guard) (f : FSlot) (obj blk : Bool) (o : BitVec 2) (a b c : Opnd) (s : State) :
    Host.Outcome State Fault Refusal :=
  engineOp s f.val g (fun e => !fmIllegal (slotWord e.x f)) [(a, if obj then 2 else 1), (b, 1), (c, 1)] false
    (fun s e m v =>
      let fw := slotWord e.x f
      let cfg := v 1
      let k := bits cfg 0 7
      let n := bits cfg 8 7
      let p := bits cfg 16 16
      let bb := blockBytes (fmW fw) o.toNat
      if !e.cr.matrix then .error (matrixTrap m 1)
      else if bits cfg 7 1 ≠ 0 ∨ bits cfg 15 1 ≠ 0 ∨ k = 0 ∨ 96 < k ∨ n = 0 ∨ 64 < n then .error (matrixTrap m 3)
      else if blk ∧ (fmW fw < 2 ∨ 8 < fmW fw ∨ o = 3 ∨ (k ≠ 48 ∧ k ≠ 96)) then .error (matrixTrap m 4)
      else if !obj ∧ (if blk then decide (p < k / 48 * bb) else decide (8 * p < n * fmW fw)) then
        .error (matrixTrap m 3)
      else match mbarOpnd e m c (v 2) with
        | .error x => .error x
        | .ok mb =>
          if obj then
            match mloadObjCheck s e m blk fw (v 0) cfg with
            | .error x => .error x
            | .ok (ro, units) =>
              advance (askUnit (engPush s e m f true true blk ro (v 0) cfg mb) e.cr.tower units) e
          else
            let len := if blk then (n - 1) * p + k / 48 * bb else (k - 1) * p + (n * fmW fw + 7) / 8
            match scrRange e m (v 0) len with
            | .error x => .error x
            | .ok _ => advance (engPush s e m f true false blk o.toNat (v 0) cfg mb) e)

def execMswap (g : Guard) (s : State) : Host.Outcome State Fault Refusal :=
  engineOp s 0 g (fun _ => true) [] true (fun s e m _ =>
    if !e.cr.matrix then .error (matrixTrap m 1)
    else
      let cr := crewAt s e.c
      advance (setCrew s e.c { cr with plA := cr.plS, plS := cr.plA }) e)

/-- `mstream` (R214). Its ACCBANK trap gives the configuration word as the bank word (DESIGN CHOICE, unsafe: log entry 15:
R209 gives the bank word, and `mstream` has none). -/
def execMstream (g : Guard) (f : FSlot) (blk : Bool) (o : BitVec 2) (a b c : Opnd) (s : State) :
    Host.Outcome State Fault Refusal :=
  engineOp s f.val g (fun e => !fmIllegal (slotWord e.x f)) [(a, 1), (b, 1), (c, 1)] false (fun s e m v =>
    let fw := slotWord e.x f
    let cfg := v 1
    let rows := bits cfg 0 7
    let q := bits cfg 20 12
    let k := e.cr.plA.k
    let bb := blockBytes (fmW fw) o.toNat
    let rowb := if blk then k / 48 * bb else (k * fmW fw + 7) / 8
    if !e.cr.matrix then .error (matrixTrap m 1)
    else if !e.cr.plA.valid then .error (matrixTrap m 2)
    else if bits cfg 7 1 ≠ 0 ∨ bits cfg 19 1 ≠ 0 ∨ rows = 0 ∨ 64 < rows ∨ 64 < bits cfg 12 6 + rows then
      .error (matrixTrap m 3)
    else if blk ∧ (fmW fw < 2 ∨ 8 < fmW fw ∨ o = 3) then .error (matrixTrap m 4)
    else if (blk ∨ e.cr.plA.blk) ∧ k ≠ 48 ∧ k ≠ 96 then .error (matrixTrap m 4)
    else if (if blk then decide (q < rowb) else decide (8 * q < k * fmW fw)) then .error (matrixTrap m 3)
    else if !bankOn e.cr (bits cfg 8 4) then .error (accTrap m cfg 1)
    else match mbarOpnd e m c (v 2) with
      | .error x => .error x
      | .ok mb => match scrRange e m (v 0) ((rows - 1) * q + rowb) with
        | .error x => .error x
        | .ok _ => advance (engPush s e m f false false blk o.toNat (v 0) cfg mb) e)

/-! ### mdrain, mfill, mzero (R215, R216) -/

/-- Registers of one row: two when a register holds one element. -/
def rowRegs (fw : Word) : Nat := if fmN fw = 1 then 2 else 1

/-- The checks of a bank word and its rows: ACCBANK 6, 2 and, for a write, 1. -/
def bankCheck (e : Env) (m : Mask) (word rows : Nat) (write : Bool) : Except Stop Unit :=
  let b := bits word 0 4
  let row0 := bits word 8 6
  if bits word 4 4 ≠ 0 ∨ bits word 14 18 ≠ 0 ∨ 64 < row0 + rows then .error (accTrap m word 6)
  else if !e.x.bands.any (fun y => bandRows y != 0 && bandBank y == b && decide (bandRow y ≤ row0) &&
      decide (row0 + rows ≤ bandRow y + bandRows y)) then .error (accTrap m word 2)
  else if write && !bankOn e.cr b then .error (accTrap m word 1)
  else .ok ()

/-- The column of sub-element k of lane l of register j of a row (R215). -/
def drainCol (n j l k : Nat) : Nat := 32 * n * j + n * l + k

/-- `mdrain` (R215). With `bad`, a word that it reads cannot be corrected: nothing is written, and an asynchronous entry
says so (R220, R325). -/
def mdrainOp (bad : Bool) (g : Guard) (w : Bool) (f : FSlot) (clr : Bool) (rows : Fin 64) (d a : Opnd) (s : State) :
    Host.Outcome State Fault Refusal :=
  let nr := rows.val + 1
  engineOp s f.val g (fun e => !fmIllegal (slotWord e.x f) && rangeOk e.x d (rowRegs (slotWord e.x f) * nr))
    [(a, 1)] true (fun s e m v =>
      let fw := slotWord e.x f
      match bankCheck e m (v 0) nr clr with
      | .error x => .error x
      | .ok _ =>
        let cr := crewAt s e.c
        let b := bits (v 0) 0 4
        let row0 := bits (v 0) 8 6
        let on := bankOn cr b
        if bad && on then
          (advance s e).map (fun s => asyncTrap s e.w e.x.issued f.val 0x16
            (maskOf (fun l => lowest m == some l)) e.pc 0 4)
        else
        let gn := stepGen s e.w (fmRm fw == 5) m
        let cell := fun (l j : Nat) =>
          packRnds (fmW fw) ((List.range (fmN fw)).map (fun k =>
            let col := drainCol (fmN fw) (j % rowRegs fw) l k
            if 64 ≤ col then (⟨0, 0⟩ : Rnd)
            else roundTo fw (if on then fmDecode fmB32 (accGet cr b (row0 + j / rowRegs fw) col).toNat
              else .zero false) (genRot gn.1 l k)))
        let total := rowRegs fw * nr
        let res : List (List Rnd) := tab (fun l => if m.getLsbD l then (List.range total).map (cell l) else [])
        let s := raiseFlags gn.2 e.w (res.foldl (fun a r => r.foldl (fun a x => a ||| x.flags) a) 0)
        let x := warpAt s e.w
        let x := if on then x else { x with accstat := x.accstat ||| 0x20 }
        let x := if w then x else writeRange x d total m (fun l j => ((lane [] res l).getD j ⟨0, 0⟩).code)
        let s := setWarp s e.w x
        let s := if clr then setCrew s e.c (accClear (crewAt s e.c) b row0 nr) else s
        advance s e)

def execMdrain (g : Guard) (w : Bool) (f : FSlot) (clr : Bool) (rows : Fin 64) (d a : Opnd) (s : State) :
    Host.Outcome State Fault Refusal := mdrainOp false g w f clr rows d a s

/-- `mfill` (R216). -/
def execMfill (g : Guard) (f : FSlot) (rows : Fin 64) (a d : Opnd) (s : State) :
    Host.Outcome State Fault Refusal :=
  let nr := rows.val + 1
  engineOp s f.val g (fun e => !fmIllegal (slotWord e.x f) && rangeOk e.x d (rowRegs (slotWord e.x f) * nr))
    [(a, 1)] true (fun s e m v =>
      let fw := slotWord e.x f
      match bankCheck e m (v 0) nr true with
      | .error x => .error x
      | .ok _ =>
        let b := bits (v 0) 0 4
        let row0 := bits (v 0) 8 6
        let total := rowRegs fw * nr
        let r := (lanesOf m).foldl (fun (acc : Memory × Nat) l =>
          ((rangeWords e.x d total l).zipIdx).foldl (fun (acc : Memory × Nat) p =>
            (List.range (fmN fw)).foldl (fun (acc : Memory × Nat) k =>
              let col := drainCol (fmN fw) (p.2 % rowRegs fw) l k
              if 64 ≤ col then acc
              else
                let y := round32 (fmIn fw (subElem fw k p.1.toNat))
                (memPutNat acc.1 (accAddr b (row0 + p.2 / rowRegs fw) col) 4 y.code, acc.2 ||| y.flags)) acc) acc)
          ((crewAt s e.c).acc, 0)
        let s := raiseFlags s e.w r.2
        advance (setCrew s e.c { crewAt s e.c with acc := r.1 }) e)

/-- `mzero` (R216). -/
def execMzero (g : Guard) (rows : Fin 64) (a : Opnd) (s : State) : Host.Outcome State Fault Refusal :=
  let nr := rows.val + 1
  engineOp s 0 g (fun _ => true) [(a, 1)] true (fun s e m v =>
    match bankCheck e m (v 0) nr true with
    | .error x => .error x
    | .ok _ => advance (setCrew s e.c (accClear (crewAt s e.c) (bits (v 0) 0 4) (bits (v 0) 8 6) nr)) e)

/-- `mwait` (R217). -/
def execMwait (g : Guard) (s : State) : Host.Outcome State Fault Refusal :=
  runInstr s 0 (fun _ => true) anyMode g (fun e =>
    if taking e g = 0 ∨ e.cr.eng.isEmpty then advance s e else .error (.park (.mwait e.cr.engSeq) s))

/-! ### Completions (R199, R218, R220, R221) -/

/-- An outstanding command reads a byte of its scratchpad source ahead of its completion (R218). -/
def engineRead (s : State) (c seq a : Nat) : State :=
  let cr := crewAt s c
  setCrew s c { cr with eng := cr.eng.map (fun k =>
    if k.seq = seq ∧ k.obj = false ∧ k.taken.all (fun b => b.1 != a) = true then
      { k with taken := k.taken ++ [(a, memGet cr.scr a)] } else k) }

/-- An uncorrectable error that the completion of an `mload` may meet: in the data of a place of its tile (R221, R325), or in
a word of its scratchpad source, which has the outcome of R220: an asynchronous SOFTERR with detail 4 and ADDR 0, and the
shadow plane as it was (DESIGN CHOICE, unsafe: log entry 15: R325 gives scratchpad words a detail of their own, for
instructions). The failures of migrations and requests are those that the read finds. -/
def mloadFailOk (cmd : EngCmd) (f : ReadFail) : Bool :=
  if cmd.obj then
    f.cause == 0x16 && f.detail == 2 && (tilePlaces cmd 0 0).any (fun p => p.1 == f.index)
  else f.cause == 0x16 && f.detail == 4

/-- The command at the head of a crew's engine order completes, when it is an `mload`; `fail` is an uncorrectable error in
what it reads, with the element index. -/
def execMloadComplete (c : Nat) (fail : Option ReadFail) (s : State) : Host.Outcome State Fault Refusal :=
  .next (match (crewAt s c).eng with
    | cmd :: _ =>
      if !cmd.load || engFrozen s cmd.warp then s
      else if fail.all (mloadFailOk cmd) then (engHead false fail s c).2 else s
    | [] => s)

/-- The command at the head completes, when it is an `mstream`; `softErr` is an uncorrectable error in a word
that it reads. -/
def execMstreamComplete (c : Nat) (softErr : Bool) (s : State) : Host.Outcome State Fault Refusal :=
  .next (match (crewAt s c).eng with
    | cmd :: _ =>
      if cmd.load || engFrozen s cmd.warp then s
      else (engHead false (if softErr then some ⟨0x16, 4, 0⟩ else none) s c).2
    | [] => s)

end Sys2Proof.Machine
end

