-- ==== Sys2Proof/Machine/Copy.lean ====
section
/-! DEFINITION. The copy engine (R282 to R304): descriptors, the checks at issue, the walk of the box, gather,
scatter, combining and the quantizing copy, and how a command ends. -/

namespace Sys2Proof.Machine

/-! ### The descriptor (R285) -/

/-- A copy descriptor. -/
structure Desc where
  src   : Nat
  dst   : Nat
  ew    : Nat
  nd    : Nat
  sscr  : Bool
  dscr  : Bool
  oob   : Nat
  crec  : Bool
  arv   : Nat
  resid : Bool
  dup   : Bool
  cslot : Nat
  cop   : Nat
  tag   : Nat
  mbo   : Nat
  fill  : Nat
  ext   : List Nat
  sstr  : List Nat
  dims  : List Nat
  resv  : Bool
  raddr : Nat
  seed  : Nat
  cap   : Word
  deriving DecidableEq, Repr

/-- The fields of 128 bytes. -/
def descOf (bs : List Byte) : Desc :=
  let v := bytesNat bs
  { src := bits v 0 64, dst := bits v 64 64, ew := bits v 128 7, nd := bits v 135 4,
    sscr := bits v 139 1 == 1, dscr := bits v 140 1 == 1, oob := bits v 141 2, crec := bits v 143 1 == 1,
    arv := bits v 144 2, resid := bits v 146 1 == 1, dup := bits v 147 1 == 1, cslot := bits v 148 4,
    cop := bits v 152 3, tag := bits v 160 16, mbo := bits v 176 16, fill := bits v 192 64,
    ext := (List.range 14).map (fun k => bits v (256 + 40 * k) 16 + 1),
    sstr := (List.range 14).map (fun k => bits v (272 + 40 * k) 24),
    dims := (List.range 14).map (fun k => bits v (256 + 40 * k) 40),
    resv := bits v 155 5 != 0 || bits v 816 16 != 0 || bits v 992 32 != 0,
    raddr := bits v 832 64, seed := bits v 896 64, cap := BitVec.ofNat 32 (bits v 960 32) }

/-- The positions of a box (R286). -/
def boxSize (d : Desc) : Nat := (d.ext.take d.nd).foldl (· * ·) 1

/-- The coordinates of position q (R286). -/
def boxCoords : List Nat → Nat → List Nat
  | [], _ => []
  | e :: es, q => q % e :: boxCoords es (q / e)

def dotNat : List Nat → List Nat → Nat
  | x :: xs, y :: ys => x * y + dotNat xs ys
  | _, _ => 0

/-- The scratchpad bit address of a position (R286). -/
def scrLoc (d : Desc) (x : Nat) (c : List Nat) : Nat := bits x 0 22 + d.ew * dotNat c d.sstr

/-! ### The checks at issue (R297, R302) -/

/-- Whether the command combines under its slot. -/
def combSlot (op : CopyOp) (d : Desc) : Bool := op == .scatter && d.dup && decide (d.cop ≤ 2)

/-- Fields that R302 makes zero for the instruction. -/
def descForbidden (op : CopyOp) (d : Desc) : Bool :=
  match op with
  | .plain => d.resid || d.dup || d.cop != 0 || d.cslot != 0 || d.raddr != 0 || d.cap != 0 || d.seed != 0
  | .gather => d.sscr || d.resid || d.dup || d.cop != 0 || d.cslot != 0 || d.raddr != 0 || d.cap != 0 ||
      d.seed != 0
  | .scatter => d.dscr || d.resid || (!d.dup && (d.cop != 0 || d.cslot != 0)) || d.raddr != 0 || d.cap != 0
  | .quant => d.dscr || d.dup || d.cop != 0

/-- Case 1 of R297. -/
def descBad (op : CopyOp) (d : Desc) (fw : Word) : Bool :=
  d.resv || d.ew == 0 || decide (64 < d.ew) || d.nd == 0 || decide (14 < d.nd) ||
  (d.dims.drop d.nd).any (· != 0) || d.oob == 3 || d.arv == 3 || descForbidden op d ||
  (d.sscr && bits d.src 22 42 != 0) || (d.dscr && bits d.dst 22 42 != 0) ||
  (op == .quant && (d.ew != 32 || d.ext.getD 0 1 % 48 != 0 || decide (fmW fw < 2) || decide (8 < fmW fw))) ||
  (combSlot op d && (d.ew != fmW fw || decide (32 < fmW fw)))

/-- The scratchpad ranges of case 3, as first byte and the byte after the last. -/
def descRanges (d : Desc) (idx : Option Nat) : List (Nat × Nat) :=
  let top := dotNat ((d.ext.take d.nd).map (· - 1)) d.sstr
  let side := fun (scr : Bool) (x : Nat) =>
    if scr then [(x / 8, (x + d.ew * (top + 1) + 7) / 8)] else []
  side d.sscr d.src ++ side d.dscr d.dst ++
  (match idx with | some b => [(b, b + 4 * d.ext.getD (d.nd - 1) 1)] | none => []) ++
  (if d.arv = 0 then [] else [(16 * d.mbo, 16 * d.mbo + 16)])

/-- The detail of CPYFAULT (R298). -/
def cpyDetail (code chan : Nat) (async : Bool) (tag : Nat) : Nat :=
  code + 2 ^ 8 * chan + (if async then 2 ^ 11 else 0) + 2 ^ 16 * tag

/-- The checks of R297: the code and the address of the first failure. -/
def descFail (op : CopyOp) (d : Desc) (fw : Word) (off scrLen : Nat) (idx : Option Nat) : Option (Nat × Nat) :=
  if descBad op d fw then some (0x20, off)
  else if (op == .quant || combSlot op d) && fmIllegal fw then some (0x09, off)
  else ((descRanges d idx).find? (fun r => decide (scrLen < r.2))).map (fun r => (0x06, max r.1 scrLen))

/-! ### Issuing (R301, R302) -/

/-- The commands that a channel holds, over all crews of the spire (R282). -/
def chanCmds (s : State) (tower phys chan : Nat) : List CopyCmd :=
  s.copies.filter (fun k => k.tower == tower && k.phys == phys && k.chan == chan)

/-- The token of a command (R283). -/
def tokenOf (chan seq : Nat) : Nat := chan + 2 ^ 8 * (seq % 2 ^ 24)

/-- A copy instruction; `b` is the operand of the index list. -/
def copyOp (s : State) (h : Hdr) (op : CopyOp) (chan : Fin 8) (d a : Opnd) (b : Option Opnd) :
    Host.Outcome State Fault Refusal :=
  let srcs : List Src := (a, 1) :: (b.map (fun o => (o, 1))).toList
  runInstr s 0 (regsOk ((d, 1) :: srcs)) anyMode h.g (fun e =>
    let m := taking e h.g
    if m = 0 then advance s e
    else match readSrcs s e m srcs (some d) (!h.w) with
    | .error x => .error x
    | .ok (s1, vals) =>
      let bo := warpValue m vals 1
      match scratchWarp e m (warpValue m vals 0) 128 16 with
      | .error x => .error x
      | .ok off =>
        if b.isSome ∧ bo % 4 ≠ 0 then .error (.trap ⟨3, m, bo, 0⟩)
        else
          let bs := memBytes e.cr.scr off 128
          let ds := descOf bs
          let fw := e.x.fs.getD ds.cslot 0
          match descFail op ds fw off e.cr.scrLen (b.map (fun _ => bo)) with
          | some f => .error (.trap ⟨0x11, m, f.2, cpyDetail f.1 chan.val false ds.tag⟩)
          | none =>
            if Config.channelDepth ≤ (chanCmds s e.cr.tower e.cr.phys chan.val).length then
              .error (.park (.reissue (.channel chan.val)) s)
            else
              let cr := crewAt s1 e.c
              let seq := cr.cseqn.getD chan.val 0
              let cmd : CopyCmd := ⟨cr.tower, cr.phys, chan.val, e.c, e.w, (lowest m).getD 0, seq, op, bs,
                if b.isSome then bo else 0, fw, e.pc, e.x.issued, BitVec.ofNat 64 ds.seed, 0, 0, [0, 0, 0, 0], [], none, false, []⟩
              let s2 := setCrew s1 e.c { cr with cseqn := cr.cseqn.set chan.val ((seq + 1) % 2 ^ 24) }
              finish { s2 with copies := s2.copies ++ [cmd] } e h d m 1 (fun _ => tokenOf chan.val seq))

def execCpy (h : Hdr) (chan : Fin 8) (d a : Opnd) (s : State) : Host.Outcome State Fault Refusal :=
  copyOp s h .plain chan d a none
def execCpyg (h : Hdr) (chan : Fin 8) (d a b : Opnd) (s : State) : Host.Outcome State Fault Refusal :=
  copyOp s h .gather chan d a (some b)
def execCpys (h : Hdr) (chan : Fin 8) (d a b : Opnd) (s : State) : Host.Outcome State Fault Refusal :=
  copyOp s h .scatter chan d a (some b)
def execCpyq (h : Hdr) (chan : Fin 8) (d a : Opnd) (s : State) : Host.Outcome State Fault Refusal :=
  copyOp s h .quant chan d a none

/-! ### Locations (R286 to R291, R298) -/

/-- One side of one position: a fault, sub-tiles that the fault unit must serve, a location out of shape that
OOB passes over, a scratchpad bit address, or an element with the pieces that are read and written. -/
inductive CpSide
  | fail (code addr : Nat)
  | wait (ts : List SubTile)
  | drop
  | scr (bit : Nat)
  | elem (addr : Nat) (l : Loc) (rd wr : List Piece)
  deriving DecidableEq, Repr

/-- What a command's walk uses: its descriptor, agent, captured slot and index list (R289, R300). -/
structure Walk where
  cmd : CopyCmd
  d   : Desc
  ag  : Agent
  scr : Memory
  idx : List Nat

def walkOf (s : State) (cmd : CopyCmd) : Walk :=
  let d := descOf cmd.desc
  let scr := (crewAt s cmd.crew).scr
  { cmd := cmd, d := d, ag := cmdAgent s cmd.warp cmd.failed, scr := scr,
    idx := if cmd.op = .gather ∨ cmd.op = .scatter then
        (List.range (d.ext.getD (d.nd - 1) 1)).map (fun j => memNat scr (cmd.idx + 4 * j) 4) else [] }

/-- What is asked of an element: read, written, and the width of what the location covers. -/
structure SideNeed where
  rd : Bool
  wr : Bool
  n  : Nat
  deriving DecidableEq, Repr

/-- The residency step of an element whose record and index are settled. -/
def cpFind (s : State) (ag : Agent) (obj i addr : Nat) (nd : SideNeed) : CpSide :=
  match checkShape s ag obj i nd.n ⟨none, nd.wr, false⟩ with
  | .error f => .fail f.cause addr
  | .ok l =>
    let fr : Found := if nd.rd then findAll s ag l false else ⟨none, [], []⟩
    let fw : Found := if nd.wr then findAll s ag l true else ⟨none, [], []⟩
    match fr.bad.or fw.bad with
    | some (c, _) => .fail c addr
    | none =>
      if fr.units.isEmpty && fw.units.isEmpty then .elem addr l fr.pieces fw.pieces
      else .wait (fr.units ++ fw.units)

/-- Whether a record grants PERM_C with PERM_R for reads and PERM_W for writes (R298). -/
def cpPerm (r : Rec) (nd : SideNeed) : Bool :=
  recPerm r .c && (!nd.rd || recPerm r .r) && (!nd.wr || recPerm r .w)

/-- An object side of a position (R286 to R289, R298). Where the record is absent or unsuited there is no location, and
the address is the SRC or DST field itself, also on a side that an index list names (DESIGN CHOICE, unsafe: log entry 26). -/
def cpObj (s : State) (k : Walk) (x : Nat) (c : List Nat) (gat : Bool) (nd : SideNeed) (quant comb : Bool) : CpSide :=
  let obj := bits x 42 22
  match recordOf s k.ag obj (bits x 0 42) with
  | .error f => .fail f.cause x
  | .ok r =>
    let o := coords r (recND r) 0 (bits x 0 42)
    if decide (recND r < k.d.nd) ||
        (if quant then recEW r != fmW k.cmd.slotw || recLayout r != 2 || o.getD 0 0 % 48 != 0
         else recEW r != k.d.ew || recLayout r == 2) then .fail 0x22 x
    else
      let xs := o.zipIdx.map (fun p =>
        if gat ∧ p.2 + 1 = k.d.nd then k.idx.getD (c.getD p.2 0) 0
        else if p.2 < k.d.nd then p.1 + c.getD p.2 0 else p.1)
      let i := (xs.foldr (fun (y : Nat) (acc : Nat × Nat) =>
        (y + recD r acc.2 * acc.1, acc.2 - 1)) (0, recND r - 1)).1
      let addr := elemAddr obj (bits i 0 42)
      if !cpPerm r nd then .fail 5 addr
      else if xs.zipIdx.any (fun p => decide (recD r p.2 ≤ p.1)) then
        (if k.d.oob = 0 then .fail 6 addr else .drop)
      else if comb && recProp r then .fail 5 addr
      else cpFind s k.ag obj i addr
        (if quant then { nd with n := 8 * blockBytes (fmW k.cmd.slotw) (recOutl r) } else nd)

/-- The residual element of position q (R291). -/
def cpResid (s : State) (k : Walk) (q : Nat) : CpSide :=
  let x := k.d.raddr
  let obj := bits x 42 22
  match recordOf s k.ag obj (bits x 0 42) with
  | .error f => .fail f.cause x
  | .ok r =>
    let i := bits x 0 42 + q
    let addr := elemAddr obj (bits i 0 42)
    let nd : SideNeed := ⟨true, true, 32⟩
    if recEW r ≠ 32 ∨ recLayout r = 2 then .fail 0x22 x
    else if !cpPerm r nd then .fail 5 addr
    else if recCount r ≤ i then .fail 6 addr
    else cpFind s k.ag obj i addr nd

/-- One position: its source, its residual, and its destination; in a quantizing copy the destination of a
group stands at its first position. -/
structure CpPos where
  q   : Nat
  src : CpSide
  res : Option CpSide
  dst : Option CpSide
  deriving DecidableEq, Repr

/-- Position q of the box. -/
def cpPos (s : State) (k : Walk) (q : Nat) : CpPos :=
  let c := boxCoords (k.d.ext.take k.d.nd) q
  let comb := k.cmd.op == .scatter && k.d.dup
  let quant := k.cmd.op == .quant
  { q := q,
    src := if k.d.sscr then .scr (scrLoc k.d k.d.src c)
      else cpObj s k k.d.src c (k.cmd.op == .gather) ⟨true, false, k.d.ew⟩ false false,
    res := if quant && k.d.resid then some (cpResid s k q) else none,
    dst := if quant && q % 48 != 0 then none
      else if k.d.dscr then some (.scr (scrLoc k.d k.d.dst c))
      else some (cpObj s k k.d.dst c (k.cmd.op == .scatter) ⟨comb, true, k.d.ew⟩ quant comb) }

def posSides (p : CpPos) : List CpSide := p.src :: (p.res.toList ++ p.dst.toList)

/-- The positions that a command has still to perform. -/
def cpWalk (s : State) (k : Walk) : List CpPos :=
  (List.range (boxSize k.d - k.cmd.next)).map (fun j => cpPos s k (k.cmd.next + j))

/-- A fault of a running command: its position, code and address. -/
structure CpFail where
  q    : Nat
  code : Nat
  addr : Nat
  deriving DecidableEq, Repr

/-- The first fault of a walk and the sub-tiles that the positions before it wait for (R298). -/
def walkStop : List CpPos → List SubTile × Option CpFail
  | [] => ([], none)
  | p :: ps =>
    match (posSides p).findSome? (fun x => match x with | .fail c a => some (CpFail.mk p.q c a) | _ => none) with
    | some f => ([], some f)
    | none =>
      let r := walkStop ps
      ((posSides p).flatMap (fun x => match x with | .wait ts => ts | _ => []) ++ r.1, r.2)

/-- A command's sub-tiles that the fault unit must serve. -/
def cpUnits (s : State) (cmd : CopyCmd) : List SubTile := (walkStop (cpWalk s (walkOf s cmd))).1

/-! ### Reading (R293) -/

/-- The pieces that a side is read through. -/
def sideReads : CpSide → List Piece
  | .elem _ _ rd _ => rd
  | _ => []

/-- The pieces that a side is written through. -/
def sideWrites : CpSide → List Piece
  | .elem _ _ _ wr => wr
  | _ => []

def sideAddr : CpSide → Nat
  | .elem a _ _ _ => a
  | .fail _ a => a
  | _ => 0

def sideObj : CpSide → Nat
  | .elem _ l _ _ => l.obj
  | _ => 0

/-- The owner of a command's requests. -/
def cmdOwner (c : CopyCmd) : Owner := .copy c.crew c.chan c.seq

/-- The lines of this device that a side is written to. -/
def sideNear (s : State) (k : Walk) : CpSide → List LineRef
  | .elem _ l _ wr => nearLines s k.ag.ctx l wr
  | _ => []

/-- Whether an element lies in one piece on another device, so that one request combines it there (R290, R373). -/
def oneFar (wr : List Piece) : Bool := wr.length == 1 && !(farPieces wr).isEmpty

/-- The sides of a position that are read here: a combined element that one request reaches is not. -/
def posReads (k : Walk) (p : CpPos) : List CpSide :=
  p.src :: (p.res.toList ++ p.dst.toList.filter (fun x => !(k.cmd.op == .scatter && oneFar (sideWrites x))))

/-- The lines of other devices that a side is read through. -/
def sideLines (k : Walk) (x : CpSide) : List LineRef := farLines k.ag.ctx (sideObj x) (sideReads x)

/-- Why a side cannot be read: code 7 where a request ended, 0x16 for poisoned data (R325, R369). -/
def sideDead (s : State) (k : Walk) (dead : List (LineRef × Nat)) (q : Nat) (x : CpSide) : Option CpFail :=
  match dead.find? (fun d => (sideLines k x).contains d.1) with
  | some d => some ⟨q, deadCause d.2, sideAddr x⟩
  | none => if (sideReads x).any (piecePoisoned s) then some ⟨q, 0x16, sideAddr x⟩ else none

/-- Fetches the remote lines that positions read: none while one is missing; otherwise the first read that failed. -/
def cpFetch (s : State) (k : Walk) (ps : List CpPos) : Option (Option CpFail) × State :=
  match fetchSet s (cmdOwner k.cmd) (ps.flatMap (fun p => (posReads k p).flatMap (sideLines k))) with
  | (none, s) => (none, s)
  | (some dead, s) => (some (ps.findSome? (fun p => (posReads k p).findSome? (sideDead s k dead p.q))), s)

/-- The value at a side that is read, of n bits: object data on the copy path (R275, R300). -/
def sideVal (s : State) (k : Walk) (n : Nat) : CpSide → Nat
  | .scr bit => memBits k.scr bit n
  | .elem _ _ rd _ => readAll { s with mem := viewMem s 2 } (k.ag.args.getD []) rd
  | _ => if k.d.oob = 2 then bits k.d.fill 0 n else 0

/-! ### Performing -/

/-- What a command has done so far; `peers` are the lines of other devices as its own combining steps leave them. -/
structure CpAcc where
  s     : State
  flags : Nat
  cnt   : List Nat
  gen   : DWord
  out   : List CopyOut
  peers : List (Nat × Nat × Nat)

/-- The result of a combining step (R290). -/
def combNew (cop n o v : Nat) (fw rw : Word) : Rnd :=
  match cop with
  | 0 => rndAdd fw (fmIn fw o) (fmIn fw v) rw
  | 1 => rndVal fw (minMaxVal false (fmIn fw o) (fmIn fw v)) rw
  | 2 => rndVal fw (minMaxVal true (fmIn fw o) (fmIn fw v)) rw
  | 3 => ⟨(o + v) % 2 ^ n, 0⟩
  | 4 => ⟨min o v, 0⟩
  | 5 => ⟨max o v, 0⟩
  | 6 => ⟨o ||| v, 0⟩
  | _ => ⟨o &&& v, 0⟩

/-- Performs the local part of a write to an object, through the copy path (R284). -/
def cpStore (s : State) (k : Walk) (l : Loc) (wr : List Piece) (v : Nat) : State :=
  storeLoc s (some (2, k.cmd.warp)) k.ag.ctx l wr v

/-- A write of n bits to a side: local pieces now, remote ones as requests. -/
def cpWrite (k : Walk) (q : Nat) (x : CpSide) (n v : Nat) (acc : CpAcc) : CpAcc :=
  match x with
  | .scr bit =>
    let cr := crewAt acc.s k.cmd.crew
    { acc with s := setCrew acc.s k.cmd.crew { cr with scr := memPutBits cr.scr bit n v } }
  | .elem addr l _ wr =>
    let reqs := writeReqs acc.s k.ag.ctx l.obj v wr
    { acc with s := cpStore acc.s k l wr v,
               out := acc.out ++ reqs.map (fun r => ⟨{ r with lane := q }, q, addr, false, []⟩) }
  | _ => acc

/-- Whether the command's combining steps step the generator (R290). -/
def combDraws (k : Walk) : Bool := decide (k.d.cop ≤ 2) && fmRm k.cmd.slotw == 5

/-- The generator before a combining step. -/
def combGen (k : Walk) (acc : CpAcc) : CpAcc := if combDraws k then { acc with gen := genStep acc.gen } else acc

/-- A combining step (R290): the generator steps once under RM = 5 for COP 0 to 2. An element that lies on another device
is combined there, by one request, and one of which another device holds a part is combined by `splitSend`. One of which two
parts lie on other devices is combined here and written piece by piece (DESIGN CHOICE, unsafe: log entry 26: no request
reaches all of it at once). -/
def cpCombine (k : Walk) (q : Nat) (x : CpSide) (v : Nat) (acc : CpAcc) : CpAcc :=
  match x with
  | .elem addr l _ wr =>
    let fw := k.cmd.slotw
    let acc := combGen k acc
    let rw : Word := if combDraws k then genOut acc.gen else 0
    if oneFar wr then
      let reqs := (farPieces wr).map (fun p =>
        { mkReq acc.s 2 p.1 k.ag.ctx l.obj p.2.1 p.2.2.1 p.2.2.2.2 v with
          aop := 16 + k.d.cop, slot := fw, lane := q, rnd := rw })
      { acc with out := acc.out ++ reqs.map (fun r => ⟨r, q, addr, true, []⟩) }
    else
      let seen := { acc.s with fab := { acc.s.fab with peers := acc.peers } }
      let r := combNew k.d.cop k.d.ew (readAll seen [] wr) v fw rw
      let after := (farPieces wr).foldl (fun s p => updatePeers s p.1 p.2.2.1 p.2.2.2.2
        (bits r.code p.2.2.2.1 p.2.2.2.2)) seen
      let a := cpWrite k q x k.d.ew r.code acc
      { a with flags := a.flags ||| r.flags, peers := after.fab.peers }
  | _ => acc

/-- Increments the counts that `evs` lists, saturating at 255 (R291). -/
def cntAdd (cnt : List Nat) (evs : List Nat) : List Nat :=
  evs.foldl (fun c k => c.set k (min 255 (c.getD k 0 + 1))) cnt

/-- One position of a plain copy, a gather or a scatter (R286, R289, R290). One that `wrote` leaves out still steps the
generator where a combining step would have. -/
def cpStep (k : Walk) (vals : List (Nat × Nat)) (wrote : Nat → Bool) (acc : CpAcc) (p : CpPos) : CpAcc :=
  let v := ((vals.find? (fun e => e.1 == p.q)).map (·.2)).getD 0
  let comb := k.cmd.op = .scatter ∧ k.d.dup = true
  match p.dst with
  | some x =>
    if wrote p.q then (if comb then cpCombine k p.q x v acc else cpWrite k p.q x k.d.ew v acc)
    else if comb ∧ x ≠ .drop then combGen k acc
    else acc
  | none => acc

/-- One group of a quantizing copy (R291, R292). `wrote` says which residuals are written. -/
def cpGroup (k : Walk) (s0 : State) (wrote : Nat → Bool) (acc : CpAcc) (ps : List CpPos) : CpAcc :=
  match ps with
  | [] => acc
  | p :: _ =>
    let fw := k.cmd.slotw
    let acc := if fmRm fw = 5 then { acc with gen := genStep acc.gen } else acc
    let g : Word := if fmRm fw = 5 then genOut acc.gen else 0
    match p.dst with
    | some (.elem addr l rd wr) =>
      let xs : List Word := ps.map (fun p => BitVec.ofNat 32 (sideVal s0 k 32 p.src))
      let o := recOutl l.rec_
      let rs : List Word := ps.map (fun p => match p.res with
        | some x => BitVec.ofNat 32 (sideVal s0 k 32 x)
        | none => 0)
      let r : Quant × List Nat := if k.d.resid then quantResid fw xs rs k.d.cap o g 0
        else (quantBlock fw xs k.d.cap o g 0, [])
      let acc := if wrote p.q then cpWrite k p.q (.elem addr l rd wr) l.n r.1.blk
        { acc with flags := acc.flags ||| r.1.flags, cnt := cntAdd acc.cnt r.1.evs } else acc
      (ps.zip r.2).foldl (fun acc e => match e.1.res with
        | some x => if wrote (boxSize k.d + e.1.q) then cpWrite k e.1.q x 32 e.2 acc else acc
        | none => acc) acc
    | _ => acc

/-- The groups of 48 positions (R291). -/
def groups48 : Nat → List CpPos → List (List CpPos)
  | 0, _ => []
  | f + 1, ps => if ps.isEmpty then [] else ps.take 48 :: groups48 f (ps.drop 48)

/-- Performs the positions that `wrote` names; their sides are all found, and a group that is not `whole` only steps the
generator (R292). -/
def cpPerform (s : State) (k : Walk) (ps : List CpPos) (whole : List CpPos → Bool) (wrote : Nat → Bool) : CpAcc :=
  let acc : CpAcc := ⟨s, k.cmd.flags, k.cmd.cnt, k.cmd.gen, [], s.fab.peers⟩
  if k.cmd.op = .quant then
    (groups48 (ps.length + 1) ps).foldl (fun acc g =>
      if whole g then cpGroup k s wrote acc g
      else if fmRm k.cmd.slotw = 5 then { acc with gen := genStep acc.gen } else acc) acc
  else
    let vals := (ps.filter (fun p => wrote p.q)).map (fun p => (p.q, sideVal s k k.d.ew p.src))
    ps.foldl (cpStep k vals wrote) acc

/-! ### Ending (R294 to R296, R298, R299) -/

/-- XB (R295): the outlier count is that of the destination record when the command read it, 0 before. -/
def copyXb (k : Walk) : Nat :=
  if k.cmd.op = .quant then boxSize k.d / 48 * blockBytes (fmW k.cmd.slotw) (k.cmd.shape.getD 0)
  else (boxSize k.d * k.d.ew + 7) / 8

/-- The outlier count that a quantizing copy reads in its destination record; 0 when that is absent or malformed. -/
def recordShape (s : State) (k : Walk) : Option Nat :=
  if k.cmd.op = .quant then
    match recordOf s k.ag (bits k.d.dst 42 22) (bits k.d.dst 0 42) with
    | .ok r => some (recOutl r)
    | .error _ => none
  else none

/-- The completion record (R294). -/
def copyRecord (cmd : CopyCmd) (d : Desc) (status code xb : Nat) (arvErr : Bool) : BitVec 128 :=
  BitVec.ofNat 128 (status + 2 ^ 3 * cmd.chan + (if arvErr then 2 ^ 6 else 0) + 2 ^ 8 * code + 2 ^ 16 * d.tag +
    2 ^ 32 * (if status = 0 then xb % 2 ^ 32 else 0) + 2 ^ 64 * (cmd.seq % 2 ^ 24) + 2 ^ 88 * (cmd.flags % 32) +
    2 ^ 96 * cmd.cnt.getD 0 0 + 2 ^ 104 * cmd.cnt.getD 1 0 + 2 ^ 112 * cmd.cnt.getD 2 0 +
    2 ^ 120 * cmd.cnt.getD 3 0)

/-- Whether two commands are the same: a channel number with a sequence number of one crew (R283). -/
def sameCmd (a b : CopyCmd) : Bool := a.crew == b.crew && a.chan == b.chan && a.seq == b.seq

/-- Resumes the paths that wait for a command of a crew to end, or for the last of those that a `ccan` ends. -/
def wakeCopy (s : State) (crew t : Nat) : State :=
  wakeWhere s (crewAt s crew).warps (fun p => match p with
    | .cwait u => u == BitVec.ofNat 32 t
    | .ccan us => us.contains (BitVec.ofNat 32 t) && us.all (fun u => !s.copies.any (fun k =>
        k.crew == crew && BitVec.ofNat 32 (tokenOf k.chan k.seq) == u))
    | _ => false)

/-- A command ends: the arrival, the `cwait`s, the record, and for a fault the trap entry (R296, R298). -/
def copyEnd (s : State) (cmd : CopyCmd) (status : Nat) (f : Option CpFail) : State :=
  let d := descOf cmd.desc
  let xb := copyXb (walkOf s cmd)
  let code := (f.map (·.code)).getD 0
  let s := dropOwners { s with copies := s.copies.filter (fun k => !sameCmd k cmd) } (· == cmdOwner cmd)
  let r := if d.arv = 0 then (false, s) else mbEngine s cmd.crew (16 * d.mbo) xb (d.arv == 2)
  let s := if status = 0 then
      let x := warpAt r.2 cmd.warp
      setWarp r.2 cmd.warp { x with qstat := qstatCounts x.qstat cmd.cnt }
    else r.2
  let s := wakeCopy s cmd.crew (tokenOf cmd.chan cmd.seq)
  let s := if d.crec then portRecord s cmd.warp false (copyRecord cmd d status code xb r.1) else s
  match f with
  | some f => asyncTrap s cmd.warp cmd.issue 0 0x11 (maskOf (fun l => l == cmd.lane)) cmd.pc f.addr
      (cpyDetail f.code cmd.chan true d.tag)
  | none => s

/-- Whether every side of a position that is read could be read here and now, with the data that a run would have. -/
def readsHere (s : State) (k : Walk) (p : CpPos) : Bool :=
  (posReads k p).all (fun x => match x with
    | .fail _ _ => false
    | .wait _ => false
    | .elem _ _ rd _ => !rd.any (piecePoisoned s) &&
        (sideLines k x).all (fun f => (peerLine s f.dev f.line).isSome && !lineOpen s f.dev f.line)
    | _ => true)

/-- Whether no other device holds a line of this device, and nothing waits for it (R374). -/
def lineFree (s : State) (line : Nat) : Bool := (dirAt s line).isNone && !lineWaits s line

/-- Whether every side of a position could be read and its writes performed here and now. -/
def posLocal (s : State) (k : Walk) (p : CpPos) : Bool :=
  readsHere s k p && (posSides p).all (fun x => (sideNear s k x).all (fun q => lineFree s q.line) && (match x with
    | .fail _ _ => false
    | .wait _ => false
    | .elem _ _ _ wr => (farPieces wr).isEmpty
    | _ => true))

/-- Whether two destinations share bits. -/
def sidesMeet (n : Nat) : CpSide → CpSide → Bool
  | .scr a, .scr b => decide (a < b + n) && decide (b < a + n)
  | .elem _ _ _ u, .elem _ _ _ v => u.any (fun p => v.any (fun q => match p.place, q.place with
      | .phys a, .phys b => decide (a < b + q.n) && decide (b < a + p.n)
      | _, _ => false))
  | _, _ => false

/-- The positions that a stopped command has written, among those that `pick` names: where duplicates combine, a position
counts only when every earlier one that shares its destination does (R290, R298). -/
def stopWrote (k : Walk) (ps : List CpPos) (pick : CpPos → Bool) : List Nat :=
  (ps.foldl (fun (acc : List Nat × List CpSide) p =>
    let blocked := k.d.dup && acc.2.any (fun x => p.dst.toList.any (sidesMeet k.d.ew x))
    if pick p && !blocked then (acc.1 ++ [p.q], acc.2) else (acc.1, acc.2 ++ p.dst.toList)) ([], [])).1

/-- A command has read the sources of positions on the copy path. -/
def copySaw (s : State) (k : Walk) (ps : List CpPos) : State :=
  sawBytes s 2 k.cmd.warp (pieceBytes (ps.flatMap (fun p => (posSides p).flatMap sideReads)))

/-- A command that stops: each element is as it was or as the command would have left it, and which positions were
written is not stated (R298, R304). One whose line another device holds is not (R374; log entry 26). -/
def copyStop (s : State) (cmd : CopyCmd) (status : Nat) (f : Option CpFail) (started : Bool) : State :=
  let k := walkOf s cmd
  let n := boxSize k.d
  let ps := cpWalk s k
  let choose := fun q => Config.copyWrote s.free q
  let wrote := stopWrote k ps (fun p => choose p.q && posLocal s k p)
  let resid := (ps.filter (fun p => choose (n + p.q) && posLocal s k { p with dst := none })).map (fun p => n + p.q)
  let a := if started then cpPerform (copySaw { s with free := s.free + 1 } k (ps.filter (readsHere s k))) k ps
      (fun g => g.all (readsHere s k)) (fun q => wrote.contains q || resid.contains q)
    else ⟨s, cmd.flags, cmd.cnt, cmd.gen, [], []⟩
  let seen := match f with
    | some f => decide (k.cmd.next < f.q) || (posSides { cpPos s k f.q with dst := none }).all (fun x =>
        match x with | .fail _ _ => false | _ => true)
    | none => started && choose (2 * n)
  copyEnd a.s { cmd with
    flags := a.flags, cnt := a.cnt, shape := cmd.shape.or (if seen then recordShape s k else none) } status f

/-- The answers of a command's remote writes: none while one is missing; otherwise the first that failed, and
the flags of its combining steps. -/
def copyAnswers (s : State) (cmd : CopyCmd) : Option (Option CpFail × Nat) × State :=
  let r := exchange s (cmdOwner cmd) (cmd.out.map (·.r))
  match r.1 with
  | none => (none, r.2)
  | some ans =>
    let d := descOf cmd.desc
    let zs := cmd.out.zip ans
    (some (zs.findSome? (fun z => z.2.2.map (fun c => ⟨z.1.q, deadCause c, z.1.addr⟩)),
      zs.foldl (fun fl z => if z.1.comb ∧ z.2.2.isNone then
        fl ||| (combNew d.cop d.ew z.2.1 z.1.r.data z.1.r.slot z.1.r.rnd).flags else fl) 0), r.2)

/-- Replaces an outstanding command. -/
def putCopy (s : State) (cmd : CopyCmd) : State :=
  { s with copies := s.copies.map (fun k => if sameCmd k cmd then cmd else k) }

/-- What follows once all that a command has sent is answered: it is cancelled, faulted or done, or it has positions left
(R296). -/
def copyGoOn (s : State) (cmd : CopyCmd) (f : Option CpFail) : State :=
  if cmd.dying then copyEnd s cmd 2 none
  else if f.isSome then copyEnd s cmd 1 f
  else if cmd.next = boxSize (descOf cmd.desc) then copyEnd s cmd 0 none
  else putCopy s cmd

/-- The answer of a combining step on a divided element (R290): the old bits of the other device, or that the line there is
locked, so that the step is tried again. The bits of this device follow in the same step. -/
def splitTake (s : State) (cmd : CopyCmd) (o : CopyOut) (old : Nat) : State :=
  match o.r.part with
  | none => s
  | some (n, lo, rest) =>
    let cmd := { cmd with out := [] }
    if 2 ^ o.r.nbits ≤ old then copyGoOn s cmd none
    else
      let d := descOf cmd.desc
      let r := combNew d.cop n (rest + 2 ^ lo * old) o.r.data o.r.slot o.r.rnd
      let ps : List Piece := o.near.map (fun p => ⟨.phys p.1, p.2.1, p.2.2⟩)
      let s := hideWrite s (some (2, cmd.warp)) (pieceBytes ps)
      let draws := decide (d.cop ≤ 2) && fmRm cmd.slotw == 5
      copyGoOn { s with mem := writePieces s.mem ps r.code, plat := unpoison s.plat ps }
        { cmd with flags := cmd.flags ||| r.flags, next := cmd.next + 1, gen := if draws then genStep cmd.gen else cmd.gen }
        none

/-- Finishes what a command has sent, once every answer is here. -/
def copyFinish (s : State) (cmd : CopyCmd) : State :=
  match cmd.out with
  | [o] =>
    if o.near.isEmpty then plain
    else match exchange s (cmdOwner cmd) [o.r] with
      | (none, s) => s
      | (some ans, s) => match ans.head? with
        | some (old, none) => splitTake s cmd o old
        | some (_, some c) => copyGoOn s { cmd with out := [] } (some ⟨o.q, deadCause c, o.addr⟩)
        | none => s
  | _ => plain
where
  plain : State :=
    match copyAnswers s cmd with
    | (none, s) => s
    | (some (f, fl), s) => copyGoOn s { cmd with flags := cmd.flags ||| fl, out := [] } f

/-- The parts of a divided element that is combined (R290): the one of this device and the one of another. -/
def splitParts (k : Walk) (p : CpPos) : Option (Piece × (Nat × Nat × Nat × Nat × Nat)) :=
  if combining then
    match p.dst with
    | some (.elem _ _ _ [a, b]) => match farPieces [a], farPieces [b] with
      | [], f :: _ => some (a, f)
      | f :: _, [] => some (b, f)
      | _, _ => none
    | _ => none
  else none
where
  combining : Bool := k.cmd.op == .scatter && k.d.dup

/-- Sends a combining step on a divided element to the device that holds the other part; the part here is locked until its
answer comes (R290; DESIGN CHOICE, unsafe: log entry 26: the manual names no message for it). -/
def splitSend (s : State) (k : Walk) (p : CpPos) (near : Piece) (far : Nat × Nat × Nat × Nat × Nat) : State :=
  match p.dst, near.place with
  | some (.elem addr l _ _), .phys bit =>
    let s := markDirtyLoc (copySaw s k [p]) k.ag.ctx l
    let r := { mkReq s 2 far.1 k.ag.ctx l.obj far.2.1 far.2.2.1 far.2.2.2.2 (sideVal s k k.d.ew p.src) with
      aop := 16 + k.d.cop, slot := k.cmd.slotw, lane := p.q, rnd := if combDraws k then genOut (genStep k.cmd.gen) else 0,
      part := some (l.n, far.2.2.2.1, 2 ^ near.lo * readPiece s [] near) }
    sendMissing (putCopy s { k.cmd with out := [⟨r, p.q, addr, true, [(bit, near.lo, near.n)]⟩] }) (cmdOwner k.cmd) [r]
  | _, _ => s

/-- The positions that a command performs in one go: those before the next divided element that is combined. -/
def copySegment (k : Walk) (ps : List CpPos) : List CpPos := ps.takeWhile (fun p => (splitParts k p).isNone)

/-- Whether the event's failed read is one that the walk makes before any other fault (R298). -/
def eventFail (ps : List CpPos) (first : Option CpFail) (fail : Option ReadFail) : Option CpFail :=
  match fail with
  | none => none
  | some r =>
    if r.cause = 0x16 ∧ (first.all (fun f => decide (r.index < f.q))) then
      (ps.find? (fun p => p.q == r.index)).bind (fun p =>
        ((posSides p).find? (fun x => !(sideReads x).isEmpty)).map (fun x => ⟨r.index, 0x16, sideAddr x⟩))
    else none

/-- A command with the shape of its destination record, once its walk has come to the destination (R295). -/
def copyShaped (s : State) (cmd : CopyCmd) (ps : List CpPos) : CopyCmd :=
  let reached := match ps with
    | [] => true
    | p :: _ => (posSides { p with dst := none }).all (fun x => match x with | .fail _ _ => false | _ => true)
  { cmd with shape := cmd.shape.or (if reached then recordShape s (walkOf s cmd) else none) }

/-- Runs the command at the head of a channel as far as it goes. -/
def copyRun (s0 : State) (cmd0 : CopyCmd) (fail : Option ReadFail) : State :=
  if !cmd0.out.isEmpty then copyFinish s0 cmd0
  else
    let ps := cpWalk s0 (walkOf s0 cmd0)
    let cmd := copyShaped s0 cmd0 ps
    let s := putCopy s0 cmd
    let k := walkOf s cmd
    let stop := walkStop ps
    if !stop.1.isEmpty then askUnit s cmd.tower stop.1
    else match clearPeers s (ps.flatMap (fun p => (posSides p).flatMap (sideNear s k))) with
    | (false, s) => s
    | (true, s) =>
      let before := ps.filter (fun p => stop.2.all (fun f => decide (p.q < f.q)))
      match cpFetch s k before with
      | (none, s) => s
      | (some rf, s) =>
        let first := rf.or stop.2
        match (eventFail ps first fail).or first with
        | some f => copyStop s cmd 1 (some f) true
        | none => match ps.head?.bind (fun p => (splitParts k p).map (fun x => (p, x))) with
        | some (p, near, far) => splitSend s k p near far
        | none =>
          let seg := copySegment k ps
          let a := cpPerform (copySaw s k seg) k seg (fun _ => true) (fun _ => true)
          let cmd' := { cmd with
            flags := a.flags, cnt := a.cnt, gen := a.gen, next := cmd.next + seg.length, out := a.out }
          if a.out.isEmpty then copyGoOn a.s cmd' none
          else sendMissing (putCopy a.s cmd') (cmdOwner cmd) (a.out.map (·.r))

/-- The command at the head of channel `chan` of physical spire `spire` ends, where everything it waits for is
there; `fail` is an uncorrectable error in the data of the position that it names (R296, R298). It is
performed in this one step (DESIGN CHOICE, unsafe: log entry 9). -/
def execCopyCommandEnd (spire : Nat) (chan : Fin 8) (fail : Option ReadFail) (s : State) :
    Host.Outcome State Fault Refusal :=
  .next (match chanCmds s (spire / Config.spiresPerTower) (spire % Config.spiresPerTower) chan.val with
    | [] => s
    | cmd :: _ => if engFrozen s cmd.warp then s else copyRun s cmd fail)

/-! ### cwait, ccan, records (R303, R304, R148) -/

def execCwait (g : Guard) (a : Opnd) (s : State) : Host.Outcome State Fault Refusal :=
  runInstr s 0 (regsOk [(a, 1)]) anyMode g (fun e =>
    let m := taking e g
    if m = 0 then advance s e
    else match readSrcs s e m [(a, 1)] none false with
    | .error x => .error x
    | .ok (s, vals) =>
      let t := warpValue m vals 0
      if bits t 3 5 ≠ 0 then .error (.trap ⟨0x11, m, t, cpyDetail 0x21 0 false 0⟩)
      else if s.copies.any (fun k => k.crew == e.c && tokenOf k.chan k.seq == t) then
        .error (.park (.cwait (BitVec.ofNat 32 t)) s)
      else advance s e)

/-- The crew's commands on the named channels, by channel, then by sequence. -/
def cancelled (s : State) (c mask : Nat) : List CopyCmd :=
  (List.range 8).flatMap (fun ch => s.copies.filter (fun k =>
    k.crew == c && k.chan == ch && bits mask ch 1 == 1))

/-- Marks a command to end as soon as what it has sent is performed. -/
def copyDying (s : State) (cmd : CopyCmd) : State :=
  { s with copies := s.copies.map (fun k => if sameCmd k cmd then { k with dying := true } else k) }

/-- `ccan` (R304): a cancelled command ends at once, one that heads its channel perhaps in progress; one that has accesses
on their way to other devices ends when those are performed, and the path parks until then. -/
def execCcan (g : Guard) (a : Opnd) (s : State) : Host.Outcome State Fault Refusal :=
  runInstr s 0 (regsOk [(a, 1)]) anyMode g (fun e =>
    let m := taking e g
    if m = 0 then advance s e
    else match readSrcs s e m [(a, 1)] none false with
    | .error x => .error x
    | .ok (s, vals) =>
      let v := warpValue m vals 0
      if bits v 8 24 ≠ 0 then .error (.trap ⟨0x11, m, v, cpyDetail 0x20 0 false 0⟩)
      else
        let ks := cancelled s e.c v
        let heads := ks.filter (fun k => (chanCmds s k.tower k.phys k.chan).head?.any (sameCmd k))
        let sent := ks.filter (fun k => !k.out.isEmpty)
        let endAll := fun (s : State) => ks.foldl (fun s k =>
          if k.out.isEmpty then copyStop s k 2 none (heads.any (sameCmd k)) else copyDying s k) s
        if !sent.isEmpty then
          .error (.park (.ccan (sent.map (fun k => BitVec.ofNat 32 (tokenOf k.chan k.seq)))) (endAll s))
        else match advance s e with
        | .error x => .error x
        | .ok s =>
          let s := endAll s
          .ok (if ks.isEmpty then s else markStale s e))

/-- A record that waits enters its port when the port has room (R148, R296). -/
def execCompletionRecordArrival (w : Nat) (q7 : Bool) (s : State) : Host.Outcome State Fault Refusal :=
  let x := warpAt s w
  .next (if q7 then
      (match x.w7 with
        | r :: rest => if x.q7.length + swapTook x 7 < 16 then setWarp s w { x with w7 := rest, q7 := x.q7 ++ [r] } else s
        | [] => s)
    else
      (match x.w6 with
        | r :: rest => if x.q6.length + swapTook x 6 < 16 then setWarp s w { x with w6 := rest, q6 := x.q6 ++ [r] } else s
        | [] => s))

end Sys2Proof.Machine
end

