-- ==== Sys2Proof/Machine/Handles.lean ====
section
/-! DEFINITION. Majors 0xA0 to 0xA5 and 0xA7 (R193 to R195, R379 to R387): launches from device code, remote
invocation, messages to comets, and the state and the count of a handle. -/

namespace Sys2Proof.Machine

/-- A HANDLE trap (R193). -/
def handleTrap (m : Mask) (addr d : Nat) : Stop := .trap ⟨0x12, m, addr, d⟩

/-! ### Reading a launch's argument block and format table (R175, R379) -/

/-- What a capture found: sub-tiles for the fault unit, a remote line still to come, a failed check, or the
argument bytes and the format table. -/
structure Capture where
  units  : List SubTile
  wait   : Bool
  failed : Bool
  args   : List Byte
  fmt    : List Word
  deriving DecidableEq, Repr

/-- Reads n bytes from an element address under an agent's records. -/
def captureRead (s : State) (ag : Agent) (w : Owner) (addr n : Nat) :
    State × List SubTile × Bool × Option (List Byte) :=
  let obj := bits addr 42 22
  match checkShape s ag obj (bits addr 0 42 : Nat) (8 * n) ⟨some .r, false, false⟩ with
  | .error _ => (s, [], false, none)
  | .ok l =>
    let fd := findAll s ag l false
    if fd.bad.isSome then (s, [], false, none)
    else if !fd.units.isEmpty then (s, fd.units, false, some [])
    else match fetchLines s w ag.ctx obj fd.pieces with
      | (none, s) => (s, [], true, some [])
      | (some (some _), s) => (s, [], false, none)
      | (some none, s) =>
        if fd.pieces.any (piecePoisoned s) then (s, [], false, none)
        else (s, [], false, some (natBytes n (readAll s (ag.args.getD []) fd.pieces)))

/-- The argument length of a record, where its reading makes sense (R172, R180 reason 1). -/
def argLen (record : List Byte) : Nat :=
  let n := recBits record 384 13
  if n ≤ 4096 ∧ n % 4 = 0 then n else 0

/-- The 16 words of 64 bytes. -/
def fmtWords (bs : List Byte) : List Word :=
  (List.range 16).map (fun k => BitVec.ofNat 32 (bits (bytesNat bs) (32 * k) 32))

/-- Captures the argument block and the format table of a record (R175). -/
def capture (s : State) (ag : Agent) (w : Owner) (record : List Byte) : State × Capture :=
  let n := argLen record
  let a := if n = 0 then (s, [], false, some []) else captureRead s ag w (recBits record 320 64) n
  let ft := recBits record 256 64
  let f := if ft = 0 then (a.1, [], false, some []) else captureRead a.1 ag w ft 64
  (f.1, { units := a.2.1 ++ f.2.1, wait := a.2.2.1 || f.2.2.1, failed := a.2.2.2.isNone || f.2.2.2.isNone,
          args := a.2.2.2.getD [], fmt := if ft = 0 then fmDefault else fmtWords (f.2.2.2.getD []) })

/-! ### lnch (R194) -/

/-- Whether a queue's ring holds as many records as it can (R174). -/
def ringIsFull (q : Queue) : Bool := (q.tail - q.head).toNat == 2 ^ q.log

/-- The physical address of a ring slot (R173). -/
def slotAddr (q : Queue) (pos : Nat) : Nat := q.base.toNat + 128 * (pos % 2 ^ q.log)

/-- Enters a record with its handle into a queue's ring. -/
def enterRing (s : State) (qn : Nat) (m : LaunchMsg) (kind : RingKind) : State :=
  let q := s.queues.getD qn Queue.zero
  let pos := q.tail.toNat
  let s := physPut s (slotAddr q pos) 128 (bytesNat m.record)
  { s with
    queues := s.queues.set qn { q with tail := q.tail + 1, ring := q.ring ++ [⟨pos, m, kind⟩] } }

/-- A handle instruction: with no lane taking part only the PC moves. -/
def handleOp (s : State) (h : Hdr) (ds : List Src) (srcs : List Src) (push : Option Opnd)
    (body : State → Env → Mask → (Nat → Nat) → Except Stop State) : Host.Outcome State Fault Refusal :=
  runInstr s 0 (regsOk (ds ++ srcs)) anyMode h.g (fun e =>
    let m := taking e h.g
    if m = 0 then advance s e
    else match readSrcs s e m srcs push (!h.w) with
    | .error x => .error x
    | .ok (s, vals) => body s e m (fun k => warpValue m vals k))

def execLnch (h : Hdr) (d a : Opnd) (qn : BitVec 8) (s : State) : Host.Outcome State Fault Refusal :=
  handleOp s h [(d, 2)] [(a, 1)] none (fun s1 e m v =>
    match scratchWarp e m (v 0) 128 16 with
    | .error x => .error x
    | .ok off =>
      let q := s1.queues.getD qn.toNat Queue.zero
      if q.owner ≠ e.cr.ctx then .error (handleTrap m qn.toNat 3)
      else if ringIsFull q then .error (.park (.reissue (.ring qn.toNat)) s)
      else match allocHandle s1 0 s1.plat.devnum e.cr.ctx 0 none with
        | none => finish s1 e h d m 2 (fun _ => 0)
        | some (hd, s2) => match olEvents s2 e [OlEvent.mk 4 (issuingLane m) qn.toNat 0] with
        | .error x => .error x
        | .ok s2 =>
          let msg : LaunchMsg := ⟨memBytes e.cr.scr off 128, [], [], hd, none, s2.plat.devnum, e.cr.ctx, qn.toNat, false⟩
          finish (enterRing s2 qn.toNat msg .lnch) e h d m 2 (fun _ => hd.toNat))

/-! ### invk and hsend (R379, R381) -/

/-- Messages of `invk`, `hsend` and `coll` that are not acknowledged, those that their home has declined and that wait to
be offered again among them (R379, R384). -/
def unacked (s : State) : Nat :=
  (s.outbox.filter (fun o => match o.out with
    | .invoke _ _ => true
    | .message _ _ => true
    | .contribution _ _ => true
    | _ => false)).length + s.disp.offers.length

/-- D ← the handle and p ← 1 in every lane of `taking`, or both 0 (R379). -/
def handleResult (s : State) (e : Env) (h : Hdr) (d : Opnd) (p : Pred) (m : Mask) (hd : DWord) :
    Except Stop State :=
  let s := setWarp s e.w (writePredReg (warpAt s e.w) p m (fun _ => hd != 0))
  finish s e h d m 2 (fun _ => hd.toNat)

/-- Sends a launch with a new handle to another unit: the part that `invk` and `hsend` share. -/
def sendLaunch (s0 s : State) (e : Env) (h : Hdr) (d : Opnd) (p : Pred) (ntf : Bool) (m : Mask) (off dev : Nat)
    (comet : Option DWord) (queue : Nat) (wrap : LaunchMsg → Out) : Except Stop State :=
  if tableFull s then handleResult s e h d p m 0
  else if Config.maxMessages ≤ unacked s then .error (.park (.reissue .messages) s0)
  else
    let record := memBytes e.cr.scr off 128
    let r := capture s (envAgent s e) (.warp e.w) record
    let c := r.2
    if !c.units.isEmpty && !c.failed then
      .error (.park (.reissue (.residency c.units)) (askUnit s0 e.cr.tower c.units))
    else if c.wait && !c.failed then .error (.hold (holdPath { s0 with fab := r.1.fab, outbox := r.1.outbox } e))
    else match allocHandle r.1 0 dev e.cr.ctx 0 (if ntf then some e.w else none) with
      | none => handleResult s e h d p m 0
      | some (hd, s2) =>
        let msg : LaunchMsg := ⟨record, c.args, c.fmt, hd, comet, s2.plat.devnum, e.cr.ctx, queue, c.failed⟩
        handleResult (send s2 (wrap msg)) e h d p m hd

def execInvk (h : Hdr) (p : Pred) (ntf : Bool) (d a b : Opnd) (s : State) : Host.Outcome State Fault Refusal :=
  handleOp s h [(d, 2)] [(a, 1), (b, 1)] none (fun s1 e m v =>
    match scratchWarp e m (v 0) 128 16 with
    | .error x => .error x
    | .ok off =>
      if bits (v 1) 13 3 ≠ 0 ∨ bits (v 1) 24 8 ≠ 0 then .error (handleTrap m (v 1) 4)
      else
        let dev := bits (v 1) 0 13
        sendLaunch s s1 e h d p ntf m off dev none (bits (v 1) 16 8) (.invoke dev))

def execHsend (h : Hdr) (p : Pred) (ntf : Bool) (d a b c : Opnd) (s : State) :
    Host.Outcome State Fault Refusal :=
  handleOp s h [(d, 2)] [(a, 1), (b, 2), (c, 1)] none (fun s1 e m v =>
    match scratchWarp e m (v 0) 128 16 with
    | .error x => .error x
    | .ok off =>
      let comet := BitVec.ofNat 64 (v 1)
      if bits (v 2) 8 24 ≠ 0 then .error (handleTrap m (v 2) 4)
      else if comet = 0 ∨ 2 ≤ hKind comet then .error (handleTrap m (v 1) 1)
      else sendLaunch s s1 e h d p ntf m off (hHome comet) (some comet) (bits (v 2) 0 8)
        (.message (hHome comet)))

/-! ### What a handle's home says (R178, R378) -/

/-- A handle as its home's entry has it: none while another home has not answered, when the state holds the
question of warp w. Each instruction reads the home's entry as it stands (R378), so that only the answer to its own question
serves it. -/
def askHome (s : State) (ctx : Nat) (h : DWord) (w : Nat) : Option HandleReport × State :=
  if h = 0 ∨ 2 ≤ hKind h then (some (invalidReport h), s)
  else if ownHome s h then
    (some (match entValid s ctx h with
      | some e => entReport e h
      | none => invalidReport h), s)
  else
    let k := knownOr s ctx h
    match k.reads.find? (fun q => q.1 == w) with
    | some (_, none) => (none, s)
    | some (_, some r) => (some r, putKnown s { k with reads := k.reads.filter (fun q => q.1 != w) })
    | none => (none, send (putKnown s { k with reads := k.reads ++ [(w, none)] }) (.subscribe (hHome h) h ctx (some w)))

/-- Subscribes to the home of a handle (R386). -/
def subscribeAgain (s : State) (ctx : Nat) (h : DWord) : State :=
  if ownHome s h || h == 0 || decide (2 ≤ hKind h) then s
  else send (putKnown s (knownOr s ctx h)) (.subscribe (hHome h) h ctx none)

/-- Subscribes to the home of a handle, unless this device has done so (R386). -/
def subscribeTo (s : State) (ctx : Nat) (h : DWord) : State :=
  if (knownOf s ctx h).isSome then s else subscribeAgain s ctx h

/-- An instruction that reads the state of one handle. -/
def handleRead (s : State) (h : Hdr) (d : Opnd) (k : Nat) (a : Opnd)
    (body : State → State → Env → Mask → DWord → HandleReport → Except Stop State) :
    Host.Outcome State Fault Refusal :=
  handleOp s h [(d, k)] [(a, 2)] (some d) (fun s1 e m v =>
    let hd := BitVec.ofNat 64 (v 0)
    match askHome s1 e.cr.ctx hd e.w with
    | (none, s2) => .error (.hold (holdPath { s with disp := s2.disp, outbox := s2.outbox, fab := s2.fab } e))
    | (some r, s2) => body s s2 e m hd r)

/-! ### hwait, hstat, hfree, hdup (R195, R387) -/

/-- `hwait`: the path resumes at the next instruction with the status word in D, a queue port among them (R146,
R147). -/
def execHwait (h : Hdr) (d a : Opnd) (s : State) : Host.Outcome State Fault Refusal :=
  handleRead s h d 1 a (fun _ s e m hd r =>
    if r.state = 7 then .error (handleTrap m hd.toNat 1)
    else if r.state = 3 ∨ r.state = 4 then finish s e h d m 1 (fun _ => reportStatus r)
    else .error (.park (.hwait hd ⟨h, d, m⟩) s))

def execHstat (h : Hdr) (d a : Opnd) (s : State) : Host.Outcome State Fault Refusal :=
  handleRead s h d 1 a (fun _ s e m _ r => finish s e h d m 1 (fun _ => reportStatus r))

/-- A field of a BROKEN handle; 0 otherwise (R387). -/
def brokenField (r : HandleReport) (f : HandleReport → Nat) : Nat := if r.state = 4 then f r else 0

def execHstatOrg (h : Hdr) (d a : Opnd) (s : State) : Host.Outcome State Fault Refusal :=
  handleRead s h d 2 a (fun _ s e m _ r =>
    finish s e h d m 2 (fun _ => brokenField r (fun r => r.origin.toNat)))

def execHstatUp (h : Hdr) (d a : Opnd) (s : State) : Host.Outcome State Fault Refusal :=
  handleRead s h d 2 a (fun _ s e m _ r =>
    finish s e h d m 2 (fun _ => brokenField r (fun r => r.up.toNat)))

def execHstatOcd (h : Hdr) (d a : Opnd) (s : State) : Host.Outcome State Fault Refusal :=
  handleRead s h d 1 a (fun _ s e m _ r =>
    finish s e h d m 1 (fun _ => brokenField r (fun r => 2 ^ 8 * r.ocode + 2 ^ 16 * r.odetail)))

/-- Adds to a handle's reference count: here, or at its home. -/
def changeRefs (s : State) (h : DWord) (up : Bool) : State :=
  if ownHome s h then
    reclaim (putEnt s (hSerial h) (fun e => { e with refs := if up then e.refs + 1 else e.refs - 1 }))
  else send s (.refs (hHome h) h up)

def execHfree (g : Guard) (a : Opnd) (s : State) : Host.Outcome State Fault Refusal :=
  handleRead s ⟨g, true, none⟩ .z 1 a (fun _ s e m hd r =>
    if r.state = 7 then .error (handleTrap m hd.toNat 1)
    else if r.refs = 0 then .error (handleTrap m hd.toNat 2)
    else advance (changeRefs s hd false) e)

def execHdup (h : Hdr) (d a : Opnd) (s : State) : Host.Outcome State Fault Refusal :=
  handleRead s h d 2 a (fun _ s e m hd r =>
    if r.state = 7 then .error (handleTrap m hd.toNat 1)
    else if 65535 ≤ r.refs then .error (handleTrap m hd.toNat 2)
    else finish (changeRefs s hd true) e h d m 2 (fun _ => hd.toNat))

end Sys2Proof.Machine
end

