-- ==== Sys2Proof/Machine/Dispatcher.lean ====
section
/-! DEFINITION. The dispatcher (R172 to R191, R330): accepting and validating launches, choosing and placing
crews, ageing, the requests that make room, and the end of warps, crews and launches. -/

namespace Sys2Proof.Machine

/-! ### What a crew needs and a spire holds (R133) -/

/-- Amounts of the resources of a spire. -/
structure Room where
  warps : Nat
  regs  : Nat
  scr   : Nat
  crews : Nat
  mx    : Nat
  banks : Nat
  deriving DecidableEq, Repr

def Room.zero : Room := ⟨0, 0, 0, 0, 0, 0⟩
def roomLimit : Room :=
  ⟨Config.warpsPerSpire, Config.warpRegs, Config.scratchKiB, Config.crewsPerSpire, 1, Config.banks⟩
def roomAdd (a b : Room) : Room :=
  ⟨a.warps + b.warps, a.regs + b.regs, a.scr + b.scr, a.crews + b.crews, a.mx + b.mx, a.banks + b.banks⟩
def roomSub (a b : Room) : Room :=
  ⟨a.warps - b.warps, a.regs - b.regs, a.scr - b.scr, a.crews - b.crews, a.mx - b.mx, a.banks - b.banks⟩
def roomLe (a b : Room) : Bool :=
  decide (a.warps ≤ b.warps) && decide (a.regs ≤ b.regs) && decide (a.scr ≤ b.scr) &&
  decide (a.crews ≤ b.crews) && decide (a.mx ≤ b.mx) && decide (a.banks ≤ b.banks)

/-- Warps and registers per lane of role k (R172). -/
def roleEntry (record : List Byte) (k : Nat) : Nat × Nat :=
  (recBits record (160 + 16 * k) 6, 8 * recBits record (160 + 16 * k + 6) 5)

/-- The warps of a crew. -/
def crewWarps (record : List Byte) : Nat := ((List.range 4).map (fun k => (roleEntry record k).1)).foldl (· + ·) 0

/-- What one crew of a record needs. -/
def roomOf (record : List Byte) : Room :=
  let rs := (List.range 4).map (roleEntry record)
  ⟨crewWarps record, (rs.map (fun r => r.1 * r.2)).foldl (· + ·) 0, recBits record 224 10, 1,
    recBits record 239 1, recBits record 234 5⟩

/-- Crews of a launch (R172). -/
def gridSize (record : List Byte) : Nat := recBits record 64 32 * recBits record 96 32 * recBits record 128 32

/-- The physical spire that backs a logical spire: tower and number (R188, R354). -/
def backed (p : Platform) (l : Nat) : Option (Nat × Nat) :=
  if p.fenced.getD (l / 32) false then none else (p.repair.getD l none).map (fun ph => (l / 32, ph))

/-- The crews on a physical spire. -/
def spireCrews (s : State) (t : Nat × Nat) : List Nat :=
  (List.range s.crews.length).filter (fun c =>
    let x := crewAt s c
    !x.gone && x.tower == t.1 && x.phys == t.2)

def crewRoom (s : State) (c : Nat) : Room :=
  match launchOf s (crewAt s c).launch with
  | some l => roomOf l.record
  | none => Room.zero

def roomSum (s : State) (cs : List Nat) : Room := cs.foldl (fun a c => roomAdd a (crewRoom s c)) Room.zero

/-! ### Candidates (R183, R342) -/

def crewsLeft (l : Launch) : Bool :=
  !l.saved.isEmpty || !l.redo.isEmpty || decide (l.next < gridSize l.record)

def minNat : List Nat → Option Nat
  | [] => none
  | x :: xs => some (xs.foldl min x)

def isCosched (l : Launch) : Bool := recBits l.record 253 1 == 1
def isPair (l : Launch) : Bool := recBits l.record 254 1 == 1
def isDet (l : Launch) : Bool := recBits l.record 251 1 == 1
def earlyOf (l : Launch) : Nat := recBits l.record 243 8

/-- The crews that the next placement of a launch places at one moment, and whether they are saved ones. -/
def members (l : Launch) : List Nat × Bool :=
  let saved := l.saved.map (·.lin)
  let pool := if saved.isEmpty then l.redo else saved
  let more := fun c => saved.isEmpty && decide (l.next ≤ c) && decide (c < gridSize l.record)
  let has := fun c => pool.contains c || more c
  if isCosched l then
    (if saved.isEmpty then l.redo ++ (List.range (gridSize l.record - l.next)).map (· + l.next) else saved,
      !saved.isEmpty)
  else match (minNat pool).or (if more l.next then some l.next else none) with
    | none => ([], false)
    | some c => (if isPair l then [c / 2 * 2, c / 2 * 2 + 1].filter has else [c], !saved.isEmpty)

/-- Crews of a launch that are on a spire. -/
def liveCrews (s : State) (h : DWord) : List Nat :=
  (List.range s.crews.length).filter (fun c => (crewAt s c).launch == h && !(crewAt s c).gone)

/-- Whether a context runs: not stopped or being stopped (R347), and present (R411). -/
def ctxRuns (s : State) (c : Nat) : Bool :=
  match ctxGet s c with
  | some x => !x.stopping && !x.stopped
  | none => false

/-- Whether the dispatcher works at all (R415, R418). -/
def ready (s : State) : Bool := s.plat.st == .ready

/-- Whether every dependence of a launch is DONE (R181, R182); once it is placed, one that is DONE may have been
reclaimed (R179). -/
def depsDone (s : State) (l : Launch) : Bool :=
  (launchDeps l).all (fun h => handleState s l.ctx h == 3 || (l.state != .pending && handleState s l.ctx h == 7))

/-- Whether a launch starts early: dependences are not all DONE (R182). -/
def startsEarly (s : State) (l : Launch) : Bool := earlyOf l != 0 && !depsDone s l

/-- Whether a placement of the launch must wait for something other than space (R182, R330, R336, R347). A launch of which one
crew has found no frame waits whole, its saved crews too, until its dependences are DONE (DESIGN CHOICE, unsafe: log entry
16: R182 holds back that crew and does not speak of the others). -/
def heldBack (s : State) (l : Launch) : Bool :=
  !ctxRuns s l.ctx || (l.late && startsEarly s l) || (liveCrews s l.h).any (fun c => (crewAt s c).req.isSome) ||
  (!l.saved.isEmpty && saveLogFull s l.ctx) ||
  (startsEarly s l && (launchDeps l).any (fun h => match launchOf s h with
    | some d => crewsLeft d && handleState s l.ctx h != 3 && s.disp.wanted.any (fun w => w.1 == d.queue)
    | none => false))

/-- A queue's candidate: its oldest launch that may still place a crew (R183). -/
def candidateOf (s : State) (q : Nat) : Option Launch :=
  (s.launches.filter (fun l => l.queue == q && (l.state == .placed || l.state == .running) && crewsLeft l)).foldl
    (fun acc l => match acc with
      | some (b : Launch) => if l.order < b.order then some l else some b
      | none => some l) none

/-- The effective priority of a queue's candidate (R176, R184). -/
def effPrio (s : State) (q : Nat) (l : Launch) : Nat := min 7 (l.prio + (s.queues.getD q Queue.zero).raised)

/-! ### Where a candidate fits (R185 to R188) -/

/-- The logical spires, from one on. -/
def spiresFrom (l : Nat) : List Nat := (List.range 128).map (fun k => (l + k) % 128)

/-- What other queues' requests hold on a spire while crews there still run toward their saves (R185): the room of their
candidates, and the room that those crews will free. -/
def heldRoom (s : State) (q : Nat) (t : Nat × Nat) (out : List Nat) : Room × Room :=
  s.disp.wanted.foldl (fun (acc : Room × Room) w =>
    let here := w.2.filter (fun c => (crewAt s c).tower == t.1 && (crewAt s c).phys == t.2 && !(crewAt s c).gone &&
      (crewAt s c).req.isSome)
    match candidateOf s w.1 with
    | some l => if w.1 = q ∨ here.isEmpty then acc
      else (roomAdd acc.1 (roomOf l.record), roomAdd acc.2 (roomSum s (here.filter (fun c => !out.contains c))))
    | none => acc) (Room.zero, Room.zero)

/-- Whether one more crew fits on a physical spire, beside `plan`, with the crews of `out` taken away: now, beside the
crews that still run toward their saves, and once those are gone and what they were requested for has come (R185). -/
def fitsOn (s : State) (q : Nat) (need : Room) (t : Nat × Nat) (plan : List (Nat × Nat)) (out : List Nat) : Bool :=
  let used := roomSum s ((spireCrews s t).filter (fun c => !out.contains c))
  let hold := heldRoom s q t out
  let mine := ((plan.filter (fun p => backed s.plat p.2 == some t)).map (fun _ => need)).foldl roomAdd need
  roomLe (roomAdd used mine) roomLimit && roomLe (roomAdd (roomAdd (roomSub used hold.2) hold.1) mine) roomLimit

/-- The spires on which a launch's members may stand together, from logical spire `from_` on. A DET pair goes to other
partner spires when nothing backs the logical spire of its even crew, and waits when nothing backs only that of its odd one
(DESIGN CHOICE, unsafe: log entry 16: R187 and R188 cannot both hold then). -/
def sites (s : State) (l : Launch) (ms : List Nat) (from_ : Nat) : List (List (Nat × Nat)) :=
  let up := fun k => (backed s.plat k).isSome
  let pref := fun c => if isDet l && up (c % 128) then [c % 128] else (spiresFrom from_).filter up
  match ms with
  | [] => []
  | [c] =>
    let partner := (liveCrews s l.h).find? (fun k => isPair l && (crewAt s k).lin == partnerLin c)
    match partner with
    | some k =>
      let p := (List.range 128).find? (fun x =>
        backed s.plat x == some ((crewAt s k).tower, (crewAt s k).phys))
      ((p.map (fun x => if x % 2 = 0 then x + 1 else x - 1)).toList.filter up).map (fun x => [(c, x)])
    | none => (pref c).map (fun x => [(c, x)])
  | c :: d :: _ =>
    (((pref c).map (fun x => x / 2 * 2)).filter (fun x => up x && up (x + 1))).map (fun x => [(c, x), (d, x + 1)])

/-- Whether a site has space for its members. -/
def siteFits (s : State) (q : Nat) (need : Room) (plan site : List (Nat × Nat)) (out : List Nat) : Bool :=
  site.all (fun p => match backed s.plat p.2 with
    | some t => fitsOn s q need t plan out
    | none => false)

/-- The members of a COSCHED launch in the groups that stand together. -/
def groupsOf (l : Launch) : Nat → List Nat → List (List Nat)
  | 0, _ => []
  | f + 1, cs => match cs with
    | [] => []
    | c :: d :: rest => if isPair l && partnerLin c == d then [c, d] :: groupsOf l f rest
      else [c] :: groupsOf l f (d :: rest)
    | [c] => [[c]]

/-- The distinct spires of a launch's crews and a plan (R182). -/
def spireCount (s : State) (l : Launch) (plan : List (Nat × Nat)) : Nat :=
  ((((liveCrews s l.h).map (fun c => ((crewAt s c).tower, (crewAt s c).phys))) ++
    plan.filterMap (fun p => backed s.plat p.2)).foldl (fun (acc : List (Nat × Nat)) t =>
      if acc.contains t then acc else t :: acc) []).length

/-- Whether a launch that starts early keeps to its share of spires (R182). -/
def shareOk (s : State) (l : Launch) (plan : List (Nat × Nat)) : Bool :=
  !startsEarly s l || decide (spireCount s l plan ≤ earlyOf l)

/-- How many groups of its shape a site could take. -/
def siteDepth (s : State) (q : Nat) (need : Room) (site : List (Nat × Nat)) : Nat :=
  ((List.range 16).filter (fun n => siteFits s q need ((List.range n).flatMap (fun _ => site)) site [])).length

/-- Inserts a site before those that take fewer groups. -/
def insertSite (s : State) (q : Nat) (need : Room) (st : List (Nat × Nat)) :
    List (List (Nat × Nat)) → List (List (Nat × Nat))
  | [] => [st]
  | u :: us => if siteDepth s q need u < siteDepth s q need st then st :: u :: us else u :: insertSite s q need st us

/-- The sites for a group of a COSCHED launch: one that must keep to a share of spires takes the roomiest first. -/
def groupSites (s : State) (q : Nat) (l : Launch) (g : List Nat) (from_ : Nat) : List (List (Nat × Nat)) :=
  let all := sites s l g from_
  if startsEarly s l then all.foldl (fun acc st => insertSite s q (roomOf l.record) st acc) [] else all

/-- The placement of a candidate's members that keeps to what `ok` accepts: none when they fit nowhere. -/
def planWith (s : State) (q : Nat) (l : Launch) (from_ : Nat) (ok : List (Nat × Nat) → Bool) :
    Option (List (Nat × Nat)) :=
  let need := roomOf l.record
  let ms := (members l).1
  if isCosched l then
    (groupsOf l (ms.length + 1) ms).foldl (fun acc g => acc.bind (fun plan =>
      ((groupSites s q l g from_).find? (fun st => siteFits s q need plan st [] && ok (plan ++ st))).map
        (plan ++ ·))) (some [])
  else (sites s l ms from_).find? (fun st => siteFits s q need [] st [] && ok st)

/-- The placement of a candidate's members, within the share of spires of an early start (R182). -/
def planOf (s : State) (q : Nat) (l : Launch) (from_ : Nat) : Option (List (Nat × Nat)) :=
  planWith s q l from_ (shareOk s l)

/-! ### Regions of PRIV (R190) -/

/-- SPLITB of a record. -/
def splitOf (record : List Byte) : Nat := recBits record 400 21

/-- The agent of the dispatcher (R175, R240, R414). -/
def dispAgent (s : State) (ctx : Nat) (failed : List (SubTile × Nat × Nat)) : Agent :=
  { ctx := ctx, tower := some s.disp.master, args := none, master := unitMaster s, failed := failed }

/-- The record of a launch's PRIV object. -/
def privRecord (s : State) (ctx : Nat) (record : List Byte) : Option Rec :=
  match recordOf s (dispAgent s ctx []) (recBits record (512 + 42) 22) 0 with
  | .ok r => if recPerm r .r && recPerm r .w then some r else none
  | .error _ => none

/-- The regions of PRIV that no crew of the launch holds, a saved one included. -/
def freeRegions (s : State) (l : Launch) : List Nat :=
  match privRecord s l.ctx l.record with
  | none => []
  | some r =>
    let k := storageBound r / 8 / (crewWarps l.record * splitOf l.record)
    let cap := (members l).1.length + s.crews.length
    (List.range (min k cap)).filter (fun g => !(List.range s.crews.length).any (fun c =>
      let x := crewAt s c
      x.launch == l.h && x.region == some g && (!x.gone || l.saved.any (fun y => y.lin == x.lin))))

/-- The sub-tiles of a region. -/
def regionTiles (l : Launch) (g : Nat) : List Nat :=
  let n := crewWarps l.record * splitOf l.record
  if n = 0 then [] else subTilesOf (8 * (g * n)) (8 * n)

/-- Makes a region's sub-tiles resident and pinned (R190): sub-tiles that the fault unit must serve first, or
the state with the pins set. One that is resident on another device is brought to this one first, as one that is not
resident is. One that cannot be made resident leaves the crew unplaced, and it is tried again without end (both DESIGN
CHOICE, unsafe: log entry 16: R190 says neither). -/
def pinRegion (s : State) (l : Launch) (g : Nat) : List SubTile × Option State :=
  let obj := recBits l.record (512 + 42) 22
  match privRecord s l.ctx l.record with
  | none => ([], none)
  | some r =>
    let ag := dispAgent s l.ctx []
    let looks := (regionTiles l g).flatMap (fun sub => (replicasOf r).map (fun rep =>
      (sub, rep, lookSub s ag obj r sub rep false)))
    let units := looks.filterMap (fun k => match k.2.2 with
      | .unit t => some t
      | .there _ _ => some (⟨l.ctx, obj, k.1, k.2.1⟩ : SubTile)
      | _ => none)
    if !units.isEmpty then (units, none)
    else if looks.any (fun k => match k.2.2 with | .here _ _ => false | _ => true) then ([], none)
    else ([], some (looks.foldl (fun s k =>
      let a := entryAddr r k.1 k.2.1
      { s with
        mem := memPutNat s.mem a 8 (setBits (memNat s.mem a 8) 58 1 1)
        caches := { s.caches with res := s.caches.res.map (fun c =>
          if c.t == ⟨l.ctx, obj, k.1, k.2.1⟩ then { c with entry := c.entry ||| BitVec.ofNat 64 (2 ^ 58) }
          else c) } }) s))

/-! ### Starting a crew (R134, R137, R189) -/

/-- The multiplier of R189. -/
def seedStep : Nat := 0x9E3779B97F4A7C15

/-- A warp at the launch entry. -/
def newWarp (l : Launch) (crew lin wid role ix regs : Nat) : Warp :=
  { Warp.zero with
    crew := crew, wid := wid, role := role, roleIx := ix, regs := regs,
    v := List.replicate regs (List.replicate 32 0),
    s := (List.range 32).map (fun k => BitVec.ofNat 32 (bits (bytesNat l.args) (32 * k) 32)),
    fs := l.fmt,
    srgen := BitVec.ofNat 64 (recBits l.record 576 64) ^^^ BitVec.ofNat 64 ((lin * 32 + wid) * seedStep),
    sa := Slot.ofPath { pc := BitVec.ofNat 64 (8 * recBits l.record 3 61), mask := BitVec.allOnes 32,
                        rjpc := noRejoin, depth := 0 },
    alive := BitVec.allOnes 32, gone := false }

/-- The role and the number within it of each warp of a crew (R132). -/
def warpRoles (record : List Byte) : List (Nat × Nat × Nat) :=
  (List.range 4).flatMap (fun r =>
    (List.range (roleEntry record r).1).map (fun i => (r, i, (roleEntry record r).2)))

/-- The lowest crew slot of a spire that no crew holds. -/
def freeCrewSlot (s : State) (t : Nat × Nat) : Nat :=
  let used := (spireCrews s t).map (fun c => (crewAt s c).slotNo)
  ((List.range 16).find? (fun k => !used.contains k)).getD 0

/-- The number by which LSPIRE knows the spire of a crew (R188). -/
def logicalOf (l : Launch) (lin ls : Nat) : Nat := if isDet l then lin % 128 else ls

/-- Starts crew `lin` of a launch on a logical spire. -/
def startCrew (s : State) (l : Launch) (lin ls p : Nat) (region reserve : Option Nat) : State :=
  let t := (backed s.plat ls).getD (0, 0)
  let c := s.crews.length
  let rs := warpRoles l.record
  let ws := (rs.zipIdx).map (fun r => newWarp l c lin r.2 r.1.1 r.1.2.1 r.1.2.2)
  let cr : Crew := { Crew.zero with
    launch := l.h, ctx := l.ctx, lin := lin, tower := t.1, phys := t.2, logical := logicalOf l lin ls,
    slotNo := freeCrewSlot s t, warps := (List.range ws.length).map (· + s.warps.length),
    scrLen := 1024 * recBits l.record 224 10, accb := recBits l.record 234 5,
    matrix := recBits l.record 239 1 == 1, reserve := reserve, prio := p, region := region,
    placed := s.disp.placed, gone := false }
  { s with crews := s.crews ++ [cr], warps := s.warps ++ ws, disp := { s.disp with placed := s.disp.placed + 1 } }

/-- Reserved frames are released once every dependence of their launch is DONE (R182). -/
def releaseReserves (s : State) : State :=
  (List.range s.crews.length).foldl (fun s c =>
    let x := crewAt s c
    match x.reserve, launchOf s x.launch with
    | some f, some l =>
      if !x.gone && depsDone s l then
        let s := if x.frame = some f then s else saveLog s x.ctx 3 f x.launch
        setCrew s c { crewAt s c with reserve := none }
      else s
    | _, _ => s) s

/-- The launches and the reserves after a change of state of a launch. -/
def settleAll (s : State) : State := releaseReserves (settleLaunches s)

/-! ### Choosing (R183, R184, R186) -/

/-- A queue's candidate with its effective priority, its plan when it fits, and whether it is space that it waits for. -/
structure Cand where
  q     : Nat
  p     : Nat
  l     : Launch
  plan  : Option (List (Nat × Nat))
  space : Bool

/-- The candidates that wait for nothing but space. -/
def candidates (s : State) (from_ : Nat) : List Cand :=
  (List.range 256).filterMap (fun q => match candidateOf s q with
    | some l => if heldBack s l then none
      else some ⟨q, effPrio s q l, l, planOf s q l from_, (planWith s q l from_ (fun _ => true)).isNone⟩
    | none => none)

/-- The candidate that the dispatcher serves next (R183, R186). A COSCHED launch that waits for space holds back what is not
above it; one that only keeps to its share (R182) does not. -/
def chooseCand (s : State) (cs : List Cand) : Option Cand :=
  let block := cs.foldl (fun b c => if isCosched c.l && c.space then max b (c.p + 1) else b) 0
  let ok := cs.filter (fun c => c.plan.isSome && decide (block ≤ c.p))
  let top := ok.foldl (fun m c => max m c.p) 0
  let last := s.disp.served.getD top 255
  (ok.filter (fun c => c.p == top)).foldl (fun acc c => match acc with
    | some (b : Cand) => if (c.q + 255 - last) % 256 < (b.q + 255 - last) % 256 then some c else some b
    | none => some c) none

/-- A queue has placed crews: its ageing starts again and the round moves on (R183, R184). -/
def notePlaced (s : State) (q p : Nat) : State :=
  let x := s.queues.getD q Queue.zero
  { s with
    queues := s.queues.set q { x with raised := 0, since := s.now }
    disp := { s.disp with served := s.disp.served.set p q, wanted := s.disp.wanted.filter (fun w => w.1 != q) } }

/-- Why a crew that has space is not placed: its region waits for the fault unit, or for a crew that holds it, or the
pool has no save frame for its early start. -/
inductive Unplaced
  | region (ts : List SubTile)
  | noFrame

/-- Places one fresh crew of a plan: its region pinned, its reserved frame taken (R182, R190). -/
def placeFresh (s : State) (l : Launch) (p : Nat) (m : Nat × Nat) : Except Unplaced State :=
  let early := startsEarly s l
  let fr := if early then takeFrame s l.ctx else (none, s)
  if early && fr.1.isNone then .error .noFrame
  else if splitOf l.record = 0 then .ok (startCrew fr.2 l m.1 m.2 p none fr.1)
  else match freeRegions s l with
    | [] => .error (.region [])
    | g :: _ => match pinRegion fr.2 l g with
      | (units, none) => .error (.region units)
      | (_, some s2) => .ok (startCrew s2 l m.1 m.2 p (some g) fr.1)

/-- Places the fresh members of a plan at one moment, or none of them. -/
def placePlan (s : State) (l : Launch) (p : Nat) (plan : List (Nat × Nat)) : Except Unplaced State :=
  plan.foldl (fun (acc : Except Unplaced State) m => acc.bind (fun s => placeFresh s l p m)) (.ok s)

/-- What a placement that cannot be made leaves: its sub-tiles asked for, or the launch waiting until every dependence is
DONE (R182). -/
def notPlaced (s : State) (l : Launch) : Unplaced → State
  | .region ts => askUnit s s.disp.master ts
  | .noFrame => putLaunch (poolClean (poolFuel s l.ctx 0xA0) s l.ctx) l.h (fun l => { l with late := true })

/-- The launch after fresh members have been placed. -/
def countPlaced (l : Launch) (ms : List Nat) : Launch :=
  let redo := l.redo.filter (fun c => !ms.contains c)
  { l with redo := redo, next := ms.foldl (fun n c => max n (c + 1)) l.next }

/-! ### Making room (R182, R185, R330) -/

/-- The crews that are requested, saved and restored with a crew (R330). -/
def groupOf (s : State) (c : Nat) : List Nat :=
  match launchOf s (crewAt s c).launch with
  | some l =>
    if isCosched l then liveCrews s l.h
    else if isPair l then (liveCrews s l.h).filter (fun k =>
      (crewAt s k).lin == (crewAt s c).lin || (crewAt s k).lin == partnerLin (crewAt s c).lin)
    else [c]
  | none => [c]

/-- Raises the request of one crew, with its reserved frame or one from the pool. -/
def requestOne (s : State) (c : Nat) : Option State :=
  let x := crewAt s c
  if x.req.isSome then some s
  else match x.reserve with
    | some f => some (setCrew s c { x with req := some s.now, frame := some f })
    | none => match takeFrame s x.ctx with
      | (some f, s) => some (setCrew s c { crewAt s c with req := some s.now, frame := some f })
      | (none, _) => none

/-- Raises the request of a crew's whole group, or of none of it (R330, R336). -/
def requestGroup (s : State) (c : Nat) : Option State :=
  if saveLogFull s (crewAt s c).ctx then none
  else (groupOf s c).foldl (fun acc k => acc.bind (fun s => requestOne s k)) (some s)

/-- Inserts into a list sorted by lowest priority, then most recently placed (R185). -/
def insertVictim (s : State) (c : Nat) : List Nat → List Nat
  | [] => [c]
  | d :: ds =>
    let x := crewAt s c
    let y := crewAt s d
    if x.prio < y.prio ∨ (x.prio = y.prio ∧ y.placed < x.placed) then c :: d :: ds else d :: insertVictim s c ds

/-- Consumes the bad entries at the head of the pool of a crew's context (R336). -/
def cleanFor (s : State) (c : Nat) : State :=
  let x := (crewAt s c).ctx
  poolClean (poolFuel s x 0xA0) s x

/-- Requests victims in order until the site fits: the crews taken and the state with their requests. The second state
is the one without them, in which pools have lost the bad entries that were met. -/
def clearSite (q : Nat) (l : Launch) (site : List (Nat × Nat)) :
    List Nat → List Nat → State → State → Option (List Nat × State) × State
  | vs, out, s, base =>
    if siteFits s q (roomOf l.record) [] site out then (some (out, s), base)
    else match vs with
      | [] => (none, base)
      | v :: rest =>
        if out.contains v then clearSite q l site rest out s base
        else match requestGroup s v with
          | some s' => clearSite q l site rest (out ++ groupOf s v) s' base
          | none => clearSite q l site rest out (cleanFor s v) (cleanFor base v)

/-- The choice among sites: lowest greatest priority, fewest crews, lowest logical spire (R185). -/
def betterSite (s : State) (a b : Nat × List Nat × State) : Bool :=
  let top := fun (cs : List Nat) => cs.foldl (fun m c => max m (crewAt s c).prio) 0
  let ka := (top a.2.1, a.2.1.length, a.1)
  let kb := (top b.2.1, b.2.1.length, b.1)
  decide (ka.1 < kb.1) || (ka.1 == kb.1 && (decide (ka.2.1 < kb.2.1) || (ka.2.1 == kb.2.1 && decide (ka.2.2 < kb.2.2))))

/-- The crews on a site's spires that `may` accepts, in the order in which they are taken (R185). -/
def victims (s : State) (l : Launch) (st : List (Nat × Nat)) (may : Nat → Bool) : List Nat :=
  let spires := st.filterMap (fun p => backed s.plat p.2)
  ((List.range s.crews.length).filter (fun c =>
    let x := crewAt s c
    !x.gone && x.launch != l.h && spires.contains (x.tower, x.phys) && may c)).foldl
      (fun acc c => insertVictim s c acc) []

/-- Makes room for a candidate with the victims that `may` accepts: whether it did. -/
def makeRoom (s : State) (q : Nat) (l : Launch) (may : Nat → Bool) : Bool × State :=
  let all := (sites s l (members l).1 0).filter (shareOk s l)
  let s := all.foldl (fun s st => (clearSite q l st (victims s l st may) [] s s).2) s
  let tries := all.filterMap (fun st =>
    (clearSite q l st (victims s l st may) [] s s).1.map (fun r => ((st.head?.map (·.2)).getD 0, r.1, r.2)))
  let best := tries.foldl (fun acc t => match acc with
    | some (b : Nat × List Nat × State) => if betterSite s t b then some t else some b
    | none => some t) none
  match best with
  | some (_, cs, s') => if cs.isEmpty then (false, s)
      else (true, { s' with disp := { s'.disp with wanted :=
        (s'.disp.wanted.filter (fun w => w.1 != q)) ++ [(q, cs)] } })
  | none => (false, s)

/-- Whether requests for a queue's candidate are still outstanding (R185). -/
def outstanding (s : State) (q : Nat) : Bool :=
  s.disp.wanted.any (fun w => w.1 == q && w.2.any (fun c => !(crewAt s c).gone && (crewAt s c).req.isSome))

/-- Whether a crew belongs to a launch that has started early on launch h (R182). -/
def earlyOn (s : State) (h : DWord) (c : Nat) : Bool :=
  match launchOf s (crewAt s c).launch with
  | some l => earlyOf l != 0 && !depsDone s l && (launchDeps l).contains h
  | none => false

/-- Raises the requests that a candidate which fits nowhere calls for. For a COSCHED one there are none, also where crews have
started early on it (DESIGN CHOICE, unsafe: log entry 16: R186 displaces no crew for it, and R182 would). -/
def requestFor (s : State) (c : Cand) : State :=
  if isCosched c.l ∨ outstanding s c.q ∨ c.plan.isSome then s
  else
    let r := makeRoom s c.q c.l (earlyOn s c.l.h)
    if r.1 then r.2 else (makeRoom r.2 c.q c.l (fun k => decide ((crewAt r.2 k).prio + 2 ≤ c.p))).2

/-- The requests of every candidate that fits nowhere. -/
def requestAll (s : State) (from_ : Nat) : State :=
  (candidates s from_).foldl requestFor s

/-! ### The placement events -/

/-- Serves the candidates in turn until one is placed; a saved crew that is next is left to `crewRestore`, and a
candidate that waits for its region or a frame is passed over. -/
def placeNext : Nat → State → List Cand → State
  | 0, s, _ => s
  | f + 1, s, cs =>
    match chooseCand s cs with
    | none => s
    | some c => match c.plan with
      | none => s
      | some plan =>
        if (members c.l).2 then s
        else
          match placePlan s c.l c.p plan with
          | .error x => placeNext f (notPlaced s c.l x) (cs.filter (fun d => d.q != c.q))
          | .ok s =>
            let s := putLaunch s c.l.h (fun l => countPlaced l (plan.map (·.1)))
            let s := if c.l.state == .placed then setLState s c.l.h .running 2 else s
            settleAll (forwardHeld (notePlaced s c.q c.p) c.l.h)

/-- The dispatcher places the next crew, or the crews that go with it, trying logical spire `spire` first. Then
it raises the requests that candidates without space call for. -/
def execCrewPlace (spire : Nat) (s : State) : Host.Outcome State Fault Refusal :=
  .next (if !ready s then s
    else
      let cs := candidates s spire
      requestAll (placeNext (cs.length + 1) s cs) spire)

/-- A queue's candidate has waited AGETH ac: its effective priority rises by one (R184). -/
def execQueueAgeing (q : Nat) (s : State) : Host.Outcome State Fault Refusal :=
  let x := s.queues.getD q Queue.zero
  .next (match candidateOf s q with
    | none => s
    | some l =>
      let start := max l.since x.since
      if x.ageth.toNat = 0 ∨ s.now < start + x.ageth.toNat ∨ 7 ≤ l.prio + x.raised then s
      else { s with queues := s.queues.set q { x with raised := x.raised + 1, since := start + x.ageth.toNat } })

/-! ### Accepting (R174, R175, R180) -/

/-- Records that wait for a ring enter it while it has room (R379, R382). -/
def fillRing : Nat → State → Nat → State
  | 0, s, _ => s
  | f + 1, s, qn =>
    let q := s.queues.getD qn Queue.zero
    match q.wait with
    | m :: rest =>
      if q.en && !ringIsFull q then
        fillRing f (enterRing { s with queues := s.queues.set qn { q with wait := rest } } qn m .sent) qn
      else s
    | [] => s

/-- Crews of a record that the device's spires can hold at once, when empty (R180 reason 5). -/
def deviceHolds (s : State) (record : List Byte) : Bool :=
  let need := roomOf record
  let k := ([(roomLimit.warps, need.warps), (roomLimit.regs, need.regs), (roomLimit.scr, need.scr),
    (roomLimit.crews, need.crews), (roomLimit.mx, need.mx), (roomLimit.banks, need.banks)].map (fun p =>
      if p.2 = 0 then 16 else p.1 / p.2)).foldl min 16
  let up := (List.range 128).filter (fun x => (backed s.plat x).isSome)
  let n := gridSize record
  if recBits record 254 1 = 1 then
    decide (n ≤ k * ((up.filter (fun x => up.contains (if x % 2 = 0 then x + 1 else x - 1))).length))
  else if recBits record 251 1 = 1 ∧ up.length = 128 then decide ((n + 127) / 128 ≤ k)
  else decide (n ≤ k * up.length)

/-- Whether a role entry is malformed (R172). -/
def roleBad (record : List Byte) (k : Nat) : Bool :=
  let w := recBits record (160 + 16 * k) 6
  let g := recBits record (160 + 16 * k + 6) 5
  decide (32 < w) || decide (24 < g) || ((w == 0) != (g == 0))

/-- The dependence handles of a record (R172). -/
def recordDeps (record : List Byte) : List DWord :=
  ((List.range 4).map (fun k => BitVec.ofNat 64 (recBits record (640 + 64 * k) 64))).filter (· ≠ 0)

/-- The first reason of R180 that holds, 0 for none. -/
def limitReason (s : State) (q : Queue) (kind : RingKind) (ctx : Nat) (record : List Byte) (capFail : Bool) : Nat :=
  let sp := splitOf record
  if (List.range 4).any (fun k => recBits record (160 + 16 * k + 11) 5 != 0) ∨ recBits record 255 1 ≠ 0 ∨
      recBits record 397 3 ≠ 0 ∨ recBits record 433 15 ≠ 0 ∨ recBits record 480 32 ≠ 0 ∨
      (kind = .lnch ∧ recBits record 960 64 ≠ 0) ∨ recBits record 384 13 % 4 ≠ 0 ∨ 4096 < recBits record 384 13 ∨
      sp % 32 ≠ 0 ∨ 1048576 < sp ∨ 128 < recBits record 243 8 then 1
  else if (List.range 4).any (roleBad record) ∨ crewWarps record = 0 ∨ 32 < crewWarps record then 2
  else if !roomLe (roomOf record) roomLimit then 3
  else if gridSize record = 0 ∨ 2 ^ 31 < gridSize record then 4
  else if recBits record 253 1 = 1 ∧ !deviceHolds s record then 5
  else if recBits record 254 1 = 1 ∧ gridSize record % 2 = 1 then 6
  else if capFail then 7
  else if decide (0 < sp) && (match privRecord s ctx record with
      | some r => decide (storageBound r / 8 < 32 * sp)
      | none => true) then 8
  else if (recordDeps record).any (fun h => handleState s ctx h == 7 || decide (2 ≤ hKind h)) then 9
  else if recBits record 421 12 ≠ q.owner ∨ (kind = .lnch ∧ recBits record 421 12 ≠ ctx) then 10
  else 0

/-- The launch counter of a context's queue since the order log's mode was set (R278). -/
def nextLseq (x : Ctx) (qn : Nat) : Nat × Ctx :=
  let n := ((x.lseq.find? (fun p => p.1 == qn)).map (·.2)).getD 0
  (n, { x with lseq := (qn, n + 1) :: x.lseq.filter (fun p => p.1 != qn) })

/-- The RESULT of the comet that a message was sent to (R381). -/
def cometResult (s : State) (ctx : Nat) (comet : Option DWord) : DWord :=
  match comet with
  | none => 0
  | some h => match entFind s h with
    | some e => e.result
    | none => ((knownOf s ctx h).map (·.rep.result)).getD 0

/-- Asks the homes of a record's dependences that nothing is known of (R378, R386): whether all have answered. -/
def askDeps (s : State) (ctx : Nat) (hs : List DWord) : Bool × State :=
  hs.foldl (fun (acc : Bool × State) h =>
    if ownHome acc.2 h || decide (2 ≤ hKind h) then acc
    else match knownOf acc.2 ctx h with
      | some k => if k.rep.state = 8 then (false, acc.2) else acc
      | none => (false, subscribeTo acc.2 ctx h)) (true, s)

/-- Whether a record's handle has broken while the record waited in its ring: no launch comes of it. A null handle stands
for one that a start or the end of its context has broken. -/
def recordOver (s : State) (m : LaunchMsg) : Bool :=
  let st := handleState s m.ctx m.handle
  m.handle == 0 || st == 4 || st == 7

/-- A record in a ring of which no launch comes. -/
def RingRec.over (r : RingRec) : RingRec := { r with msg := { r.msg with handle := 0, comet := none }, kind := .sent }

/-- Step 5 of R174: QHEAD advances past the record at the head. -/
def passRecord (s : State) (qn : Nat) : State :=
  let q := s.queues.getD qn Queue.zero
  { s with queues := s.queues.set qn { q with
      head := q.head + 1, failed := [], begun := false, ring := q.ring.filter (fun r => r.pos != q.head.toNat) } }

/-- The context of a launch: for one that `invk` sent, the one that its record names, which is the queue's owner where it is
accepted (R180, R379). -/
def launchCtx (m : LaunchMsg) (kind : RingKind) (record : List Byte) : Nat :=
  if kind = .sent ∧ m.comet = none then recBits record 421 12 else m.ctx

/-- Steps 5 and 6 of R174: QHEAD advances, the launch exists, and it is validated. -/
def admitLaunch (s : State) (qn : Nat) (m : LaunchMsg) (kind : RingKind) (record args : List Byte) (fmt : List Word)
    (capFail : Bool) : State :=
  let q := s.queues.getD qn Queue.zero
  let ctx := launchCtx m kind record
  let reason := limitReason s q kind ctx record capFail
  let lq := match ctxGet s ctx with
    | some x => let r := nextLseq x qn; (r.1, ctxPut s ctx r.2)
    | none => (0, s)
  let s := lq.2
  let s := passRecord s qn
  let l : Launch :=
    { h := m.handle, ctx := ctx, queue := qn, record := record, args := args, fmt := fmt,
      prio := min (recBits record 240 3) q.qprio, lseq := lq.1, order := s.disp.order, state := .pending, next := 0,
      redo := [], saved := [], ended := 0, comet := m.comet, result := cometResult s ctx m.comet, since := s.now,
      late := false }
  let s := { s with launches := s.launches ++ [l], disp := { s.disp with order := s.disp.order + 1 } }
  settleAll (if reason = 0 then s else breakLaunch s m.handle 1 reason)

/-- The launch at the head of a ring: its handle (allocated now for a host record), or nothing when the handle
table is full (R174 step 2, R377). -/
def headRecord (s : State) (qn : Nat) : Option (RingRec × State) :=
  let q := s.queues.getD qn Queue.zero
  match q.ring.find? (fun r => r.pos == q.head.toNat) with
  | some r => some (r, s)
  | none => match allocHandle s 0 s.plat.devnum q.owner 0 none with
    | none => none
    | some (h, s) =>
      let a := slotAddr q q.head.toNat
      let r : RingRec := ⟨q.head.toNat, ⟨[], [], [], h, none, s.plat.devnum, q.owner, qn, false⟩, .host⟩
      let s := physPut s (a + 120) 8 h.toNat
      some (r, { s with queues := s.queues.set qn { q with ring := q.ring ++ [r] } })

/-- The owner of the requests of the acceptance from a queue: object 0 is no object. -/
def acceptOwner (qn : Nat) : Owner := .unit ⟨0, 0, qn, 0⟩

/-- A host record belongs to the context that owns the queue when it is accepted (R410). -/
def ownRecord (s : State) (qn : Nat) (r : RingRec) : RingRec × State :=
  let q := s.queues.getD qn Queue.zero
  if r.kind = .host then
    ({ r with msg := { r.msg with ctx := q.owner } }, putEnt s (hSerial r.msg.handle) (fun e => { e with ctx := q.owner }))
  else (r, s)

/-- The acceptance from a queue has begun and must wait. -/
def setBegun (s : State) (qn : Nat) : State :=
  { s with queues := s.queues.set qn { s.queues.getD qn Queue.zero with begun := true } }

/-- The record in the slot at the head of a queue. A slot in a reserved range is never read (R234): what is found there is free
(DESIGN CHOICE: log entry 16: the manual states no result). -/
def slotRecord (s : State) (q : Queue) : List Byte :=
  let a := slotAddr q q.head.toNat
  if inOneRange s.plat a 128 then memBytes s.mem a 128
  else (List.range 32).flatMap (fun k => natBytes 4 (Config.unstatedWord (s.free + k)).toNat)

/-- The free values of the record that is accepted from a queue have been taken. -/
def slotTaken (s : State) (q : Queue) : State :=
  if inOneRange s.plat (slotAddr q q.head.toNat) 128 then s else { s with free := s.free + 32 }

/-- The dispatcher accepts the record at the head of a queue (R174): it waits for the fault unit and for the
answers of other homes without going further. A record that it has begun to read when the queue is disabled is
finished (R410). -/
def execLaunchAccept (qn : Nat) (s : State) : Host.Outcome State Fault Refusal :=
  let s := fillRing (s.queues.getD qn Queue.zero).wait.length s qn
  let q := s.queues.getD qn Queue.zero
  .next (if !ready s || (!q.en && !q.begun) || q.head == q.tail || !ctxRuns s q.owner then s
    else match headRecord s qn with
    | none => s
    | some (r, s) =>
      let r := ownRecord s qn r
      let s := r.2
      let r := r.1
      let record := slotRecord s q
      let d := askDeps s (launchCtx r.msg r.kind record) (recordDeps record)
      if recordOver s r.msg then passRecord s qn
      else if r.kind = .sent then
        (if d.1 then admitLaunch (slotTaken s q) qn r.msg .sent record r.msg.args r.msg.fmt r.msg.capFail else setBegun d.2 qn)
      else
        let c := capture d.2 (dispAgent d.2 r.msg.ctx q.failed) (acceptOwner qn) record
        if !c.2.units.isEmpty && !c.2.failed then setBegun (askUnit c.1 c.1.disp.master c.2.units) qn
        else if (c.2.wait && !c.2.failed) || !d.1 then setBegun c.1 qn
        else admitLaunch (slotTaken c.1 q) qn r.msg r.kind record c.2.args c.2.fmt c.2.failed)

/-! ### Ends (R134, R191, R219, R299, R311) -/

/-- Whether work that a warp issued is still outstanding (R299, R311, R396). -/
def warpBusy (s : State) (w : Nat) : Bool :=
  s.fab.reqs.any (fun o => o.owner == .warp w) || (crewOf s w).eng.any (fun k => k.warp == w) ||
  s.copies.any (fun k => k.warp == w) || s.coll.cmds.any (fun k => k.live && k.warp == w)

/-- An ended warp whose work has all ended leaves its spire. -/
def execWarpRelease (w : Nat) (s : State) : Host.Outcome State Fault Refusal :=
  let x := warpAt s w
  .next (if x.gone || !pathsDone x || warpBusy s w then s else setWarp s w { x with gone := true })

/-- A crew whose warps have all left ends: its resources and frames return. -/
def execCrewEnd (c : Nat) (s : State) : Host.Outcome State Fault Refusal :=
  let x := crewAt s c
  .next (if x.gone || !x.warps.all (fun w => (warpAt s w).gone) || !x.eng.isEmpty ||
      s.copies.any (fun k => k.crew == c) || s.coll.cmds.any (fun k => k.live && k.crew == c) then s
    else
      let s := releaseFrames s c
      let s := setCrew s c { crewAt s c with gone := true }
      putLaunch s x.launch (fun l => { l with ended := l.ended + 1 }))

/-- A launch whose crews have all ended and whose accesses have completed resolves DONE. -/
def execLaunchDone (h : DWord) (s : State) : Host.Outcome State Fault Refusal :=
  .next (match launchOf s h with
    | none => s
    | some l =>
      if l.state == .running && !crewsLeft l && l.ended == gridSize l.record then settleAll (resolveDone s h) else s)

/-- Whether a launch waits here as a record or a message that is not accepted yet. -/
def waitsHere (s : State) (h : DWord) : Bool :=
  s.queues.any (fun q => q.wait.any (fun m => m.handle == h) || q.ring.any (fun r => r.msg.handle == h)) ||
  s.disp.heldMsgs.any (fun m => m.handle == h)

/-- The host or the supervisor cancels a launch (R191), also one whose record waits in a ring. -/
def execLaunchCancel (h : DWord) (s : State) : Host.Outcome State Fault Refusal :=
  .next (match launchOf s h with
    | none => if waitsHere s h then settleAll (breakLaunch s h 6 0) else s
    | some l => if l.state == .done || l.state == .broken then s else settleAll (breakLaunch s h 6 0))

end Sys2Proof.Machine
end

