-- ==== Sys2Proof/Machine/Coll.lean ====
section
/-! DEFINITION. Collectives (R389 to R398): the descriptor, joining through the communicator copy, sending a rank's
elements in blocks, merging, completion, and the ways in which a collective breaks. -/

namespace Sys2Proof.Machine

/-! ### The descriptor (R391) -/

/-- A collective descriptor. -/
structure CollDesc where
  comm   : Nat
  src    : Nat
  dst    : Nat
  res    : Nat
  count  : Nat
  op     : Nat
  red    : Nat
  unord  : Bool
  narrow : Bool
  wslot  : Nat
  o      : Nat
  root   : Nat
  arv    : Bool
  seed   : Nat
  cap    : Word
  mbo    : Nat
  tag    : Nat
  resv   : Bool
  deriving DecidableEq, Repr

/-- The fields of 64 bytes. -/
def collDescOf (bs : List Byte) : CollDesc :=
  let v := bytesNat bs
  { comm := bits v 0 64, src := bits v 64 64, dst := bits v 128 64, res := bits v 192 64, count := bits v 256 32,
    op := bits v 288 2, red := bits v 290 2, unord := bits v 292 1 == 1, narrow := bits v 293 1 == 1,
    wslot := bits v 294 4, o := bits v 298 2, root := bits v 300 13, arv := bits v 313 1 == 1, seed := bits v 320 64,
    cap := BitVec.ofNat 32 (bits v 384 32), mbo := bits v 416 16, tag := bits v 432 16,
    resv := bits v 314 6 != 0 || bits v 448 64 != 0 }

/-- Elements of one rank's share of a reduce-scatter. -/
def collShare (d : CollDesc) (n : Nat) : Nat := d.count / n

/-- A malformed descriptor, for NRANK n, the captured wire slot and the length of the crew's window. -/
def collBad (d : CollDesc) (n : Nat) (fw : Word) (scrLen : Nat) : Bool :=
  d.resv || bits d.comm 0 42 != 0 || d.count == 0 || decide (2 ^ 31 ≤ d.count) || d.red == 3 || d.o == 3 ||
  (d.op == 3 && decide (n ≤ d.root)) || (d.op == 1 && d.count % n != 0) ||
  (d.narrow && (decide (2 ≤ d.op) || d.res == 0 || fmIllegal fw || decide (fmW fw < 2) || decide (8 < fmW fw) ||
    (if d.op = 1 then collShare d n else d.count) % 48 != 0)) ||
  (d.arv && decide (scrLen < 16 * d.mbo + 16))

/-- Elements that a rank contributes (R392). -/
def collSends (d : CollDesc) (rank : Nat) : Nat := if d.op = 3 ∧ rank ≠ d.root then 0 else d.count

/-- Elements that a rank writes (R392). -/
def collWrites (d : CollDesc) (n : Nat) : Nat :=
  match d.op with
  | 1 => collShare d n
  | 2 => n * d.count
  | _ => d.count

/-- Blocks that a rank's results need; block 0 stands for everything without NARROW (R393). -/
def collBlocks (d : CollDesc) (n rank : Nat) : List Nat :=
  if !d.narrow then [0]
  else if d.op = 1 then (List.range (collShare d n / 48)).map (· + rank * (collShare d n / 48))
  else List.range (d.count / 48)

/-! ### Locations (R398) -/

/-- One element location of a collective. -/
inductive ClSide
  | fail (code addr : Nat)
  | wait (ts : List SubTile)
  | ok (addr : Nat) (l : Loc) (ps : List Piece)
  deriving DecidableEq, Repr

/-- Element k of SRC, DST or RES. -/
def clSide (s : State) (ag : Agent) (x k : Nat) (write : Bool) : ClSide :=
  let obj := bits x 42 22
  let i := bits x 0 42 + k
  let addr := elemAddr obj (bits i 0 42)
  match recordOf s ag obj (bits i 0 42) with
  | .error f => .fail f.cause addr
  | .ok r =>
    if recEW r ≠ 32 ∨ recLayout r = 2 then .fail 0x22 addr
    else match checkShape s ag obj i 32 ⟨some (if write then .w else .r), write, false⟩ with
    | .error f => .fail f.cause addr
    | .ok l =>
      let f := findAll s ag l write
      match f.bad with
      | some (c, _) => .fail c addr
      | none => if f.units.isEmpty then .ok addr l f.pieces else .wait f.units

/-- A failure at a position: its place in the order, code and address. -/
structure ClFail where
  k    : Nat
  code : Nat
  addr : Nat
  deriving DecidableEq, Repr

/-- The first failure of positions taken in order, and the sub-tiles that the positions before it wait for. -/
def clStop : Nat → List (List ClSide) → List SubTile × Option ClFail
  | _, [] => ([], none)
  | k, p :: ps =>
    match p.findSome? (fun x => match x with | .fail c a => some (ClFail.mk k c a) | _ => none) with
    | some f => ([], some f)
    | none =>
      let r := clStop (k + 1) ps
      (p.flatMap (fun x => match x with | .wait ts => ts | _ => []) ++ r.1, r.2)

/-- The lines of other devices that a location is read through. -/
def clLines (ag : Agent) : ClSide → List LineRef
  | .ok _ l ps => farLines ag.ctx l.obj ps
  | _ => []

/-- Why a location cannot be read (R325, R369). -/
def clDead (s : State) (ag : Agent) (dead : List (LineRef × Nat)) (k : Nat) (x : ClSide) : Option ClFail :=
  match x with
  | .ok addr _ ps => match dead.find? (fun d => (clLines ag x).contains d.1) with
    | some d => some ⟨k, deadCause d.2, addr⟩
    | none => if ps.any (piecePoisoned s) then some ⟨k, 0x16, addr⟩ else none
  | _ => none

/-- The pieces of a location. -/
def clPieces : ClSide → List Piece
  | .ok _ _ ps => ps
  | _ => []

/-- Reads the locations of positions in order for a warp on the CL path: none while a remote line is missing; otherwise the first failure, or the
words of each position. -/
def clRead (s : State) (ag : Agent) (w : Owner) (by_ : Nat) (ps : List (List ClSide)) :
    Option (Except ClFail (List (List Nat))) × State :=
  match fetchSet s w (ps.flatMap (fun p => p.flatMap (clLines ag))) with
  | (none, s) => (none, s)
  | (some dead, s) => (some (match (ps.zipIdx).findSome? (fun p => p.1.findSome? (clDead s ag dead p.2)) with
      | some f => .error f
      | none => .ok (ps.map (fun p => p.map (fun x => match x with
          | .ok _ _ ps => readAll s (ag.args.getD []) ps
          | _ => 0)))),
      sawBytes s 3 by_ (pieceBytes (ps.flatMap (fun p => p.flatMap clPieces))))

/-- Writes words to locations, those that fail left out: none while a remote write is unanswered; otherwise the
address of the first that could not be reached. -/
def clWrite (s : State) (ag : Agent) (w : Owner) (by_ : Nat) (xs : List (ClSide × Nat)) : Option (Option Nat) × State :=
  let reqs := xs.flatMap (fun x => match x.1 with
    | .ok addr l ps => (writeReqs s ag.ctx l.obj x.2 ps).map (fun r => (addr, r))
    | _ => [])
  match clearPeers s (xs.flatMap (fun x => match x.1 with | .ok _ l ps => nearLines s ag.ctx l ps | _ => [])) with
  | (false, s) => (none, s)
  | (true, s) => match exchange s w (reqs.map (·.2)) with
  | (none, s) => (none, s)
  | (some ans, s) =>
    let s := xs.foldl (fun s x => match x.1 with
      | .ok _ l ps => storeLoc s (some (3, by_)) ag.ctx l ps x.2
      | _ => s) s
    (some ((reqs.zip ans).findSome? (fun z => z.2.2.map (fun _ => z.1.1))), s)

/-! ### Changing a command -/

def setColl (s : State) (h : DWord) (f : CollCmd → CollCmd) : State :=
  { s with coll := { s.coll with cmds := s.coll.cmds.map (fun c => if c.h == h && c.live then f c else c) } }

/-- The live command of a handle, and of a key. -/
def collAt (s : State) (h : DWord) : Option CollCmd := s.coll.cmds.find? (fun c => c.live && c.h == h)
def collKeyed (s : State) (k : CollKey) : Option CollCmd := s.coll.cmds.find? (fun c => c.live && c.key == k)

/-- A command ends broken: its partial sums are discarded (R396). -/
def collBreak (s : State) (c : CollCmd) (b : Brk) : State :=
  let s := setColl s c.h (fun c => { c with live := false, got := [], merged := [] })
  settleAll (breakHandles s [b])

/-- A COLLFAULT (R396, R398): the handle breaks with FAULT and the entry is queued; before completion an ABANDON
is sent. -/
def collFail (s : State) (c : CollCmd) (code addr : Nat) : State :=
  let d := collDescOf c.desc
  let s := if c.phase = 2 then s else sendAbandon s c 2 0x10
  let s := collBreak s c (Brk.own c.h 2 0x10)
  asyncTrap s c.warp c.issue 0 0x10 (maskOf (fun l => l == c.lane)) c.pc addr (code + 2 ^ 11 + 2 ^ 16 * d.tag)

/-- A rank that cannot take part: LIMIT, reason 1, with an ABANDON where the copy names the others (R396). -/
def collUnfit (s : State) (c : CollCmd) (told : Bool) : State :=
  collBreak (if told then sendAbandon s c 1 1 else s) c (Brk.own c.h 1 1)

/-- A disagreement that this device sees: every device that either copy names is told (R390). -/
def collDiffer (s : State) (c : CollCmd) (others : List Nat) : State :=
  let ds := (c.shape.devr ++ others.filter (fun d => !c.shape.devr.contains d)).filter (· ≠ s.plat.devnum)
  collBreak (ds.foldl (fun s d => send s (.disagree d c.key)) s) c (Brk.own c.h 1 11)

/-- A rank's break because of an ABANDON (R396). -/
def collAbandoned (s : State) (c : CollCmd) (a : Abandon) : State :=
  collBreak s c ⟨c.h, 4, 0, a.handle, 0, a.code, a.detail⟩

/-- The handle of a member's command, once a contribution has carried it here. -/
def memberHandle (c : CollCmd) (dev : Nat) : Option DWord :=
  (c.got.find? (fun g => c.shape.devr[g.rank]? == some dev)).map (·.h)

/-- A member device that nothing reaches (R396): its handle is the origin where it is known. -/
def collLost (s : State) (dev : Nat) : State :=
  (s.coll.cmds.filter (fun c => c.live && c.phase != 2 && ((collDevs s c).getD []).contains dev)).foldl
    (fun s c => collBreak s c (match memberHandle c dev with
      | some h => ⟨c.h, 4, 0, h, 0, 5, 0⟩
      | none => Brk.own c.h 4 0)) s

/-! ### Merging (R392, R393) -/

/-- The elements of a rank that are here. -/
def gathered (c : CollCmd) (rank : Nat) : Option (List Word) :=
  (c.got.find? (fun g => g.rank == rank)).map (·.elems)

/-- Whether a rank's elements of a block are here. -/
def blockHere (c : CollCmd) (d : CollDesc) (b rank : Nat) : Bool :=
  match gathered c rank with
  | some xs => if d.narrow then decide (48 * (b + 1) ≤ xs.length) else decide (d.count ≤ xs.length)
  | none => false

def mergedOf (c : CollCmd) (b : Nat) : List Nat := ((c.merged.find? (fun m => m.1 == b)).map (·.2)).getD []

/-- The order log record of a merge (R393). -/
def mergeRecord (c : CollCmd) (b rank : Nat) : Nat :=
  3 + 2 ^ 16 * (c.key.cseq % 2 ^ 32) + 2 ^ 48 * (rank % 2 ^ 13) + 2 ^ 64 * (b % 2 ^ 32) + 2 ^ 192 * (c.key.obj % 2 ^ 22)

/-- Merges one rank's block, where the order log lets it. -/
def mergeOne (s : State) (h : DWord) (b rank : Nat) : State :=
  match collAt s h with
  | none => s
  | some c =>
    if (mergedOf c b).contains rank ∨ !blockHere c (collDescOf c.desc) b rank then s
    else match olOne s (olAgent c.key.ctx c.failed) (mergeRecord c b rank) with
    | .wait => s
    | .unit ts => askUnit s (crewAt s c.crew).tower ts
    | .fetch ls => (fetchSet s (.coll h) ls).2
    | .clear ls => (clearPeers s ls).2
    | .done s => setColl s h (fun c => { c with
        merged := (c.merged.filter (fun m => m.1 != b)) ++ [(b, mergedOf c b ++ [rank])] })

/-- Merges what is here, in the order in which the ranks first reached this device. -/
def mergePass (s : State) (h : DWord) : State :=
  match collAt s h with
  | none => s
  | some c =>
    let d := collDescOf c.desc
    if !d.unord || decide (2 ≤ d.op) then s
    else (collBlocks d c.shape.nrank c.rank).foldl (fun s b =>
      c.got.foldl (fun s g => mergeOne s h b g.rank) s) s

/-- Merges until nothing more can be: a replayed order may release one merge after another. -/
def mergeAll : Nat → State → DWord → State
  | 0, s, _ => s
  | f + 1, s, h => mergeAll f (mergePass s h) h

def mergeHere (s : State) (h : DWord) : State :=
  mergeAll (match collAt s h with | some c => c.got.length + 1 | none => 0) s h

/-- merge(a, b) on binary32 codes. -/
def merge32 (red a b : Nat) : Nat :=
  match red with
  | 0 => (round32 (sumVals (fmDecode fmB32 a) (fmDecode fmB32 b))).code
  | 1 => (rndVal fmB32 (minMaxVal false (fmIn fmB32 a) (fmIn fmB32 b)) 0).code
  | _ => (rndVal fmB32 (minMaxVal true (fmIn fmB32 a) (fmIn fmB32 b)) 0).code

/-- T(lo, lo + n) over the leaves. -/
def mergeTree (red : Nat) (leaf : Nat → Nat) : Nat → Nat → Nat → Nat
  | 0, lo, _ => leaf lo
  | f + 1, lo, n =>
    if n ≤ 1 then leaf lo
    else
      let h := 2 ^ Nat.log2 (n - 1)
      merge32 red (mergeTree red leaf f lo h) (mergeTree red leaf f (lo + h) (n - h))

/-- The left fold over the ranks in their order. -/
def mergeFold (red : Nat) (leaf : Nat → Nat) : List Nat → Nat
  | [] => 0
  | r :: rs => rs.foldl (fun acc q => merge32 red acc (leaf q)) (leaf r)

def gotElem (c : CollCmd) (rank j : Nat) : Nat := (((gathered c rank).getD []).getD j 0).toNat

/-- Element j of a reduction. -/
def reduced (c : CollCmd) (d : CollDesc) (j : Nat) : Nat :=
  let leaf := fun r => gotElem c r j
  if d.unord then mergeFold d.red leaf (mergedOf c (if d.narrow then j / 48 else 0))
  else mergeTree d.red leaf (c.shape.nrank + 1) 0 c.shape.nrank

/-- The words that this rank writes. -/
def collResult (c : CollCmd) : List Nat :=
  let d := collDescOf c.desc
  match d.op with
  | 0 => (List.range d.count).map (reduced c d)
  | 1 =>
    let k := collShare d c.shape.nrank
    (List.range k).map (fun j => reduced c d (c.rank * k + j))
  | 2 => (List.range c.shape.nrank).flatMap (fun r => (List.range d.count).map (gotElem c r))
  | _ => (List.range d.count).map (gotElem c d.root)

/-- Whether every contribution has been gathered, and merged where that is an event of its own. -/
def collWhole (c : CollCmd) : Bool :=
  let d := collDescOf c.desc
  c.shape.nrank != 0 && (List.range c.shape.nrank).all (fun r => match gathered c r with
    | some xs => decide (collSends d r ≤ xs.length)
    | none => false) &&
  (!d.unord || decide (2 ≤ d.op) || (collBlocks d c.shape.nrank c.rank).all (fun b =>
    (mergedOf c b).length == c.shape.nrank))

/-! ### Contributions (R390, R392) -/

/-- Adds elements of a rank, which arrive in order, with the handle of its command. -/
def collGather (s : State) (h : DWord) (rank : Nat) (from_ : DWord) (first : Nat) (xs : List Word) : State :=
  mergeHere (setColl s h (fun c =>
    let have_ := gathered c rank
    if (have_.getD []).length ≠ first then c
    else match have_ with
      | none => { c with got := c.got ++ [⟨rank, from_, xs⟩] }
      | some ys => { c with got := c.got.map (fun g => if g.rank == rank then { g with elems := ys ++ xs } else g) })) h

/-- A contribution that reaches a command that has joined. -/
def collAbsorb (s : State) (h : DWord) (m : Contribution) : State :=
  match collAt s h with
  | none => s
  | some c => if m.shape ≠ c.shape then collDiffer s c m.shape.devr else collGather s h m.rank m.h m.first m.elems

/-- The members to which a rank sends: those of the other ranks. -/
def collPeers (c : CollCmd) : List Nat := ((c.shape.devr.zipIdx).filter (fun d => d.2 != c.rank)).map (·.1)

/-- Sends a part of this rank's elements, which are gathered here already, to one member after another, as far as the
limit of unacknowledged messages allows (R379); `sent` counts the members that have it. -/
def collSend : Nat → State → DWord → Nat → Nat → State
  | 0, s, _, _, _ => s
  | f + 1, s, h, first, n =>
    match collAt s h with
    | none => s
    | some c => match (collPeers c)[c.sent]? with
      | none => s
      | some d =>
        if Config.maxMessages ≤ unacked s then s
        else
          let xs := (((gathered c c.rank).getD []).drop first).take n
          let s := send s (.contribution d ⟨c.key, c.rank, c.h, c.shape, first, xs⟩)
          collSend f (setColl s h (fun c => { c with sent := c.sent + 1 })) h first n

/-! ### The work on the CL path (R391 to R394, R398) -/

/-- The words of the communicator copy from word `lo` to `hi - 1`. -/
def commSides (s : State) (ag : Agent) (obj lo hi : Nat) : List ClSide :=
  (List.range (hi - lo)).map (fun k => clSide s ag (elemAddr obj 0) (lo + k) false)

/-- Reads words of the communicator copy: none while something is awaited; an empty result where one fails. -/
def commRead (s : State) (c : CollCmd) (lo hi : Nat) : Option (Option (List Nat)) × State :=
  let ag := collAgent s c
  let xs := commSides s ag c.key.obj lo hi
  let st := clStop 0 (xs.map (fun x => [x]))
  if st.2.isSome then (some none, s)
  else if !st.1.isEmpty then (none, askUnit s (crewAt s c.crew).tower st.1)
  else match clRead s ag (.coll c.h) c.warp (xs.map (fun x => [x])) with
    | (none, s) => (none, s)
    | (some (.error _), s) => (some none, s)
    | (some (.ok vs), s) => (some (some vs.flatten), s)

/-- The fields of a collective that members compare. -/
def collShapeOf (d : CollDesc) (n : Nat) (ds : List Nat) : CollShape :=
  { nrank := n, devr := ds, op := d.op, red := d.red, count := d.count, unord := d.unord, narrow := d.narrow,
    wslot := d.wslot, o := d.o, root := if d.op = 3 then d.root else 0 }

/-- What had come for a command before it joined: a disagreement, an ABANDON, contributions in their order. -/
def collCatchUp (s : State) (c : CollCmd) : State :=
  let parts := s.coll.parts.filter (fun m => m.key == c.key)
  let gone := s.coll.gone.filter (fun a => a.key == c.key)
  let broken := s.coll.broken.contains c.key
  let s := { s with coll := { s.coll with
    parts := s.coll.parts.filter (fun m => m.key != c.key)
    gone := s.coll.gone.filter (fun a => a.key != c.key)
    broken := s.coll.broken.filter (fun k => k != c.key) } }
  if broken then collBreak s c (Brk.own c.h 1 11)
  else match gone with
    | a :: _ => collAbandoned s c a
    | [] => parts.foldl (fun s m => collAbsorb s c.h m) s

/-- Joins through the communicator copy (R389, R390). -/
def collJoin (s : State) (c : CollCmd) : State :=
  match commRead s c 0 1 with
  | (none, s) => s
  | (some none, s) => collUnfit s c false
  | (some (some w), s) => match commRead s c 0 (commWords (bits (w.getD 0 0) 0 14)) with
    | (none, s) => s
    | (some none, s) => collUnfit s c false
    | (some (some ws), s) => match commParse ws with
      | none => collUnfit s c false
      | some (n, rank, ds) =>
        let d := collDescOf c.desc
        if ds.getD rank 8192 ≠ s.plat.devnum then collUnfit s c false
        else
          let c' := { c with rank := rank, shape := collShapeOf d n ds,
                             gen := BitVec.ofNat 64 d.seed ^^^ BitVec.ofNat 64 rank }
          let s := setColl s c.h (fun _ => c')
          if collBad d n c.slotw (crewAt s c.crew).scrLen then collUnfit s c' true else collCatchUp s c'

/-- The destination's locations. -/
def dstSides (s : State) (c : CollCmd) : List ClSide :=
  let d := collDescOf c.desc
  (List.range (collWrites d c.shape.nrank)).map (fun k => clSide s (collAgent s c) d.dst k true)

/-- Checks the destination before the first contribution. -/
def collBegin (s : State) (c : CollCmd) : State :=
  let st := clStop 0 ((dstSides s c).map (fun x => [x]))
  if !st.1.isEmpty then askUnit s (crewAt s c.crew).tower st.1
  else match st.2 with
  | some f => collFail s c f.code f.addr
  | none => setColl s c.h (fun c => { c with begun := true })

/-- The elements of the next part that a rank sends: first index and count. A rank with nothing to send says so with
one part of none. -/
def nextPart (c : CollCmd) (d : CollDesc) : Nat × Nat :=
  let j := if d.narrow then 48 * c.next else c.next
  (j, min 48 (collSends d c.rank - j))

/-- Whether the next part has been formed: its elements are gathered here, and what is left is to send them. -/
def partFormed (c : CollCmd) : Bool :=
  let jn := nextPart c (collDescOf c.desc)
  match gathered c c.rank with
  | some xs => decide (jn.1 + jn.2 ≤ xs.length)
  | none => false

/-- The locations of one position: the source, and under NARROW the residual and its staging place. -/
def partSides (s : State) (ag : Agent) (d : CollDesc) (j : Nat) : List ClSide :=
  clSide s ag d.src j false :: (if d.narrow then [clSide s ag d.res j false, clSide s ag d.res (d.count + j) true] else [])

/-- A block under NARROW (R392, R394): the generator, which steps once where RM uses it, the elements, and the staged
residuals. -/
def narrowPart (c : CollCmd) (d : CollDesc) (xs rs : List Word) : DWord × List Word × List Nat :=
  let fw := c.slotw
  let gen := if fmRm fw = 5 then genStep c.gen else c.gen
  let g : Word := if fmRm fw = 5 then genOut gen else 0
  let q := quantResid fw xs rs d.cap d.o g 0
  (gen, (List.range 48).map (fun j => BitVec.ofNat 32 (round32 (blkValue fw d.o q.1.blk j)).code), q.2)

/-- The failure of a part at the position with the smallest element index (R398): of its checks, of its reads, or one
that an event brings. -/
def leastClFail (a b : Option ClFail) : Option ClFail :=
  match a, b with
  | none, y => y
  | x, none => x
  | some x, some y => if y.k < x.k then some y else some x

/-- Forms the next part of a rank's elements: whether it could. -/
def collForm (s : State) (c : CollCmd) (given : Option ClFail) : Bool × State :=
  let d := collDescOf c.desc
  let ag := collAgent s c
  let jn := nextPart c d
  let ps := ((List.range jn.2).map (· + jn.1)).map (partSides s ag d)
  let st := clStop 0 ps
  if !st.1.isEmpty then (false, askUnit s (crewAt s c.crew).tower st.1)
  else
    let stop := leastClFail given st.2
    let before := match stop with
      | some f => ps.take f.k
      | none => ps
    match clRead s ag (.coll c.h) c.warp (before.map (fun p => p.take 2)) with
    | (none, s) => (false, s)
    | (some (.error f), s) => (false, collFail s c f.code f.addr)
    | (some (.ok vs), s) => match stop with
      | some f => (false, collFail s c f.code f.addr)
      | none =>
        let col := fun (k : Nat) => vs.map (fun v => BitVec.ofNat 32 (v.getD k 0))
        let r : DWord × List Word × List Nat :=
          if d.narrow then narrowPart c d (col 0) (col 1) else (c.gen, col 0, [])
        match clWrite s ag (.coll c.h) c.warp ((if d.narrow then ps.map (fun p => p.getD 2 (.fail 0 0)) else []).zip r.2.2) with
        | (none, s) => (false, s)
        | (some (some a), s) => (false, collFail s c 7 a)
        | (some none, s) =>
          (true, collGather (setColl s c.h (fun c => { c with gen := r.1 })) c.h c.rank c.h jn.1 r.2.1)

/-- Works on the next part of a rank's elements: it is formed once, and then sent to the members in turn. -/
def collPart (s : State) (c : CollCmd) (given : Option ClFail) : State :=
  let r := if partFormed c then (true, s) else collForm s c given
  let s := r.2
  match if r.1 then collAt s c.h else none with
  | none => s
  | some c =>
    if !partFormed c then s
    else
      let d := collDescOf c.desc
      let jn := nextPart c d
      let s := collSend (collPeers c).length s c.h jn.1 jn.2
      match collAt s c.h with
      | none => s
      | some c =>
        if c.sent < (collPeers c).length then s
        else setColl s c.h (fun c => { c with
          next := if d.narrow then c.next + 1 else c.next + jn.2, sent := 0,
          phase := if collSends d c.rank ≤ jn.1 + jn.2 then 1 else 0 })

/-- Whether a command's sending stands still: its crew is away, or its warp is frozen (R327). A crew whose save has begun
or falls due starts no further part (R397). -/
def collStill (s : State) (c : CollCmd) : Bool :=
  (crewAt s c.crew).gone || engFrozen s c.warp || (((crewAt s c.crew).saving || overdue s c.crew) && c.sent == 0 && !partFormed c)

/-- The ABANDON that a broken command owes goes out once its communicator copy has been read; nothing is sent where that
cannot be, or is malformed (R396). -/
def collTell (s : State) (c : CollCmd) (code detail : Nat) : State :=
  let done := fun (s : State) => { s with coll := { s.coll with cmds := s.coll.cmds.map (fun k =>
    if k.h == c.h then { k with owes := none } else k) } }
  match commRead s c 0 1 with
  | (none, s) => s
  | (some none, s) => done s
  | (some (some w), s) => match commRead s c 0 (commWords (bits (w.getD 0 0) 0 14)) with
    | (none, s) => s
    | (some none, s) => done s
    | (some (some ws), s) => match commParse ws with
      | none => done s
      | some (_, _, ds) => done (tellAbandon s c code detail ds)

/-- The collective engine works on one command: it joins, checks the destination, or sends a part; of a broken one, it sends
what it owes. -/
def collRun (s : State) (h : DWord) : State :=
  match collAt s h with
  | none => match s.coll.cmds.find? (fun c => c.h == h) with
    | some c => match c.owes with
      | some o => collTell s c o.1 o.2
      | none => s
    | none => s
  | some c =>
    if collStill s c then mergeHere s h
    else if c.shape.nrank = 0 then collJoin s c
    else if c.phase ≠ 0 then mergeHere s h
    else if !c.begun then collBegin s c
    else collPart s c none

/-! ### Completion (R395) -/

/-- Resolves a collective's handle DONE, and lets its command go (R382, R395): one that has moved with its context reports to
its home. -/
def resolveColl (s : State) (h : DWord) (arverr : Bool) : State :=
  let s := dropOwners { s with coll := { s.coll with cmds := s.coll.cmds.filter (fun c => !(c.live && c.h == h)) } }
    (· == .coll h)
  match entFind s h with
  | none =>
    let r := { (Brk.own h 0 0).report s.plat.devnum with state := 3, arverr := arverr }
    settleAll (send s (.report (hHome h) r))
  | some e =>
    let e' := { e with state := 3, dev := s.plat.devnum, arverr := arverr, subs := [], ovfSubs := [] }
    let s := putEnt s e.serial (fun _ => e')
    let s := (e.subs ++ e.ovfSubs.map (·.2)).foldl (fun s d => send s (.report d (entReport e' h))) s
    let s := e.ovfSubs.foldl (fun s o => saveLog s e.ctx 0 o.1 h) s
    settleAll (forwardHeld (wakeHwait (notify s e' h) h (statusWord e')) h)

/-- Step 1: the destination is written, where its locations still pass their checks (R398). -/
def collStore (s : State) (c : CollCmd) : State :=
  let xs := dstSides s c
  let st := xs.flatMap (fun x => match x with | .wait ts => ts | _ => [])
  if !st.isEmpty then askUnit s (crewAt s c.crew).tower st
  else match clWrite s (collAgent s c) (.coll c.h) c.warp (xs.zip (collResult c)) with
  | (none, s) => s
  | (some dead, s) =>
    let s := setColl s c.h (fun c => { c with wrote := true })
    match (xs.findSome? (fun x => match x with | .fail f a => some (f, a) | _ => none)).or (dead.map (fun a => (7, a))) with
    | some f => collFail s { c with phase := 2 } f.1 f.2
    | none => s

/-- Steps 2 to 4: residuals, the arrival, and DONE. -/
def collFinish (s : State) (c : CollCmd) : State :=
  let d := collDescOf c.desc
  let ag := collAgent s c
  let js := if d.narrow then List.range d.count else []
  let from_ := js.map (fun k => clSide s ag d.res (d.count + k) false)
  let to_ := js.map (fun k => clSide s ag d.res k true)
  let st := clStop 0 ((from_.zip to_).map (fun p => [p.1, p.2]))
  if !st.1.isEmpty then askUnit s (crewAt s c.crew).tower st.1
  else match st.2 with
  | some f => collFail s c f.code f.addr
  | none => match clRead s ag (.coll c.h) c.warp (from_.map (fun x => [x])) with
    | (none, s) => s
    | (some (.error f), s) => collFail s c f.code f.addr
    | (some (.ok vs), s) => match clWrite s ag (.coll c.h) c.warp (to_.zip vs.flatten) with
      | (none, s) => s
      | (some (some a), s) => collFail s c 7 a
      | (some none, s) =>
        let r := if d.arv then mbEngine s c.crew (16 * d.mbo) 0 true else (false, s)
        resolveColl r.2 c.h r.1

/-- Whether a command's crew is saved in a frame, so that the last steps wait (R396). -/
def collAway (s : State) (c : CollCmd) : Bool :=
  (crewAt s c.crew).gone && (match launchOf s (crewAt s c.crew).launch with
    | some l => l.saved.any (fun k => k.crew == c.crew)
    | none => false)

/-- Whether a part of this rank's is still to be acknowledged (R395). -/
def collUnacked (s : State) (c : CollCmd) : Bool :=
  s.outbox.any (fun o => match o.out with
    | .contribution _ m => m.key == c.key
    | _ => false)

/-- The collective is complete, as far as this rank can know: every contribution is here, and every part of its own has
arrived (DEDUCED, unsafe: log entry 18). From here on nothing takes it back (R395, R396). -/
def execCollComplete (h : DWord) (s : State) : Host.Outcome State Fault Refusal :=
  .next (match collAt s h with
    | none => s
    | some c =>
      if c.phase = 0 ∨ (c.phase = 1 ∧ (!collWhole c || collUnacked s c)) then s
      else
        let s := setColl s h (fun c => { c with phase := 2 })
        let s := if c.wrote then s else collStore s { c with phase := 2 }
        match collAt s h with
        | some c => if c.wrote && !collAway s c then collFinish s c else s
        | none => s)

/-! ### Arrivals -/

/-- Where a collective has gone with its context (R347). -/
def collWent (s : State) (k : CollKey) : Option Nat := (s.coll.moved.find? (fun m => m.1 == k)).map (·.2)

/-- A rank's contribution arrives: it follows a collective that has moved. -/
def contributionArrival (m : Contribution) (s : State) : State :=
  match collKeyed s m.key, collWent s m.key with
  | some c, _ =>
    if c.shape.nrank = 0 then { s with coll := { s.coll with parts := s.coll.parts ++ [m] } }
    else collAbsorb s c.h m
  | none, some d => send s (.contribution d m)
  | none, none =>
    if s.coll.cmds.any (fun c => c.key == m.key) then s
    else { s with coll := { s.coll with parts := s.coll.parts ++ [m] } }

/-- An ABANDON arrives: partial sums are discarded, and this rank breaks, now or when it issues its `coll`. -/
def abandonArrival (a : Abandon) (s : State) : State :=
  match collKeyed s a.key, collWent s a.key with
  | some c, _ => if c.phase = 2 then s else collAbandoned s c a
  | none, some d => send s (.abandon d a)
  | none, none =>
    if s.coll.cmds.any (fun c => c.key == a.key) then s
    else { s with coll := { s.coll with
      parts := s.coll.parts.filter (fun m => m.key != a.key), gone := s.coll.gone ++ [a] } }

/-- A disagreement notice arrives. -/
def disagreeArrival (k : CollKey) (s : State) : State :=
  match collKeyed s k, collWent s k with
  | some c, _ => if c.phase = 2 then s else collBreak s c (Brk.own c.h 1 11)
  | none, some d => send s (.disagree d k)
  | none, none =>
    if s.coll.cmds.any (fun c => c.key == k) then s
    else { s with coll := { s.coll with broken := s.coll.broken ++ [k] } }

/-- The position of a part that reads the element at an address. -/
def partReads (ps : List (List ClSide)) (addr : Nat) : Option Nat :=
  ((ps.zipIdx).find? (fun p => (p.1.take 2).any (fun x => match x with
    | .ok a _ _ => a == addr
    | _ => false))).map (·.2)

/-- A check of SRC, RES or DST fails, or the data of SRC or RES at `addr` cannot be corrected (`code` 0x16). -/
def execCollfault (h : DWord) (code : Nat) (addr : DWord) (s : State) : Host.Outcome State Fault Refusal :=
  .next (match collAt s h with
    | none => s
    | some c =>
      if collStill s c || c.shape.nrank == 0 || c.phase != 0 || partFormed c then s
      else if !c.begun then (if (clStop 0 ((dstSides s c).map (fun x => [x]))).2.isSome then collBegin s c else s)
      else
        let d := collDescOf c.desc
        let jn := nextPart c d
        let ps := ((List.range jn.2).map (· + jn.1)).map (partSides s (collAgent s c) d)
        let given := (partReads ps addr.toNat).map (fun k => ClFail.mk k 0x16 addr.toNat)
        if code = 0x16 ∧ given.isSome = true then collPart s c given
        else if (clStop 0 ps).2.isSome then collPart s c none
        else s)

/-! ### coll (R398) -/

/-- What the issue of a `coll` finds at word 1 of COMM. -/
inductive CommWord
  | bad
  | units (ts : List SubTile)
  | found (l : Loc) (rd wr : List Piece)

/-- The checks of COMM at issue. -/
def commAtIssue (s : State) (ag : Agent) (obj : Nat) : CommWord :=
  match checkShape s ag obj 1 32 ⟨some .r, false, false⟩, checkShape s ag obj 1 32 ⟨some .w, true, false⟩ with
  | .ok l, .ok _ =>
    if recKind l.rec_ ≠ 0 ∨ recEW l.rec_ ≠ 32 then .bad
    else
      let rd := findAll s ag l false
      let wr := findAll s ag l true
      if rd.bad.isSome || wr.bad.isSome then .bad
      else if !(rd.units ++ wr.units).isEmpty then .units (rd.units ++ wr.units)
      else .found l rd.pieces wr.pieces
  | _, _ => .bad

/-- Commands of a crew that are outstanding (R397). -/
def crewCollCount (s : State) (c : Nat) : Nat := (s.coll.cmds.filter (fun k => k.live && k.crew == c)).length

/-- The command of a `coll` as it is issued: its generator is SEED xor RANK (R394). -/
def newColl (s : State) (e : Env) (m : Mask) (hd : DWord) (desc : List Byte) (obj cseq rank : Nat) : CollCmd :=
  let d := collDescOf desc
  { h := hd, key := ⟨e.cr.ctx, obj, cseq⟩, crew := e.c, warp := e.w, lane := (lowest m).getD 0, pc := e.pc,
    issue := (warpAt s e.w).issued, desc := desc, slotw := e.x.fs.getD d.wslot 0, rank := 0,
    shape := { nrank := 0, devr := [], op := 0, red := 0, count := 0, unord := false, narrow := false, wslot := 0,
               o := 0, root := 0 },
    phase := 0, next := 0, sent := 0, gen := BitVec.ofNat 64 d.seed ^^^ BitVec.ofNat 64 rank, begun := false,
    wrote := false, got := [], merged := [], live := true, owes := none, since := s.now, failed := [] }

/-- A word of the communicator copy at issue: none while its line is on its way from another device, and nothing where it
cannot be read now. -/
def wordAtIssue (s : State) (e : Env) (obj k : Nat) : Option (Option Nat) × State :=
  match clSide s (envAgent s e) (elemAddr obj 0) k false with
  | .ok _ l ps => match fetchLines s (.warp e.w) e.cr.ctx l.obj ps with
    | (none, s) => (none, s)
    | (some (some _), s) => (some none, s)
    | (some none, s) => (some (some (readAll s [] ps)), s)
  | _ => (some none, s)

/-- RANK of the communicator copy, as word 0 holds it. A word that cannot be read now gives 0; the command finds that out
when it joins. -/
def rankAtIssue (s : State) (e : Env) (obj : Nat) : Option Nat × State :=
  let r := wordAtIssue s e obj 0
  (r.1.map (fun w => bits (w.getD 0) 16 13), r.2)

/-- The requests that add 1 to CSEQ where a copy of it lies on another device: indivisible there (R390). -/
def cseqReqs (s : State) (ctx obj : Nat) (wr : List Piece) : List FabReq :=
  (farPieces wr).map (fun q => { mkReq s 2 q.1 ctx obj q.2.1 q.2.2.1 q.2.2.2.2 1 with aop := 19 })

/-- The pieces of an access in this device's memory. -/
def nearPieces (ps : List Piece) : List Piece :=
  ps.filter (fun p => match p.place with
    | .far _ _ _ => false
    | _ => true)

/-- A `coll` waits for another device: it issues again, and has had no effect but what it has asked. -/
def collWaits (s0 s : State) (e : Env) : Stop := .hold (holdPath { s0 with fab := s.fab, outbox := s.outbox } e)

/-- A `coll` whose COMM fails at issue: the handle is there, and breaks; where the copy can be read, every rank that it names
is told, of the collective that CSEQ names (R396, R398). `s0` is the state before the instruction. -/
def collRefused (s0 s : State) (e : Env) (h : Hdr) (p : Pred) (ntf : Bool) (d : Opnd) (m : Mask) (desc : List Byte) :
    Except Stop State :=
  let obj := bits (collDescOf desc).comm 42 22
  match wordAtIssue s e obj 1 with
  | (none, s) => .error (collWaits s0 s e)
  | (some w, s) =>
    match allocHandle s 2 s.plat.devnum e.cr.ctx 1 (if ntf then some e.w else none) with
    | none => handleResult s e h d p m 0
    | some (hd, s) =>
      let c := { newColl s e m hd desc obj (w.getD 0) 0 with live := false }
      let s := match w, collDevs s c with
        | none, _ => s
        | _, some ds => tellAbandon s c 1 1 ds
        | _, none => { s with coll := { s.coll with cmds := s.coll.cmds ++ [{ c with owes := some (1, 1) }] } }
      handleResult (settleAll (breakHandles s [Brk.own hd 1 1])) e h d p m hd

/-- Reads and increments CSEQ (R390): none while another device has not answered, and otherwise its old value, where
it could be read. -/
def takeCseq (s : State) (e : Env) (obj : Nat) (l : Loc) (rd wr : List Piece) : Option (Option Nat) × State :=
  match clearPeers s (nearLines s e.cr.ctx l wr) with
  | (false, s) => (none, s)
  | (true, s) => match exchange s (.warp e.w) (cseqReqs s e.cr.ctx obj wr) with
  | (none, s) => (none, s)
  | (some ans, s) =>
    if ans.any (fun r => r.2.isSome) || rd.any (piecePoisoned s) then (some none, s)
    else
      let near := nearPieces wr
      let here := readPieces s [] (near.take 1)
      let old := match ans with
        | a :: _ => a.1
        | [] => readPieces s [] rd
      (some (some old), if near.isEmpty then s else storeLoc s none e.cr.ctx l wr ((here + 1) % 2 ^ 32))

def execColl (h : Hdr) (p : Pred) (ntf : Bool) (d a : Opnd) (s : State) : Host.Outcome State Fault Refusal :=
  handleOp s h [(d, 2)] [(a, 1)] none (fun s1 e m v =>
    match scratchWarp e m (v 0) 64 16 with
    | .error x => .error x
    | .ok off =>
      if tableFull s1 then handleResult s1 e h d p m 0
      else if 16 ≤ crewCollCount s1 e.c then .error (.park (.reissue .colls) s)
      else if Config.maxMessages ≤ unacked s1 then .error (.park (.reissue .messages) s)
      else
        let desc := memBytes e.cr.scr off 64
        let obj := bits (collDescOf desc).comm 42 22
        match commAtIssue s1 (envAgent s1 e) obj with
        | .bad => collRefused s s1 e h p ntf d m desc
        | .units ts => .error (.park (.reissue (.residency ts)) (askUnit s e.cr.tower ts))
        | .found l rd wr => match rankAtIssue s1 e obj with
          | (none, s2) => .error (collWaits s s2 e)
          | (some rank, s2) => match takeCseq s2 e obj l rd wr with
            | (none, s3) => .error (collWaits s s3 e)
            | (some none, s3) => collRefused s s3 e h p ntf d m desc
            | (some (some old), s3) =>
              match allocHandle s3 2 s3.plat.devnum e.cr.ctx 1 (if ntf then some e.w else none) with
              | none => handleResult s3 e h d p m 0
              | some (hd, s4) =>
                let c := newColl s4 e m hd desc obj old rank
                let cmds := s4.coll.cmds.filter (fun k => k.live || k.owes.isSome || k.key != c.key)
                handleResult { s4 with coll := { s4.coll with cmds := cmds ++ [c] } } e h d p m hd)

end Sys2Proof.Machine
end

