-- ==== Sys2Proof/Machine/Comets.lean ====
section
/-! DEFINITION. What reaches this device about launches and comets (R378 to R386): invocations, messages at their
home and forwarded, reports of state, notices of breaks, questions and counts, the move of a result, and what
collectives send. -/

namespace Sys2Proof.Machine

/-! ### Engine messages (R366) -/

/-- An engine message arrives: it is discarded for its header, ignored when it has been taken already, and otherwise
served; one that cannot be taken now stays with its sender. -/
def engineIn (s : State) (hdr : Vuine) (serve : State → Option State) : State :=
  if !ready s then s
  else if !fabMine s hdr 7 then fabDiscard s
  else if s.fab.filter.any (fun f => f.1 == vuSrc hdr && f.2.1 == vuRseq hdr) then s
  else match serve s with
    | none => s
    | some t => { t with fab := { t.fab with
        filter := t.fab.filter ++ [(vuSrc hdr, vuRseq hdr, ⟨hdr, false, false, 0⟩)] } }

/-! ### Invocations (R379) -/

/-- A launch that is turned away before it exists here. -/
def rejectMsg (s : State) (m : LaunchMsg) (code detail : Nat) : State :=
  if ownHome s m.handle then breakLaunch s m.handle code detail else reportHome s (Brk.own m.handle code detail) 4 0

/-- An invocation at its target: none while the ring has no room, and it waits at its sender. -/
def invokeAccept (s : State) (m : LaunchMsg) : Option State :=
  let q := s.queues.getD m.queue Queue.zero
  if !ready s then none
  else if (ctxGet s (launchCtx m .sent m.record)).isNone then some (rejectMsg s m 1 10)
  else if !q.en || ringIsFull q || !q.wait.isEmpty then none
  else some (enterRing s m.queue m .sent)

def execInvokeArrival (m : Vuine × LaunchMsg) (s : State) : Host.Outcome State Fault Refusal :=
  .next (engineIn s m.1 (fun s => invokeAccept s m.2))

/-! ### Messages (R381 to R384) -/

/-- Takes an overflow buffer from a context's message pool, where its access table lets the dispatcher write (R384,
R414; DESIGN CHOICE, unsafe: log entry 24, as for a save frame). -/
def takeBuffer (s : State) (c : Nat) : Option Nat × State :=
  let r := poolTake (poolFuel s c 0x0B0) s c 0x0B0 (fun e => bits e 0 13 == 0 && bits e 56 8 == 0 &&
    inOneRange s.plat (bits e 13 43 * 2 ^ 13) (2 ^ 13) && mayAt s.plat .messagePool (unitMaster s) 1)
  (r.1.map (fun e => bits e 13 43 * 2 ^ 13), r.2)

/-- Counts an accepted message in ASEQ (R382). -/
def countMessage (s : State) (e : HEnt) : State := putEnt s e.serial (fun e => { e with aseq := e.aseq + 1 })

/-- A message held in its comet's entry, with a buffer when the entry is full: whether there was one (R384). -/
def holdMessage (s : State) (e : HEnt) (m : LaunchMsg) : Bool × State :=
  if e.msgs.length + e.subs.length < 16 ∧ e.ovf.isEmpty then
    (true, putEnt (countMessage s e) e.serial (fun e => { e with msgs := e.msgs ++ [m] }))
  else match takeBuffer s e.ctx with
    | (some b, s) => (true, putEnt (countMessage s e) e.serial (fun e => { e with ovf := e.ovf ++ [(b, m)] }))
    | (none, s) => (false, s)

/-- A message at its comet's home: whether the home accepts it (R382). -/
def homeAccept (s : State) (m : LaunchMsg) (h : DWord) : Bool × State :=
  match entValid s m.ctx h with
  | none => (true, rejectMsg s m 1 9)
  | some e =>
    if e.state = 4 then (true, breakHandles (countMessage s e) [Brk.upstream m.handle (brkOf s m.ctx h)])
    else if e.state = 0 ∨ e.moving then holdMessage s e m
    else (true, forwardHeld (putEnt (countMessage s e) e.serial (fun e => { e with msgs := e.msgs ++ [m] })) h)

/-- The device that a result of another home has moved to from here (R385). -/
def resultWent (s : State) (h : DWord) : Option Nat := (s.disp.moved.find? (fun k => k.1 == h)).map (·.2)

/-- A forwarded message at the device that runs its comet or holds its result, the home itself after a move (R385): it is held
behind those that came before, and follows a result that has moved on. -/
def forwardArrival (s : State) (m : LaunchMsg) (h : DWord) : State :=
  if handleState s m.ctx h = 4 then breakHandles s [Brk.upstream m.handle (brkOf s m.ctx h)]
  else match resultWent s h with
    | some d => send s (.forward d m)
    | none => subscribeTo { s with disp := { s.disp with heldMsgs := s.disp.heldMsgs ++ [m] } } m.ctx h

/-- Declines a message, which its sender keeps: the home takes no later one of that sender before it (R384). -/
def declineMessage (s : State) (m : LaunchMsg) : State :=
  let rest := s.disp.refused.filter (fun r => r.handle != m.handle)
  send { s with disp := { s.disp with refused := rest ++ [m] } } (.decline m.src m)

/-- A message arrives: at its comet's home, in the order of its sender, or forwarded by the home or by the device from which
a result moves. The serial numbers of one device's handles rise in the order of issue (R377). -/
def messageAccept (s : State) (forwarded : Bool) (m : LaunchMsg) : State :=
  match m.comet with
  | none => s
  | some h =>
    if forwarded || !ownHome s h then settleAll (forwardArrival s m h)
    else if s.disp.refused.any (fun r => r.src == m.src && decide (hSerial r.handle < hSerial m.handle)) then
      declineMessage s m
    else match homeAccept s m h with
      | (true, s) => settleAll { s with disp := { s.disp with
          refused := s.disp.refused.filter (fun r => r.handle != m.handle) } }
      | (false, s) => declineMessage s m

def execMessageAccept (m : Vuine × Bool × LaunchMsg) (s : State) : Host.Outcome State Fault Refusal :=
  .next (engineIn s m.1 (fun s => some (messageAccept s m.2.1 m.2.2)))

/-- The home declined a message of this device, which keeps it. -/
def messageDeclined (s : State) (m : LaunchMsg) : State :=
  { s with disp := { s.disp with offers := s.disp.offers ++ [m] } }

/-- The oldest of the messages that a home has declined (R383). -/
def oldestOffer (s : State) (home : Nat) : Option LaunchMsg :=
  (s.disp.offers.filter (fun m => m.comet.any (fun h => hHome h == home))).foldl (fun acc m => match acc with
    | none => some m
    | some a => if hSerial m.handle < hSerial a.handle then some m else some a) none

/-- The oldest message that a home declined is offered again. -/
def execMessageReoffer (home : Nat) (s : State) : Host.Outcome State Fault Refusal :=
  .next (match oldestOffer s home with
    | none => s
    | some m => send { s with disp := { s.disp with offers := s.disp.offers.filter (fun o => o.handle != m.handle) } }
        (.message home m))

/-! ### Reports and notices (R378, R386) -/

/-- A report of a launch that runs elsewhere, at its home: states only move forward. -/
def homeReport (s : State) (r : HandleReport) : State :=
  match entFind s r.handle with
  | none => s
  | some e =>
    if 3 ≤ e.state ∨ r.state ≤ e.state ∨ 4 < r.state then s
    else if r.state = 4 then
      let s := breakHandles s [⟨r.handle, r.code, r.detail, r.origin, r.up, r.ocode, r.odetail⟩]
      putEnt s e.serial (fun e => { e with dev := r.dev })
    else if r.state = 3 then
      let e' := { e with state := 3, dev := r.dev, result := r.result, arverr := r.arverr }
      let s := putEnt s e.serial (fun _ => { e' with subs := [], ovfSubs := [] })
      let s := (e.subs ++ e.ovfSubs.map (·.2)).foldl (fun s d => send s (.report d (entReport e' r.handle))) s
      let s := e.ovfSubs.foldl (fun s o => saveLog s e.ctx 0 o.1 r.handle) s
      reclaim (forwardHeld (wakeHwait (notify s e' r.handle) r.handle (statusWord e')) r.handle)
    else forwardHeld (putEnt s e.serial (fun e => { e with state := r.state, dev := r.dev })) r.handle

/-- A report of a home about a handle that this device has asked about: what is known of it follows until it is resolved, and
the warp that asked has its answer. -/
def Remote.learn (k : Remote) (r : HandleReport) : Remote :=
  { k with
    rep := if k.rep.state = 3 ∨ k.rep.state = 4 then k.rep else r
    reads := k.reads.map (fun q => if r.asker = some q.1 then (q.1, some r) else q) }

/-- The warps here that asked to be told of the resolution of a handle of another home are told (R388). -/
def tellAll (s : State) (r : HandleReport) : State :=
  let due := s.disp.tell.filter (fun t => t.1 == r.handle)
  due.foldl (fun s t => tellWarp s t.2 r.handle (reportStatus r))
    { s with disp := { s.disp with tell := s.disp.tell.filter (fun t => t.1 != r.handle) } }

/-- The answer of a home to a question, or its report of the end of a handle that this device asked about. No path waits for
a handle that is INVALID to its context. -/
def awayReport (s : State) (r : HandleReport) : State :=
  let s := { s with disp := { s.disp with known := s.disp.known.map (fun k =>
    if k.rep.handle == r.handle && k.ctx == r.ctx then k.learn r else k) } }
  if r.state = 3 ∨ r.state = 4 then wakeHwait (tellAll s r) r.handle (reportStatus r)
  else if r.state = 7 ∧ (s.disp.known.any (fun k => k.rep.handle == r.handle && decide (k.rep.state < 5))) = false then
    wakeHwait s r.handle (reportStatus r)
  else s

/-- What depends here on a handle of another home that broke. -/
def breakDependents (s : State) (h : DWord) (b : Brk) : State :=
  breakHandles s ((dependents s h).map (fun d => Brk.upstream d b))

def stateReport (s : State) (r : HandleReport) : State :=
  if ownHome s r.handle then settleAll (homeReport s r)
  else
    let s := awayReport s r
    settleAll (if r.state = 4 then breakDependents s r.handle ⟨r.handle, 0, 0, r.origin, 0, r.ocode, r.odetail⟩ else s)

def execStateReport (r : Vuine × HandleReport) (s : State) : Host.Outcome State Fault Refusal :=
  .next (engineIn s r.1 (fun s => some (stateReport s r.2)))

/-- The CODE and DETAIL of a broken handle, as far as its origin tells them (R386). -/
def noticeCode (n : Notice) : Nat × Nat :=
  if n.origin = n.handle then (n.ocode, n.odetail) else if hKind n.handle = 1 then (4, 0) else (3, 0)

/-- A break notice: a launch that runs here for the comet ends, and what depends on the comet breaks. -/
def breakNotice (s : State) (n : Notice) : State :=
  if ownHome s n.handle then s
  else
    let c := noticeCode n
    let b : Brk := ⟨n.handle, c.1, c.2, n.origin, 0, n.ocode, n.odetail⟩
    let ran := (launchOf s n.handle).isSome
    let s : State := if ran then breakHandles s [b] else s
    let s : State := { s with disp := { s.disp with known := s.disp.known.map (fun (k : Remote) =>
      if k.rep.handle == n.handle && k.rep.state != 4 then
        { k with rep := { k.rep with state := 4, code := 0, origin := n.origin, ocode := n.ocode, odetail := n.odetail } }
      else k) } }
    let s : State := if s.disp.known.any (fun (k : Remote) => k.rep.handle == n.handle) then s
      else knowReport s (((s.disp.heldMsgs.find? (fun (m : LaunchMsg) => m.comet == some n.handle)).map (fun (m : LaunchMsg) => m.ctx)).getD 0)
        { invalidReport n.handle with state := 4, origin := n.origin, ocode := n.ocode, odetail := n.odetail }
    settleAll (breakDependents s n.handle b)

def execBreakNotice (n : Vuine × Notice) (s : State) : Host.Outcome State Fault Refusal :=
  .next (engineIn s n.1 (fun s => some (breakNotice s n.2)))

/-- Subscribes a device to an entry: in the entry, or in a buffer when it is full; none when the pool is empty (R384). -/
def addSub (s : State) (e : HEnt) (src : Nat) : Option State :=
  if e.state = 3 ∨ e.state = 4 ∨ e.subs.contains src ∨ (e.ovfSubs.any (fun o => o.2 == src)) = true then some s
  else if e.msgs.length + e.subs.length < 16 then
    some (putEnt s e.serial (fun e => { e with subs := e.subs ++ [src] }))
  else match takeBuffer s e.ctx with
    | (some b, s) => some (putEnt s e.serial (fun e => { e with ovfSubs := e.ovfSubs ++ [(b, src)] }))
    | (none, _) => none

/-- Another device asks about a handle of this home, for one of its contexts and for an instruction of a warp there, and
subscribes to it (R386): none when the home declines for want of a buffer, and the question stays with its sender. -/
def homeAsked (s : State) (src : Nat) (h : DWord) (ctx : Nat) (asker : Option Nat) : Option State :=
  match entValid s ctx h with
  | none => some (send s (.report src { invalidReport h with ctx := ctx, asker := asker }))
  | some e => (addSub s e src).map (fun s => send s (.report src { entReport e h with asker := asker }))

/-- Another device adds or removes a reference to a handle of this home. -/
def homeCount (s : State) (h : DWord) (up : Bool) : State := if ownHome s h then changeRefs s h up else s

/-! ### Moving a result (R385) -/

/-- Clears GO of the contexts that asked for the move of a handle. -/
def clearGo (s : State) (h : DWord) : State :=
  { s with ctxs := s.ctxs.map (fun c =>
    if c.2.cmMove.any (fun m => m.1 == h) then
      (c.1, setCsr { c.2 with cmMove := none, cmAsked := false } 0x0BA (bits (csrN c.2 0x0BA) 0 31))
    else c) }

/-- Sends every message held here for a comet, not yet entered into a queue, to another device. -/
def sendHeld (s : State) (h : DWord) (dev : Nat) : State :=
  let ms := s.disp.heldMsgs.filter (fun m => m.comet == some h) ++
    s.queues.flatMap (fun q => q.wait.filter (fun m => m.comet == some h))
  let s := { s with
    disp := { s.disp with heldMsgs := s.disp.heldMsgs.filter (fun m => m.comet != some h) }
    queues := s.queues.map (fun q => { q with wait := q.wait.filter (fun m => m.comet != some h) }) }
  ms.foldl (fun s m => send s (.forward dev m)) s

/-- Notes where a result of another home has gone from here; messages for it that still arrive follow it. -/
def noteMoved (s : State) (h : DWord) (dev : Nat) : State :=
  let rest := s.disp.moved.filter (fun k => k.1 != h)
  { s with disp := { s.disp with moved := if dev = s.plat.devnum ∨ ownHome s h = true then rest else rest ++ [(h, dev)] } }

/-- Step 2 of a move at the holding device: what it has not entered into a queue goes to the new device, in order, which
is asked to acknowledge. -/
def moveOn (s : State) (h : DWord) (dev : Nat) : State :=
  send (sendHeld (noteMoved s h dev) h dev) (.moveGo dev h dev)

/-- Step 1 of a move at the home: it sets MOVING and stops forwarding, where the asking device is the one that DEV names;
the device of a context that migrates asks for its unresolved launches too. Otherwise the move ends with nothing done. -/
def moveAsked (s : State) (src ctx : Nat) (h : DWord) (dev : Nat) : State :=
  match entValid s ctx h with
  | none => send s (.moveAck src h src)
  | some e =>
    if e.moving then s
    else if e.dev = src ∧ 1 ≤ e.state ∧ e.state ≤ 3 then
      send (putEnt s e.serial (fun e => { e with moving := true })) (.moveGo src h dev)
    else send s (.moveAck src h e.dev)

/-- The home lets a move go on, at the holding device; or the holding device has sent what it held, at the new one, which
acknowledges to the home. -/
def moveGone (s : State) (h : DWord) (dev : Nat) : State :=
  if dev = s.plat.devnum then send (noteMoved s h dev) (.moveAck (hHome h) h dev) else moveOn s h dev

/-- A move ends: at the home, which has the new DEV and forwards again, or at the device that asked. -/
def moveEnded (s : State) (h : DWord) (dev : Nat) : State :=
  if !ownHome s h then clearGo s h
  else match entFind s h with
    | none => clearGo s h
    | some e =>
      if !e.moving then s
      else
        let s := clearGo (putEnt s e.serial (fun e => { e with dev := dev, moving := false })) h
        let s := if e.dev = s.plat.devnum then s else send s (.moveAck e.dev h dev)
        settleAll (forwardHeld s h)

/-- Whether a launch of this device is not resolved. -/
def stillRuns (s : State) (h : DWord) : Bool :=
  match launchOf s h with
  | some l => !(l.state == .done || l.state == .broken)
  | none => false

/-- A write of CMDEV with GO takes effect: the home's entry decides whether the result is here. -/
def execResultMove (ctx : Nat) (s : State) : Host.Outcome State Fault Refusal :=
  .next (match ctxGet s ctx with
    | none => s
    | some x => match x.cmMove with
    | none => s
    | some (h, dev) =>
      if x.cmAsked then s
      else if stillRuns s h then clearGo s h
      else if ownHome s h then
        match entValid s ctx h with
        | some e =>
          if e.state ≠ 3 ∨ e.dev ≠ s.plat.devnum then clearGo s h
          else if e.moving then s
          else moveOn (putEnt s e.serial (fun e => { e with moving := true })) h dev
        | none => clearGo s h
      else if h = 0 then clearGo s h
      else send (ctxPut s ctx { x with cmAsked := true }) (.moveAsk (hHome h) ctx h dev))

/-- The new device acknowledges a move to the home, or the home to the device that asked. -/
def execResultMoveAck (h : Vuine × DWord) (dev : Nat) (s : State) : Host.Outcome State Fault Refusal :=
  .next (engineIn s h.1 (fun s => some (moveEnded s h.2 dev)))

/-! ### What collectives send (R391 to R396) -/

def execCollContribution (c : Vuine × Contribution) (s : State) : Host.Outcome State Fault Refusal :=
  .next (engineIn s c.1 (fun s => some (contributionArrival c.2 s)))

def execCollAbandon (a : Vuine × Abandon) (s : State) : Host.Outcome State Fault Refusal :=
  .next (engineIn s a.1 (fun s => some (abandonArrival a.2 s)))

def execCollDisagreement (k : Vuine × CollKey) (s : State) : Host.Outcome State Fault Refusal :=
  .next (engineIn s k.1 (fun s => some (disagreeArrival k.2 s)))

end Sys2Proof.Machine
end

