-- ==== Sys2Proof/Machine/IntAlu.lean ====
section
/-! DEFINITION. Majors 0x00 to 0x1F (R88 to R100): integer arithmetic, logic, multiply and divide, shifts, bit
operations, 64-bit and pointer arithmetic, compares, moves, predicates and immediates. -/

namespace Sys2Proof.Machine

/-! ### The operations on words -/

/-- sx of an n-bit word (the preamble of R86). -/
def sxv {n : Nat} (x : BitVec n) : Int := sx n x.toNat

def minS {n : Nat} (a b : BitVec n) : BitVec n := if sxv b < sxv a then b else a
def maxS {n : Nat} (a b : BitVec n) : BitVec n := if sxv a < sxv b then b else a
def minU {n : Nat} (a b : BitVec n) : BitVec n := if b.toNat < a.toNat then b else a
def maxU {n : Nat} (a b : BitVec n) : BitVec n := if a.toNat < b.toNat then b else a
def absW (a : Word) : Word := BitVec.ofInt 32 (sxv a).natAbs
def negW (a : Word) : Word := BitVec.ofInt 32 (-sxv a)

/-- An integer clamped to the range of a signed 32-bit word (R89). -/
def clamp32 (i : Int) : Word := BitVec.ofInt 32 (max (-2147483648) (min 2147483647 i))

/-- Bit k of the result is bit a_k + 2 b_k + 4 c_k of the table (R90). -/
def ltabW (tt : BitVec 8) (a b c : Word) : Word := maskOf (fun k =>
  tt.getLsbD ((a.getLsbD k).toNat + 2 * (b.getLsbD k).toNat + 4 * (c.getLsbD k).toNat))

/-- The signed quotient and remainder of R92. -/
def divS (a b : Word) : Word × Word :=
  let x := sxv a
  let y := sxv b
  if y = 0 then (BitVec.allOnes 32, a)
  else if x = -2147483648 ∧ y = -1 then (BitVec.ofInt 32 (-2147483648), 0)
  else (BitVec.ofInt 32 (x.tdiv y), BitVec.ofInt 32 (x - x.tdiv y * y))

/-- The unsigned quotient and remainder of R92. -/
def divU (a b : Word) : Word × Word :=
  if b.toNat = 0 then (BitVec.allOnes 32, a)
  else (BitVec.ofNat 32 (a.toNat / b.toNat), BitVec.ofNat 32 (a.toNat % b.toNat))

/-- The shift amount of R93: B mod 32. -/
def shAmt (b : Word) : Nat := bits b.toNat 0 5

def rotlW (a : Word) (n : Nat) : Word := a <<< n ||| a >>> (32 - n)

def popcW (a : Word) : Word := BitVec.ofNat 32 (lanesOf a).length
/-- Zero bits above the highest set bit, 32 for 0 (R94). -/
def clzW (a : Word) : Word :=
  BitVec.ofNat 32 (((List.range 32).takeWhile (fun k => !a.getLsbD (31 - k))).length)
/-- Zero bits below the lowest set bit, 32 for 0 (R94). -/
def ctzW (a : Word) : Word := BitVec.ofNat 32 (((List.range 32).takeWhile (fun k => !a.getLsbD k)).length)
def brevW (a : Word) : Word := maskOf (fun k => a.getLsbD (31 - k))

/-- The field of R95: position and effective length. -/
def fieldOf (b : Word) : Nat × Nat :=
  let pos := bits b.toNat 0 8
  let len := bits b.toNat 8 8
  (pos, if pos < 32 then min len (32 - pos) else 0)

def bfeW (a b : Word) : Word := BitVec.ofNat 32 (bits a.toNat (fieldOf b).1 (fieldOf b).2)
def bfesW (a b : Word) : Word :=
  if (fieldOf b).2 = 0 then 0
  else BitVec.ofInt 32 (sx (fieldOf b).2 (bits a.toNat (fieldOf b).1 (fieldOf b).2))
def bfiW (a b c : Word) : Word :=
  BitVec.ofNat 32 (setBits c.toNat (fieldOf b).1 (fieldOf b).2 a.toNat)

/-- Byte k of the result of `bgat`, from selector byte k of C (R95). -/
def bgatByte (a b : Word) (sel : Nat) : Nat :=
  let src := bits (a.toNat + 2 ^ 32 * b.toNat) (8 * bits sel 0 3) 8
  match bits sel 3 2 with
  | 0 => src
  | 1 => if 128 ≤ src then 255 else 0
  | 2 => 0
  | _ => 255

def bgatW (a b c : Word) : Word :=
  BitVec.ofNat 32 (bgatByte a b (bits c.toNat 0 8) + 2 ^ 8 * bgatByte a b (bits c.toNat 8 8) +
    2 ^ 16 * bgatByte a b (bits c.toNat 16 8) + 2 ^ 24 * bgatByte a b (bits c.toNat 24 8))

/-- `padd` of R17 and R96: the object number of A stays. -/
def paddW (a b : DWord) : DWord :=
  BitVec.ofNat 64 (bits a.toNat 42 22 * 2 ^ 42 + bits (a.toNat + b.toNat) 0 42)

/-- The relations of `icmp` (R97). -/
def icmpRel {n : Nat} (c : ICond) (a b : BitVec n) : Bool :=
  match c with
  | .eq => a == b
  | .ne => a != b
  | .lt => decide (sxv a < sxv b)
  | .le => decide (sxv a ≤ sxv b)
  | .gt => decide (sxv b < sxv a)
  | .ge => decide (sxv b ≤ sxv a)
  | .ltu => decide (a.toNat < b.toNat)
  | .leu => decide (a.toNat ≤ b.toNat)
  | .gtu => decide (b.toNat < a.toNat)
  | .geu => decide (b.toNat ≤ a.toNat)

/-! ### Lane functions over source lists -/

def arg32 (v : List Nat) (k : Nat) : Word := BitVec.ofNat 32 (v.getD k 0)
def arg64 (v : List Nat) (k : Nat) : DWord := BitVec.ofNat 64 (v.getD k 0)

/-- A 32-bit D from one, two or three 32-bit sources (R86). -/
def op1 (s : State) (h : Hdr) (d a : Opnd) (f : Word → Word) : Host.Outcome State Fault Refusal :=
  laneOp s h d 1 [(a, 1)] (fun v => (f (arg32 v 0)).toNat)
def op2 (s : State) (h : Hdr) (d a b : Opnd) (f : Word → Word → Word) : Host.Outcome State Fault Refusal :=
  laneOp s h d 1 [(a, 1), (b, 1)] (fun v => (f (arg32 v 0) (arg32 v 1)).toNat)
def op3 (s : State) (h : Hdr) (d a b c : Opnd) (f : Word → Word → Word → Word) :
    Host.Outcome State Fault Refusal :=
  laneOp s h d 1 [(a, 1), (b, 1), (c, 1)] (fun v => (f (arg32 v 0) (arg32 v 1) (arg32 v 2)).toNat)
/-- A 64-bit D from a pair and a pair, or from a pair and a 32-bit source (R96). -/
def op64 (s : State) (h : Hdr) (d a b : Opnd) (f : DWord → DWord → DWord) : Host.Outcome State Fault Refusal :=
  laneOp s h d 2 [(a, 2), (b, 2)] (fun v => (f (arg64 v 0) (arg64 v 1)).toNat)
def opSh64 (s : State) (h : Hdr) (d a b : Opnd) (f : DWord → Nat → DWord) : Host.Outcome State Fault Refusal :=
  laneOp s h d 2 [(a, 2), (b, 1)] (fun v => (f (arg64 v 0) (bits (arg32 v 1).toNat 0 6)).toNat)

/-! ### Majors 0x00 and 0x01 (R88) -/

/-- Every word with OP 0x00 traps ILL. -/
def execIll (s : State) : Host.Outcome State Fault Refusal :=
  runInstr s 0 (fun _ => false) anyMode ⟨7, false⟩ (fun e => advance s e)

def execNop (g : Guard) (s : State) : Host.Outcome State Fault Refusal :=
  runInstr s 0 (fun _ => true) anyMode g (fun e => advance s e)

/-! ### Major 0x10 (R89) -/

def execIadd (h : Hdr) (d a b : Opnd) (s : State) : Host.Outcome State Fault Refusal :=
  op2 s h d a b (fun x y => x + y)
def execIsub (h : Hdr) (d a b : Opnd) (s : State) : Host.Outcome State Fault Refusal :=
  op2 s h d a b (fun x y => x - y)
def execImin (h : Hdr) (d a b : Opnd) (s : State) : Host.Outcome State Fault Refusal := op2 s h d a b minS
def execImax (h : Hdr) (d a b : Opnd) (s : State) : Host.Outcome State Fault Refusal := op2 s h d a b maxS
def execIminu (h : Hdr) (d a b : Opnd) (s : State) : Host.Outcome State Fault Refusal := op2 s h d a b minU
def execImaxu (h : Hdr) (d a b : Opnd) (s : State) : Host.Outcome State Fault Refusal := op2 s h d a b maxU
def execIabs (h : Hdr) (d a : Opnd) (s : State) : Host.Outcome State Fault Refusal := op1 s h d a absW
def execIneg (h : Hdr) (d a : Opnd) (s : State) : Host.Outcome State Fault Refusal := op1 s h d a negW
def execIaddsat (h : Hdr) (d a b : Opnd) (s : State) : Host.Outcome State Fault Refusal :=
  op2 s h d a b (fun x y => clamp32 (sxv x + sxv y))
def execIsubsat (h : Hdr) (d a b : Opnd) (s : State) : Host.Outcome State Fault Refusal :=
  op2 s h d a b (fun x y => clamp32 (sxv x - sxv y))

/-! ### Major 0x11 (R90) -/

def execAnd (h : Hdr) (d a b : Opnd) (s : State) : Host.Outcome State Fault Refusal :=
  op2 s h d a b (fun x y => x &&& y)
def execOr (h : Hdr) (d a b : Opnd) (s : State) : Host.Outcome State Fault Refusal :=
  op2 s h d a b (fun x y => x ||| y)
def execXor (h : Hdr) (d a b : Opnd) (s : State) : Host.Outcome State Fault Refusal :=
  op2 s h d a b (fun x y => x ^^^ y)
def execAndn (h : Hdr) (d a b : Opnd) (s : State) : Host.Outcome State Fault Refusal :=
  op2 s h d a b (fun x y => x &&& ~~~y)
def execOrn (h : Hdr) (d a b : Opnd) (s : State) : Host.Outcome State Fault Refusal :=
  op2 s h d a b (fun x y => x ||| ~~~y)
def execNot (h : Hdr) (d a : Opnd) (s : State) : Host.Outcome State Fault Refusal := op1 s h d a (fun x => ~~~x)
def execLtab (h : Hdr) (d a b c : Opnd) (tt : BitVec 8) (s : State) : Host.Outcome State Fault Refusal :=
  op3 s h d a b c (ltabW tt)

/-! ### Major 0x12 (R91, R92) -/

def execImul (h : Hdr) (d a b : Opnd) (s : State) : Host.Outcome State Fault Refusal :=
  op2 s h d a b (fun x y => x * y)
def execImulh (h : Hdr) (d a b : Opnd) (s : State) : Host.Outcome State Fault Refusal :=
  op2 s h d a b (fun x y => BitVec.ofInt 32 (sxv x * sxv y / 4294967296))
def execImulhu (h : Hdr) (d a b : Opnd) (s : State) : Host.Outcome State Fault Refusal :=
  op2 s h d a b (fun x y => BitVec.ofNat 32 (bits (x.toNat * y.toNat) 32 32))
def execImad (h : Hdr) (d a b c : Opnd) (s : State) : Host.Outcome State Fault Refusal :=
  op3 s h d a b c (fun x y z => x * y + z)
def execImulw (h : Hdr) (d a b : Opnd) (s : State) : Host.Outcome State Fault Refusal :=
  laneOp s h d 2 [(a, 1), (b, 1)] (fun v => intBits 64 (sxv (arg32 v 0) * sxv (arg32 v 1)))
def execImulwu (h : Hdr) (d a b : Opnd) (s : State) : Host.Outcome State Fault Refusal :=
  laneOp s h d 2 [(a, 1), (b, 1)] (fun v => (arg32 v 0).toNat * (arg32 v 1).toNat)
def execIdiv (h : Hdr) (d a b : Opnd) (s : State) : Host.Outcome State Fault Refusal :=
  op2 s h d a b (fun x y => (divS x y).1)
def execIdivu (h : Hdr) (d a b : Opnd) (s : State) : Host.Outcome State Fault Refusal :=
  op2 s h d a b (fun x y => (divU x y).1)
def execIrem (h : Hdr) (d a b : Opnd) (s : State) : Host.Outcome State Fault Refusal :=
  op2 s h d a b (fun x y => (divS x y).2)
def execIremu (h : Hdr) (d a b : Opnd) (s : State) : Host.Outcome State Fault Refusal :=
  op2 s h d a b (fun x y => (divU x y).2)

/-! ### Major 0x13 (R93) -/

def execShl (h : Hdr) (d a b : Opnd) (s : State) : Host.Outcome State Fault Refusal :=
  op2 s h d a b (fun x y => x <<< shAmt y)
def execShr (h : Hdr) (d a b : Opnd) (s : State) : Host.Outcome State Fault Refusal :=
  op2 s h d a b (fun x y => x >>> shAmt y)
def execSar (h : Hdr) (d a b : Opnd) (s : State) : Host.Outcome State Fault Refusal :=
  op2 s h d a b (fun x y => BitVec.ofInt 32 (sxv x / (2 ^ shAmt y : Nat)))
def execRotl (h : Hdr) (d a b : Opnd) (s : State) : Host.Outcome State Fault Refusal :=
  op2 s h d a b (fun x y => rotlW x (shAmt y))
def execRotr (h : Hdr) (d a b : Opnd) (s : State) : Host.Outcome State Fault Refusal :=
  op2 s h d a b (fun x y => rotlW x (32 - shAmt y))

/-! ### Major 0x14 (R94, R95) -/

def execPopc (h : Hdr) (d a : Opnd) (s : State) : Host.Outcome State Fault Refusal := op1 s h d a popcW
def execClz (h : Hdr) (d a : Opnd) (s : State) : Host.Outcome State Fault Refusal := op1 s h d a clzW
def execCtz (h : Hdr) (d a : Opnd) (s : State) : Host.Outcome State Fault Refusal := op1 s h d a ctzW
def execBrev (h : Hdr) (d a : Opnd) (s : State) : Host.Outcome State Fault Refusal := op1 s h d a brevW
def execBfe (h : Hdr) (d a b : Opnd) (s : State) : Host.Outcome State Fault Refusal := op2 s h d a b bfeW
def execBfes (h : Hdr) (d a b : Opnd) (s : State) : Host.Outcome State Fault Refusal := op2 s h d a b bfesW
def execBfi (h : Hdr) (d a b c : Opnd) (s : State) : Host.Outcome State Fault Refusal := op3 s h d a b c bfiW
def execBgat (h : Hdr) (d a b c : Opnd) (s : State) : Host.Outcome State Fault Refusal := op3 s h d a b c bgatW

/-! ### Major 0x15 (R96) -/

def execIadd2 (h : Hdr) (d a b : Opnd) (s : State) : Host.Outcome State Fault Refusal :=
  op64 s h d a b (fun x y => x + y)
def execIsub2 (h : Hdr) (d a b : Opnd) (s : State) : Host.Outcome State Fault Refusal :=
  op64 s h d a b (fun x y => x - y)
def execShl2 (h : Hdr) (d a b : Opnd) (s : State) : Host.Outcome State Fault Refusal :=
  opSh64 s h d a b (fun x n => x <<< n)
def execShr2 (h : Hdr) (d a b : Opnd) (s : State) : Host.Outcome State Fault Refusal :=
  opSh64 s h d a b (fun x n => x >>> n)
def execSar2 (h : Hdr) (d a b : Opnd) (s : State) : Host.Outcome State Fault Refusal :=
  opSh64 s h d a b (fun x n => BitVec.ofInt 64 (sxv x / (2 ^ n : Nat)))
def execPadd (h : Hdr) (d a b : Opnd) (s : State) : Host.Outcome State Fault Refusal := op64 s h d a b paddW

/-! ### Majors 0x16 to 0x18 (R97 to R99) -/

def execIcmp (h : Hdr) (cond : ICond) (wide : Bool) (d : Pred) (a b : Opnd) (s : State) :
    Host.Outcome State Fault Refusal :=
  let k := if wide then 2 else 1
  lanePred s h d [(a, k), (b, k)] (fun v =>
    if wide then icmpRel cond (arg64 v 0) (arg64 v 1) else icmpRel cond (arg32 v 0) (arg32 v 1))

def execMov (h : Hdr) (d a : Opnd) (s : State) : Host.Outcome State Fault Refusal := op1 s h d a (fun x => x)

def execSel (h : Hdr) (d a b : Opnd) (p : Pred) (s : State) : Host.Outcome State Fault Refusal :=
  runInstr s 0 (regsOk [(d, 1), (a, 1), (b, 1)]) anyMode h.g (fun e =>
    let m := taking e h.g
    match readSrcs s e m [(a, 1), (b, 1)] (some d) (!h.w) with
    | .error x => .error x
    | .ok (s, vals) => finish s e h d m 1 (fun l =>
        (vals l).getD (if (predMask e.x p).getLsbD l then 0 else 1) 0))

def execMovp (h : Hdr) (d : Opnd) (p : Pred) (s : State) : Host.Outcome State Fault Refusal :=
  runInstr s 0 (regsOk [(d, 1)]) anyMode h.g (fun e =>
    let m := taking e h.g
    match readSrcs s e m [] (some d) (!h.w) with
    | .error x => .error x
    | .ok (s, _) => finish s e h d m 1 (fun l => if (predMask e.x p).getLsbD l then 1 else 0))

def execSetp (h : Hdr) (d : Pred) (a : Opnd) (s : State) : Host.Outcome State Fault Refusal :=
  lanePred s h d [(a, 1)] (fun v => arg32 v 0 != 0)

def execMov2 (h : Hdr) (d a : Opnd) (s : State) : Host.Outcome State Fault Refusal :=
  laneOp s h d 2 [(a, 2)] (fun v => (arg64 v 0).toNat)

/-- A predicate computed from two predicates (R99). -/
def predOp (s : State) (h : Hdr) (d a b : Pred) (f : Bool → Bool → Bool) : Host.Outcome State Fault Refusal :=
  runInstr s 0 (fun _ => true) anyMode h.g (fun e =>
    finishPred s e h d (taking e h.g) (fun l =>
      f ((predMask e.x a).getLsbD l) ((predMask e.x b).getLsbD l)))

def execPand (h : Hdr) (d a b : Pred) (s : State) : Host.Outcome State Fault Refusal :=
  predOp s h d a b (fun x y => x && y)
def execPor (h : Hdr) (d a b : Pred) (s : State) : Host.Outcome State Fault Refusal :=
  predOp s h d a b (fun x y => x || y)
def execPxor (h : Hdr) (d a b : Pred) (s : State) : Host.Outcome State Fault Refusal :=
  predOp s h d a b (fun x y => x != y)
def execPnot (h : Hdr) (d a : Pred) (s : State) : Host.Outcome State Fault Refusal :=
  predOp s h d a 7 (fun x _ => !x)
def execPandn (h : Hdr) (d a b : Pred) (s : State) : Host.Outcome State Fault Refusal :=
  predOp s h d a b (fun x y => x && !y)

/-! ### Majors 0x1A to 0x1F (R100) -/

def execMovi (h : Hdr) (d : Opnd) (imm : Word) (s : State) : Host.Outcome State Fault Refusal :=
  laneOp s h d 1 [] (fun _ => imm.toNat)
def execIaddi (h : Hdr) (d a : Opnd) (imm : Word) (s : State) : Host.Outcome State Fault Refusal :=
  op1 s h d a (fun x => x + imm)
def execAndi (h : Hdr) (d a : Opnd) (imm : Word) (s : State) : Host.Outcome State Fault Refusal :=
  op1 s h d a (fun x => x &&& imm)
def execOri (h : Hdr) (d a : Opnd) (imm : Word) (s : State) : Host.Outcome State Fault Refusal :=
  op1 s h d a (fun x => x ||| imm)
def execXori (h : Hdr) (d a : Opnd) (imm : Word) (s : State) : Host.Outcome State Fault Refusal :=
  op1 s h d a (fun x => x ^^^ imm)
def execMovi2 (h : Hdr) (zx : Bool) (d : Opnd) (imm : Word) (s : State) : Host.Outcome State Fault Refusal :=
  laneOp s h d 2 [] (fun _ => if zx then imm.toNat else intBits 64 (sxv imm))

end Sys2Proof.Machine
end

