-- ==== Sys2Proof/Machine/Control.lean ====
section
/-! DEFINITION. Majors 0x40 to 0x4A: branches with divergence (R101, R140), indirect transfers (R102, R143),
`exit` (R103, R142), `yield` (R104, R171), `trap` and `brk` (R105, R106), `pchk` and `pyield` (R334, R335). -/

namespace Sys2Proof.Machine

/-- An index `off` instructions from the PC, exactly; none below index 0 or at 2^42 and above (R40, R101). -/
def codeTarget (pc : DWord) (off : Int) : Option DWord :=
  let i : Int := (bits pc.toNat 0 42 : Nat) + 8 * off
  if i < 0 ∨ 4398046511104 ≤ i then none
  else some (BitVec.ofNat 64 (bits pc.toNat 42 22 * 2 ^ 42 + i.toNat))

/-- Unended lanes of a warp outside the issuing path (R149, R157, R335). -/
def outside (e : Env) : Mask := e.x.alive &&& ~~~e.mask

/-- A UNIF trap of the issuing instruction. -/
def unif (e : Env) (m : Mask) : Stop := .trap ⟨0x0A, m, e.pc.toNat, 0⟩

/-- Entry ix of the split stack gains one child (R140); a malformed one in memory traps (R139). -/
def addChild (s : State) (e : Env) (ix : Nat) : Except Unsettled State :=
  match entRead s e.sl.failed e.w ix with
  | .error x => .error x
  | .ok en =>
    if entTraps ix en then .error (.bad 0x0B 2)
    else entPut s e.sl.failed e.w ix (entMake 2 (entCnt en + 1) (entPath en))

/-- Pushes an entry. -/
def pushEnt (s : State) (e : Env) (en : BitVec 256) : Except Unsettled State :=
  let n := (warpAt s e.w).ssn
  (entPut s e.sl.failed e.w n en).map (fun s => setSsn s e.w (n + 1))

/-- What an operation on the split stack answers, as the instruction's own. -/
def orStop {α : Type} (e : Env) (r : Except Unsettled α) : Except Stop α :=
  match r with
  | .ok a => .ok a
  | .error x => .error (unsettled e x)

/-- The state in which the issuing path has split into lanes T at `t` and lanes N at PC + 8 (R140). -/
def splitPath (s : State) (e : Env) (tm nm : Mask) (t : DWord) (rj : Option DWord) : Except Stop State :=
  let p := e.sl.path
  let base : Except Unsettled (State × DWord × Nat) :=
    match rj with
    | none => if p.depth = 0 then .ok (s, p.rjpc, p.depth)
        else (addChild s e (p.depth - 1)).map (fun s => (s, p.rjpc, p.depth))
    | some r => (pushEnt s e (entMake 2 2 { p with pc := r })).map (fun s => (s, r, (warpAt s e.w).ssn))
  match base with
  | .error x => .error (unsettled e x)
  | .ok (s, rjpc, dp) =>
    let o := otherSlot e.which
    let sl := stepOn (slotOf (warpAt s e.w) e.which)
    let s := setSlot s e.w e.which { sl with
      stale := true, path := { sl.path with mask := nm, rjpc := rjpc, depth := dp } }
    let q : Path := { pc := t, mask := tm, rjpc := rjpc, depth := dp }
    let r : Except Unsettled State := if (slotOf (warpAt s e.w) o).live then pushEnt s e (entMake 1 0 q)
      else .ok (setSlot s e.w o (Slot.ofPath q))
    orStop e (r.bind (fun s => settle s e.w e.which))

/-- `bra` and `call` (R101, R140): `k` is the link operand of `call`. A target outside the object traps OOS also when no lane
takes part, with LANES 0 (DESIGN CHOICE, unsafe: log entry 8: R101 and R140 trap, R29 lets no lane with a false guard raise a
trap, and no rule gives LANES), and a handler that would split traps UNIF with the lanes that do not take the branch (DESIGN
CHOICE, unsafe: log entry 8: R309 names none). -/
def branch (s : State) (g : Guard) (u : Bool) (rj : BitVec 17) (tgt : BitVec 24) (k : Option Opnd) :
    Host.Outcome State Fault Refusal :=
  let kSrc : List Src := match k with | some o => [(o, 2)] | none => []
  runInstr s 0 (regsOk kSrc) anyMode g (fun e =>
    let tm := taking e g
    let nm := e.mask &&& ~~~tm
    let link := fun (s : State) => match k with
      | some o => setWarp s e.w (writeReg (warpAt s e.w) o tm 2 (fun _ => (nextPc e.pc).toNat))
      | none => s
    match codeTarget e.pc (sx 24 tgt.toNat) with
    | none => .error (.trap ⟨6, tm, e.pc.toNat, 0⟩)
    | some t =>
      if tm = 0 then advance s e
      else if nm = 0 then jump (link s) e t
      else if u then
        .error (unif e (if (lowest e.mask).any (fun l => tm.getLsbD l) then nm else tm))
      else if e.which = .handler then .error (unif e nm)
      else
        let r : Option (Option DWord) := if rj = 0 then some none
          else (codeTarget e.pc (sx 17 rj.toNat)).map some
        match r with
        | none => .error (.trap ⟨6, tm, e.pc.toNat, 0⟩)
        | some rejoin =>
          let pushes := (if rejoin.isSome then 1 else 0) +
            (if (slotOf e.x (otherSlot e.which)).live then 1 else 0)
          if splitCapacity s e.w < e.x.ssn + pushes then .error (.trap ⟨0x0B, tm, e.pc.toNat, 1⟩)
          else splitPath (link s) e tm nm t rejoin)

def execBra (g : Guard) (u : Bool) (rj : BitVec 17) (tgt : BitVec 24) (s : State) :
    Host.Outcome State Fault Refusal := branch s g u rj tgt none
def execCall (g : Guard) (u : Bool) (rj : BitVec 17) (tgt : BitVec 24) (k : Opnd) (s : State) :
    Host.Outcome State Fault Refusal := branch s g u rj tgt (some k)

/-- `brx`, `callx` and `ret`: the common target of the path's lanes, or the trap (R102, R143). -/
def indirect (s : State) (g : Guard) (a : Opnd) (d : Option (Hdr × Opnd)) : Host.Outcome State Fault Refusal :=
  let ds : List Src := match d with | some (_, o) => [(o, 2)] | none => []
  runInstr s 0 (regsOk ((a, 2) :: ds)) anyMode g (fun e =>
    let tm := taking e g
    let tgt := fun l => if tm.getLsbD l then BitVec.ofNat 64 (regNat e.x a 2 l) else nextPc e.pc
    let t0 := match lowest e.mask with | some l => tgt l | none => nextPc e.pc
    let differ := maskOf (fun l => e.mask.getLsbD l && tgt l != t0)
    if differ ≠ 0 then .error (unif e differ)
    else if tm = 0 then advance s e
    else if bits t0.toNat 0 3 ≠ 0 then .error (.trap ⟨3, tm, t0.toNat, 1⟩)
    else
      let s := match d with
        | some (h, o) => setWarp s e.w (writeDest (warpAt s e.w) ⟨h, o, tm⟩ 2 (fun _ => (nextPc e.pc).toNat))
        | none => s
      jump s e t0)

def execBrx (g : Guard) (a : Opnd) (s : State) : Host.Outcome State Fault Refusal := indirect s g a none
def execCallx (h : Hdr) (d a : Opnd) (s : State) : Host.Outcome State Fault Refusal :=
  indirect s h.g a (some (h, d))
def execRet (g : Guard) (a : Opnd) (s : State) : Host.Outcome State Fault Refusal := indirect s g a none

/-- `exit` (R103, R142); the handler's path traps ILL (R309). -/
def execExit (g : Guard) (s : State) : Host.Outcome State Fault Refusal :=
  runInstr s 0 (fun e => e.which != .handler) anyMode g (fun e =>
    let tm := taking e g
    if tm = 0 then advance s e
    else
      let x := warpAt s e.w
      let sl := slotOf x e.which
      advance (setWarp s e.w (withSlot { x with alive := x.alive &&& ~~~tm } e.which
        { sl with stale := true, path := { sl.path with mask := sl.path.mask &&& ~~~tm } })) e)

/-- `yield` (R104, R171, R309). At the last offset of the object there is no PC + 8 to keep on the split stack, so that the
path steps aside and exchanges nothing, also with a PATH on top (DESIGN CHOICE, unsafe: log entry 8: R171 does not speak of
it). -/
def execYield (g : Guard) (s : State) : Host.Outcome State Fault Refusal :=
  runInstr s 0 (fun _ => true) anyMode g (fun e =>
    let n := e.x.ssn
    let aside := fun (s : State) => advance
      (setSlot s e.w e.which { slotOf (warpAt s e.w) e.which with aside := true }) e
    if taking e g = 0 ∨ e.which = .handler then advance s e
    else if nextPc e.pc = e.sl.path.rjpc ∧ e.sl.path.rjpc ≠ noRejoin then advance s e
    else if n = 0 then aside s
    else match entRead s e.sl.failed e.w (n - 1) with
    | .error x => .error (unsettled e x)
    | .ok en =>
      if entMalformed en then .error (.trap ⟨0x0B, taking e g, e.pc.toNat, 2⟩)
      else if entKind en ≠ 1 ∨ pcLast e.pc = true then aside s
      else orStop e ((entPut s e.sl.failed e.w (n - 1) (entMake 1 0 { e.sl.path with pc := nextPc e.pc })).bind
        (fun s => settle (setSlot s e.w e.which (Slot.ofPath (entPath en))) e.w e.which)))

/-- `trap code` (R105). -/
def execTrap (g : Guard) (code : BitVec 8) (s : State) : Host.Outcome State Fault Refusal :=
  runInstr s 0 (fun _ => true) anyMode g (fun e =>
    if taking e g = 0 then advance s e else .error (.trap ⟨0x14, taking e g, 0, code.toNat⟩))

/-- `brk code` (R106): under DBGEN the warp halts, after the PC has moved on (R326). -/
def execBrk (g : Guard) (code : BitVec 8) (s : State) : Host.Outcome State Fault Refusal :=
  runInstr s 0 (fun _ => true) anyMode g (fun e =>
    if taking e g = 0 then advance s e
    else if bits (dbgctl s e.w) 0 1 = 1 then
      match advance s e with
      | .error x => .error x
      | .ok s => .ok (haltWarp s e.w)
    else .error (.trap ⟨0x14, taking e g, 0, 0x100 + code.toNat⟩))

/-- `pchk` (R334). -/
def execPchk (h : Hdr) (d : Pred) (s : State) : Host.Outcome State Fault Refusal :=
  runInstr s 0 (fun _ => true) anyMode h.g (fun e =>
    finishPred s e h d (taking e h.g) (fun _ => e.cr.req.isSome))

/-- `pyield` (R335). -/
def execPyield (g : Guard) (dead : BitVec 3) (s : State) : Host.Outcome State Fault Refusal :=
  runInstr s 0 (fun _ => true) anyMode g (fun e =>
    if taking e g = 0 ∨ e.sup then advance s e
    else if outside e ≠ 0 then .error (unif e (outside e))
    else if e.cr.req.isSome then .error (.park (.pyield dead) s)
    else advance s e)

end Sys2Proof.Machine
end

