-- ==== Sys2Proof/Machine/Csr.lean ====
section
/-! DEFINITION. Majors 0xC0 to 0xC6 (R313 to R323) with the control registers of R314, R336 and R384, the
return from a trap, and the delivery and overflow of trap queues (R308, R310). -/

namespace Sys2Proof.Machine

/-! ### The control registers -/

/-- A control register as R314 lists it. -/
structure CsrInfo where
  ro   : Bool
  user : Bool
  mask : Nat
  deriving DecidableEq, Repr

/-- A ring's five registers (R317): base, base high, CTL, and two indices of which one is read-only. -/
def ringInfo (k : Nat) (ctl : Nat) : CsrInfo :=
  match k with
  | 0 => ⟨false, false, 0xFFFFFFFF⟩
  | 1 => ⟨false, false, 0x00FFFFFF⟩
  | 2 => ⟨false, false, ctl⟩
  | 3 => ⟨true, false, 0⟩
  | _ => ⟨false, false, 0xFFFFFFFF⟩

/-- The register of a number; none is unassigned (R314, R336, R384). -/
def csrInfo (n : Nat) : Option CsrInfo :=
  if n ≤ 7 then some ⟨true, false, 0⟩
  else if n = 8 then some ⟨false, false, 0xFFFFFFF8⟩
  else if n = 9 then some ⟨false, false, 0xFFFFFFFF⟩
  else if n = 0x00A then some ⟨false, false, 0x1F⟩
  else if n = 0x00B then some ⟨true, false, 0⟩
  else if 0x00C ≤ n ∧ n ≤ 0x00F then some ⟨false, false, 0xFFFFFFFF⟩
  else if n = 0x040 then some ⟨false, false, 0xFFFFFFF8⟩
  else if n = 0x041 then some ⟨false, false, 0xFFFFFFFF⟩
  else if n = 0x044 then some ⟨false, false, 0xFFFF8000⟩
  else if n = 0x045 then some ⟨false, false, 0x00FFFFFF⟩
  else if n = 0x046 then some ⟨false, true, 1⟩
  else if n = 0x050 then some ⟨false, false, 0x1F⟩
  else if n = 0x052 ∨ n = 0x054 then some ⟨false, false, 0xFFFFFFF9⟩
  else if n = 0x053 ∨ n = 0x055 then some ⟨false, false, 0xFFFFFFFF⟩
  else if n = 0x056 ∨ n = 0x057 ∨ n = 0x059 ∨ n = 0x05A then some ⟨false, false, 0xFFFFFFFF⟩
  else if n = 0x058 ∨ n = 0x05B then some ⟨false, false, 0xFFFFFF03⟩
  else if 0x060 ≤ n ∧ n ≤ 0x064 then some (ringInfo (n - 0x060) 0x11F)
  else if n = 0x070 ∨ n = 0x071 ∨ n = 0x072 then some ⟨false, false, 0xFFFFFFFF⟩
  else if n = 0x073 then some ⟨true, false, 0⟩
  else if n = 0x074 then some ⟨false, true, 0x303⟩
  else if 0x080 ≤ n ∧ n ≤ 0x084 then some (ringInfo (n - 0x080) 0x1F)
  else if 0x088 ≤ n ∧ n ≤ 0x08C then some (ringInfo (n - 0x088) 0x1F)
  else if 0x090 ≤ n ∧ n ≤ 0x094 then some (ringInfo (n - 0x090) 0x1F)
  else if n = 0x098 then some ⟨false, false, 0x3FFFFF⟩
  else if n = 0x099 then some ⟨false, false, 0x1FFFFFFF⟩
  else if n = 0x09A then some ⟨false, false, 0xFFFFFFFF⟩
  else if n = 0x09B then some ⟨false, false, 0x3FF⟩
  else if n = 0x09C then some ⟨false, false, 1⟩
  else if 0x0A0 ≤ n ∧ n ≤ 0x0A4 then some (ringInfo (n - 0x0A0) 0x1F)
  else if 0x0A8 ≤ n ∧ n ≤ 0x0AC then some (ringInfo (n - 0x0A8) 0x1F)
  else if 0x0B0 ≤ n ∧ n ≤ 0x0B4 then some (ringInfo (n - 0x0B0) 0x1F)
  else if n = 0x0B8 ∨ n = 0x0B9 then some ⟨false, false, 0xFFFFFFFF⟩
  else if n = 0x0BA then some ⟨false, false, 0x80001FFF⟩
  else none

/-- The CTL registers whose bits 0 to 4 hold LOG (R317). -/
def isRingCtl (n : Nat) : Bool := [0x062, 0x082, 0x08A, 0x092, 0x0A2, 0x0AA, 0x0B2].contains n

/-- A word of the current trap record, 0 when there is none (R307). -/
def trecWord (x : Warp) (k : Nat) : Nat :=
  match x.cur with
  | some t => bits t.bits.toNat (32 * k) 32
  | none => 0

/-- The value of a control register of a warp and its context (R314). -/
def csrRead (s : State) (w n : Nat) : Nat :=
  let x := warpAt s w
  if n ≤ 7 then trecWord x n
  else if n = 8 then bits x.tpc.toNat 0 32
  else if n = 9 then bits x.tpc.toNat 32 32
  else if n = 0x00A then x.tfflags.toNat
  else if n = 0x00B then x.tq.length + (if x.cur.isSome then 16 else 0)
  else if n ≤ 0x00F then (x.tscr.getD (n - 0x00C) 0).toNat
  else match ctxGet s (ctxNumOf s w) with
    | some c => csrN c n
    | none => 0

/-- What a write of a context register stores, given its old value (R315 to R317). -/
def csrStored (n old v : Nat) : Nat :=
  let m := (csrInfo n).elim 0 (·.mask)
  let v := v &&& m
  if isRingCtl n ∧ 20 < bits v 0 5 then setBits v 0 5 old
  else if n = 0x050 ∧ bits v 2 2 = 3 then setBits v 2 2 0
  else if n = 0x074 ∧ bits v 0 2 = 3 then setBits v 0 2 0
  else v

/-- Drops every cached pointer, record and entry of a context, and the ORTBASE in force with them (R323). -/
def dropContext (s : State) (c : Nat) : State :=
  let s := { s with caches := { s.caches with
    orc := s.caches.orc.filter (fun e => e.ctx != c)
    res := s.caches.res.filter (fun e => e.t.ctx != c) } }
  match ctxGet s c with
  | some x => ctxPut s c { x with ortF := BitVec.ofNat 64 (csrPair x 0x044) }
  | none => s

/-- A write of OLCTL (R316): a change of MODE clears the position, the flags and the counts. -/
def writeOlctl (x : Ctx) (v : Nat) : Ctx :=
  if bits (csrN x 0x074) 0 2 = bits v 0 2 then setCsr x 0x074 v
  else setCsr (setCsr { x with lseq := [], replayed := [], olEnded := [] } 0x074 (bits v 0 2)) 0x073 0

/-- Writes a context register (R313): none when the write must wait (R318, R385). `tower` is the tower whose
fault unit a relocation command goes to. -/
def ctxCsrWrite (s : State) (c n v tower : Nat) : Except Reissue State :=
  match ctxGet s c with
  | none => .ok s
  | some x =>
    let v := csrStored n (csrN x n) v
    if n = 0x074 then .ok (ctxPut s c (writeOlctl x v))
    else if n = 0x09C then
      if v = 0 then .ok s
      else if x.rlCmd.isSome then .error .relocation
      else .ok (ctxPut s c (setCsr { x with
        rlTower := tower, rlCmd := some (csrN x 0x098, csrN x 0x099, csrN x 0x09A, csrN x 0x09B) } 0x09C 1))
    else if n = 0x0BA then
      if bits v 31 1 = 0 then .ok (ctxPut s c (setCsr x n (v + 2 ^ 31 * bits (csrN x n) 31 1)))
      else if x.cmMove.isSome then .error .resultMove
      else .ok (ctxPut s c (setCsr { x with
        cmMove := some (BitVec.ofNat 64 (csrPair x 0x0B8), bits v 0 13), cmAsked := false } n v))
    else
      let s := ctxPut s c (setCsr x n v)
      .ok (if n = 0x0AC then saveLogFlush s c else s)

/-- Writes a per-warp register. -/
def warpCsrWrite (x : Warp) (n v : Nat) : Warp :=
  let v := v &&& (csrInfo n).elim 0 (·.mask)
  if n = 8 then { x with tpc := BitVec.ofNat 64 (setBits x.tpc.toNat 0 32 v) }
  else if n = 9 then { x with tpc := BitVec.ofNat 64 (setBits x.tpc.toNat 32 32 v) }
  else if n = 0x00A then { x with tfflags := BitVec.ofNat 32 v }
  else { x with tscr := x.tscr.set (n - 0x00C) (BitVec.ofNat 32 v) }

/-- One update of a register by the issuing path, in the state in which its operands have been read; a context register
parks the path until it is in force, with all as it was before the instruction (`s0`; R146). -/
def csrUpdate (s0 s : State) (e : Env) (n v : Nat) : Except Stop State :=
  if n ≤ 0x00F then .ok (setWarp s e.w (warpCsrWrite (warpAt s e.w) n v))
  else match ctxCsrWrite s e.cr.ctx n v e.cr.tower with
    | .ok s => .ok s
    | .error r => .error (.park (.reissue r) s0)

/-- A number that names a register (R314). -/
def csrOk (n : Nat) : Bool := (csrInfo n).isSome

/-- A register that may not be written: an instruction that writes it traps ILL by its own entry, after PRIV (R46,
R313). -/
def csrReadOnly (n : Nat) : Bool := (csrInfo n).elim false (·.ro)

/-- The ILL of an instruction's own entry. -/
def entryIll (e : Env) : Stop := .trap ⟨1, e.mask, e.pc.toNat, 0⟩

/-- After a context register's write the path has been parked (R146, R313). -/
def afterCsr (s : State) (e : Env) (n : Nat) : State := if n ≤ 0x00F then s else markStale s e

def execCsrr (h : Hdr) (d : Opnd) (n : BitVec 9) (s : State) : Host.Outcome State Fault Refusal :=
  let ix := n.toNat
  runInstr s 0 (fun e => csrOk ix && regsOk [(d, 1)] e)
    (fun e => !e.sup && !(csrInfo ix).elim false (·.user)) h.g (fun e =>
    let m := taking e h.g
    match readSrcs s e m [] (some d) (!h.w) with
    | .error x => .error x
    | .ok (s, _) => finish s e h d m 1 (fun _ => csrRead s e.w ix))

def execCsrw (g : Guard) (n : BitVec 9) (a : Opnd) (s : State) : Host.Outcome State Fault Refusal :=
  let ix := n.toNat
  runInstr s 0 (fun e => csrOk ix && regsOk [(a, 1)] e) supOnly g (fun e =>
    let m := taking e g
    if csrReadOnly ix then .error (entryIll e)
    else match readSrcs s e m [(a, 1)] none false with
    | .error x => .error x
    | .ok (s1, vals) =>
      if m = 0 then advance s1 e
      else match csrUpdate s s1 e ix (warpValue m vals 0) with
        | .error x => .error x
        | .ok s => (advance s e).map (fun s => afterCsr s e ix))

/-- `csrs` and `csrc` (R319). -/
def csrModify (s : State) (h : Hdr) (d : Opnd) (n : BitVec 9) (a : Opnd) (f : Nat → Nat → Nat) :
    Host.Outcome State Fault Refusal :=
  let ix := n.toNat
  runInstr s 0 (fun e => csrOk ix && regsOk [(d, 1), (a, 1)] e) supOnly h.g (fun e =>
    let m := taking e h.g
    if csrReadOnly ix then .error (entryIll e)
    else match readSrcs s e m [(a, 1)] (some d) (!h.w) with
    | .error x => .error x
    | .ok (s1, vals) =>
      if m = 0 then advance s1 e
      else
        let old := csrRead s1 e.w ix
        match csrUpdate s s1 e ix (f old (warpValue m vals 0)) with
        | .error x => .error x
        | .ok s => (finish s e h d m 1 (fun _ => old)).map (fun s => afterCsr s e ix))

def execCsrs (h : Hdr) (d : Opnd) (n : BitVec 9) (a : Opnd) (s : State) : Host.Outcome State Fault Refusal :=
  csrModify s h d n a (fun o v => o ||| v)
def execCsrc (h : Hdr) (d : Opnd) (n : BitVec 9) (a : Opnd) (s : State) : Host.Outcome State Fault Refusal :=
  csrModify s h d n a (fun o v => o &&& (0xFFFFFFFF ^^^ v))

/-! ### tret (R321, R322) -/

/-- What every variant does after its action, when the warp survives: flags and latches come back, the
record goes, and the mode is user. -/
def tretRestore (x : Warp) : Warp :=
  { x with fflags := x.tfflags, b := x.shadow, cur := none, mode := .user, hdl := Slot.free }

/-- `.res`: the trapped path of a synchronous record goes to TPC, with its arrival check (R141, R326). -/
def tretResume (s : State) (e : Env) : Except Stop State :=
  let x := warpAt s e.w
  match x.cur with
  | none => .ok s
  | some t =>
    if trAsync t.bits then .ok s
    else
      let k : Which := if trSlotB t.bits then .b else .a
      let sl := slotOf x k
      let skip := trCause t.bits == 0x13 || trCause t.bits == 0x15
      let pc := BitVec.ofNat 64 (x.tpc.toNat / 8 * 8)
      let s := setSlot s e.w k { sl with
        path := { sl.path with pc := pc }, skipBp := sl.skipBp || skip,
        failed := if pc = sl.path.pc then sl.failed else []
        turned := if pc = sl.path.pc then sl.turned else none }
      orStop e (settle s e.w k)

/-- The lanes of `m` leave every slot mask and PATH entry, and stay in JOIN masks (R142, R321). A path that has lost its
last lane waits for nothing more: it arrives (R141). An entry in memory that is updated traps where it is malformed (R139). -/
def endLanes (s : State) (e : Env) (m : Mask) : Except Unsettled State :=
  let gone := fun (s : State) (k : Which) => if (slotOf (warpAt s e.w) k).path.mask &&& ~~~m = 0 then giveBack s e.w k else s
  let s := gone (gone s .a) .b
  let x := warpAt s e.w
  let fl := e.sl.failed
  let cut := fun (sl : Slot) => if sl.live ∧ sl.path.mask &&& m ≠ 0 then
    let left := sl.path.mask &&& ~~~m
    { sl with stale := true, path := { sl.path with mask := left }, park := if left = 0 then none else sl.park }
    else sl
  let s := setWarp s e.w { x with alive := x.alive &&& ~~~m, sa := cut x.sa, sb := cut x.sb }
  (List.range x.ssn).foldl (fun (acc : Except Unsettled State) k => acc.bind (fun s =>
    (entRead s fl e.w k).bind (fun en =>
      if entKind en = 1 ∧ entMask en &&& m ≠ 0 then
        if entTraps k en then .error (.bad 0x0B 2)
        else entPut s fl e.w k (entMake 1 0 { entPath en with mask := entMask en &&& ~~~m })
      else .ok s))) (.ok s)

/-- A `tret` that takes effect when some lane of the handler takes part (R321). -/
def tretOp (s : State) (g : Guard) (act : State → Env → Except Stop State) : Host.Outcome State Fault Refusal :=
  runInstr s 0 (fun _ => true) supOnly g (fun e =>
    if taking e g = 0 then advance s e
    else match act s e with
      | .error x => .error x
      | .ok s =>
        let s := setWarp s e.w (tretRestore (warpAt s e.w))
        .ok (if pathsDone (warpAt s e.w) ∧ !(warpAt s e.w).gone ∧ e.x.alive ≠ 0 then finishWarp s e.w else s))

def execTretRes (g : Guard) (s : State) : Host.Outcome State Fault Refusal := tretOp s g tretResume

def execTretLanes (g : Guard) (s : State) : Host.Outcome State Fault Refusal :=
  tretOp s g (fun s e =>
    match endLanes s e (slotOf (warpAt s e.w) .handler).path.mask with
    | .error x => .error (unsettled e x)
    | .ok s => match tretResume s e with
      | .error x => .error x
      | .ok s => orStop e (settle s e.w .a))

def execTretWarp (g : Guard) (s : State) : Host.Outcome State Fault Refusal :=
  tretOp s g (fun s e =>
    let s := giveBackAll s e.w
    let x := warpAt s e.w
    .ok (setWarp s e.w { x with sa := Slot.free, sb := Slot.free, ssn := 0, alive := 0, tq := [] }))

/-- A crew that a handler ends counts as ended by `exit` (R322). -/
def endCrewByHandler (s : State) (c : Nat) : State :=
  let h := (crewAt s c).launch
  let r := endCrew s c
  breakHandles (putLaunch r.1 h (fun l => { l with ended := l.ended + 1 })) r.2

def execTretCrew (g : Guard) (s : State) : Host.Outcome State Fault Refusal :=
  tretOp s g (fun s e => .ok (endCrewByHandler s e.c))

def execTretLaunch (g : Guard) (s : State) : Host.Outcome State Fault Refusal :=
  tretOp s g (fun s e =>
    let cause := match (warpAt s e.w).cur with | some t => trCause t.bits | none => 0
    .ok (breakLaunch s e.cr.launch 2 cause))

/-- `tqpop` (R320): its word has neither W nor L. -/
def execTqpop (g : Guard) (d : Opnd) (s : State) : Host.Outcome State Fault Refusal :=
  let h : Hdr := ⟨g, false, none⟩
  runInstr s 0 (regsOk [(d, 1)]) supOnly g (fun e =>
    let m := taking e g
    match readSrcs s e m [] (some d) true with
    | .error x => .error x
    | .ok (s, _) =>
      let x := warpAt s e.w
      match x.tq with
      | t :: rest =>
        if m ≠ 0 ∧ trAsync t.bits then
          finish (setWarp s e.w { x with tq := rest, cur := some t, tpc := trPc t.bits }) e h d m 1 (fun _ => 1)
        else finish s e h d m 1 (fun _ => 0)
      | [] => finish s e h d m 1 (fun _ => 0))

/-! ### orinv (R323, R345) -/

/-- The warp value of a 64-bit operand. -/
def warpPair (e : Env) (m : Mask) (a : Opnd) : Nat :=
  match lowest m with
  | some l => regNat e.x a 2 l
  | none => 0

/-- Whether a write or an atomic of a context that has been sent to another device under an entry of an object, and of a
sub-tile where one is named, has not been performed yet (R345): one that a copy command still holds back for its route among
them (R368). -/
def writesOpen (s : State) (ctx : Nat) (obj sub : Option Nat) : Bool :=
  let mine := fun (r : FabReq) => vuKind r.hdr != 0 && vuCtx r.hdr == ctx && obj.all (· == vuObj r.hdr) &&
    sub.all (· == vuSubt r.hdr)
  s.fab.reqs.any (fun o => !reqOver o && mine o.req) ||
  s.copies.any (fun k => k.out.any (fun o => mine o.r && (findReq s (.copy k.crew k.chan k.seq) o.r).isNone))

/-- `orinv`: the copies go and the path goes on, once the writes that used them have been performed (R323, R345). -/
def orinvEnd (s : State) (e : Env) (obj sub : Option Nat) (drop : State → State) : Except Stop State :=
  if writesOpen s e.cr.ctx obj sub then .error (.hold (holdPath s e))
  else (advance (drop s) e).map (fun s => markStale s e)

def execOrinvObj (g : Guard) (a : Opnd) (s : State) : Host.Outcome State Fault Refusal :=
  runInstr s 0 (regsOk [(a, 2)]) supOnly g (fun e =>
    let m := taking e g
    if m = 0 then advance s e
    else
      let obj := bits (warpPair e m a) 42 22
      orinvEnd s e (some obj) none (fun s => { s with caches := { s.caches with
        orc := s.caches.orc.filter (fun k => !(k.ctx == e.cr.ctx && k.obj == obj))
        res := s.caches.res.filter (fun k => !(k.t.ctx == e.cr.ctx && k.t.obj == obj)) } }))

/-- A check of one element without PERM (R257, R323). -/
def shapeOnly (s : State) (e : Env) (m : Mask) (addr : Nat) : Except Stop Loc :=
  let obj := bits addr 42 22
  let i := bits addr 0 42
  let ag := warpAgent s e.w
  match recordOf s ag obj i with
  | .error f => .error (.trap ⟨f.cause, m, elemAddr obj i, f.detail⟩)
  | .ok r => match checkShape s ag obj i (recEW r) ⟨none, false, false⟩ with
    | .error f => .error (.trap ⟨f.cause, m, elemAddr obj i, f.detail⟩)
    | .ok l => .ok l

def execOrinvSub (g : Guard) (a : Opnd) (s : State) : Host.Outcome State Fault Refusal :=
  runInstr s 0 (regsOk [(a, 2)]) supOnly g (fun e =>
    let m := taking e g
    if m = 0 then advance s e
    else match shapeOnly s e m (warpPair e m a) with
      | .error x => .error x
      | .ok l =>
        orinvEnd s e (some l.obj) (some (l.a / 2 ^ 19)) (fun s => { s with caches := { s.caches with
          res := s.caches.res.filter (fun k =>
            !(k.t.ctx == e.cr.ctx && k.t.obj == l.obj && k.t.sub == l.a / 2 ^ 19)) } }))

def execOrinvAll (g : Guard) (s : State) : Host.Outcome State Fault Refusal :=
  runInstr s 0 (fun _ => true) supOnly g (fun e =>
    if taking e g = 0 then advance s e
    else orinvEnd s e none none (fun s => dropContext s e.cr.ctx))

/-! ### Delivery and overflow (R308, R310) -/

/-- The next entry of a warp is delivered, when one is due. -/
def execTrapDelivery (w : Nat) (s : State) : Host.Outcome State Fault Refusal :=
  .next (if trapDue (warpAt s w) then deliverTrap s w else s)

/-- An uncorrectable error strikes a warp's PC slots, its split-stack entries or its trap queue: the crew
ends and the launch breaks with FAULT(SOFTERR). An entry that reaches a full queue does the same. -/
def execTrapQueueOverflow (w : Nat) (s : State) : Host.Outcome State Fault Refusal :=
  .next (if (warpAt s w).gone then s else trapOverflow s w)

end Sys2Proof.Machine
end

