-- ==== Sys2Proof/Machine/Save.lean ====
section
/-! DEFINITION. Saving and restoring crews (R330 to R344): requests withdrawn, the save record in its frame byte
for byte, cooperative and forced saves, and the restore from the record. -/

namespace Sys2Proof.Machine

/-! ### Fields of a record -/

/-- Writes fields, each given as byte offset, bytes and value, from a base address on. -/
def putFields (m : Memory) (base : Nat) (fs : List (Nat × Nat × Nat)) : Memory :=
  fs.foldl (fun m f => memPutNat m (base + f.1) f.2.1 f.2.2) m

/-- Packs fields of given widths, lowest first. -/
def packBits : List (Nat × Nat) → Nat
  | [] => 0
  | (n, x) :: fs => x % 2 ^ n + 2 ^ n * packBits fs

def boolNat (b : Bool) : Nat := if b then 1 else 0

/-! ### The crew header (R338) -/

/-- PLA and PLS: zero for an empty plane. -/
def planeWord (p : Plane) : Nat :=
  if p.valid then packBits [(32, p.fw.toNat), (1, 1), (7, p.k), (7, p.n), (1, boolNat p.blk), (1, boolNat p.nf)] else 0

def barWord (b : Barrier) : Nat := packBits [(6, b.arr), (6, b.exp.getD 0), (1, boolNat b.phase)]

def chanWord (c : Chan) : Nat :=
  packBits [(2, c.prod), (2, c.cons), (5, c.depth), (1, boolNat c.bound), (5, c.entries.length)]

/-- The header as one number; `dead` is the dead mask. -/
def headerBits (c : Crew) (forced : Bool) (dead ncp : Nat) : Nat :=
  let planes := if bits dead 2 1 = 1 then (Plane.empty, Plane.empty) else (c.plA, c.plS)
  packBits ([(8, 1), (6, c.warps.length), (1, boolNat forced), (3, dead), (14, 0), (32, c.scrLen), (64, c.launch.toNat),
    (31, c.lin), (1, 0), (16, c.abank.toNat), (8, ncp), (72, 0), (64, planeWord planes.1), (64, planeWord planes.2)] ++
    c.bars.map (fun b => (16, barWord b)) ++ c.chans.map (fun h => (16, chanWord h)) ++
    c.cseqn.map (fun n => (24, n)))

/-! ### A PC slot (R340) -/

/-- PKIND and PARG of a park. -/
def parkCode : Option Park → Nat × Nat
  | none => (0, 0)
  | some (.pyield _) => (1, 0)
  | some (.mbar off par) => (2, off % 2 ^ 32 + 2 ^ 32 * boolNat par)
  | some (.bar n ph) => (3, n + 16 * boolNat ph)
  | some (.cwait t) => (4, t.toNat)
  | some (.ccan _) => (7, 0)
  | some (.hwait h _) => (5, h.toNat)
  | some (.handed h _ _) => (5, h.toNat)
  | some (.mwait _) => (6, 0)
  | some (.xswap _ _ _) => (7, 0)
  | some (.reissue _) => (7, 0)

def slotBits (sl : Slot) : Nat :=
  if sl.live then
    packBits [(64, sl.path.pc.toNat), (64, sl.path.rjpc.toNat), (32, sl.path.mask.toNat), (16, sl.path.depth), (1, 1),
      (4, (parkCode sl.park).1), (11, 0), (64, (parkCode sl.park).2)]
  else 0

/-! ### A warp block (R339) -/

/-- The state word at 0x60F4. A halt that is due at the boundary where the warp is saved is saved (R327). -/
def stateWord (x : Warp) : Nat :=
  packBits [(1, boolNat (x.mode == .supervisor)), (1, boolNat (x.halt != .no)),
    (1, boolNat (pathsDone x)), (1, boolNat x.cur.isSome), (4, x.tq.length), (5, x.q6.length), (5, x.q7.length)]

/-- The fields of a warp block. -/
def warpFields (x : Warp) : List (Nat × Nat × Nat) :=
  (x.v.zipIdx).flatMap (fun r => (r.1.zipIdx).map (fun w => (0x80 * r.2 + 4 * w.2, 4, w.1.toNat))) ++
  (x.s.zipIdx).map (fun w => (0x6000 + 4 * w.2, 4, w.1.toNat)) ++
  (x.p.zipIdx).map (fun w => (0x6080 + 4 * w.2, 4, w.1.toNat)) ++
  (x.fs.zipIdx).map (fun w => (0x60A0 + 4 * w.2, 4, w.1.toNat)) ++
  [(0x60E0, 8, x.srgen.toNat), (0x60E8, 4, x.fflags.toNat), (0x60EC, 4, x.qstat.toNat), (0x60F0, 4, x.accstat.toNat),
    (0x60F4, 4, stateWord x), (0x60F8, 4, x.xsn), (0x60FC, 4, x.olseq)] ++
  (x.b.zipIdx).flatMap (fun r => (r.1.zipIdx).map (fun w => (0x6100 + 0x100 * r.2 + 8 * w.2, 8, w.1.toNat))) ++
  (x.shadow.zipIdx).flatMap (fun r => (r.1.zipIdx).map (fun w => (0x6400 + 0x100 * r.2 + 8 * w.2, 8, w.1.toNat))) ++
  [(0x6700, 64, slotBits x.sa), (0x6740, 64, slotBits x.sb), (0x6780, 4, boolNat x.last + 2 ^ 16 * x.ssn)] ++
  (x.ents.zipIdx).map (fun e => (0x6800 + 32 * e.2, 32, if e.2 < x.ssn then e.1.toNat else 0)) ++
  [(0x6880, 32, (x.cur.map (·.bits.toNat)).getD 0), (0x68A0, 8, x.tpc.toNat), (0x68A8, 4, x.tfflags.toNat)] ++
  (x.tscr.zipIdx).map (fun w => (0x68AC + 4 * w.2, 4, w.1.toNat)) ++
  (x.tq.zipIdx).map (fun t => (0x6900 + 32 * t.2, 32, t.1.bits.toNat)) ++
  (x.bands.zipIdx).map (fun w => (0x6A00 + 4 * w.2, 4, w.1.toNat)) ++
  (x.q6.zipIdx).map (fun r => (0x6C00 + 16 * r.2, 16, r.1.toNat)) ++
  (x.q7.zipIdx).map (fun r => (0x6D00 + 16 * r.2, 16, r.1.toNat))

/-! ### Copy commands and collectives (R341, R397) -/

/-- A saved copy command's bytes, as one number. -/
def copyBits (k : CopyCmd) (wid : Nat) : Nat :=
  let d := descOf k.desc
  bytesNat k.desc + 2 ^ 1024 * packBits ([(3, k.chan), (5, 0), (24, k.seq), (5, wid), (5, k.lane), (5, k.flags), (17, 0),
    (64, k.gen.toNat)] ++
    (List.range 14).map (fun j => (16, (boxCoords (d.ext.take d.nd) k.next).getD j 0)) ++
    (List.range 4).map (fun j => (8, k.cnt.getD j 0)) ++ [(32, k.idx)])

/-- A saved collective command's bytes. -/
def collBits (s : State) (k : CollCmd) (wid : Nat) : Nat :=
  let ntf := match entFind s k.h with
    | some e => e.ntf.isSome
    | none => false
  packBits [(512, bytesNat k.desc), (64, k.h.toNat), (32, k.key.cseq), (5, wid), (5, k.lane), (2, k.phase),
    (1, boolNat ntf), (3, 0), (32, k.next), (48, 0), (64, k.gen.toNat)]

/-- The crew's outstanding copy commands, ordered by channel, then by SEQ (R341). -/
def crewCopies (s : State) (c : Nat) : List CopyCmd :=
  (List.range 8).flatMap (fun ch => s.copies.filter (fun k => k.crew == c && k.chan == ch))

/-- The crew's outstanding collectives, in the order of their issue (R397). -/
def crewColls (s : State) (c : Nat) : List CollCmd := s.coll.cmds.filter (fun k => k.live && k.crew == c)

/-! ### Writing a record (R337) -/

/-- The record of a crew in a frame, with the blocks of the warps `ws`. -/
def recordWith (s : State) (c frame : Nat) (forced : Bool) (dead : Nat) (ws : List Nat) : Memory :=
  let x := crewAt s c
  let ks := crewCopies s c
  let wid := fun w => (warpAt s w).wid
  let m := memClear s.mem frame (frame + 2 ^ 21)
  let m := memPutNat m frame 256 (headerBits x forced dead ks.length)
  let m := putFields m frame ((x.chans.zipIdx).flatMap (fun h => (h.1.entries.zipIdx).flatMap (fun e =>
    (e.1.zipIdx).map (fun w => (0x100 + 0x800 * h.2 + 0x80 * e.2 + 4 * w.2, 4, w.1.toNat)))))
  let m := putFields m frame ((ks.zipIdx).map (fun k => (0x4000 + 0xC0 * k.2, 0xC0, copyBits k.1 (wid k.1.warp))))
  let m := putFields m frame (((crewColls s c).zipIdx).map (fun k =>
    (0xA000 + 0x200 * k.2, 128, collBits s k.1 (wid k.1.warp))))
  let m := if bits dead 2 1 = 1 then m
    else memCopy (memCopy m (frame + 0x10000) x.plA.wt 0 0xC000) (frame + 0x1C000) x.plS.wt 0 0xC000
  let m := if bits dead 1 1 = 1 then m else memCopy m (frame + 0x28000) x.acc 0 0x40000
  let m := if bits dead 0 1 = 1 then m else memCopy m (frame + 0x68000) x.scr 0 0x60000
  ws.foldl (fun m w => putFields m (frame + 0xC8000 + 0x8000 * wid w) (warpFields (warpAt s w))) m

/-- The record of a crew in a frame. -/
def saveRecord (s : State) (c frame : Nat) (forced : Bool) (dead : Nat) : Memory :=
  recordWith s c frame forced dead (crewAt s c).warps

/-- The warps of a crew leave its spire. -/
def warpsLeave (s : State) (c : Nat) : State :=
  (crewAt s c).warps.foldl (fun s w => setWarp s w { deadWarp (warpAt s w) with gone := true }) s

/-- The crew leaves its spire with its record in its frame: an `xswap` that waits is saved as not yet issued. -/
def saveOne (s : State) (c : Nat) (forced : Bool) (dead : Nat) : State :=
  let s := (crewAt s c).warps.foldl giveBackAll s
  let x := crewAt s c
  match x.frame with
  | none => s
  | some f =>
    let side : SavedCrew := ⟨x.lin, c, f, x.warps.map (warpAt s), crewCopies s c, (crewColls s c).map (·.h), []⟩
    let s := { s with mem := saveRecord s c f forced dead, copies := s.copies.filter (fun k => k.crew != c) }
    let s := setCrew (warpsLeave s c) c { x with gone := true, frame := none, reserve := none, req := none, saving := false }
    let s := putLaunch s x.launch (fun l => { l with saved := l.saved ++ [side], since := s.now })
    saveLog s x.ctx 1 f x.launch

/-! ### Withdrawing (R331) -/

/-- Takes crews out of the requests that were made for a candidate. -/
def dropWanted (s : State) (cs : List Nat) : State :=
  let ws := s.disp.wanted.map (fun w => (w.1, w.2.filter (fun c => !cs.contains c)))
  { s with disp := { s.disp with wanted := ws.filter (fun w => !w.2.isEmpty) } }

/-- The dispatcher withdraws the request of a crew's group before its save begins, which it does at the deadline at the latest
(R333). -/
def execPreemptWithdraw (c : Nat) (s : State) : Host.Outcome State Fault Refusal :=
  let g := groupOf s c
  .next (if (crewAt s c).gone || (crewAt s c).req.isNone || g.any (fun k => (crewAt s k).saving || overdue s k) then s
    else
      dropWanted (g.foldl (fun s k =>
        let x := crewAt s k
        let s := match x.frame with
          | some f => if x.reserve = some f then s else saveLog s x.ctx 3 f x.launch
          | none => s
        let s := setCrew s k { crewAt s k with req := none, frame := none }
        wakeWhere s x.warps (fun p => match p with
          | .pyield _ => true
          | _ => false)) s) g)

/-! ### Saving (R332, R333) -/

/-- The dead mask of a warp parked in `pyield`: a warp that runs its handler is not. -/
def yieldMask (x : Warp) : Option Nat :=
  if x.mode = .supervisor then none
  else [x.sa, x.sb].findSome? (fun sl => match sl.live, sl.park with
    | true, some (.pyield d) => some d.toNat
    | _, _ => none)

/-- The warps of a group of crews that have not ended. -/
def groupWarps (s : State) (g : List Nat) : List Nat := g.flatMap (liveWarps s)

/-- The crews of a group that have a warp, a copy command or a collective left; the others end by themselves, and their frames
with them (R330, R396). -/
def savedOf (s : State) (g : List Nat) : List Nat :=
  g.filter (fun c => !(liveWarps s c).isEmpty || s.copies.any (fun k => k.crew == c) || !(crewColls s c).isEmpty)

/-- Whether every unended warp of a group is parked in `pyield` (R332). A group that has nothing left but collectives has no
warp to wait for. -/
def allYield (s : State) (g : List Nat) : Bool :=
  !(savedOf s g).isEmpty && (groupWarps s g).all (fun w => (yieldMask (warpAt s w)).isSome)

/-- The AND of the masks that a group's warps named. Where every warp has ended nothing names a mask, and everything is saved
(DESIGN CHOICE, unsafe: log entry 17). -/
def deadMask (s : State) (g : List Nat) : Nat :=
  if (groupWarps s g).isEmpty then 0
  else (groupWarps s g).foldl (fun m w => m &&& (yieldMask (warpAt s w)).getD 0) 7

/-- Completes the matrix commands of a group: whether all could. Those that FREEZE holds in place go on for a forced save,
which they must finish before (R327, R333). -/
def settleGroup (s : State) (forced : Bool) (g : List Nat) : Bool × State :=
  g.foldl (fun (acc : Bool × State) c =>
    if acc.1 then engSettle forced ((crewAt acc.2 c).eng.length + 1) acc.2 c else acc) (true, s)

/-- Whether the collective work of a crew stands between two parts, so that NEXT tells all of it (R397). -/
def collsRest (s : State) (c : Nat) : Bool :=
  (crewColls s c).all (fun k => k.phase != 0 || (k.sent == 0 && !partFormed k))

/-- Whether the group of a crew may be saved cooperatively: its save has begun, or every unended warp is parked in `pyield`
before the deadline (R332, R333). -/
def mayYield (s : State) (c : Nat) : Bool :=
  (crewAt s c).saving || (allYield s (groupOf s c) && (groupOf s c).all (fun k => !overdue s k))

/-- The saves of a group begin. -/
def markSaving (s : State) (g : List Nat) : State := g.foldl (fun s k => setCrew s k { crewAt s k with saving := true }) s

/-- The cooperative saves that are due begin: as soon as every unended warp of a group is parked in `pyield` (R332, R333). -/
def beginSaves (s : State) : State :=
  (List.range s.crews.length).foldl (fun s c =>
    if (crewAt s c).gone || (crewAt s c).req.isNone || (crewAt s c).saving || !mayYield s c then s
    else markSaving s (groupOf s c)) s

/-- A cooperative save of a crew's group: it begins once every unended warp is parked in `pyield`, and is made
when the matrix and copy commands have finished. -/
def execCooperativeSave (c : Nat) (s : State) : Host.Outcome State Fault Refusal :=
  let g := groupOf s c
  .next (if (crewAt s c).gone || (crewAt s c).req.isNone || !mayYield s c then s
    else
      let r := settleGroup (markSaving s g) false g
      if !r.1 || r.2.copies.any (fun k => g.contains k.crew) || !g.all (collsRest r.2) then r.2
      else
        let dead := deadMask r.2 g
        settleAll ((savedOf r.2 g).foldl (fun s k => saveOne s k false dead) r.2))

/-- Whether every warp of a crew stands at an instruction boundary, no path waits for the cancellation of a copy command,
no copy command waits for answers, and its collective work rests. -/
def atBoundary (s : State) (c : Nat) : Bool :=
  (crewAt s c).warps.all (fun w =>
    let x := warpAt s w
    x.holdSl.isNone && [x.sa, x.sb, x.hdl].all (fun sl => !sl.live || match sl.park with
      | some (.ccan _) => false
      | _ => true)) &&
  s.copies.all (fun k => k.crew != c || (k.out.isEmpty && !k.dying)) && collsRest s c

/-- The deadline has passed without a cooperative save: the group is stopped and saved in full. -/
def execForcedSave (c : Nat) (s : State) : Host.Outcome State Fault Refusal :=
  let g := groupOf s c
  .next (if !overdue s c || g.any (fun k => (crewAt s k).saving) || !g.all (atBoundary s) then s
    else
      let r := settleGroup s true g
      if !r.1 then r.2 else settleAll ((savedOf r.2 g).foldl (fun s k => saveOne s k true 0) r.2))

/-! ### Reading a record (R342, R344) -/

/-- A field of a record in memory. -/
def recField (m : Memory) (frame off n : Nat) : Nat := memNat m (frame + off) n

/-- Bits of PARG that a kind of park uses (R340). -/
def pargBits : Nat → Nat
  | 2 => 33
  | 3 => 5
  | 4 => 32
  | 5 => 64
  | _ => 0

/-- Whether a saved slot keeps to R340. -/
def slotSound (x ssn : Nat) : Bool :=
  bits x 181 11 == 0 && bits x 256 256 == 0 && decide (bits x 177 4 ≤ 7) && decide (bits x 160 16 ≤ ssn) &&
  decide (bits x 192 64 < 2 ^ pargBits (bits x 177 4))

/-- The bits of a trap record that are not reserved (R307). -/
def trecKept (x : Nat) : Nat := x &&& (2 ^ 224 - 1 - (2 ^ 16 - 2 ^ 10) - (2 ^ 32 - 2 ^ 20))

/-- Whether a trap record has no reserved bit set, and where it is in use a cause that R312 raises. -/
def trecSound (used : Bool) (x : Nat) : Bool :=
  trecKept x == x && (!used || (decide (1 ≤ bits x 0 8) && decide (bits x 0 8 ≤ 0x16) && bits x 0 8 != 0x0F))

/-- The bits of a split-stack entry that are not reserved (R138). -/
def entKept (x : Nat) : Nat := x &&& (2 ^ 208 - 1 - (2 ^ 128 - 2 ^ 104) - 7)

/-- The bits of a `mown` word that are not reserved (R211). -/
def bandKept (x : Nat) : Nat := x &&& 0x7F3F0F

/-- Whether a band word keeps to R201 and R211. -/
def bandSound (x : Nat) : Bool := bandKept x == x && decide (bits x 16 7 ≤ 64) && decide (bits x 8 6 + bits x 16 7 ≤ 64)

/-- The bits of a record of q6 or q7 that are not reserved (R178, R294, R388). -/
def portKept (q7 : Bool) (x : Nat) : Nat :=
  if q7 then x &&& (2 ^ 128 - 2 ^ 64 + (2 ^ 40 - 2 ^ 32) + 0xFF0F0F) else x &&& (2 ^ 128 - 1 - 2 ^ 7 - (2 ^ 96 - 2 ^ 93))

/-- Whether a saved plane word keeps to R338. -/
def planeSound (x : Nat) : Bool :=
  bits x 49 15 == 0 && (bits x 32 1 == 0 || (decide (1 ≤ bits x 33 7) && decide (bits x 33 7 ≤ 96) &&
    decide (1 ≤ bits x 40 7) && decide (bits x 40 7 ≤ 64)))

/-- Whether the block of a warp keeps to R339, with a split stack of `cap` entries. -/
def warpSound (m : Memory) (base cap : Nat) : Bool :=
  let f := recField m base
  let st := f 0x60F4 4
  let ssn := f 0x6782 2
  bits st 18 14 == 0 && decide (bits st 4 4 ≤ 8) && decide (bits st 8 5 ≤ 16) && decide (bits st 13 5 ≤ 16) &&
  bits (f 0x60E8 4) 5 27 == 0 && bits (f 0x60F0 4) 3 1 == 0 && bits (f 0x60F0 4) 7 25 == 0 && bits (f 0x6780 4) 1 15 == 0 &&
  slotSound (f 0x6700 64) ssn && slotSound (f 0x6740 64) ssn &&
  (List.range (min 4 ssn)).all (fun k => !entMalformed (BitVec.ofNat 256 (f (0x6800 + 32 * k) 32))) &&
  decide (ssn ≤ cap) && bits (f 0x68A8 4) 5 27 == 0 && trecSound (bits st 3 1 == 1) (f 0x6880 32) &&
  (List.range (bits st 4 4)).all (fun k => trecSound true (f (0x6900 + 32 * k) 32)) &&
  (List.range 4).all (fun k => bandSound (f (0x6A00 + 4 * k) 4)) &&
  (List.range (bits st 8 5)).all (fun k => portKept false (f (0x6C00 + 16 * k) 16) == f (0x6C00 + 16 * k) 16) &&
  (List.range (bits st 13 5)).all (fun k => portKept true (f (0x6D00 + 16 * k) 16) == f (0x6D00 + 16 * k) 16)

/-- Whether a saved copy command keeps to R285 and R341: `old` gives its instruction and its captured slot. -/
def copySound (x nw : Nat) (old : CopyCmd) : Bool :=
  let y := bits x 1024 512
  let d := descOf (natBytes 128 x)
  bits y 3 5 == 0 && bits y 47 17 == 0 && bits y 416 96 == 0 && decide (bits y 32 5 < nw) &&
  !descBad old.op d old.slotw && (old.op == .gather || old.op == .scatter || bits y 384 32 == 0) &&
  (List.range 14).all (fun j => decide (bits y (128 + 16 * j) 16 < (d.ext.take d.nd).getD j 1)) &&
  (old.op != .quant || bits y 128 16 % 48 == 0)

/-- Whether a saved collective keeps to R397: a slot of 512 bytes. -/
def collSound (x nw : Nat) : Bool :=
  bits x 621 3 == 0 && bits x 656 48 == 0 && bits x 768 256 == 0 && bits x 1024 3072 == 0 &&
  decide (bits x 608 5 < nw) && decide (bits x 618 2 ≤ 2)

/-- Bits set among the low n of a number. -/
def bitCount (n x : Nat) : Nat := ((List.range n).filter x.testBit).length

/-- Entries of the split stack of a warp of a record (R139). -/
def recordSplit (record : List Byte) : Nat := 4 + recBits record 400 21 / 32

/-- Whether a record of a launch can be restored (R344). -/
def recordSound (s : State) (l : Launch) (k : SavedCrew) : Bool :=
  let h := memNat s.mem k.frame 256
  let c := crewAt s k.crew
  let nw := k.warps.length
  bits h 0 8 == 1 && bits h 8 6 == nw && bits h 18 14 == 0 && bits h 32 32 == c.scrLen && bits h 159 1 == 0 &&
  bits h 64 64 == c.launch.toNat && bits h 128 31 == k.lin && decide (bits h 176 8 ≤ 128) && bits h 184 72 == 0 &&
  bits h 928 1120 == 0 && planeSound (bits h 256 64) && planeSound (bits h 320 64) &&
  decide (bitCount 16 (bits h 160 16) ≤ c.accb) &&
  (List.range 16).all (fun b => bits h (384 + 16 * b + 13) 3 == 0 && decide (bits h (384 + 16 * b) 6 ≤ nw) &&
    decide (bits h (384 + 16 * b + 6) 6 ≤ nw)) &&
  (List.range 6).all (fun q => bits h (640 + 16 * q + 15) 1 == 0 &&
    decide (bits h (640 + 16 * q + 10) 5 ≤ (if bits h (640 + 16 * q + 9) 1 = 1 then bits h (640 + 16 * q + 4) 5 else 0)) &&
    (bits h (640 + 16 * q + 9) 1 == 0 || (decide (1 ≤ bits h (640 + 16 * q + 4) 5) &&
      decide (bits h (640 + 16 * q + 4) 5 ≤ 16)))) &&
  (List.range (bits h 176 8)).all (fun j =>
    let x := recField s.mem k.frame (0x4000 + 0xC0 * j) 0xC0
    k.copies.any (fun y => y.chan == bits x 1024 3 && y.seq == bits x 1032 24 && copySound x nw y)) &&
  k.colls.zipIdx.all (fun y => collSound (recField s.mem k.frame (0xA000 + 0x200 * y.2) 512) nw) &&
  k.warps.all (fun x => warpSound s.mem (k.frame + 0xC8000 + 0x8000 * x.wid) (recordSplit l.record))

/-- Words of n bytes in a row. -/
def fieldList (m : Memory) (base off n cnt : Nat) : List Nat :=
  (List.range cnt).map (fun j => memNat m (base + off + n * j) n)

/-- Where the result of an `hwait` goes that this device knows nothing of: nowhere. -/
def Dest.nowhere : Dest := ⟨⟨⟨0, false⟩, true, none⟩, .z, 0⟩

/-- A park of kind 5: the destination, and a status that waits for its port, are not in a record (R343). -/
def hwaitBack (h : DWord) : Option Park → Park
  | some (.hwait _ d) => .hwait h d
  | some (.handed g d st) => if g = h then .handed h d st else .hwait h d
  | _ => .hwait h Dest.nowhere

/-- A restored slot: `old` supplies what a record has no field for (R343). Bits 0 to 2 of a PC are always zero (R28). A path
that stands at its rejoin address with kind 7 has waited for an entry of its split stack, and waits for it again (R141). -/
def slotBack (x : Nat) (old : Slot) : Slot :=
  if bits x 176 1 = 0 then Slot.free
  else
    let arg := bits x 192 64
    let kind := bits x 177 4
    let mask : Mask := BitVec.ofNat 32 (bits x 128 32)
    let park : Option Park := match kind with
      | 1 => some (.pyield 0)
      | 2 => some (.mbar (bits arg 0 32) (bits arg 32 1 == 1))
      | 3 => some (.bar (bits arg 0 4) (bits arg 4 1 == 1))
      | 4 => some (.cwait (BitVec.ofNat 32 arg))
      | 5 => some (hwaitBack (BitVec.ofNat 64 arg) old.park)
      | 6 => match old.park with
        | some (.mwait n) => some (.mwait n)
        | _ => some (.mwait (2 ^ 64))
      | 7 => if bits x 0 64 = bits x 64 64 ∧ BitVec.ofNat 64 (bits x 64 64) ≠ noRejoin then some (.reissue (.residency []))
        else none
      | _ => none
    let pc := BitVec.ofNat 64 (bits x 0 64 / 8 * 8)
    { old with
      live := true, park := park, turned := if kind = 7 ∧ old.path.pc = pc then old.turned else none,
      path := { pc := pc, rjpc := BitVec.ofNat 64 (bits x 64 64), mask := mask, depth := bits x 160 16 },
      stale := old.stale || kind != 0 || old.path.mask != mask }

/-- A restored warp: every field of its block, and from `old` what a record has no field for. -/
def warpBack (m : Memory) (frame : Nat) (old : Warp) : Warp :=
  let base := frame + 0xC8000 + 0x8000 * old.wid
  let f := recField m base
  let w32 := fun off n => (fieldList m base off 4 n).map (BitVec.ofNat 32)
  let st := f 0x60F4 4
  { old with
    v := (List.range old.regs).map (fun j => w32 (0x80 * j) 32), s := w32 0x6000 32, p := w32 0x6080 7, fs := w32 0x60A0 16,
    srgen := BitVec.ofNat 64 (f 0x60E0 8), fflags := BitVec.ofNat 32 (f 0x60E8 4), qstat := BitVec.ofNat 32 (f 0x60EC 4),
    accstat := BitVec.ofNat 32 (f 0x60F0 4) &&& 0x77, mode := if bits st 0 1 = 1 then .supervisor else .user,
    halt := if bits st 1 1 = 1 then .halted else old.halt, xsn := f 0x60F8 4, olseq := f 0x60FC 4,
    b := (List.range 3).map (fun j => (fieldList m base (0x6100 + 0x100 * j) 8 32).map (BitVec.ofNat 64)),
    shadow := (List.range 3).map (fun j => (fieldList m base (0x6400 + 0x100 * j) 8 32).map (BitVec.ofNat 64)),
    sa := slotBack (f 0x6700 64) old.sa, sb := slotBack (f 0x6740 64) old.sb, last := bits (f 0x6780 4) 0 1 == 1,
    ssn := f 0x6782 2, ents := (fieldList m base 0x6800 32 4).map (BitVec.ofNat 256),
    cur := if bits st 3 1 = 1 then some ⟨BitVec.ofNat 256 (f 0x6880 32), (old.cur.map (·.issue)).getD 0⟩ else none,
    tpc := BitVec.ofNat 64 (f 0x68A0 8), tfflags := BitVec.ofNat 32 (f 0x68A8 4), tscr := w32 0x68AC 4,
    tq := (fieldList m base 0x6900 32 (bits st 4 4)).zipIdx.map (fun t =>
      ⟨BitVec.ofNat 256 t.1, ((old.tq[t.2]?).map (·.issue)).getD old.issued⟩),
    bands := w32 0x6A00 4, q6 := (fieldList m base 0x6C00 16 (bits st 8 5)).map (BitVec.ofNat 128),
    q7 := (fieldList m base 0x6D00 16 (bits st 13 5)).map (BitVec.ofNat 128), holdSl := none,
    hdl := match old.hdl.park with
      | some (.xswap _ _ _) => { old.hdl with park := none, stale := true }
      | _ => old.hdl }

/-- A restored plane (R337, R338). -/
def planeBack (m : Memory) (x addr : Nat) : Plane :=
  if bits x 32 1 = 0 then Plane.empty
  else { valid := true, fw := BitVec.ofNat 32 (bits x 0 32), k := bits x 33 7, n := bits x 40 7,
         blk := bits x 47 1 == 1, nf := bits x 48 1 == 1, wt := memSlice m addr 0xC000 }

/-- The position whose coordinates are given (R286, R341). -/
def boxIndex : List Nat → List Nat → Nat
  | e :: es, c :: cs => c + e * boxIndex es cs
  | _, _ => 0

/-- A restored copy command of a crew with the warps `ws`. -/
def copyBack (x : Nat) (t : Nat × Nat) (ws : List Nat) (old : CopyCmd) : CopyCmd :=
  let bs := natBytes 128 x
  let y := bits x 1024 512
  let d := descOf bs
  { old with
    tower := t.1, phys := t.2, desc := bs, warp := ws.getD (bits y 32 5) old.warp, lane := bits y 37 5, flags := bits y 42 5, gen := BitVec.ofNat 64 (bits y 64 64),
    next := boxIndex (d.ext.take d.nd) ((List.range 14).map (fun j => bits y (128 + 16 * j) 16)),
    cnt := (List.range 4).map (fun j => bits y (352 + 8 * j) 8), idx := bits y 384 32 }

/-- A restored collective of a crew with the warps `ws`: what has come in for it meanwhile may have completed it. -/
def collBack (x : Nat) (ws : List Nat) (old : CollCmd) : CollCmd :=
  { old with
    desc := natBytes 64 x, h := BitVec.ofNat 64 (bits x 512 64), key := { old.key with cseq := bits x 576 32 },
    warp := ws.getD (bits x 608 5) old.warp, lane := bits x 613 5, phase := max old.phase (bits x 618 2),
    next := bits x 624 32, gen := BitVec.ofNat 64 (bits x 704 64) }

/-- A restored crew header. -/
def crewBack (m : Memory) (frame : Nat) (old : Crew) : Crew :=
  let h := memNat m frame 256
  let dead := bits h 15 3
  { old with
    abank := BitVec.ofNat 16 (bits h 160 16),
    plA := if bits dead 2 1 = 1 then Plane.empty else planeBack m (bits h 256 64) (frame + 0x10000),
    plS := if bits dead 2 1 = 1 then Plane.empty else planeBack m (bits h 320 64) (frame + 0x1C000),
    acc := if bits dead 1 1 = 1 then [] else memSlice m (frame + 0x28000) 0x40000,
    scr := if bits dead 0 1 = 1 then [] else memSlice m (frame + 0x68000) old.scrLen,
    bars := (List.range 16).map (fun k =>
      let b := bits h (384 + 16 * k) 16
      ⟨bits b 0 6, if bits b 0 6 = 0 then none else some (bits b 6 6), bits b 12 1 == 1⟩),
    chans := (List.range 6).map (fun c =>
      let w := bits h (640 + 16 * c) 16
      ⟨bits w 9 1 == 1, bits w 0 2, bits w 2 2, bits w 4 5, (List.range (bits w 10 5)).map (fun i =>
        (fieldList m frame (0x100 + 0x800 * c + 0x80 * i) 4 32).map (BitVec.ofNat 32))⟩),
    cseqn := (List.range 8).map (fun c => bits h (736 + 24 * c) 24),
    eng := [], req := none, frame := none, saving := false, gone := false }

/-- The status word of a handle that this device knows to be resolved, or not to exist (R178, R378). -/
def finalStatus (s : State) (ctx : Nat) (h : DWord) : Option Nat :=
  if ownHome s h then match entValid s ctx h with
    | some e => if e.state = 3 ∨ e.state = 4 then some (statusWord e) else none
    | none => some 7
  else match knownOf s ctx h with
    | some k => if k.rep.state = 3 ∨ k.rep.state = 4 ∨ k.rep.state = 7 then some (reportStatus k.rep) else none
    | none => none

/-- Paths whose wait ended while their crew was away resume (R343). -/
def recheckParks (s : State) (c : Nat) : State :=
  let x := crewAt s c
  forParked s x.warps (fun s w k pk => match pk with
    | .pyield _ => if x.req.isNone then resumeSlot s w k else s
    | .mwait n => if x.eng.all (fun o => decide (n ≤ o.seq)) then resumeSlot s w k else s
    | .mbar off par =>
      let e := mbGet s c off
      if mbPh e != par then resumeSlot s w k else s
    | .bar n ph =>
      if ((crewAt s c).bars.getD n ⟨0, none, false⟩).phase != ph then resumeSlot s w k else s
    | .cwait t => if s.copies.any (fun k => k.crew == c && tokenOf k.chan k.seq == t.toNat) then s else resumeSlot s w k
    | .hwait h d => match finalStatus s x.ctx h with
      | some st => giveStatus s w k h d st
      | none => subscribeTo s x.ctx h
    | _ => s)

/-- Writes a record back (R342 steps 1 to 5), with the collectives that have not broken meanwhile, each by its handle, and the
trap entries that have come since (R306). -/
def restoreOne (s : State) (l : Launch) (k : SavedCrew) (ls p : Nat) (reserve : Option Nat) : State :=
  let t := (backed s.plat ls).getD (0, 0)
  let old := crewAt s k.crew
  let n := recField s.mem k.frame 22 1
  let cps := (List.range n).filterMap (fun j =>
    let x := recField s.mem k.frame (0x4000 + 0xC0 * j) 0xC0
    (k.copies.find? (fun y => y.chan == bits x 1024 3 && y.seq == bits x 1032 24)).map (copyBack x t old.warps))
  let slots := k.colls.zipIdx.filterMap (fun y =>
    (collAt s y.1).map (fun c => (c, recField s.mem k.frame (0xA000 + 0x200 * y.2) 128)))
  let cr := { crewBack s.mem k.frame old with
    tower := t.1, phys := t.2, logical := logicalOf l k.lin ls, prio := p,
    placed := s.disp.placed, reserve := reserve }
  let ws := (old.warps.zip k.warps).map (fun w => (w.1, warpBack s.mem k.frame w.2))
  let s := { s with
    copies := s.copies ++ cps
    coll := { s.coll with cmds := s.coll.cmds.map (fun c => match slots.find? (fun d => d.1.h == c.h) with
      | some d => collBack d.2 old.warps c
      | none => c) }
    disp := { s.disp with placed := s.disp.placed + 1 } }
  let s := slots.foldl (fun s d => putEnt s (bits d.2 512 48) (fun e =>
    { e with ntf := if bits d.2 620 1 = 1 then some (old.warps.getD (bits d.2 608 5) 0) else none })) s
  let s := ws.foldl (fun s w => setWarp s w.1 w.2) (setCrew s k.crew cr)
  let s := putLaunch s l.h (fun l => { l with saved := l.saved.filter (fun y => y.lin != k.lin) })
  let s := recheckParks (saveLog s l.ctx 2 k.frame l.h) k.crew
  k.late.foldl (fun s t => match old.warps[t.1]? with
    | some w => queueTrap s w t.2
    | none => s) s

/-- A record that cannot be restored is discarded, and its launch breaks: the break abandons the collectives of its saved
crews and logs their frames with KIND 3, this one among them (R344, R396). -/
def discardRecord (s : State) (l : Launch) : State := breakLaunch s l.h 2 0x16

/-- Whether the channels of a spire take a crew's saved commands (R282, R342). The crew waits until they do (DESIGN CHOICE,
unsafe: log entry 17: the manual does not say what becomes of a restore to a spire whose channels are full). -/
def channelsTake (s : State) (t : Nat × Nat) (k : SavedCrew) : Bool :=
  (List.range 8).all (fun ch => decide ((chanCmds s t.1 t.2 ch).length +
    (k.copies.filter (fun y => y.chan == ch)).length ≤ Config.channelDepth))

/-- Restores one member of a plan: it needs a frame in reserve while its launch has started early (R182), and its region
resident and pinned (R190). -/
def restoreMember (s : State) (l : Launch) (p : Nat) (m : Nat × Nat) : Except Unplaced State :=
  let early := startsEarly s l
  let fr := if early then takeFrame s l.ctx else (none, s)
  match l.saved.find? (fun k => k.lin == m.1) with
  | none => .ok s
  | some k =>
    if !channelsTake s ((backed s.plat m.2).getD (0, 0)) k then .error (.region [])
    else if early && fr.1.isNone then .error .noFrame
    else match (crewAt s k.crew).region with
      | none => .ok (restoreOne fr.2 l k m.2 p fr.1)
      | some g => match pinRegion fr.2 l g with
        | (units, none) => .error (.region units)
        | (_, some s2) => .ok (restoreOne s2 l k m.2 p fr.1)

/-- Restores the members of a plan at one moment, or none of them. -/
def restorePlan (s : State) (l : Launch) (p : Nat) (plan : List (Nat × Nat)) : Except Unplaced State :=
  plan.foldl (fun (acc : Except Unplaced State) m => acc.bind (fun s => restoreMember s l p m)) (.ok s)

/-- Serves the candidates in turn until a saved crew that is next is restored. -/
def restoreNext : Nat → State → List Cand → State
  | 0, s, _ => s
  | f + 1, s, cs =>
    match chooseCand s cs with
    | none => s
    | some c => match c.plan with
      | none => s
      | some plan =>
        if !(members c.l).2 then s
        else match c.l.saved.find? (fun k => (plan.map (·.1)).contains k.lin && !recordSound s c.l k) with
          | some _ => discardRecord s c.l
          | none => match restorePlan s c.l c.p plan with
            | .error x => restoreNext f (notPlaced s c.l x) (cs.filter (fun d => d.q != c.q))
            | .ok s => settleAll (notePlaced s c.q c.p)

/-- The dispatcher places a saved crew again, trying logical spire `spire` first. -/
def execCrewRestore (spire : Nat) (s : State) : Host.Outcome State Fault Refusal :=
  .next (if !ready s then s
    else
      let cs := candidates s spire
      restoreNext (cs.length + 1) s cs)

end Sys2Proof.Machine
end

