-- ==== Sys2Proof/Machine/Debug.lean ====
section
/-! DEFINITION. The debugger (R327, R328): the halted state presented once the engines have drained, the changes
that a debugger makes to a halted warp in the layout of the save record, and resumption. -/

namespace Sys2Proof.Machine

/-- Whether engine or copy commands that a warp issued are outstanding. -/
def drainLeft (s : State) (w : Nat) : Bool :=
  (crewOf s w).eng.any (fun k => k.warp == w) || s.copies.any (fun k => k.warp == w)

/-- The halted state of a warp is presented: at once with FREEZE = 1, otherwise when its commands have drained. -/
def haltPresented (s : State) (w : Nat) : State :=
  if (warpAt s w).halt ≠ .halted then s
  else
    let c := (warpAt s w).crew
    let t := if engFrozen s w then s else (engSettle false ((crewAt s c).eng.length + 1) s c).2
    if !engFrozen t w && drainLeft t w then t else setWarp t w { warpAt t w with halt := .presented }

def execHaltPresented (w : Nat) (s : State) : Host.Outcome State Fault Refusal := .next (haltPresented s w)

/-- A halted warp as the debugger sees it (R328): its crew's record, with the warp's own block, from address 0 on. -/
def haltView (s : State) (w : Nat) : Memory :=
  if (warpAt s w).halt = .presented then recordWith { s with mem := [] } (warpAt s w).crew 0 false 0 [w] else []

/-- Entries that a debugger writes are delivered before what arrives later (R306). Reserved bits ignore writes (R3). -/
def editQueue (xs : List (BitVec 256)) : List TrapEntry :=
  (xs.take Config.trapDepth).map (fun b => ⟨BitVec.ofNat 256 (trecKept b.toNat), 0⟩)

/-- The PC of a path as the debugger sets it: bits 0 to 2 stay zero (R28). -/
def editPc (sl : Slot) (v : DWord) : Slot :=
  { sl with path := { sl.path with pc := BitVec.ofNat 64 (v.toNat / 8 * 8) }, turned := none }

/-- The lanes of a path as the debugger sets them. -/
def editLanes (sl : Slot) (m : Mask) : Slot := { sl with stale := true, path := { sl.path with mask := m } }

/-- A lane list with one lane replaced. -/
def setLane {α : Type} (l : List α) (k : Nat) (x : α) : List α := l.set k x

/-- A change that touches the warp alone. -/
def editWarp (x : Warp) : DebugEdit → Warp
  | .vreg r l v => { x with v := x.v.set r (setLane (x.v.getD r []) l v) }
  | .sreg r v => { x with s := x.s.set r v }
  | .pred r m => { x with p := x.p.set r m }
  | .latch k l v => { x with b := x.b.set k (setLane (x.b.getD k []) l v) }
  | .shadow k l v => { x with shadow := x.shadow.set k (setLane (x.shadow.getD k []) l v) }
  | .slotWord k v => { x with fs := x.fs.set k v }
  | .srgen v => { x with srgen := v }
  | .fflags v => { x with fflags := v &&& 0x1F }
  | .qstat v => { x with qstat := v }
  | .accstat v => { x with accstat := v &&& 0x77 }
  | .csr n v => if 8 ≤ n ∧ n ≤ 15 ∧ n ≠ 11 then warpCsrWrite x n v.toNat else x
  | .pc b v => if b then { x with sb := editPc x.sb v } else { x with sa := editPc x.sa v }
  | .lanes b m => if b then { x with sb := editLanes x.sb m } else { x with sa := editLanes x.sa m }
  | .slot b v => if b then { x with sb := slotBack v.toNat x.sb } else { x with sa := slotBack v.toNat x.sa }
  | .stack last n => { x with last := last, ssn := n.toNat }
  | .split k v => { x with ents := x.ents.set k (BitVec.ofNat 256 (entKept v.toNat)) }
  | .current v => { x with cur := v.map (fun b => ⟨BitVec.ofNat 256 (trecKept b.toNat), (x.cur.map (·.issue)).getD 0⟩) }
  | .trapQueue xs => { x with tq := editQueue xs }
  | .port q7 xs =>
    let rs := (xs.take 16).map (fun r => BitVec.ofNat 128 (portKept q7 r.toNat))
    if q7 then { x with q7 := rs } else { x with q6 := rs }
  | .band n v => { x with bands := x.bands.set n (BitVec.ofNat 32 (bandKept v.toNat)) }
  | .barrier _ _ => x
  | .channel _ _ => x
  | .scratch _ _ => x
  | .bank _ _ _ _ => x
  | .weight _ _ _ _ => x
  | .plane _ _ => x

/-- A plane with the word that the debugger gives it (R338): weights outside its K and N go, and a word that breaks the layout
changes nothing. -/
def editPlane (p : Plane) (v : Nat) : Plane :=
  if bits v 32 1 = 0 then Plane.empty
  else if !planeSound (bits v 0 49) then p
  else { valid := true, fw := BitVec.ofNat 32 (bits v 0 32), k := bits v 33 7, n := bits v 40 7, blk := bits v 47 1 == 1,
         nf := bits v 48 1 == 1,
         wt := p.wt.filter (fun c => decide (c.1 / 512 < bits v 33 7) && decide (c.1 / 8 % 64 < bits v 40 7)) }

/-- A change of what the warp's crew shares: barriers, channels, scratchpad, accumulators and planes. -/
def editCrew (c : Crew) : DebugEdit → Crew
  | .barrier n v =>
    let e := bits v.toNat 6 6
    let arr := bits v.toNat 0 6
    { c with bars := c.bars.set n ⟨arr, if arr = 0 then none else some e, bits v.toNat 12 1 == 1⟩ }
  | .channel q es =>
    let ch : Chan := c.chans.getD q ⟨false, 0, 0, 0, []⟩
    { c with chans := c.chans.set q { ch with entries := es.take ch.depth } }
  | .scratch a v => if a < c.scrLen then { c with scr := memSet c.scr a v } else c
  | .bank b r k v => if b < 16 ∧ r < 64 ∧ k < 64 ∧ c.abank.getLsbD b then
      { c with acc := memPutNat c.acc (0x4000 * b + 4 * (64 * r + k)) 4 v.toNat } else c
  | .weight sh k n v =>
    let p := if sh then c.plS else c.plA
    if p.valid ∧ k < p.k ∧ n < p.n then
      let p' := { p with wt := memPutNat p.wt (8 * (64 * k + n)) 8 v.toNat }
      if sh then { c with plS := p' } else { c with plA := p' }
    else c
  | .plane sh v => if !c.matrix then c
      else if sh then { c with plS := editPlane c.plS v.toNat } else { c with plA := editPlane c.plA v.toNat }
  | .vreg _ _ _ => c
  | .sreg _ _ => c
  | .pred _ _ => c
  | .latch _ _ _ => c
  | .shadow _ _ _ => c
  | .slotWord _ _ => c
  | .srgen _ => c
  | .fflags _ => c
  | .qstat _ => c
  | .accstat _ => c
  | .csr _ _ => c
  | .pc _ _ => c
  | .lanes _ _ => c
  | .slot _ _ => c
  | .stack _ _ => c
  | .split _ _ => c
  | .current _ => c
  | .trapQueue _ => c
  | .port _ _ => c
  | .band _ _ => c

/-- The debugger changes a presented warp's state (R328). Paths that wait on a barrier or an mbar object are held
to the changed condition. -/
def debugWrite (s : State) (w : Nat) (e : DebugEdit) : State :=
  let x := warpAt s w
  if x.halt ≠ .presented then s
  else
    let s := setWarp s w (editWarp x e)
    recheckParks (setCrew s x.crew (editCrew (crewAt s x.crew) e)) x.crew

def execDebugStateWrite (w : Nat) (e : DebugEdit) (s : State) : Host.Outcome State Fault Refusal :=
  .next (debugWrite s w e)

/-- The debugger resumes a presented warp, for one instruction with STEP = 1. -/
def debugResume (s : State) (w : Nat) : State :=
  let x := warpAt s w
  if x.halt ≠ .presented then s
  else setWarp s w { x with halt := .no, step := bits (dbgctl s w) 4 1 == 1 }

def execDebugResume (w : Nat) (s : State) : Host.Outcome State Fault Refusal := .next (debugResume s w)

end Sys2Proof.Machine
end

