-- ==== Sys2Proof/Machine/HostIf.lean ====
section
/-! DEFINITION. The host (R408 to R412, R347): the registers of BAR0 as they are read and written, the life of a
context and its move to another device, the launch queues, MSI-X, and the window of BAR2 onto memory. -/

namespace Sys2Proof.Machine

/-! ### Which function reaches what (R408, R409, R414) -/

/-- The master ID of a function (R414). -/
def hostMaster (fn : Nat) : Nat := 144 + fn

/-- The block of BAR0 at an offset, in the order of R409's table: global, VF, launch queues, contexts. -/
def barBlock (off : Nat) : Nat := if 0x1000000 ≤ off then 3 else if 0x10000 ≤ off then 2 else if 0x1000 ≤ off then 1 else 0

/-- Whether a function may read (bit 0) or write (bit 1) the registers of a block: its access table must grant
configuration register access too (R414). -/
def barOk (s : State) (fn block bit : Nat) : Bool :=
  mayAt s.plat (.bar0 block) (hostMaster fn) bit && mayAt s.plat (.bar0 block) (hostMaster fn) 3

/-- Whether a function reaches a context: the PF reaches every one (R408). -/
def ctxReach (s : State) (fn c : Nat) : Bool := decide (c < 4096) && (fn == 0 || ctxFunc s c == fn)

/-- Whether a function reaches a launch queue. -/
def queueReach (s : State) (fn q : Nat) : Bool :=
  decide (q < 256) && (fn == 0 || (s.queues.getD q Queue.zero).func == fn)

/-- A host access to a register: one that the access table denies completes with Unsupported Request and changes
nothing; in the safe state only Damosk answers (R414, R415). There is no function beyond VF 63. An access behind writes to
memory that are not performed waits at its port (R410). -/
def hostGate (s : State) (fn block bit : Nat) (reach : Bool) (act : State → State) : State :=
  if 63 < fn || !s.plat.hostWrites.isEmpty then s
  else if !barOk s fn block bit then send s (.unsupported fn)
  else if s.plat.st == .safe || !reach then s
  else act s

/-! ### Contexts (R347, R410, R411) -/

/-- CTXSTAT.RUN: 0 running, 1 stopping, 2 stopped, 3 absent. -/
def ctxRun (s : State) (c : Nat) : Nat :=
  match ctxGet s c with
  | none => 3
  | some x => if x.stopped then 2 else if x.stopping then 1 else 0

/-- Crews in CREWLIN order. -/
def insertLin (s : State) (c : Nat) : List Nat → List Nat
  | [] => [c]
  | d :: ds => if (crewAt s c).lin < (crewAt s d).lin then c :: d :: ds else d :: insertLin s c ds

def sortLin (s : State) (cs : List Nat) : List Nat := cs.foldr (insertLin s) []

/-- Raises the requests of a context's running crews, launch by launch in CREWLIN order, as frames allow. -/
def requestContext (s : State) (c : Nat) : State :=
  s.launches.foldl (fun s l =>
    if l.ctx ≠ c then s
    else (sortLin s (liveCrews s l.h)).foldl (fun s k =>
      if (crewAt s k).req.isSome then s else (requestGroup s k).getD (cleanFor s k)) s) s

def ctxStop (s : State) (c : Nat) : State :=
  match ctxGet s c with
  | none => s
  | some x => if x.stopping || x.stopped then s
    else requestContext (ctxPut s c { x with stopping := true }) c

def execContextStop (fn ctx : Nat) (s : State) : Host.Outcome State Fault Refusal :=
  .next (hostGate s fn 3 1 (ctxReach s fn ctx) (fun s => ctxStop s ctx))

/-- Whether anything of a stopping context still runs: crews, copy commands, accesses under way, fault unit
work, or entries not yet logged. -/
def ctxBusy (s : State) (c : Nat) : Bool :=
  s.crews.any (fun k => !k.gone && k.ctx == c) ||
  s.copies.any (fun k => (crewAt s k.crew).ctx == c) ||
  s.fab.reqs.any (fun o => vuCtx o.req.hdr == c && !reqOver o) ||
  s.fu.jobs.any (fun j => j.t.ctx == c) ||
  (match ctxGet s c with
    | some x => !x.slHeld.isEmpty
    | none => false)

/-- A stop completes once nothing of the context runs; until then, crews without a request get theirs as frames
come free. -/
def ctxStopComplete (s : State) (c : Nat) : State :=
  match ctxGet s c with
  | none => s
  | some x =>
    if !x.stopping then s
    else if ctxBusy s c then requestContext s c
    else raiseMsix (ctxPut s c { x with stopping := false, stopped := true }) (ctxFunc s c) 3

def execContextStopComplete (ctx : Nat) (s : State) : Host.Outcome State Fault Refusal :=
  .next (ctxStopComplete s ctx)

def ctxResume (s : State) (c : Nat) : State :=
  match ctxGet s c with
  | none => s
  | some x => if x.stopped then settleAll (ctxPut s c { x with stopped := false }) else s

def execContextResume (fn ctx : Nat) (s : State) : Host.Outcome State Fault Refusal :=
  .next (hostGate s fn 3 1 (ctxReach s fn ctx) (fun s => ctxResume s ctx))

/-- A context as CREATE makes it: stopped, every control register zero (R313, R411). -/
def Ctx.fresh : Ctx :=
  { stopping := false, stopped := true, dten := false, csr := List.replicate 512 0, dl := List.replicate 5 0,
    dlOvf := false, ortF := 0, lseq := [], replayed := [], olEnded := [], profLost := false, rlCmd := none, rlTower := 0,
    cmMove := none, cmAsked := false, slHeld := [], ranWarp := false }

/-- Inserts a context in the order of the numbers. -/
def insertCtx (c : Nat) (x : Ctx) : List (Nat × Ctx) → List (Nat × Ctx)
  | [] => [(c, x)]
  | e :: es => if c < e.1 then (c, x) :: e :: es else e :: insertCtx c x es

def ctxCreate (s : State) (c : Nat) : State :=
  match ctxGet s c with
  | some _ => s
  | none => raiseMsix (dropContext { s with ctxs := insertCtx c Ctx.fresh s.ctxs } c) (ctxFunc s c) 3

def execContextCreate (fn ctx : Nat) (s : State) : Host.Outcome State Fault Refusal :=
  .next (hostGate s fn 3 1 (fn == 0 && decide (ctx < 4096)) (fun s => ctxCreate s ctx))

/-- A queue without the records of a context: those in its ring stay in their slots, and no launch comes of them. -/
def Queue.forget (q : Queue) (c : Nat) : Queue :=
  { q with ring := q.ring.map (fun r => if r.msg.ctx = c then r.over else r), wait := q.wait.filter (fun m => m.ctx != c) }

/-- Everything of a context goes: its cached translations, what is known and held for it, its launches' records,
its handle table entries and itself. -/
def ctxRemove (s : State) (c : Nat) : State :=
  let s := dropContext s c
  { s with
    ctxs := s.ctxs.filter (fun e => e.1 != c)
    launches := s.launches.filter (fun l => l.ctx != c)
    fu := { s.fu with asked := s.fu.asked.filter (fun a => a.2.ctx != c) }
    coll := { s.coll with
      cmds := s.coll.cmds.filter (fun k => k.key.ctx != c), moved := s.coll.moved.filter (fun m => m.1.ctx != c) }
    queues := s.queues.map (fun q => q.forget c)
    disp := { s.disp with
      ents := s.disp.ents.filter (fun e => e.ctx != c)
      heldMsgs := s.disp.heldMsgs.filter (fun m => m.ctx != c)
      refused := s.disp.refused.filter (fun m => m.ctx != c)
      offers := s.disp.offers.filter (fun m => m.ctx != c)
      tell := s.disp.tell.filter (fun t => ctxNumOf s t.2 != c)
      known := s.disp.known.filter (fun k => k.ctx != c) } }

/-- The unresolved launches of a context: those that run here, those of this home that run elsewhere or wait in a ring or for
a comet, and those of other homes that wait here. -/
def ctxLaunches (s : State) (c : Nat) : List DWord :=
  ((s.launches.filter (fun l => l.ctx == c && l.state != .done && l.state != .broken)).map (·.h) ++
    (s.disp.ents.filter (fun e => e.ctx == c && decide (e.state < 3))).map
      (fun e => handleMake e.serial s.plat.devnum e.kind) ++
    ((messagesHere s).filter (fun m => m.ctx == c && m.handle != 0)).map (·.handle)).eraseDups

/-- DESTROY of a stopped context: its unresolved launches break with CANCELLED, its frames are discarded. -/
def ctxDestroy (s : State) (c : Nat) : State :=
  match ctxGet s c with
  | none => s
  | some x =>
    if !x.stopped then s
    else
      ctxRemove (settleAll (breakHandles s ((ctxLaunches s c).map (fun h => Brk.own h 6 0)))) c

def execContextDestroy (fn ctx : Nat) (s : State) : Host.Outcome State Fault Refusal :=
  .next (hostGate s fn 3 1 (fn == 0 && decide (ctx < 4096)) (fun s => ctxDestroy s ctx))

/-! ### A context that moves (R346, R347, R385) -/

/-- The resolutions of which a warp of a context is still to be told: handle, crew and warp of the crew (R388). -/
def ctxTells (s : State) (c : Nat) : List (DWord × Nat × Nat) :=
  let own := (s.disp.ents.filter (fun e => decide (e.state < 3))).filterMap (fun e =>
    e.ntf.map (fun w => (handleMake e.serial s.plat.devnum e.kind, w)))
  ((own ++ s.disp.tell).filter (fun t => ctxNumOf s t.2 == c)).map (fun t =>
    (t.1, (warpAt s t.2).crew, (warpAt s t.2).wid))

/-- What moves with a stopped context. -/
def ctxMove (s : State) (c : Nat) (x : Ctx) : CtxMove :=
  let ls := s.launches.filter (fun l => l.ctx == c)
  { ctx := x, launches := ls,
    crews := ((ls.flatMap (fun l => l.saved.map (·.crew))).eraseDups).map (fun k => (k, crewAt s k)),
    rings := (s.queues.zipIdx.map (fun q => (q.2, q.1.ring.filter (fun r => r.msg.ctx == c && r.msg.handle != 0),
      q.1.wait.filter (fun m => m.ctx == c)))).filter (fun r => !r.2.1.isEmpty || !r.2.2.isEmpty),
    held := s.disp.heldMsgs.filter (fun m => m.ctx == c)
    known := (s.disp.known.filter (fun k => k.ctx == c)).map (fun k => { k with reads := [] })
    colls := s.coll.cmds.filter (fun k => k.live && k.key.ctx == c)
    tells := ctxTells s c }

/-- A stopped context leaves for another device: its launches, saved crews, records and collectives go with it, and each entry
that names this device moves there by the steps of a result's move. What still comes for its collectives follows them
(DESIGN CHOICE, unsafe: log entry 17). -/
def ctxLeave (s : State) (c dev : Nat) : State :=
  match ctxGet s c with
  | none => s
  | some x =>
    if !x.stopped || dev == s.plat.devnum then s
    else
      let m := ctxMove s c x
      let own := s.plat.devnum
      let ents := s.disp.ents.filter (fun e => e.ctx == c && e.dev == own && e.state != 4 && !e.moving)
      let away := (((m.launches.map (·.h)) ++ (m.known.filter (fun k => k.rep.state == 3 && k.rep.dev == own)).map
        (fun k => k.rep.handle)).filter (fun h => !ownHome s h)).eraseDups
      let s := send { s with
        launches := s.launches.filter (fun l => l.ctx != c)
        queues := s.queues.map (fun q => q.forget c)
        coll := { s.coll with
          cmds := s.coll.cmds.filter (fun k => !(k.live && k.key.ctx == c))
          moved := s.coll.moved ++ m.colls.map (fun k => (k.key, dev)) }
        disp := { s.disp with
          heldMsgs := s.disp.heldMsgs.filter (fun m => m.ctx != c)
          ents := s.disp.ents.map (fun e => if e.ntf.any (fun w => ctxNumOf s w == c) then { e with ntf := none } else e)
          tell := s.disp.tell.filter (fun t => ctxNumOf s t.2 != c) } } (.context dev c m)
      let s := ents.foldl (fun s e => moveOn (putEnt s e.serial (fun e => { e with moving := true }))
        (handleMake e.serial own e.kind) dev) s
      away.foldl (fun s h => send s (.moveAsk (hHome h) c h dev)) s

/-- The saved crews that arrive, each with a new number here: old number, new number, and the crew. -/
def placeCrews (s : State) (cs : List (Nat × Crew)) : List (Nat × Nat) × State :=
  cs.foldl (fun (acc : List (Nat × Nat) × State) k =>
    let n := acc.2.crews.length
    let ws := (List.range k.2.warps.length).map (· + acc.2.warps.length)
    (acc.1 ++ [(k.1, n)], { acc.2 with
      crews := acc.2.crews ++ [{ k.2 with warps := ws, gone := true }]
      warps := acc.2.warps ++ ws.zipIdx.map (fun w => { Warp.zero with crew := n, wid := w.2 }) })) ([], s)

/-- The number here of a crew that has arrived, and of a warp of it. -/
def crewHere (ix : List (Nat × Nat)) (c : Nat) : Nat := ((ix.find? (fun p => p.1 == c)).map (·.2)).getD 0
def warpHere (s : State) (cs : List (Nat × Crew)) (ix : List (Nat × Nat)) (c w : Nat) : Nat :=
  let was := ((cs.find? (fun p => p.1 == c)).map (·.2.warps)).getD []
  (crewAt s (crewHere ix c)).warps.getD (was.idxOf w) 0

/-- A saved crew under its new number. -/
def savedAs (s : State) (cs : List (Nat × Crew)) (ix : List (Nat × Nat)) (k : SavedCrew) : SavedCrew :=
  let n := crewHere ix k.crew
  { k with
    crew := n
    warps := k.warps.map (fun x => { x with crew := n })
    copies := k.copies.map (fun y => { y with crew := n, warp := warpHere s cs ix k.crew y.warp }) }

/-- A warp of a crew that has arrived is to be told of the resolution of a handle: at once where that is known here (R388). -/
def tellHere (s : State) (ix : List (Nat × Nat)) (t : DWord × Nat × Nat) : State :=
  let w := (crewAt s (crewHere ix t.2.1)).warps.getD t.2.2 0
  match entFind s t.1 with
  | some e =>
    if e.state < 3 then putEnt s e.serial (fun e => { e with ntf := some w }) else tellWarp s w t.1 (statusWord e)
  | none => if ownHome s t.1 then s else { s with disp := { s.disp with tell := s.disp.tell ++ [(t.1, w)] } }

/-- The handles of other homes on which something of a context that has arrived waits: dependences, comets, resolutions of
which a warp is to be told, and paths parked in `hwait` (R386, R388). -/
def ctxWaitsFor (m : CtxMove) : List DWord :=
  let open_ := m.launches.filter (fun l => !(l.state == .done || l.state == .broken))
  (open_.flatMap launchDeps ++ m.held.filterMap (·.comet) ++ m.tells.map (·.1) ++
    (m.known.filter (fun k => k.rep.state != 3 && k.rep.state != 4)).map (·.rep.handle) ++
    open_.flatMap (fun l => l.saved.flatMap (fun k => k.warps.flatMap (fun x => [x.sa, x.sb, x.hdl].filterMap (fun sl =>
      match sl.park with
      | some (.hwait h _) => some h
      | _ => none))))).eraseDups

/-- A context arrives at a device on which it has been created (R411): it is stopped until the host resumes it. This device
subscribes to the homes of what it waits for (R386). -/
def ctxArrive (s : State) (c : Nat) (m : CtxMove) : Option State :=
  match ctxGet s c with
  | none => none
  | some x =>
    if !x.stopped then none
    else
      let r := placeCrews s m.crews
      let ls := m.launches.zipIdx.map (fun l => { l.1 with
        order := r.2.disp.order + l.2, saved := l.1.saved.map (savedAs r.2 m.crews r.1) })
      let s := ctxPut { r.2 with
        launches := r.2.launches ++ ls
        disp := { r.2.disp with
          order := r.2.disp.order + ls.length, heldMsgs := r.2.disp.heldMsgs ++ m.held
          known := r.2.disp.known ++ m.known.filter (fun k => !ownHome s k.rep.handle) }
        coll := { r.2.coll with
          cmds := r.2.coll.cmds ++ m.colls.map (fun k => { k with
            crew := crewHere r.1 k.crew, warp := warpHere r.2 m.crews r.1 k.crew k.warp })
          moved := r.2.coll.moved.filter (fun j => !m.colls.any (fun k => k.key == j.1)) } }
        c { m.ctx with stopping := false, stopped := true }
      let s := (ctxWaitsFor m).foldl (fun s h => subscribeAgain s c h) s
      let s := m.tells.foldl (fun s t => tellHere s r.1 t) s
      some (m.rings.foldl (fun s q =>
        let y := s.queues.getD q.1 Queue.zero
        { s with queues := s.queues.set q.1 { y with ring := y.ring ++ q.2.1, wait := y.wait ++ q.2.2 } }) s)

/-- DTEN of a context that exists (R246). -/
def setDten (s : State) (c : Nat) (on : Bool) : State :=
  match ctxGet s c with
  | none => s
  | some x => ctxPut s c { x with dten := on }

def execDirtyTrackingEnable (fn ctx : Nat) (on : Bool) (s : State) : Host.Outcome State Fault Refusal :=
  .next (hostGate s fn 3 1 (ctxReach s fn ctx) (fun s => setDten s ctx on))

/-- FUNC of a context's CTXHOST, which the PF alone writes. -/
def setFunc (s : State) (c fn : Nat) : State :=
  { s with plat := { s.plat with funcs := (c, fn) :: s.plat.funcs.filter (fun f => f.1 != c) } }

/-- A write of CTXHOST by a function that reaches the context: one to an absent context can do no more than create it, and one
to a context that exists does not create it (R410, R411). -/
def ctxhostWrite (s : State) (fn c v : Nat) : State :=
  let s := if fn = 0 then setFunc s c (bits v 24 6) else s
  if ctxRun s c = 3 then (if fn = 0 ∧ bits v 3 1 = 1 then ctxCreate s c else s)
  else
    let s := if fn = 0 ∧ bits v 4 1 = 1 then ctxDestroy s c else s
    let s := setDten s c (bits v 2 1 == 1)
    let s := if bits v 0 1 = 1 then ctxStop s c else s
    if bits v 1 1 = 1 then ctxResume s c else s

/-- A write of a context register through the host's window: read-only, unassigned and per-warp numbers ignore it,
ORTBASE drops the cached translations (R313, R314). -/
def hostCsrWrite (s : State) (c n v : Nat) : State :=
  match csrInfo n with
  | none => s
  | some i =>
    if i.ro ∨ n < 0x010 then s
    else match ctxCsrWrite s c n v s.disp.master with
      | .error _ => s
      | .ok s => if n = 0x044 ∨ n = 0x045 then dropContext s c else s

def execHostOrtbaseWrite (fn ctx : Nat) (high : Bool) (x : Word) (s : State) : Host.Outcome State Fault Refusal :=
  .next (hostGate s fn 3 1 (ctxReach s fn ctx) (fun s => hostCsrWrite s ctx (if high then 0x045 else 0x044) x.toNat))

def execOlctlModeChange (fn ctx : Nat) (x : Word) (s : State) : Host.Outcome State Fault Refusal :=
  .next (hostGate s fn 3 1 (ctxReach s fn ctx) (fun s => hostCsrWrite s ctx 0x074 x.toNat))

/-- A write of a register of the dirty log ring (R317, R409): k 0 to 4 are DL, DLH, DLCTL, DLWR and DLRD. -/
def dlWrite (s : State) (c k v : Nat) : State :=
  match ctxGet s c with
  | none => s
  | some x =>
    let put := fun (x : Ctx) (v : Nat) => ctxPut s c { x with dl := x.dl.set k (BitVec.ofNat 32 v) }
    match k with
    | 0 => put x (v / 8 * 8)
    | 1 => put x (bits v 0 24)
    | 2 =>
      let old := (x.dl.getD 2 0).toNat
      put { x with dlOvf := x.dlOvf && bits v 8 1 == 0 } (if 20 < bits v 0 5 then old else bits v 0 5)
    | 3 => s
    | _ => put x v

def execDlOverflowClear (fn ctx : Nat) (x : Word) (s : State) : Host.Outcome State Fault Refusal :=
  .next (hostGate s fn 3 1 (ctxReach s fn ctx) (fun s => dlWrite s ctx 2 x.toNat))

/-! ### Launch queues (R173, R174, R410) -/

def putQueue (s : State) (q : Nat) (x : Queue) : State := { s with queues := s.queues.set q x }

/-- QTAIL: ignored while the queue is disabled, and where the ring would hold more than it can. -/
def qtailPut (s : State) (q v : Nat) : State :=
  let x := s.queues.getD q Queue.zero
  if !x.en || decide (2 ^ x.log < (v % 2 ^ 32 + 2 ^ 32 - x.head.toNat) % 2 ^ 32) then s
  else putQueue s q { x with tail := BitVec.ofNat 32 v }

def execQtailWrite (fn q : Nat) (x : Word) (s : State) : Host.Outcome State Fault Refusal :=
  .next (hostGate s fn 2 1 (queueReach s fn q) (fun s => qtailPut s q x.toNat))

/-- QCFG: QLOG first, while the queue is disabled, then QEN; setting QEN starts the ring anew. -/
def qcfgWrite (s : State) (q v : Nat) : State :=
  let x := s.queues.getD q Queue.zero
  if 12 < bits v 0 4 then s
  else if x.en then (if bits v 31 1 = 0 then putQueue s q { x with en := false } else s)
  else
    let x := { x with log := bits v 0 4 }
    putQueue s q (if bits v 31 1 = 0 then x else { x with en := true, head := 0, tail := 0, ring := [], begun := false, failed := [] })

def execQueueEnable (fn q : Nat) (qcfg : Word) (s : State) : Host.Outcome State Fault Refusal :=
  .next (hostGate s fn 2 1 (queueReach s fn q) (fun s => qcfgWrite s q (setBits qcfg.toNat 31 1 1)))

def execQueueDisable (fn q : Nat) (qcfg : Word) (s : State) : Host.Outcome State Fault Refusal :=
  .next (hostGate s fn 2 1 (queueReach s fn q) (fun s => qcfgWrite s q (setBits qcfg.toNat 31 1 0)))

/-- QOWN, which the PF alone writes: launches already accepted keep their context and priority. -/
def qownWrite (s : State) (q v : Nat) : State :=
  let x := s.queues.getD q Queue.zero
  putQueue s q { x with owner := bits v 0 12, qprio := bits v 16 3, func := bits v 24 6 }

/-- A write of a queue's register block (R409). -/
def queueWrite (s : State) (fn q off v : Nat) : State :=
  let x := s.queues.getD q Queue.zero
  match off with
  | 0x00 => if x.en then s else putQueue s q { x with base := BitVec.ofNat 64 (setBits x.base.toNat 0 32 (v / 128 * 128)) }
  | 0x04 => if x.en then s else putQueue s q { x with base := BitVec.ofNat 64 (setBits x.base.toNat 32 32 v) }
  | 0x08 => qcfgWrite s q v
  | 0x0C => qtailPut s q v
  | 0x14 => if x.en then s else putQueue s q { x with ageth := BitVec.ofNat 32 v }
  | 0x18 => if fn = 0 then qownWrite s q v else s
  | _ => s

/-! ### The register blocks (R409) -/

/-- A write of a context's register block. -/
def ctxBlockWrite (s : State) (fn c off v : Nat) : State :=
  if off = 0 then ctxhostWrite s fn c v
  else if 0x010 ≤ off ∧ off ≤ 0x020 then dlWrite s c ((off - 0x010) / 4) v
  else if 0x800 ≤ off then hostCsrWrite s c ((off - 0x800) / 4) v
  else s

/-- BAR2BASE of a function, in units of 64 GiB. -/
def bar2Write (s : State) (fn v : Nat) : State :=
  { s with plat := { s.plat with bar2 := s.plat.bar2.set fn (BitVec.ofNat 32 v) } }

/-- Whether a function reaches a register block: a VF reaches its queues and its contexts only (R408). -/
def blockReach (s : State) (fn off : Nat) : Bool :=
  if 0x1000000 ≤ off then ctxReach s fn ((off - 0x1000000) / 0x1000)
  else if 0x10000 ≤ off ∧ off < 0x10000 + 0x40 * 256 then queueReach s fn ((off - 0x10000) / 0x40)
  else fn == 0

/-- A write to BAR0 at a byte offset that is a multiple of 4, apart from STARTCMD. -/
def barWrite (s : State) (fn off v : Nat) : State :=
  if 0x1000000 ≤ off then ctxBlockWrite s fn ((off - 0x1000000) / 0x1000) ((off - 0x1000000) % 0x1000) v
  else if 0x10000 ≤ off ∧ off < 0x10000 + 0x40 * 256 then
    queueWrite s fn ((off - 0x10000) / 0x40) ((off - 0x10000) % 0x40) v
  else if off = 0x0C then bar2Write s 0 v
  else if 0x1010 ≤ off ∧ off < 0x1400 ∧ off % 16 = 0 then bar2Write s ((off - 0x1000) / 16) v
  else s

/-! ### Reads (R409) -/

/-- STATE as a number (R415). -/
def stateNum : RunState → Nat
  | .reset => 0
  | .cold => 1
  | .warm => 2
  | .ready => 3
  | .safe => 4

def queueRead (s : State) (q off : Nat) : Nat :=
  let x := s.queues.getD q Queue.zero
  match off with
  | 0x00 => bits x.base.toNat 0 32
  | 0x04 => bits x.base.toNat 32 32
  | 0x08 => x.log + (if x.en then 2 ^ 31 else 0)
  | 0x0C => x.tail.toNat
  | 0x10 => x.head.toNat
  | 0x14 => x.ageth.toNat
  | 0x18 => x.owner + 2 ^ 16 * x.qprio + 2 ^ 24 * x.func
  | _ => 0

def ctxBlockRead (s : State) (c off : Nat) : Nat :=
  if off = 0 then 2 ^ 24 * ctxFunc s c + (match ctxGet s c with
    | some x => if x.dten then 4 else 0
    | none => 0)
  else if off = 4 then ctxRun s c
  else match ctxGet s c with
    | none => 0
    | some x =>
      if 0x010 ≤ off ∧ off ≤ 0x020 then
        (x.dl.getD ((off - 0x010) / 4) 0).toNat + (if off = 0x018 ∧ x.dlOvf = true then 2 ^ 8 else 0)
      else if 0x800 ≤ off then csrN x ((off - 0x800) / 4)
      else 0

/-- What a function that its access table admits reads from BAR0: zero where it does not reach, and in the safe state but
for STATE (R408, R415). -/
def regRead (s : State) (fn off : Nat) : Nat :=
  if fn ≠ 0 ∧ off = 0x0C then (if s.plat.st = .safe then 0 else (s.plat.bar2.getD fn 0).toNat)
  else if !blockReach s fn off then 0
  else if off = 0x04 then stateNum s.plat.st
  else if s.plat.st = .safe then 0
  else if 0x1000000 ≤ off then ctxBlockRead s ((off - 0x1000000) / 0x1000) ((off - 0x1000000) % 0x1000)
  else if 0x10000 ≤ off ∧ off < 0x10000 + 0x40 * 256 then
    queueRead s ((off - 0x10000) / 0x40) ((off - 0x10000) % 0x40)
  else if off = 0x00 then s.plat.devnum
  else if off = 0x0C then (s.plat.bar2.getD 0 0).toNat
  else if 0x1010 ≤ off ∧ off < 0x1400 ∧ off % 16 = 0 then (s.plat.bar2.getD ((off - 0x1000) / 16) 0).toNat
  else 0

/-- A read of a register: none for Unsupported Request, where the access table denies it (R414). -/
def barRead (s : State) (fn off : Nat) : Option Nat :=
  if 63 < fn || !barOk s fn (barBlock off) 0 then none else some (regRead s fn off)

/-- The host reads a register of BAR0. -/
def hostBarRead (s : State) (fn off : Nat) : State :=
  if 63 < fn || (!s.plat.hostWrites.isEmpty && s.plat.st != .safe) then s
  else match barRead s fn off with
    | none => send s (.unsupported fn)
    | some v => send s (.readData fn off (natBytes 4 v))

/-! ### MSI-X (R412) -/

/-- The messages of a function that were pending leave once nothing masks them. -/
def msixFlush (s : State) (fn : Nat) : State :=
  let go := fun (v : Nat × Nat) => v.1 == fn && !msixMasked s.plat v.1 v.2
  { s with plat := { s.plat with
    msixPend := s.plat.msixPend.filter (fun v => !go v), msix := s.plat.msix ++ s.plat.msixPend.filter go } }

/-- The host writes a vector of a function's table. -/
def msixWrite (s : State) (v : MsixVec) : State :=
  if 63 < v.fn ∨ 7 < v.vec then s
  else
    let p := { s.plat with msixTab := (s.plat.msixTab.filter (fun u => !(u.fn == v.fn && u.vec == v.vec))) ++ [v] }
    msixFlush { s with plat := p } v.fn

/-- The host writes the MSI-X control of a function: Enable and Function Mask. -/
def msixControl (s : State) (c : MsixCtl) : State :=
  if 63 < c.fn then s
  else msixFlush { s with plat := { s.plat with msixCtl := s.plat.msixCtl.filter (fun d => d.fn != c.fn) ++ [c] } } c.fn

/-- The host reads a vector of a function's table, 16 bytes, or its pending bits, 8 bytes (PCI Express). -/
def msixRead (s : State) (fn : Nat) (vec : Option Nat) : State :=
  if 63 < fn ∨ vec.any (decide <| 7 < ·) then s
  else send s (.msixData fn vec (match vec with
    | some v =>
      let e := msixVecOf s.plat fn v
      natBytes 8 e.addr.toNat ++ natBytes 4 e.data.toNat ++ natBytes 4 (if e.masked then 1 else 0)
    | none => natBytes 8 ((List.range 8).foldl (fun acc v =>
        acc + (if s.plat.msixPend.contains (fn, v) then 2 ^ v else 0)) 0)))

/-! ### BAR2 (R234, R408) -/

/-- The physical address behind an offset of a function's window. -/
def bar2Addr (s : State) (fn addr : Nat) : Nat := (s.plat.bar2.getD fn 0).toNat * 2 ^ 36 + addr

/-- Whether the host's access to memory is served: within the window, in memory, and granted. -/
def bar2Ok (s : State) (fn addr len bit : Nat) : Bool :=
  decide (0 < len) && decide (addr + len ≤ 2 ^ 36) && s.plat.st != .safe &&
  inOneRange s.plat (bar2Addr s fn addr) len && aclRange s.plat (hostMaster fn) (8 * bar2Addr s fn addr) (8 * len) bit

/-- Whether an 8-byte ECC word that holds a byte is poisoned (R325). -/
def bytePoisoned (s : State) (a : Nat) : Bool := s.plat.poison.contains (a / 8)

/-- The host reads through BAR2: bytes of poisoned words come back with open values. A read waits at its port behind writes
that are not performed. -/
def execHostMemoryRead (fn addr len : Nat) (s : State) : Host.Outcome State Fault Refusal :=
  .next (if 63 < fn || !s.plat.hostWrites.isEmpty then s
    else if !bar2Ok s fn addr len 0 then send s (.unsupported fn)
    else
      let a := bar2Addr s fn addr
      let data := (List.range len).map (fun k =>
        if bytePoisoned s (a + k) then BitVec.ofNat 8 (bits (Config.poisonData (s.free + k)).toNat 0 8)
        else memGet s.mem (a + k))
      send { s with free := s.free + len } (.readData fn addr data))

/-- Performs the host's writes to memory in their order, each once every copy of its lines that other devices hold is gone
(R374). -/
def hostFlush : List (Nat × List Byte) → State → State
  | [], s => { s with plat := { s.plat with hostWrites := [] } }
  | (a, data) :: rest, s =>
    let ps : List Piece := [⟨.phys (8 * a), 0, 8 * data.length⟩]
    let r := clearPeers s ((pieceLines (8 * a) (8 * data.length)).map (fun ln => ⟨s.plat.devnum, 0, 0, 0, ln⟩))
    if !r.1 then { r.2 with plat := { r.2.plat with hostWrites := (a, data) :: rest } }
    else hostFlush rest { hideWrite r.2 none [(a, data.length)] with
      mem := memPut r.2.mem a data, plat := unpoison r.2.plat ps }

/-- Performs the host's writes that wait, as far as they can be. -/
def flushHost (s : State) : State := if s.plat.hostWrites.isEmpty then s else hostFlush s.plat.hostWrites s

/-- The host writes through BAR2. -/
def execHostMemoryWrite (fn addr : Nat) (data : List Byte) (s : State) : Host.Outcome State Fault Refusal :=
  .next (if 63 < fn then s
    else if !bar2Ok s fn addr data.length 1 then send s (.unsupported fn)
    else hostFlush (s.plat.hostWrites ++ [(bar2Addr s fn addr, data)]) s)

end Sys2Proof.Machine
end

