-- ==== Sys2Proof/Machine/Boot.lean ====
section
/-! DEFINITION. One instruction word placed where a warp's next turn fetches it: a context with a code object of one word,
and a crew of one warp whose path stands at it. It stands for the host's loading of a program. -/

namespace Sys2Proof.Machine

/-- Where the placed context keeps its directory, its residency table, its code frame and its records. -/
def bootDir : Nat := 0x10000
def bootTable : Nat := 0x20000
def bootFrame : Nat := 3
def bootBlock : Nat := 0x40000

/-- The record of a code object of 8 bytes, resident in one sub-tile (R18, R22). -/
def bootRecord : List Byte :=
  ([1 + 2 ^ 1 * 2 + 2 ^ 6, 8 + 2 ^ 7 + 2 ^ 11 * 3, 8, 0, 8] ++ List.replicate 41 0 ++ [bootTable] ++
    List.replicate 17 0).flatMap (natBytes 4)

/-- The bytes of the placed context: the directory pointer of objects 1 to 1023, record 1, its entry, and the word. -/
def bootMemory (devnum : Nat) (m : Memory) (x : Nat) : Memory :=
  let m := memPutNat m bootDir 8 (bootBlock + 2 ^ 63)
  let m := memPut m (bootBlock + 256) bootRecord
  let m := memPutNat m bootTable 8 (devnum + 2 ^ 16 * bootFrame + 2 ^ 61 + 2 ^ 63)
  memPutNat m (bootFrame * 65536) 8 x

/-- A warp of 192 registers in every lane, at the first word of object 1. -/
def bootWarp (crew : Nat) : Warp :=
  { Warp.zero with
    crew := crew
    regs := 192
    v := List.replicate 192 (List.replicate 32 0)
    sa := Slot.ofPath { pc := BitVec.ofNat 64 (2 ^ 42), mask := BitVec.allOnes 32, rjpc := noRejoin, depth := 0 }
    alive := BitVec.allOnes 32
    gone := false }

/-- The lowest context number that is absent. -/
def freeContext (s : State) : Nat := ((List.range 4096).find? (fun c => (ctxGet s c).isNone)).getD 0

/-- The state in which the next turn fetches and runs the word (log entry 2). -/
def placeWord (s : State) (x : Nat) : State :=
  let c := freeContext s
  let w := s.warps.length
  let k := s.crews.length
  { s with
    mem := bootMemory s.plat.devnum s.mem x
    ctxs := insertCtx c { Ctx.fresh with stopped := false, ortF := BitVec.ofNat 64 bootDir }
      (s.ctxs.filter (fun e => e.1 != c))
    warps := s.warps ++ [bootWarp k]
    crews := s.crews ++ [{ Crew.zero with ctx := c, warps := [w], gone := false }]
    turns := [.issue w] }

end Sys2Proof.Machine
end

