-- ==== Sys2Proof/WellFormed.lean ====
section
/-! DEFINITION. Which instructions an encoding may stand for: the operand classes and the field rules of R42 to R45
and of each entry that do not depend on the warp. An event is no instruction word. -/

namespace Sys2Proof

/-! ### Operand classes (R41, R42) -/

/-- A legal source of `k` 32-bit words. -/
def Opnd.srcW (k : Nat) (o : Opnd) : Bool :=
  match o with
  | .v n => if k = 1 then true else if k = 2 then n.val % 2 == 0 else n.val % 4 == 0
  | .s n => if k = 1 then true else if k = 2 then n.val % 2 == 0 else n.val % 4 == 0
  | .q _ => k == 1
  | .b _ => k == 1 || k == 2
  | .z => true
  | .lid => true

/-- `lid` is no destination (R45). -/
def Opnd.isLid (o : Opnd) : Bool :=
  match o with
  | .lid => true
  | _ => false

def Opnd.isPort (o : Opnd) : Bool :=
  match o with
  | .q _ => true
  | _ => false

/-- A legal destination of `k` 32-bit words. -/
def Opnd.dstW (k : Nat) (o : Opnd) : Bool := o.srcW k && !o.isLid

/-- A v or s register (R123). -/
def Opnd.isReg (o : Opnd) : Bool :=
  match o with
  | .v _ => true
  | .s _ => true
  | _ => false

/-! ### Memory operands (R107, R108, R162, R163) -/

/-- The operand classes of a global address: the pointer form, or a uniform base with a per-lane offset. -/
def globalForm (b a : Opnd) (sc : BitVec 3) : Bool :=
  match b with
  | .z => sc == 0 && a.srcW 2 && (a.isReg || (match a with | .b _ => true | _ => false))
  | .s n => n.val % 2 == 0 && !a.isPort
  | _ => false

/-- The operand classes of a scratchpad address. -/
def scratchForm (b a : Opnd) : Bool :=
  match b with
  | .z => !a.isPort
  | .s _ => !a.isPort
  | _ => false

def loadOrder (o : Order) : Bool := o == .rlx || o == .acq
def storeOrder (o : Order) : Bool := o == .rlx || o == .rel

/-- A global load of `k` words. -/
def loadForm (k : Nat) (m : MemOp) (d : Opnd) : Bool :=
  globalForm m.b m.a m.sc && loadOrder m.ord && d.dstW k && !d.isPort
/-- A global store of `k` words. -/
def storeForm (k : Nat) (m : MemOp) (d : Opnd) : Bool :=
  globalForm m.b m.a m.sc && storeOrder m.ord && d.srcW k && !d.isPort
/-- A scratchpad load of `k` words. -/
def ldsForm (k : Nat) (m : MemOp) (d : Opnd) : Bool :=
  scratchForm m.b m.a && loadOrder m.ord && !m.nt && d.dstW k && !d.isPort
/-- A scratchpad store of `k` words. -/
def stsForm (k : Nat) (m : MemOp) (d : Opnd) : Bool :=
  scratchForm m.b m.a && storeOrder m.ord && !m.nt && d.srcW k && !d.isPort
/-- An atomic on global memory (R272). -/
def atomForm (wide : Bool) (m : AtomOp) (d c : Opnd) : Bool :=
  let k := if wide then 2 else 1
  globalForm m.b m.a m.sc && d.dstW k && c.srcW k && !d.isPort && !c.isPort
/-- An atomic on the scratchpad (R165). -/
def atomsForm (wide : Bool) (m : AtomOp) (d c : Opnd) : Bool :=
  let k := if wide then 2 else 1
  scratchForm m.b m.a && d.dstW k && c.srcW k

/-! ### Instructions -/

/-- A 32-bit destination and 32-bit sources. -/
def d1 (d : Opnd) : Bool := d.dstW 1

/-- The rules of R42 to R45 and of the entries that an instruction's own fields decide. -/
def wellFormed : Instr → Bool
  | .ill => true
  | .nop _ => true
  | .iadd _ d _ _ | .isub _ d _ _ | .imin _ d _ _ | .imax _ d _ _ | .iminu _ d _ _ | .imaxu _ d _ _ => d1 d
  | .iabs _ d _ | .ineg _ d _ => d1 d
  | .iaddsat _ d _ _ | .isubsat _ d _ _ => d1 d
  | .and _ d _ _ | .or _ d _ _ | .xor _ d _ _ | .andn _ d _ _ | .orn _ d _ _ => d1 d
  | .not _ d _ => d1 d
  | .ltab _ d _ _ _ _ => d1 d
  | .imul _ d _ _ | .imulh _ d _ _ | .imulhu _ d _ _ => d1 d
  | .imad _ d _ _ _ => d1 d
  | .imulw _ d _ _ | .imulwu _ d _ _ => d.dstW 2
  | .idiv _ d _ _ | .idivu _ d _ _ | .irem _ d _ _ | .iremu _ d _ _ => d1 d
  | .shl _ d _ _ | .shr _ d _ _ | .sar _ d _ _ | .rotl _ d _ _ | .rotr _ d _ _ => d1 d
  | .popc _ d _ | .clz _ d _ | .ctz _ d _ | .brev _ d _ => d1 d
  | .bfe _ d _ _ | .bfes _ d _ _ => d1 d
  | .bfi _ d _ _ _ | .bgat _ d _ _ _ => d1 d
  | .iadd2 _ d a b | .isub2 _ d a b | .padd _ d a b => d.dstW 2 && a.srcW 2 && b.srcW 2
  | .shl2 _ d a _ | .shr2 _ d a _ | .sar2 _ d a _ => d.dstW 2 && a.srcW 2
  | .icmp _ _ wide _ a b => !wide || (a.srcW 2 && b.srcW 2)
  | .mov _ d _ => d1 d
  | .sel _ d _ _ _ => d1 d
  | .movp _ d _ => d1 d
  | .setp _ _ _ => true
  | .mov2 _ d a => d.dstW 2 && a.srcW 2
  | .pand _ _ _ _ | .por _ _ _ _ | .pxor _ _ _ _ | .pandn _ _ _ _ => true
  | .pnot _ _ _ => true
  | .movi _ d _ => d1 d
  | .iaddi _ d _ _ | .andi _ d _ _ | .ori _ d _ _ | .xori _ d _ _ => d1 d
  | .movi2 _ _ d _ => d.dstW 2
  | .bra _ _ _ _ => true
  | .call _ _ _ _ k => k.dstW 2
  | .brx _ a | .ret _ a => a.srcW 2
  | .callx _ d a => d.dstW 2 && a.srcW 2
  | .exit _ | .yield _ => true
  | .trap _ _ | .brk _ _ => true
  | .pchk _ _ => true
  | .pyield _ _ => true
  | .ld8 _ m d | .ld8s _ m d | .ld16 _ m d | .ld16s _ m d | .ld32 _ m d | .ldp _ m d => loadForm 1 m d
  | .ld64 _ m d => loadForm 2 m d
  | .ld128 _ m d => loadForm 4 m d
  | .st8 _ m d | .st16 _ m d | .st32 _ m d | .stp _ m d => storeForm 1 m d
  | .st64 _ m d => storeForm 2 m d
  | .st128 _ m d => storeForm 4 m d
  | .pref _ m => globalForm m.b m.a m.sc && m.ord == .rlx
  | .prom _ d a _ | .promPin _ d a _ | .dem _ d a _ => d1 d && a.srcW 2
  | .objqRec _ d a _ => d1 d && a.srcW 2
  | .objqRes _ d a => d.dstW 2 && a.srcW 2
  | .cflush _ a _ => a.srcW 2
  | .cinv _ i d a _ => (i || d) && a.srcW 2
  | .atomAdd _ m w d c | .atomSub _ m w d c | .atomMin _ m w d c | .atomMax _ m w d c | .atomMinu _ m w d c
  | .atomMaxu _ m w d c | .atomAnd _ m w d c | .atomOr _ m w d c | .atomXor _ m w d c | .atomXchg _ m w d c
  | .atomCas _ m w d c => atomForm w m d c
  | .atomFadd _ m _ d c | .atomFmin _ m _ d c | .atomFmax _ m _ d c => atomForm false m d c
  | .fence _ _ o sc => o != .rlx && (!sc || o == .ar)
  | .fencex _ _ src dst => src != 0 && dst != 0
  | .lds32 _ m d => ldsForm 1 m d
  | .lds64 _ m d => ldsForm 2 m d
  | .lds128 _ m d => ldsForm 4 m d
  | .sts32 _ m d => stsForm 1 m d
  | .sts64 _ m d => stsForm 2 m d
  | .sts128 _ m d => stsForm 4 m d
  | .atomsAdd _ m w d c | .atomsSub _ m w d c | .atomsMin _ m w d c | .atomsMax _ m w d c | .atomsMinu _ m w d c
  | .atomsMaxu _ m w d c | .atomsAnd _ m w d c | .atomsOr _ m w d c | .atomsXor _ m w d c | .atomsXchg _ m w d c
  | .atomsCas _ m w d c => atomsForm w m d c
  | .atomsFadd _ m _ d c | .atomsFmin _ m _ d c | .atomsFmax _ m _ d c => atomsForm false m d c
  | .lxchSel _ _ d _ _ | .lxchXor _ _ d _ _ => d1 d
  | .lxchRdn _ _ _ d _ _ | .lxchRup _ _ _ d _ _ => d1 d
  | .lxchRev _ _ d _ => d1 d
  | .lmaskSome _ _ _ | .lmaskEvery _ _ _ | .lmaskSame _ _ _ => true
  | .lmaskMask _ d _ | .lmaskCount _ d _ => d1 d
  | .lredAdd _ d _ | .lredMin _ d _ | .lredMax _ d _ | .lredMinu _ d _ | .lredMaxu _ d _ | .lredAnd _ d _
  | .lredOr _ d _ | .lredXor _ d _ => d1 d
  | .xswap _ d _ => d1 d
  | .rdsr _ d _ => d1 d
  | .prof _ _ _ => true
  | .barSync _ _ _ | .barArv _ _ _ => true
  | .barWait _ _ => true
  | .mbarInit _ _ _ => true
  | .mbarArv _ d _ => d1 d
  | .mbarArvtx _ d _ _ => d1 d
  | .mbarTest _ _ _ _ => true
  | .mbarWait _ _ _ => true
  | .mbarInval _ _ => true
  | .qctlQbind _ _ _ => true
  | .qctlQstat _ d _ => d1 d
  | .macal _ _ | .mafree _ _ => true
  | .mown _ _ _ => true
  | .mload _ _ obj blk o a _ _ => (o == 0 || (blk && !obj)) && (!obj || a.srcW 2)
  | .mswap _ | .mwait _ => true
  | .mstream _ _ blk o _ _ _ => o == 0 || blk
  | .mdrain _ _ _ _ _ d _ => d1 d
  | .mfill _ _ _ _ _ => true
  | .mzero _ _ _ => true
  | .cpy _ _ d _ | .cpyq _ _ d _ => d1 d
  | .cpyg _ _ d _ _ | .cpys _ _ d _ _ => d1 d
  | .cwait _ _ | .ccan _ _ => true
  | .lnch _ d _ _ => d.dstW 2
  | .hwait _ d a | .hstat _ d a | .hstatOcd _ d a => d1 d && a.srcW 2
  | .hstatOrg _ d a | .hstatUp _ d a | .hdup _ d a => d.dstW 2 && a.srcW 2
  | .hfree _ a => a.srcW 2
  | .invk _ _ _ d _ _ => d.dstW 2
  | .hsend _ _ _ d _ b _ => d.dstW 2 && b.srcW 2
  | .coll _ _ _ d _ => d.dstW 2
  | .fadd _ _ d _ _ | .fsub _ _ d _ _ | .fmul _ _ d _ _ | .fmin _ _ d _ _ | .fmax _ _ d _ _ | .fsgn _ _ d _ _
  | .fdiv _ _ d _ _ => d1 d
  | .fabs _ _ d _ | .fneg _ _ d _ | .fsqrt _ _ d _ | .frcp _ _ d _ | .frsq _ _ d _ | .fex2 _ _ d _ | .flg2 _ _ d _
  | .fsin _ _ d _ | .fcos _ _ d _ | .ftanh _ _ d _ | .fsigm _ _ d _ => d1 d
  | .ffma _ _ d _ _ _ | .ffms _ _ d _ _ _ | .fnma _ _ d _ _ _ | .fnms _ _ d _ _ _ | .fdot _ _ d _ _ _ => d1 d
  | .fcmp _ _ _ _ _ _ _ => true
  | .fclass _ _ _ _ _ _ => true
  | .fcvt _ _ _ _ d a => d1 d && a.isReg
  | .fcvti _ _ _ _ _ d _ => d1 d
  | .ficvt _ _ _ _ d _ _ => d1 d
  | .fsum _ _ d _ _ => d1 d
  | .setfs _ _ _ => true
  | .getfs _ _ d => d1 d
  | .srseed _ a => a.srcW 2
  | .getsr _ d => d.dstW 2
  | .rdflag _ _ d => d1 d
  | .clrflag _ _ _ => true
  | .qnt _ _ _ _ d _ _ | .rqnt _ _ _ _ d _ _ => d1 d
  | .qntr _ _ _ _ d _ _ _ => d1 d
  | .dqnt _ _ _ _ d _ => d1 d
  | .csrr _ d _ => d1 d
  | .csrw _ _ _ => true
  | .csrs _ d _ _ | .csrc _ d _ _ => d1 d
  | .tretRes _ | .tretLanes _ | .tretWarp _ | .tretCrew _ | .tretLaunch _ => true
  | .tqpop _ d => d1 d
  | .orinvObj _ a | .orinvSub _ a => a.srcW 2
  | .orinvAll _ => true
  | .trapDelivery _ | .trapQueueOverflow _ | .warpRelease _ | .crewEnd _ | .launchAccept _ | .crewPlace _
  | .queueAgeing _ | .preemptWithdraw _ | .cooperativeSave _ | .forcedSave _ | .crewRestore _ => false
  | .launchDone _ | .launchCancel _ => false
  | .mloadComplete _ _ => false
  | .mstreamComplete _ _ => false
  | .copyCommandEnd _ _ _ => false
  | .completionRecordArrival _ _ => false
  | .faultUnitMigration _ _ => false
  | .migrationComplete _ _ => false
  | .relocationCommand _ => false
  | .relocationInvalidated _ | .relocationCopyDone _ | .relocationDone _ => false
  | .fabricRead _ | .fabricWrite _ | .fabricAtomic _ => false
  | .fabricReply _ => false
  | .fabricInvalidate _ _ | .fabricInvalidateAck _ _ => false
  | .fabricMulticast _ _ _ _ _ _ => false
  | .routeChange _ _ => false
  | .routeChangeNotice _ _ _ _ => false
  | .requestTimeout _ | .ackTimeoutReissue _ => false
  | .linkFailure _ => false
  | .dieLinkModuleRetire _ _ => false
  | .towerFence _ => false
  | .spireRetire _ _ => false
  | .domeFailure _ => false
  | .memoryDataError _ _ _ _ => false
  | .invokeArrival _ | .messageAccept _ => false
  | .messageReoffer _ => false
  | .stateReport _ => false
  | .breakNotice _ => false
  | .resultMove _ => false
  | .resultMoveAck _ _ => false
  | .collContribution _ => false
  | .collComplete _ => false
  | .collAbandon _ => false
  | .collDisagreement _ => false
  | .haltPresented _ | .debugResume _ => false
  | .debugStateWrite _ _ => false
  | .contextStop _ _ | .contextResume _ _ | .contextCreate _ _ | .contextDestroy _ _ => false
  | .contextStopComplete _ => false
  | .dirtyTrackingEnable _ _ _ => false
  | .qtailWrite _ _ _ | .queueEnable _ _ _ | .queueDisable _ _ _ => false
  | .hostOrtbaseWrite _ _ _ _ => false
  | .olctlModeChange _ _ _ | .dlOverflowClear _ _ _ => false
  | .registerWrite _ _ _ => false
  | .hostMemoryRead _ _ _ => false
  | .hostMemoryWrite _ _ _ => false
  | .coldStart | .warmStart | .getVersion | .getCapabilities | .negotiateAlgorithms | .getDigests | .getCertificate
  | .getMeasurements | .thermalThrottle | .thermalRecover | .thermalShutdown => false
  | .startComplete _ => false
  | .challenge _ => false
  | .collfault _ _ _ => false
  | .poisonedWriteback _ _ => false

end Sys2Proof
end

