-- ==== Sys2Proof/Decode.lean ====
section
/-! DEFINITION. From bits to instructions and back (R34 to R47): the five formats, the operand codes, the opcode
map, and the encoder written from the same tables. Every unused or reserved field must hold zero. -/

namespace Sys2Proof

/-- Why a word is no instruction. -/
inductive DecodeError
  | truncated            -- fewer than 8 bytes
  | major (op : Nat)     -- a major that the opcode map does not list
  | sub (op n : Nat)     -- a sub-operation that the map leaves unassigned
  | reserved             -- a reserved or unused field that is not zero
  | code (c : Nat)       -- a reserved operand code, or one that the field cannot hold
  | form                 -- an operand class or a field rule of the entry is broken
  deriving DecidableEq, Repr

/-! ### The formats (R35 to R40) -/

/-- The R format; X is split into the sub-operation (bits 0 to 3) and the modifiers (bits 4 to 12). -/
structure RWord where
  op  : Nat
  g   : Nat
  w   : Nat
  l   : Nat
  d   : Nat
  a   : Nat
  b   : Nat
  c   : Nat
  f   : Nat
  m   : Nat
  sub : Nat
  deriving DecidableEq, Repr

/-- The I format. -/
structure IWord where
  op  : Nat
  g   : Nat
  w   : Nat
  l   : Nat
  d   : Nat
  a   : Nat
  imm : Nat
  v   : Nat
  deriving DecidableEq, Repr

/-- The M format. -/
structure MWord where
  op  : Nat
  g   : Nat
  w   : Nat
  l   : Nat
  d   : Nat
  a   : Nat
  b   : Nat
  sc  : Nat
  off : Nat
  ord : Nat
  scp : Nat
  nt  : Nat
  deriving DecidableEq, Repr

/-- The A format. -/
structure AWord where
  op  : Nat
  g   : Nat
  w   : Nat
  l   : Nat
  d   : Nat
  a   : Nat
  b   : Nat
  c   : Nat
  sc  : Nat
  a64 : Nat
  aop : Nat
  ord : Nat
  scp : Nat
  f   : Nat
  deriving DecidableEq, Repr

/-- The B format. -/
structure BWord where
  op  : Nat
  g   : Nat
  u   : Nat
  res : Nat
  tgt : Nat
  rj  : Nat
  k   : Nat
  deriving DecidableEq, Repr

def rword (x : Nat) : RWord :=
  { op := bits x 56 8, g := bits x 52 4, w := bits x 51 1, l := bits x 49 2, d := bits x 41 8, a := bits x 33 8,
    b := bits x 25 8, c := bits x 17 8, f := bits x 13 4, m := bits x 4 9, sub := bits x 0 4 }

def iword (x : Nat) : IWord :=
  { op := bits x 56 8, g := bits x 52 4, w := bits x 51 1, l := bits x 49 2, d := bits x 41 8, a := bits x 33 8,
    imm := bits x 1 32, v := bits x 0 1 }

def mword (x : Nat) : MWord :=
  { op := bits x 56 8, g := bits x 52 4, w := bits x 51 1, l := bits x 49 2, d := bits x 41 8, a := bits x 33 8,
    b := bits x 25 8, sc := bits x 22 3, off := bits x 6 16, ord := bits x 4 2, scp := bits x 1 3, nt := bits x 0 1 }

def aword (x : Nat) : AWord :=
  { op := bits x 56 8, g := bits x 52 4, w := bits x 51 1, l := bits x 49 2, d := bits x 41 8, a := bits x 33 8,
    b := bits x 25 8, c := bits x 17 8, sc := bits x 14 3, a64 := bits x 13 1, aop := bits x 9 4, ord := bits x 7 2,
    scp := bits x 4 3, f := bits x 0 4 }

def bword (x : Nat) : BWord :=
  { op := bits x 56 8, g := bits x 52 4, u := bits x 51 1, res := bits x 49 2, tgt := bits x 25 24, rj := bits x 8 17,
    k := bits x 0 8 }

/-! ### Fields -/

/-- Unused and reserved fields hold zero (R44, R45). -/
def zeros (xs : List Nat) : Bool := xs.all (· == 0)

/-- An operand code (R41). -/
def opndOf (c : Nat) : Except DecodeError Opnd :=
  if h : c < 192 then .ok (.v ⟨c, h⟩)
  else if h : c - 192 < 32 then .ok (.s ⟨c - 192, h⟩)
  else if h : c - 224 < 8 then .ok (.q ⟨c - 224, h⟩)
  else if h : c - 232 < 3 then .ok (.b ⟨c - 232, h⟩)
  else if c = 235 then .ok .z
  else if c = 236 then .ok .lid
  else .error (.code c)

/-- A number below `n` in a field. -/
def finOf (n c : Nat) : Except DecodeError (Fin n) := if h : c < n then .ok ⟨c, h⟩ else .error (.code c)

/-- The G field (R29). -/
def guardOf (g : Nat) : Guard := { p := ⟨g % 8, Nat.mod_lt _ (by decide)⟩, neg := g / 8 % 2 == 1 }

/-- The L field (R31). -/
def latchOf (l : Nat) : Option (Fin 3) := if h : l - 1 < 3 then (if l = 0 then none else some ⟨l - 1, h⟩) else none

def hdrOf (g w l : Nat) : Hdr := { g := guardOf g, w := w == 1, l := latchOf l }

def scopeOf (c : Nat) : Except DecodeError Scope :=
  match c with
  | 0 => .ok .wrp
  | 1 => .ok .crw
  | 2 => .ok .die
  | 3 => .ok .dev
  | 4 => .ok .dom
  | _ => .error (.code c)

def orderOf (c : Nat) : Order :=
  match c with
  | 0 => .rlx
  | 1 => .acq
  | 2 => .rel
  | _ => .ar

def icondOf (c : Nat) : Except DecodeError ICond :=
  match c with
  | 0 => .ok .eq
  | 1 => .ok .ne
  | 2 => .ok .lt
  | 3 => .ok .le
  | 4 => .ok .gt
  | 5 => .ok .ge
  | 6 => .ok .ltu
  | 7 => .ok .leu
  | 8 => .ok .gtu
  | 9 => .ok .geu
  | _ => .error (.sub 0x16 c)

def fcondOf (c : Nat) : Except DecodeError FCond :=
  match c with
  | 0 => .ok .eq
  | 1 => .ok .ne
  | 2 => .ok .lt
  | 3 => .ok .le
  | 4 => .ok .gt
  | 5 => .ok .ge
  | 6 => .ok .un
  | 7 => .ok .ord
  | _ => .error (.sub 0x24 c)

def flagOf (c : Nat) : Except DecodeError FlagSel :=
  match c with
  | 0 => .ok .ff
  | 1 => .ok .qs
  | 2 => .ok .as
  | _ => .error (.code c)

/-! ### Shapes of the R format

Each reader checks the fields that its shape does not use, then reads the operands. -/

/-- Reads on when the given fields hold zero. -/
def clear (xs : List Nat) (k : Except DecodeError Instr) : Except DecodeError Instr :=
  if zeros xs then k else .error .reserved

def RWord.hdr (r : RWord) : Hdr := hdrOf r.g r.w r.l
def RWord.grd (r : RWord) : Guard := guardOf r.g

/-- No operand, no result. -/
def rG (r : RWord) (k : Guard → Instr) : Except DecodeError Instr :=
  clear [r.w, r.l, r.d, r.a, r.b, r.c, r.f, r.m, r.sub] (.ok (k r.grd))

def rDA (r : RWord) (k : Hdr → Opnd → Opnd → Instr) : Except DecodeError Instr :=
  clear [r.b, r.c, r.f, r.m] (do .ok (k r.hdr (← opndOf r.d) (← opndOf r.a)))

def rDAB (r : RWord) (k : Hdr → Opnd → Opnd → Opnd → Instr) : Except DecodeError Instr :=
  clear [r.c, r.f, r.m] (do .ok (k r.hdr (← opndOf r.d) (← opndOf r.a) (← opndOf r.b)))

def rDABC (r : RWord) (k : Hdr → Opnd → Opnd → Opnd → Opnd → Instr) : Except DecodeError Instr :=
  clear [r.f, r.m] (do .ok (k r.hdr (← opndOf r.d) (← opndOf r.a) (← opndOf r.b) (← opndOf r.c)))

def rD (r : RWord) (k : Hdr → Opnd → Instr) : Except DecodeError Instr :=
  clear [r.a, r.b, r.c, r.f, r.m] (do .ok (k r.hdr (← opndOf r.d)))

/-- One source, no result. -/
def rA (r : RWord) (k : Guard → Opnd → Instr) : Except DecodeError Instr :=
  clear [r.w, r.l, r.d, r.b, r.c, r.f, r.m] (do .ok (k r.grd (← opndOf r.a)))

/-- Two sources, no result. -/
def rAB (r : RWord) (k : Guard → Opnd → Opnd → Instr) : Except DecodeError Instr :=
  clear [r.w, r.l, r.d, r.c, r.f, r.m] (do .ok (k r.grd (← opndOf r.a) (← opndOf r.b)))

/-- Three predicates. -/
def rPPP (r : RWord) (k : Hdr → Pred → Pred → Pred → Instr) : Except DecodeError Instr :=
  clear [r.c, r.f, r.m] (do .ok (k r.hdr (← finOf 8 r.d) (← finOf 8 r.a) (← finOf 8 r.b)))

def rPP (r : RWord) (k : Hdr → Pred → Pred → Instr) : Except DecodeError Instr :=
  clear [r.b, r.c, r.f, r.m] (do .ok (k r.hdr (← finOf 8 r.d) (← finOf 8 r.a)))

/-- A predicate from a 32-bit source. -/
def rPA (r : RWord) (k : Hdr → Pred → Opnd → Instr) : Except DecodeError Instr :=
  clear [r.b, r.c, r.f, r.m] (do .ok (k r.hdr (← finOf 8 r.d) (← opndOf r.a)))

/-- A 32-bit destination from a predicate. -/
def rDP (r : RWord) (k : Hdr → Opnd → Pred → Instr) : Except DecodeError Instr :=
  clear [r.b, r.c, r.f, r.m] (do .ok (k r.hdr (← opndOf r.d) (← finOf 8 r.a)))

/-- Slot arithmetic: F names the slot. -/
def fDA (r : RWord) (k : Hdr → FSlot → Opnd → Opnd → Instr) : Except DecodeError Instr :=
  clear [r.b, r.c, r.m] (do .ok (k r.hdr (← finOf 16 r.f) (← opndOf r.d) (← opndOf r.a)))

def fDAB (r : RWord) (k : Hdr → FSlot → Opnd → Opnd → Opnd → Instr) : Except DecodeError Instr :=
  clear [r.c, r.m] (do .ok (k r.hdr (← finOf 16 r.f) (← opndOf r.d) (← opndOf r.a) (← opndOf r.b)))

def fDABC (r : RWord) (k : Hdr → FSlot → Opnd → Opnd → Opnd → Opnd → Instr) : Except DecodeError Instr :=
  clear [r.m] (do
    .ok (k r.hdr (← finOf 16 r.f) (← opndOf r.d) (← opndOf r.a) (← opndOf r.b) (← opndOf r.c)))

/-- Block instructions: O in X bits 4 and 5, and no latch (R129, R130). -/
def qDAB (r : RWord) (k : Guard → Bool → FSlot → Fin 3 → Opnd → Opnd → Opnd → Instr) : Except DecodeError Instr :=
  clear [r.c, r.l] (do
    .ok (k r.grd (r.w == 1) (← finOf 16 r.f) (← finOf 3 r.m) (← opndOf r.d) (← opndOf r.a) (← opndOf r.b)))

/-- Lane exchange: the segment width in X bits 4 to 6 (R154). -/
def lxDAB (r : RWord) (k : Hdr → Fin 6 → Opnd → Opnd → Opnd → Instr) : Except DecodeError Instr :=
  clear [r.c, r.f] (do .ok (k r.hdr (← finOf 6 r.m) (← opndOf r.d) (← opndOf r.a) (← opndOf r.b)))

/-- Lane exchange with `.clip` in X bit 7. -/
def lxClip (r : RWord) (k : Hdr → Fin 6 → Bool → Opnd → Opnd → Opnd → Instr) : Except DecodeError Instr :=
  clear [r.c, r.f, r.m / 16] (do
    .ok (k r.hdr (← finOf 6 (r.m % 8)) (r.m / 8 % 2 == 1) (← opndOf r.d) (← opndOf r.a) (← opndOf r.b)))

/-- A code in X bits 4 to 11, no operand, no result. -/
def rCode (r : RWord) (k : Guard → BitVec 8 → Instr) : Except DecodeError Instr :=
  clear [r.w, r.l, r.d, r.a, r.b, r.c, r.f, r.m / 256, r.sub] (.ok (k r.grd (BitVec.ofNat 8 r.m)))

/-- A copy command: its channel in X bits 4 to 6 (R301). -/
def cpDA (r : RWord) (k : Hdr → Fin 8 → Opnd → Opnd → Instr) : Except DecodeError Instr :=
  clear [r.b, r.c, r.f, r.sub] (do .ok (k r.hdr (← finOf 8 r.m) (← opndOf r.d) (← opndOf r.a)))

def cpDAB (r : RWord) (k : Hdr → Fin 8 → Opnd → Opnd → Opnd → Instr) : Except DecodeError Instr :=
  clear [r.c, r.f, r.sub] (do .ok (k r.hdr (← finOf 8 r.m) (← opndOf r.d) (← opndOf r.a) (← opndOf r.b)))

/-- A CSR number in X bits 4 to 12 and a source (R319). -/
def csrDA (r : RWord) (k : Hdr → Opnd → BitVec 9 → Opnd → Instr) : Except DecodeError Instr :=
  clear [r.b, r.c, r.f, r.sub] (do .ok (k r.hdr (← opndOf r.d) (BitVec.ofNat 9 r.m) (← opndOf r.a)))

/-- An instruction with no sub-operation. -/
def only (r : RWord) (k : Except DecodeError Instr) : Except DecodeError Instr := clear [r.sub] k

/-! ### The opcode map, R format (R47) -/

def parse10 (r : RWord) : Except DecodeError Instr :=
  match r.sub with
  | 0 => rDAB r .iadd
  | 1 => rDAB r .isub
  | 2 => rDAB r .imin
  | 3 => rDAB r .imax
  | 4 => rDAB r .iminu
  | 5 => rDAB r .imaxu
  | 6 => rDA r .iabs
  | 7 => rDA r .ineg
  | 8 => rDAB r .iaddsat
  | 9 => rDAB r .isubsat
  | n => .error (.sub 0x10 n)

def parse11 (r : RWord) : Except DecodeError Instr :=
  match r.sub with
  | 0 => rDAB r .and
  | 1 => rDAB r .or
  | 2 => rDAB r .xor
  | 3 => rDAB r .andn
  | 4 => rDAB r .orn
  | 5 => rDA r .not
  | 6 => clear [r.f, r.m / 256] (do
      .ok (.ltab r.hdr (← opndOf r.d) (← opndOf r.a) (← opndOf r.b) (← opndOf r.c) (BitVec.ofNat 8 r.m)))
  | n => .error (.sub 0x11 n)

def parse12 (r : RWord) : Except DecodeError Instr :=
  match r.sub with
  | 0 => rDAB r .imul
  | 1 => rDAB r .imulh
  | 2 => rDAB r .imulhu
  | 3 => rDABC r .imad
  | 4 => rDAB r .imulw
  | 5 => rDAB r .imulwu
  | 6 => rDAB r .idiv
  | 7 => rDAB r .idivu
  | 8 => rDAB r .irem
  | 9 => rDAB r .iremu
  | n => .error (.sub 0x12 n)

def parse13 (r : RWord) : Except DecodeError Instr :=
  match r.sub with
  | 0 => rDAB r .shl
  | 1 => rDAB r .shr
  | 2 => rDAB r .sar
  | 3 => rDAB r .rotl
  | 4 => rDAB r .rotr
  | n => .error (.sub 0x13 n)

def parse14 (r : RWord) : Except DecodeError Instr :=
  match r.sub with
  | 0 => rDA r .popc
  | 1 => rDA r .clz
  | 2 => rDA r .ctz
  | 3 => rDA r .brev
  | 4 => rDAB r .bfe
  | 5 => rDAB r .bfes
  | 6 => rDABC r .bfi
  | 7 => rDABC r .bgat
  | n => .error (.sub 0x14 n)

def parse15 (r : RWord) : Except DecodeError Instr :=
  match r.sub with
  | 0 => rDAB r .iadd2
  | 1 => rDAB r .isub2
  | 2 => rDAB r .shl2
  | 3 => rDAB r .shr2
  | 4 => rDAB r .sar2
  | 5 => rDAB r .padd
  | n => .error (.sub 0x15 n)

def parse16 (r : RWord) : Except DecodeError Instr :=
  clear [r.c, r.f, r.m / 2] (do
    .ok (.icmp r.hdr (← icondOf r.sub) (r.m % 2 == 1) (← finOf 8 r.d) (← opndOf r.a) (← opndOf r.b)))

def parse17 (r : RWord) : Except DecodeError Instr :=
  match r.sub with
  | 0 => rDA r .mov
  | 1 => clear [r.f, r.m] (do
      .ok (.sel r.hdr (← opndOf r.d) (← opndOf r.a) (← opndOf r.b) (← finOf 8 r.c)))
  | 2 => rDP r .movp
  | 3 => rPA r .setp
  | 4 => rDA r .mov2
  | n => .error (.sub 0x17 n)

def parse18 (r : RWord) : Except DecodeError Instr :=
  match r.sub with
  | 0 => rPPP r .pand
  | 1 => rPPP r .por
  | 2 => rPPP r .pxor
  | 3 => rPP r .pnot
  | 4 => rPPP r .pandn
  | n => .error (.sub 0x18 n)

def parse20 (r : RWord) : Except DecodeError Instr :=
  match r.sub with
  | 0 => fDAB r .fadd
  | 1 => fDAB r .fsub
  | 2 => fDAB r .fmul
  | 3 => fDAB r .fmin
  | 4 => fDAB r .fmax
  | 5 => fDA r .fabs
  | 6 => fDA r .fneg
  | 7 => fDAB r .fsgn
  | n => .error (.sub 0x20 n)

def parse21 (r : RWord) : Except DecodeError Instr :=
  match r.sub with
  | 0 => fDABC r .ffma
  | 1 => fDABC r .ffms
  | 2 => fDABC r .fnma
  | 3 => fDABC r .fnms
  | n => .error (.sub 0x21 n)

def parse22 (r : RWord) : Except DecodeError Instr :=
  match r.sub with
  | 0 => fDAB r .fdiv
  | 1 => fDA r .fsqrt
  | 2 => fDA r .frcp
  | 3 => fDA r .frsq
  | n => .error (.sub 0x22 n)

def parse23 (r : RWord) : Except DecodeError Instr :=
  match r.sub with
  | 0 => fDA r .fex2
  | 1 => fDA r .flg2
  | 2 => fDA r .fsin
  | 3 => fDA r .fcos
  | 4 => fDA r .ftanh
  | 5 => fDA r .fsigm
  | n => .error (.sub 0x23 n)

/-- `fcmp` and `fclass`: the sub-element in X bits 4 to 6. -/
def parse24 (r : RWord) : Except DecodeError Instr :=
  if r.sub = 8 then clear [r.c] (do
    .ok (.fclass r.hdr (← finOf 16 r.f) (← finOf 8 r.m) (← finOf 8 r.d) (← opndOf r.a) (← opndOf r.b)))
  else clear [r.c] (do
    .ok (.fcmp r.hdr (← finOf 16 r.f) (← fcondOf r.sub) (← finOf 8 r.m) (← finOf 8 r.d) (← opndOf r.a) (← opndOf r.b)))

def parse25 (r : RWord) : Except DecodeError Instr :=
  match r.sub with
  | 0 => clear [r.b] (do
      .ok (.fcvt r.hdr (← finOf 16 r.f) (← finOf 16 r.c) (← finOf 8 r.m) (← opndOf r.d) (← opndOf r.a)))
  | 1 => clear [r.b, r.c, r.m / 32] (do
      .ok (.fcvti r.hdr (← finOf 16 r.f) (← finOf 8 (r.m % 8)) (r.m / 8 % 2 == 1) (r.m / 16 % 2 == 1) (← opndOf r.d)
        (← opndOf r.a)))
  | 2 => clear [r.c, r.m / 16] (do
      .ok (.ficvt r.hdr (← finOf 16 r.f) (← finOf 8 (r.m % 8)) (r.m / 8 % 2 == 1) (← opndOf r.d) (← opndOf r.a)
        (← opndOf r.b)))
  | n => .error (.sub 0x25 n)

def parse26 (r : RWord) : Except DecodeError Instr :=
  match r.sub with
  | 0 => fDABC r .fdot
  | 1 => clear [r.b, r.m] (do
      .ok (.fsum r.hdr (← finOf 16 r.f) (← opndOf r.d) (← opndOf r.a) (← opndOf r.c)))
  | n => .error (.sub 0x26 n)

def parse27 (r : RWord) : Except DecodeError Instr :=
  match r.sub with
  | 0 => clear [r.w, r.l, r.d, r.b, r.c, r.m] (do .ok (.setfs r.grd (← finOf 16 r.f) (← opndOf r.a)))
  | 1 => clear [r.a, r.b, r.c, r.m] (do .ok (.getfs r.hdr (← finOf 16 r.f) (← opndOf r.d)))
  | 2 => rA r .srseed
  | 3 => rD r .getsr
  | 4 => clear [r.a, r.b, r.c, r.f] (do .ok (.rdflag r.hdr (← flagOf r.m) (← opndOf r.d)))
  | 5 => clear [r.w, r.l, r.d, r.b, r.c, r.f] (do .ok (.clrflag r.grd (← flagOf r.m) (← opndOf r.a)))
  | n => .error (.sub 0x27 n)

def parse28 (r : RWord) : Except DecodeError Instr :=
  match r.sub with
  | 0 => qDAB r .qnt
  | 1 => clear [r.l] (do
      .ok (.qntr r.grd (r.w == 1) (← finOf 16 r.f) (← finOf 3 r.m) (← opndOf r.d) (← opndOf r.a) (← opndOf r.b)
        (← opndOf r.c)))
  | 2 => qDAB r .rqnt
  | 3 => clear [r.b, r.c, r.l] (do
      .ok (.dqnt r.grd (r.w == 1) (← finOf 16 r.f) (← finOf 3 r.m) (← opndOf r.d) (← opndOf r.a)))
  | n => .error (.sub 0x28 n)

def parse30 (r : RWord) : Except DecodeError Instr :=
  match r.sub with
  | 0 => lxDAB r .lxchSel
  | 1 => lxClip r .lxchRdn
  | 2 => lxClip r .lxchRup
  | 3 => lxDAB r .lxchXor
  | 4 => clear [r.b, r.c, r.f] (do .ok (.lxchRev r.hdr (← finOf 6 r.m) (← opndOf r.d) (← opndOf r.a)))
  | n => .error (.sub 0x30 n)

def parse31 (r : RWord) : Except DecodeError Instr :=
  match r.sub with
  | 0 => rPP r .lmaskSome
  | 1 => rPP r .lmaskEvery
  | 2 => rDP r .lmaskMask
  | 3 => rPA r .lmaskSame
  | 4 => rDP r .lmaskCount
  | n => .error (.sub 0x31 n)

def parse32 (r : RWord) : Except DecodeError Instr :=
  match r.sub with
  | 0 => rDA r .lredAdd
  | 1 => rDA r .lredMin
  | 2 => rDA r .lredMax
  | 3 => rDA r .lredMinu
  | 4 => rDA r .lredMaxu
  | 5 => rDA r .lredAnd
  | 6 => rDA r .lredOr
  | 7 => rDA r .lredXor
  | n => .error (.sub 0x32 n)

def parse5F (r : RWord) : Except DecodeError Instr :=
  match r.sub with
  | 0 => rDAB r .prom
  | 1 => rDAB r .promPin
  | 2 => rDAB r .dem
  | n => .error (.sub 0x5F n)

/-- `objq`: SEL in X bits 4 and 5. -/
def parse61 (r : RWord) : Except DecodeError Instr :=
  match r.m with
  | 0 => clear [r.sub, r.c, r.f] (do .ok (.objqRec r.hdr (← opndOf r.d) (← opndOf r.a) (← opndOf r.b)))
  | 1 => clear [r.sub, r.b, r.c, r.f] (do .ok (.objqRes r.hdr (← opndOf r.d) (← opndOf r.a)))
  | n => .error (.sub 0x61 n)

def parse62 (r : RWord) : Except DecodeError Instr :=
  match r.sub with
  | 0 => rAB r .cflush
  | 1 => clear [r.w, r.l, r.d, r.c, r.f, r.m / 4] (do
      .ok (.cinv r.grd (r.m % 2 == 1) (r.m / 2 % 2 == 1) (← opndOf r.a) (← opndOf r.b)))
  | n => .error (.sub 0x62 n)

/-- `fence`: SCP in X bits 0 to 2, ORD in 4 and 5, SC in 6. -/
def parse63 (r : RWord) : Except DecodeError Instr :=
  clear [r.w, r.l, r.d, r.a, r.b, r.c, r.f, r.m / 8] (do
    .ok (.fence r.grd (← scopeOf r.sub) (orderOf (r.m % 4)) (r.m / 4 % 2 == 1)))

/-- `fencex`: SCP in X bits 0 to 2, FROM in 4 to 7, TO in 8 to 11. -/
def parse64 (r : RWord) : Except DecodeError Instr :=
  clear [r.w, r.l, r.d, r.a, r.b, r.c, r.f, r.m / 256] (do
    .ok (.fencex r.grd (← scopeOf r.sub) (BitVec.ofNat 4 r.m) (BitVec.ofNat 4 (r.m / 16))))

/-- `bar`: the barrier in X bits 4 to 7. -/
def parse70 (r : RWord) : Except DecodeError Instr :=
  match r.sub with
  | 0 => clear [r.w, r.l, r.d, r.a, r.c, r.f] (do .ok (.barSync r.grd (← finOf 16 r.m) (← opndOf r.b)))
  | 1 => clear [r.w, r.l, r.d, r.a, r.c, r.f] (do .ok (.barArv r.grd (← finOf 16 r.m) (← opndOf r.b)))
  | 2 => clear [r.w, r.l, r.d, r.a, r.b, r.c, r.f] (do .ok (.barWait r.grd (← finOf 16 r.m)))
  | n => .error (.sub 0x70 n)

def parse71 (r : RWord) : Except DecodeError Instr :=
  match r.sub with
  | 0 => rAB r .mbarInit
  | 1 => rDA r .mbarArv
  | 2 => rDAB r .mbarArvtx
  | 3 => clear [r.c, r.f, r.m] (do .ok (.mbarTest r.hdr (← finOf 8 r.d) (← opndOf r.a) (← opndOf r.b)))
  | 4 => rAB r .mbarWait
  | 5 => rA r .mbarInval
  | n => .error (.sub 0x71 n)

/-- `qctl`: a port number stands as its operand code. -/
def parse72 (r : RWord) : Except DecodeError Instr :=
  match r.sub with
  | 0 => clear [r.w, r.l, r.b, r.c, r.f, r.m] (do
      if r.d < 224 then .error (.code r.d) else .ok (.qctlQbind r.grd (← finOf 6 (r.d - 224)) (← opndOf r.a)))
  | 1 => clear [r.b, r.c, r.f, r.m] (do
      if r.a < 224 then .error (.code r.a) else .ok (.qctlQstat r.hdr (← opndOf r.d) (← finOf 8 (r.a - 224))))
  | n => .error (.sub 0x72 n)

/-- The matrix engine (R207 to R217). -/
def parse80 (r : RWord) : Except DecodeError Instr :=
  match r.op with
  | 0x80 => only r (rA r .macal)
  | 0x81 => only r (rA r .mafree)
  | 0x82 => only r (clear [r.w, r.l, r.d, r.b, r.c, r.f] (do .ok (.mown r.grd (← finOf 4 r.m) (← opndOf r.a))))
  | 0x83 => only r (clear [r.w, r.l, r.d, r.m / 16] (do
      .ok (.mload r.grd (← finOf 16 r.f) (r.m % 2 == 1) (r.m / 2 % 2 == 1) (BitVec.ofNat 2 (r.m / 4)) (← opndOf r.a)
        (← opndOf r.b) (← opndOf r.c))))
  | 0x84 => rG r .mswap
  | 0x85 => only r (clear [r.w, r.l, r.d, r.m / 8] (do
      .ok (.mstream r.grd (← finOf 16 r.f) (r.m % 2 == 1) (BitVec.ofNat 2 (r.m / 2)) (← opndOf r.a) (← opndOf r.b)
        (← opndOf r.c))))
  | 0x86 => only r (clear [r.l, r.b, r.c, r.m / 128] (do
      .ok (.mdrain r.grd (r.w == 1) (← finOf 16 r.f) (r.m % 2 == 1) (← finOf 64 (r.m / 2)) (← opndOf r.d)
        (← opndOf r.a))))
  | 0x87 => only r (clear [r.w, r.l, r.b, r.c, r.m % 2] (do
      .ok (.mfill r.grd (← finOf 16 r.f) (← finOf 64 (r.m / 2)) (← opndOf r.a) (← opndOf r.d))))
  | 0x88 => rG r .mwait
  | _ => only r (clear [r.w, r.l, r.d, r.b, r.c, r.f, r.m % 2] (do
      .ok (.mzero r.grd (← finOf 64 (r.m / 2)) (← opndOf r.a))))

/-- The copy engine (R301 to R304). -/
def parse90 (r : RWord) : Except DecodeError Instr :=
  match r.op with
  | 0x90 => cpDA r .cpy
  | 0x91 => cpDAB r .cpyg
  | 0x92 => cpDAB r .cpys
  | 0x93 => cpDA r .cpyq
  | 0x94 => only r (rA r .cwait)
  | _ => only r (rA r .ccan)

/-- The handle instructions (R194, R195, R379, R381, R387, R398). -/
def parseA0 (r : RWord) : Except DecodeError Instr :=
  match r.op with
  | 0xA0 => clear [r.sub, r.b, r.c, r.f, r.m / 256] (do
      .ok (.lnch r.hdr (← opndOf r.d) (← opndOf r.a) (BitVec.ofNat 8 r.m)))
  | 0xA1 => clear [r.sub, r.c, r.f, r.m / 16] (do
      .ok (.invk r.hdr (← finOf 8 (r.m % 8)) (r.m / 8 % 2 == 1) (← opndOf r.d) (← opndOf r.a) (← opndOf r.b)))
  | 0xA2 => clear [r.sub, r.f, r.m / 16] (do
      .ok (.hsend r.hdr (← finOf 8 (r.m % 8)) (r.m / 8 % 2 == 1) (← opndOf r.d) (← opndOf r.a) (← opndOf r.b)
        (← opndOf r.c)))
  | 0xA3 => only r (rDA r .hwait)
  | 0xA4 => match r.m with
    | 0 => only r (rDA { r with m := 0 } .hstat)
    | 1 => only r (rDA { r with m := 0 } .hstatOrg)
    | 2 => only r (rDA { r with m := 0 } .hstatUp)
    | 3 => only r (rDA { r with m := 0 } .hstatOcd)
    | n => .error (.sub 0xA4 n)
  | 0xA5 => only r (rA r .hfree)
  | 0xA6 => clear [r.sub, r.b, r.c, r.f, r.m / 16] (do
      .ok (.coll r.hdr (← finOf 8 (r.m % 8)) (r.m / 8 % 2 == 1) (← opndOf r.d) (← opndOf r.a)))
  | _ => only r (rDA r .hdup)

/-- Control registers, `tret`, `tqpop` and `orinv` (R319 to R323). -/
def parseC0 (r : RWord) : Except DecodeError Instr :=
  match r.op with
  | 0xC0 => clear [r.sub, r.a, r.b, r.c, r.f] (do .ok (.csrr r.hdr (← opndOf r.d) (BitVec.ofNat 9 r.m)))
  | 0xC1 => clear [r.sub, r.w, r.l, r.d, r.b, r.c, r.f] (do .ok (.csrw r.grd (BitVec.ofNat 9 r.m) (← opndOf r.a)))
  | 0xC2 => csrDA r .csrs
  | 0xC3 => csrDA r .csrc
  | 0xC4 => match r.m with
    | 0 => rG { r with m := 0 } .tretRes
    | 1 => rG { r with m := 0 } .tretLanes
    | 2 => rG { r with m := 0 } .tretWarp
    | 3 => rG { r with m := 0 } .tretCrew
    | 4 => rG { r with m := 0 } .tretLaunch
    | n => .error (.sub 0xC4 n)
  | 0xC5 => clear [r.sub, r.w, r.l, r.a, r.b, r.c, r.f, r.m] (do .ok (.tqpop r.grd (← opndOf r.d)))
  | _ => match r.m with
    | 0 => only r (rA { r with m := 0 } .orinvObj)
    | 1 => only r (rA { r with m := 0 } .orinvSub)
    | 2 => rG { r with m := 0 } .orinvAll
    | n => .error (.sub 0xC6 n)

/-- The control transfers of the R format, `pchk` and `pyield` (R102 to R106, R334, R335). -/
def parse40 (r : RWord) : Except DecodeError Instr :=
  match r.op with
  | 0x42 => only r (rA r .brx)
  | 0x43 => only r (rDA r .callx)
  | 0x44 => only r (rA r .ret)
  | 0x45 => rG r .exit
  | 0x46 => rG r .yield
  | 0x47 => rCode r .trap
  | 0x48 => rCode r .brk
  | 0x49 => clear [r.sub, r.a, r.b, r.c, r.f, r.m] (do .ok (.pchk r.hdr (← finOf 8 r.d)))
  | _ => clear [r.sub, r.w, r.l, r.d, r.a, r.b, r.c, r.f, r.m / 8] (.ok (.pyield r.grd (BitVec.ofNat 3 r.m)))

/-- Every major of the R format. -/
def parseR (r : RWord) : Except DecodeError Instr :=
  match r.op with
  | 0x01 => rG r .nop
  | 0x10 => parse10 r
  | 0x11 => parse11 r
  | 0x12 => parse12 r
  | 0x13 => parse13 r
  | 0x14 => parse14 r
  | 0x15 => parse15 r
  | 0x16 => parse16 r
  | 0x17 => parse17 r
  | 0x18 => parse18 r
  | 0x20 => parse20 r
  | 0x21 => parse21 r
  | 0x22 => parse22 r
  | 0x23 => parse23 r
  | 0x24 => parse24 r
  | 0x25 => parse25 r
  | 0x26 => parse26 r
  | 0x27 => parse27 r
  | 0x28 => parse28 r
  | 0x30 => parse30 r
  | 0x31 => parse31 r
  | 0x32 => parse32 r
  | 0x33 => only r (rDA r .xswap)
  | 0x34 => clear [r.sub, r.a, r.b, r.c, r.f] (do .ok (.rdsr r.hdr (← opndOf r.d) (← finOf 24 r.m)))
  | 0x35 => clear [r.sub, r.w, r.l, r.d, r.b, r.c, r.f, r.m / 256] (do
      .ok (.prof r.grd (BitVec.ofNat 8 r.m) (← opndOf r.a)))
  | 0x5F => parse5F r
  | 0x61 => parse61 r
  | 0x62 => parse62 r
  | 0x63 => parse63 r
  | 0x64 => parse64 r
  | 0x70 => parse70 r
  | 0x71 => parse71 r
  | 0x72 => parse72 r
  | n =>
    if 0x42 ≤ n ∧ n ≤ 0x4A then parse40 r
    else if 0x80 ≤ n ∧ n ≤ 0x89 then parse80 r
    else if 0x90 ≤ n ∧ n ≤ 0x95 then parse90 r
    else if 0xA0 ≤ n ∧ n ≤ 0xA7 then parseA0 r
    else if 0xC0 ≤ n ∧ n ≤ 0xC6 then parseC0 r
    else .error (.major n)

/-! ### The other formats -/

def iDA (r : IWord) (k : Hdr → Opnd → Opnd → Word → Instr) : Except DecodeError Instr :=
  clear [r.v] (do .ok (k (hdrOf r.g r.w r.l) (← opndOf r.d) (← opndOf r.a) (BitVec.ofNat 32 r.imm)))

/-- Majors 0x1A to 0x1F (R100). -/
def parseI (r : IWord) : Except DecodeError Instr :=
  match r.op with
  | 0x1A => clear [r.v, r.a] (do .ok (.movi (hdrOf r.g r.w r.l) (← opndOf r.d) (BitVec.ofNat 32 r.imm)))
  | 0x1B => iDA r .iaddi
  | 0x1C => iDA r .andi
  | 0x1D => iDA r .ori
  | 0x1E => iDA r .xori
  | _ => clear [r.a] (do .ok (.movi2 (hdrOf r.g r.w r.l) (r.v == 1) (← opndOf r.d) (BitVec.ofNat 32 r.imm)))

/-- The memory operand of the M format. -/
def memOf (r : MWord) : Except DecodeError MemOp := do
  let scp ← scopeOf r.scp
  let b ← opndOf r.b
  let a ← opndOf r.a
  .ok { nt := r.nt == 1, scp := scp, ord := orderOf r.ord, off := BitVec.ofNat 16 r.off, sc := BitVec.ofNat 3 r.sc,
        b := b, a := a }

def mLoad (r : MWord) (k : Hdr → MemOp → Opnd → Instr) : Except DecodeError Instr := do
  .ok (k (hdrOf r.g r.w r.l) (← memOf r) (← opndOf r.d))

def mStore (r : MWord) (k : Guard → MemOp → Opnd → Instr) : Except DecodeError Instr :=
  clear [r.w, r.l] (do .ok (k (guardOf r.g) (← memOf r) (← opndOf r.d)))

/-- Majors 0x50 to 0x5E and 0x68 to 0x6D (R110, R112, R164, R255). -/
def parseM (r : MWord) : Except DecodeError Instr :=
  match r.op with
  | 0x50 => mLoad r .ld8
  | 0x51 => mLoad r .ld8s
  | 0x52 => mLoad r .ld16
  | 0x53 => mLoad r .ld16s
  | 0x54 => mLoad r .ld32
  | 0x55 => mLoad r .ld64
  | 0x56 => mLoad r .ld128
  | 0x57 => mLoad r .ldp
  | 0x58 => mStore r .st8
  | 0x59 => mStore r .st16
  | 0x5A => mStore r .st32
  | 0x5B => mStore r .st64
  | 0x5C => mStore r .st128
  | 0x5D => mStore r .stp
  | 0x5E => clear [r.w, r.l, r.d] (do .ok (.pref (guardOf r.g) (← memOf r)))
  | 0x68 => mLoad r .lds32
  | 0x69 => mLoad r .lds64
  | 0x6A => mLoad r .lds128
  | 0x6B => mStore r .sts32
  | 0x6C => mStore r .sts64
  | _ => mStore r .sts128

/-- The memory operand of the A format. -/
def atomMem (r : AWord) : Except DecodeError AtomOp := do
  let scp ← scopeOf r.scp
  let b ← opndOf r.b
  let a ← opndOf r.a
  .ok { scp := scp, ord := orderOf r.ord, sc := BitVec.ofNat 3 r.sc, b := b, a := a }

/-- An integer operation or an exchange: F is zero. -/
def aInt (r : AWord) (k : Hdr → AtomOp → Bool → Opnd → Opnd → Instr) : Except DecodeError Instr :=
  clear [r.f] (do .ok (k (hdrOf r.g r.w r.l) (← atomMem r) (r.a64 == 1) (← opndOf r.d) (← opndOf r.c)))

/-- A slot operation: A64 is zero. -/
def aSlot (r : AWord) (k : Hdr → AtomOp → FSlot → Opnd → Opnd → Instr) : Except DecodeError Instr :=
  clear [r.a64] (do .ok (k (hdrOf r.g r.w r.l) (← atomMem r) (← finOf 16 r.f) (← opndOf r.d) (← opndOf r.c)))

/-- Major 0x60 (R272). -/
def parse60 (r : AWord) : Except DecodeError Instr :=
  match r.aop with
  | 0 => aInt r .atomAdd
  | 1 => aInt r .atomSub
  | 2 => aInt r .atomMin
  | 3 => aInt r .atomMax
  | 4 => aInt r .atomMinu
  | 5 => aInt r .atomMaxu
  | 6 => aInt r .atomAnd
  | 7 => aInt r .atomOr
  | 8 => aInt r .atomXor
  | 9 => aInt r .atomXchg
  | 10 => aInt r .atomCas
  | 11 => aSlot r .atomFadd
  | 12 => aSlot r .atomFmin
  | 13 => aSlot r .atomFmax
  | n => .error (.sub 0x60 n)

/-- Major 0x6E (R165). -/
def parse6E (r : AWord) : Except DecodeError Instr :=
  match r.aop with
  | 0 => aInt r .atomsAdd
  | 1 => aInt r .atomsSub
  | 2 => aInt r .atomsMin
  | 3 => aInt r .atomsMax
  | 4 => aInt r .atomsMinu
  | 5 => aInt r .atomsMaxu
  | 6 => aInt r .atomsAnd
  | 7 => aInt r .atomsOr
  | 8 => aInt r .atomsXor
  | 9 => aInt r .atomsXchg
  | 10 => aInt r .atomsCas
  | 11 => aSlot r .atomsFadd
  | 12 => aSlot r .atomsFmin
  | 13 => aSlot r .atomsFmax
  | n => .error (.sub 0x6E n)

/-- Majors 0x40 and 0x41 (R101). -/
def parseB (r : BWord) : Except DecodeError Instr :=
  match r.op with
  | 0x40 => clear [r.res, r.k] (.ok (.bra (guardOf r.g) (r.u == 1) (BitVec.ofNat 17 r.rj) (BitVec.ofNat 24 r.tgt)))
  | _ => clear [r.res] (do
      .ok (.call (guardOf r.g) (r.u == 1) (BitVec.ofNat 17 r.rj) (BitVec.ofNat 24 r.tgt) (← opndOf r.k)))

/-- The fields of a 64-bit word, read under its major's format. -/
def parse (w : Nat) : Except DecodeError Instr :=
  let op := bits w 56 8
  if op = 0 then .ok .ill
  else if 0x1A ≤ op ∧ op ≤ 0x1F then parseI (iword w)
  else if op = 0x40 ∨ op = 0x41 then parseB (bword w)
  else if (0x50 ≤ op ∧ op ≤ 0x5E) ∨ (0x68 ≤ op ∧ op ≤ 0x6D) then parseM (mword w)
  else if op = 0x60 then parse60 (aword w)
  else if op = 0x6E then parse6E (aword w)
  else parseR (rword w)

/-- The instruction of a 64-bit word. -/
def decodeWord (w : Nat) : Except DecodeError Instr :=
  match parse w with
  | .error e => .error e
  | .ok i => if wellFormed i then .ok i else .error .form

/-- The number whose bytes, lowest first, are given (R25, R34). -/
def wordOf : List Byte → Nat
  | [] => 0
  | b :: bs => b.toNat + 256 * wordOf bs

/-- The instruction at the start of a list of bytes, and the bytes after it. -/
def decode (bs : List Byte) : Except DecodeError (Instr × List Byte) :=
  if bs.length < 8 then .error .truncated
  else match decodeWord (wordOf (bs.take 8)) with
    | .error e => .error e
    | .ok i => .ok (i, bs.drop 8)

/-! ### The encoder -/

def Opnd.code (o : Opnd) : Nat :=
  match o with
  | .v n => n.val
  | .s n => 192 + n.val
  | .q n => 224 + n.val
  | .b n => 232 + n.val
  | .z => 235
  | .lid => 236

def Guard.code (g : Guard) : Nat := g.p.val + (if g.neg then 8 else 0)

def latchCode (l : Option (Fin 3)) : Nat :=
  match l with
  | none => 0
  | some k => k.val + 1

/-- A one-bit field. -/
def flagBit (b : Bool) : Nat := if b then 1 else 0

def Scope.code (c : Scope) : Nat :=
  match c with
  | .wrp => 0
  | .crw => 1
  | .die => 2
  | .dev => 3
  | .dom => 4

def Order.code (c : Order) : Nat :=
  match c with
  | .rlx => 0
  | .acq => 1
  | .rel => 2
  | .ar => 3

def ICond.code (c : ICond) : Nat :=
  match c with
  | .eq => 0
  | .ne => 1
  | .lt => 2
  | .le => 3
  | .gt => 4
  | .ge => 5
  | .ltu => 6
  | .leu => 7
  | .gtu => 8
  | .geu => 9

def FCond.code (c : FCond) : Nat :=
  match c with
  | .eq => 0
  | .ne => 1
  | .lt => 2
  | .le => 3
  | .gt => 4
  | .ge => 5
  | .un => 6
  | .ord => 7

def FlagSel.code (c : FlagSel) : Nat :=
  match c with
  | .ff => 0
  | .qs => 1
  | .as => 2

/-- Bits 49 to 63: L, W, G and OP. -/
def top (op : Nat) (h : Hdr) : Nat :=
  2 ^ 49 * latchCode h.l + 2 ^ 51 * flagBit h.w + 2 ^ 52 * h.g.code + 2 ^ 56 * op

/-- The header of an instruction that has no result. -/
def Guard.bare (g : Guard) : Hdr := { g := g, w := false, l := none }

def eR (op sub m f : Nat) (h : Hdr) (d a b c : Nat) : Nat :=
  sub + 2 ^ 4 * m + 2 ^ 13 * f + 2 ^ 17 * c + 2 ^ 25 * b + 2 ^ 33 * a + 2 ^ 41 * d + top op h

def eI (op : Nat) (h : Hdr) (d a : Nat) (imm : Word) (v : Nat) : Nat :=
  v + 2 * imm.toNat + 2 ^ 33 * a + 2 ^ 41 * d + top op h

def eM (op : Nat) (h : Hdr) (m : MemOp) (d : Nat) : Nat :=
  flagBit m.nt + 2 * m.scp.code + 2 ^ 4 * m.ord.code + 2 ^ 6 * m.off.toNat + 2 ^ 22 * m.sc.toNat + 2 ^ 25 * m.b.code +
    2 ^ 33 * m.a.code + 2 ^ 41 * d + top op h

def eA (op aop f a64 : Nat) (h : Hdr) (m : AtomOp) (d c : Nat) : Nat :=
  f + 2 ^ 4 * m.scp.code + 2 ^ 7 * m.ord.code + 2 ^ 9 * aop + 2 ^ 13 * a64 + 2 ^ 14 * m.sc.toNat + 2 ^ 17 * c +
    2 ^ 25 * m.b.code + 2 ^ 33 * m.a.code + 2 ^ 41 * d + top op h

def eB (op : Nat) (g : Guard) (u : Bool) (rj : BitVec 17) (tgt : BitVec 24) (k : Nat) : Nat :=
  k + 2 ^ 8 * rj.toNat + 2 ^ 25 * tgt.toNat + 2 ^ 51 * flagBit u + 2 ^ 52 * g.code + 2 ^ 56 * op

/-- The common shapes. -/
def eDA (op sub : Nat) (h : Hdr) (d a : Opnd) : Nat := eR op sub 0 0 h d.code a.code 0 0
def eDAB (op sub : Nat) (h : Hdr) (d a b : Opnd) : Nat := eR op sub 0 0 h d.code a.code b.code 0
def eDABC (op sub : Nat) (h : Hdr) (d a b c : Opnd) : Nat := eR op sub 0 0 h d.code a.code b.code c.code
def eFDA (op sub : Nat) (h : Hdr) (f : FSlot) (d a : Opnd) : Nat := eR op sub 0 f.val h d.code a.code 0 0
def eFDAB (op sub : Nat) (h : Hdr) (f : FSlot) (d a b : Opnd) : Nat := eR op sub 0 f.val h d.code a.code b.code 0
def eFDABC (op sub : Nat) (h : Hdr) (f : FSlot) (d a b c : Opnd) : Nat :=
  eR op sub 0 f.val h d.code a.code b.code c.code
def eA1 (op sub : Nat) (g : Guard) (a : Opnd) : Nat := eR op sub 0 0 g.bare 0 a.code 0 0
def eG (op m : Nat) (g : Guard) : Nat := eR op 0 m 0 g.bare 0 0 0 0

/-- The word of an instruction; an event has none. -/
def encode : Instr → Nat
  | .ill => 0
  | .nop g => eG 0x01 0 g
  | .iadd h d a b => eDAB 0x10 0 h d a b
  | .isub h d a b => eDAB 0x10 1 h d a b
  | .imin h d a b => eDAB 0x10 2 h d a b
  | .imax h d a b => eDAB 0x10 3 h d a b
  | .iminu h d a b => eDAB 0x10 4 h d a b
  | .imaxu h d a b => eDAB 0x10 5 h d a b
  | .iabs h d a => eDA 0x10 6 h d a
  | .ineg h d a => eDA 0x10 7 h d a
  | .iaddsat h d a b => eDAB 0x10 8 h d a b
  | .isubsat h d a b => eDAB 0x10 9 h d a b
  | .and h d a b => eDAB 0x11 0 h d a b
  | .or h d a b => eDAB 0x11 1 h d a b
  | .xor h d a b => eDAB 0x11 2 h d a b
  | .andn h d a b => eDAB 0x11 3 h d a b
  | .orn h d a b => eDAB 0x11 4 h d a b
  | .not h d a => eDA 0x11 5 h d a
  | .ltab h d a b c tt => eR 0x11 6 tt.toNat 0 h d.code a.code b.code c.code
  | .imul h d a b => eDAB 0x12 0 h d a b
  | .imulh h d a b => eDAB 0x12 1 h d a b
  | .imulhu h d a b => eDAB 0x12 2 h d a b
  | .imad h d a b c => eDABC 0x12 3 h d a b c
  | .imulw h d a b => eDAB 0x12 4 h d a b
  | .imulwu h d a b => eDAB 0x12 5 h d a b
  | .idiv h d a b => eDAB 0x12 6 h d a b
  | .idivu h d a b => eDAB 0x12 7 h d a b
  | .irem h d a b => eDAB 0x12 8 h d a b
  | .iremu h d a b => eDAB 0x12 9 h d a b
  | .shl h d a b => eDAB 0x13 0 h d a b
  | .shr h d a b => eDAB 0x13 1 h d a b
  | .sar h d a b => eDAB 0x13 2 h d a b
  | .rotl h d a b => eDAB 0x13 3 h d a b
  | .rotr h d a b => eDAB 0x13 4 h d a b
  | .popc h d a => eDA 0x14 0 h d a
  | .clz h d a => eDA 0x14 1 h d a
  | .ctz h d a => eDA 0x14 2 h d a
  | .brev h d a => eDA 0x14 3 h d a
  | .bfe h d a b => eDAB 0x14 4 h d a b
  | .bfes h d a b => eDAB 0x14 5 h d a b
  | .bfi h d a b c => eDABC 0x14 6 h d a b c
  | .bgat h d a b c => eDABC 0x14 7 h d a b c
  | .iadd2 h d a b => eDAB 0x15 0 h d a b
  | .isub2 h d a b => eDAB 0x15 1 h d a b
  | .shl2 h d a b => eDAB 0x15 2 h d a b
  | .shr2 h d a b => eDAB 0x15 3 h d a b
  | .sar2 h d a b => eDAB 0x15 4 h d a b
  | .padd h d a b => eDAB 0x15 5 h d a b
  | .icmp h cond wide d a b => eR 0x16 cond.code (flagBit wide) 0 h d.val a.code b.code 0
  | .mov h d a => eDA 0x17 0 h d a
  | .sel h d a b p => eR 0x17 1 0 0 h d.code a.code b.code p.val
  | .movp h d p => eR 0x17 2 0 0 h d.code p.val 0 0
  | .setp h d a => eR 0x17 3 0 0 h d.val a.code 0 0
  | .mov2 h d a => eDA 0x17 4 h d a
  | .pand h d a b => eR 0x18 0 0 0 h d.val a.val b.val 0
  | .por h d a b => eR 0x18 1 0 0 h d.val a.val b.val 0
  | .pxor h d a b => eR 0x18 2 0 0 h d.val a.val b.val 0
  | .pnot h d a => eR 0x18 3 0 0 h d.val a.val 0 0
  | .pandn h d a b => eR 0x18 4 0 0 h d.val a.val b.val 0
  | .movi h d imm => eI 0x1A h d.code 0 imm 0
  | .iaddi h d a imm => eI 0x1B h d.code a.code imm 0
  | .andi h d a imm => eI 0x1C h d.code a.code imm 0
  | .ori h d a imm => eI 0x1D h d.code a.code imm 0
  | .xori h d a imm => eI 0x1E h d.code a.code imm 0
  | .movi2 h zx d imm => eI 0x1F h d.code 0 imm (flagBit zx)
  | .bra g u rj tgt => eB 0x40 g u rj tgt 0
  | .call g u rj tgt k => eB 0x41 g u rj tgt k.code
  | .brx g a => eA1 0x42 0 g a
  | .callx h d a => eDA 0x43 0 h d a
  | .ret g a => eA1 0x44 0 g a
  | .exit g => eG 0x45 0 g
  | .yield g => eG 0x46 0 g
  | .trap g code => eG 0x47 code.toNat g
  | .brk g code => eG 0x48 code.toNat g
  | .pchk h d => eR 0x49 0 0 0 h d.val 0 0 0
  | .pyield g dead => eG 0x4A dead.toNat g
  | .ld8 h m d => eM 0x50 h m d.code
  | .ld8s h m d => eM 0x51 h m d.code
  | .ld16 h m d => eM 0x52 h m d.code
  | .ld16s h m d => eM 0x53 h m d.code
  | .ld32 h m d => eM 0x54 h m d.code
  | .ld64 h m d => eM 0x55 h m d.code
  | .ld128 h m d => eM 0x56 h m d.code
  | .ldp h m d => eM 0x57 h m d.code
  | .st8 g m d => eM 0x58 g.bare m d.code
  | .st16 g m d => eM 0x59 g.bare m d.code
  | .st32 g m d => eM 0x5A g.bare m d.code
  | .st64 g m d => eM 0x5B g.bare m d.code
  | .st128 g m d => eM 0x5C g.bare m d.code
  | .stp g m d => eM 0x5D g.bare m d.code
  | .pref g m => eM 0x5E g.bare m 0
  | .prom h d a b => eDAB 0x5F 0 h d a b
  | .promPin h d a b => eDAB 0x5F 1 h d a b
  | .dem h d a b => eDAB 0x5F 2 h d a b
  | .objqRec h d a b => eR 0x61 0 0 0 h d.code a.code b.code 0
  | .objqRes h d a => eR 0x61 0 1 0 h d.code a.code 0 0
  | .cflush g a b => eR 0x62 0 0 0 g.bare 0 a.code b.code 0
  | .cinv g selI selD a b => eR 0x62 1 (flagBit selI + 2 * flagBit selD) 0 g.bare 0 a.code b.code 0
  | .atomAdd h m wide d c => eA 0x60 0 0 (flagBit wide) h m d.code c.code
  | .atomSub h m wide d c => eA 0x60 1 0 (flagBit wide) h m d.code c.code
  | .atomMin h m wide d c => eA 0x60 2 0 (flagBit wide) h m d.code c.code
  | .atomMax h m wide d c => eA 0x60 3 0 (flagBit wide) h m d.code c.code
  | .atomMinu h m wide d c => eA 0x60 4 0 (flagBit wide) h m d.code c.code
  | .atomMaxu h m wide d c => eA 0x60 5 0 (flagBit wide) h m d.code c.code
  | .atomAnd h m wide d c => eA 0x60 6 0 (flagBit wide) h m d.code c.code
  | .atomOr h m wide d c => eA 0x60 7 0 (flagBit wide) h m d.code c.code
  | .atomXor h m wide d c => eA 0x60 8 0 (flagBit wide) h m d.code c.code
  | .atomXchg h m wide d c => eA 0x60 9 0 (flagBit wide) h m d.code c.code
  | .atomCas h m wide d c => eA 0x60 10 0 (flagBit wide) h m d.code c.code
  | .atomFadd h m f d c => eA 0x60 11 f.val 0 h m d.code c.code
  | .atomFmin h m f d c => eA 0x60 12 f.val 0 h m d.code c.code
  | .atomFmax h m f d c => eA 0x60 13 f.val 0 h m d.code c.code
  | .fence g scp ord sc => eR 0x63 scp.code (ord.code + 4 * flagBit sc) 0 g.bare 0 0 0 0
  | .fencex g scp src dst => eR 0x64 scp.code (src.toNat + 16 * dst.toNat) 0 g.bare 0 0 0 0
  | .lds32 h m d => eM 0x68 h m d.code
  | .lds64 h m d => eM 0x69 h m d.code
  | .lds128 h m d => eM 0x6A h m d.code
  | .sts32 g m d => eM 0x6B g.bare m d.code
  | .sts64 g m d => eM 0x6C g.bare m d.code
  | .sts128 g m d => eM 0x6D g.bare m d.code
  | .atomsAdd h m wide d c => eA 0x6E 0 0 (flagBit wide) h m d.code c.code
  | .atomsSub h m wide d c => eA 0x6E 1 0 (flagBit wide) h m d.code c.code
  | .atomsMin h m wide d c => eA 0x6E 2 0 (flagBit wide) h m d.code c.code
  | .atomsMax h m wide d c => eA 0x6E 3 0 (flagBit wide) h m d.code c.code
  | .atomsMinu h m wide d c => eA 0x6E 4 0 (flagBit wide) h m d.code c.code
  | .atomsMaxu h m wide d c => eA 0x6E 5 0 (flagBit wide) h m d.code c.code
  | .atomsAnd h m wide d c => eA 0x6E 6 0 (flagBit wide) h m d.code c.code
  | .atomsOr h m wide d c => eA 0x6E 7 0 (flagBit wide) h m d.code c.code
  | .atomsXor h m wide d c => eA 0x6E 8 0 (flagBit wide) h m d.code c.code
  | .atomsXchg h m wide d c => eA 0x6E 9 0 (flagBit wide) h m d.code c.code
  | .atomsCas h m wide d c => eA 0x6E 10 0 (flagBit wide) h m d.code c.code
  | .atomsFadd h m f d c => eA 0x6E 11 f.val 0 h m d.code c.code
  | .atomsFmin h m f d c => eA 0x6E 12 f.val 0 h m d.code c.code
  | .atomsFmax h m f d c => eA 0x6E 13 f.val 0 h m d.code c.code
  | .lxchSel h seg d a b => eR 0x30 0 seg.val 0 h d.code a.code b.code 0
  | .lxchRdn h seg clip d a b => eR 0x30 1 (seg.val + 8 * flagBit clip) 0 h d.code a.code b.code 0
  | .lxchRup h seg clip d a b => eR 0x30 2 (seg.val + 8 * flagBit clip) 0 h d.code a.code b.code 0
  | .lxchXor h seg d a b => eR 0x30 3 seg.val 0 h d.code a.code b.code 0
  | .lxchRev h seg d a => eR 0x30 4 seg.val 0 h d.code a.code 0 0
  | .lmaskSome h d a => eR 0x31 0 0 0 h d.val a.val 0 0
  | .lmaskEvery h d a => eR 0x31 1 0 0 h d.val a.val 0 0
  | .lmaskMask h d a => eR 0x31 2 0 0 h d.code a.val 0 0
  | .lmaskSame h d a => eR 0x31 3 0 0 h d.val a.code 0 0
  | .lmaskCount h d a => eR 0x31 4 0 0 h d.code a.val 0 0
  | .lredAdd h d a => eDA 0x32 0 h d a
  | .lredMin h d a => eDA 0x32 1 h d a
  | .lredMax h d a => eDA 0x32 2 h d a
  | .lredMinu h d a => eDA 0x32 3 h d a
  | .lredMaxu h d a => eDA 0x32 4 h d a
  | .lredAnd h d a => eDA 0x32 5 h d a
  | .lredOr h d a => eDA 0x32 6 h d a
  | .lredXor h d a => eDA 0x32 7 h d a
  | .xswap h d a => eDA 0x33 0 h d a
  | .rdsr h d n => eR 0x34 0 n.val 0 h d.code 0 0 0
  | .prof g code a => eR 0x35 0 code.toNat 0 g.bare 0 a.code 0 0
  | .barSync g n b => eR 0x70 0 n.val 0 g.bare 0 0 b.code 0
  | .barArv g n b => eR 0x70 1 n.val 0 g.bare 0 0 b.code 0
  | .barWait g n => eR 0x70 2 n.val 0 g.bare 0 0 0 0
  | .mbarInit g a b => eR 0x71 0 0 0 g.bare 0 a.code b.code 0
  | .mbarArv h d a => eDA 0x71 1 h d a
  | .mbarArvtx h d a b => eDAB 0x71 2 h d a b
  | .mbarTest h d a b => eR 0x71 3 0 0 h d.val a.code b.code 0
  | .mbarWait g a b => eR 0x71 4 0 0 g.bare 0 a.code b.code 0
  | .mbarInval g a => eA1 0x71 5 g a
  | .qctlQbind g d a => eR 0x72 0 0 0 g.bare (224 + d.val) a.code 0 0
  | .qctlQstat h d a => eR 0x72 1 0 0 h d.code (224 + a.val) 0 0
  | .macal g a => eA1 0x80 0 g a
  | .mafree g a => eA1 0x81 0 g a
  | .mown g band a => eR 0x82 0 band.val 0 g.bare 0 a.code 0 0
  | .mload g f obj blk o a b c =>
    eR 0x83 0 (flagBit obj + 2 * flagBit blk + 4 * o.toNat) f.val g.bare 0 a.code b.code c.code
  | .mswap g => eG 0x84 0 g
  | .mstream g f blk o a b c => eR 0x85 0 (flagBit blk + 2 * o.toNat) f.val g.bare 0 a.code b.code c.code
  | .mdrain g w f clr rows d a =>
    eR 0x86 0 (flagBit clr + 2 * rows.val) f.val { g := g, w := w, l := none } d.code a.code 0 0
  | .mfill g f rows a d => eR 0x87 0 (2 * rows.val) f.val g.bare d.code a.code 0 0
  | .mzero g rows a => eR 0x89 0 (2 * rows.val) 0 g.bare 0 a.code 0 0
  | .mwait g => eG 0x88 0 g
  | .cpy h chan d a => eR 0x90 0 chan.val 0 h d.code a.code 0 0
  | .cpyg h chan d a b => eR 0x91 0 chan.val 0 h d.code a.code b.code 0
  | .cpys h chan d a b => eR 0x92 0 chan.val 0 h d.code a.code b.code 0
  | .cpyq h chan d a => eR 0x93 0 chan.val 0 h d.code a.code 0 0
  | .cwait g a => eA1 0x94 0 g a
  | .ccan g a => eA1 0x95 0 g a
  | .lnch h d a qn => eR 0xA0 0 qn.toNat 0 h d.code a.code 0 0
  | .hwait h d a => eDA 0xA3 0 h d a
  | .hstat h d a => eR 0xA4 0 0 0 h d.code a.code 0 0
  | .hstatOrg h d a => eR 0xA4 0 1 0 h d.code a.code 0 0
  | .hstatUp h d a => eR 0xA4 0 2 0 h d.code a.code 0 0
  | .hstatOcd h d a => eR 0xA4 0 3 0 h d.code a.code 0 0
  | .hfree g a => eA1 0xA5 0 g a
  | .hdup h d a => eDA 0xA7 0 h d a
  | .invk h p ntf d a b => eR 0xA1 0 (p.val + 8 * flagBit ntf) 0 h d.code a.code b.code 0
  | .hsend h p ntf d a b c => eR 0xA2 0 (p.val + 8 * flagBit ntf) 0 h d.code a.code b.code c.code
  | .coll h p ntf d a => eR 0xA6 0 (p.val + 8 * flagBit ntf) 0 h d.code a.code 0 0
  | .fadd h f d a b => eFDAB 0x20 0 h f d a b
  | .fsub h f d a b => eFDAB 0x20 1 h f d a b
  | .fmul h f d a b => eFDAB 0x20 2 h f d a b
  | .fmin h f d a b => eFDAB 0x20 3 h f d a b
  | .fmax h f d a b => eFDAB 0x20 4 h f d a b
  | .fabs h f d a => eFDA 0x20 5 h f d a
  | .fneg h f d a => eFDA 0x20 6 h f d a
  | .fsgn h f d a b => eFDAB 0x20 7 h f d a b
  | .ffma h f d a b c => eFDABC 0x21 0 h f d a b c
  | .ffms h f d a b c => eFDABC 0x21 1 h f d a b c
  | .fnma h f d a b c => eFDABC 0x21 2 h f d a b c
  | .fnms h f d a b c => eFDABC 0x21 3 h f d a b c
  | .fdiv h f d a b => eFDAB 0x22 0 h f d a b
  | .fsqrt h f d a => eFDA 0x22 1 h f d a
  | .frcp h f d a => eFDA 0x22 2 h f d a
  | .frsq h f d a => eFDA 0x22 3 h f d a
  | .fex2 h f d a => eFDA 0x23 0 h f d a
  | .flg2 h f d a => eFDA 0x23 1 h f d a
  | .fsin h f d a => eFDA 0x23 2 h f d a
  | .fcos h f d a => eFDA 0x23 3 h f d a
  | .ftanh h f d a => eFDA 0x23 4 h f d a
  | .fsigm h f d a => eFDA 0x23 5 h f d a
  | .fcmp h f cond k d a b => eR 0x24 cond.code k.val f.val h d.val a.code b.code 0
  | .fclass h f k d a b => eR 0x24 8 k.val f.val h d.val a.code b.code 0
  | .fcvt h f src grp d a => eR 0x25 0 grp.val f.val h d.code a.code 0 src.val
  | .fcvti h f k uns trunc d a => eR 0x25 1 (k.val + 8 * flagBit uns + 16 * flagBit trunc) f.val h d.code a.code 0 0
  | .ficvt h f k uns d a b => eR 0x25 2 (k.val + 8 * flagBit uns) f.val h d.code a.code b.code 0
  | .fdot h f d a b c => eFDABC 0x26 0 h f d a b c
  | .fsum h f d a c => eR 0x26 1 0 f.val h d.code a.code 0 c.code
  | .setfs g f a => eR 0x27 0 0 f.val g.bare 0 a.code 0 0
  | .getfs h f d => eR 0x27 1 0 f.val h d.code 0 0 0
  | .srseed g a => eA1 0x27 2 g a
  | .getsr h d => eR 0x27 3 0 0 h d.code 0 0 0
  | .rdflag h sel d => eR 0x27 4 sel.code 0 h d.code 0 0 0
  | .clrflag g sel a => eR 0x27 5 sel.code 0 g.bare 0 a.code 0 0
  | .qnt g w f o d a b => eR 0x28 0 o.val f.val { g := g, w := w, l := none } d.code a.code b.code 0
  | .qntr g w f o d a b c => eR 0x28 1 o.val f.val { g := g, w := w, l := none } d.code a.code b.code c.code
  | .rqnt g w f o d a b => eR 0x28 2 o.val f.val { g := g, w := w, l := none } d.code a.code b.code 0
  | .dqnt g w f o d a => eR 0x28 3 o.val f.val { g := g, w := w, l := none } d.code a.code 0 0
  | .csrr h d n => eR 0xC0 0 n.toNat 0 h d.code 0 0 0
  | .csrw g n a => eR 0xC1 0 n.toNat 0 g.bare 0 a.code 0 0
  | .csrs h d n a => eR 0xC2 0 n.toNat 0 h d.code a.code 0 0
  | .csrc h d n a => eR 0xC3 0 n.toNat 0 h d.code a.code 0 0
  | .tretRes g => eG 0xC4 0 g
  | .tretLanes g => eG 0xC4 1 g
  | .tretWarp g => eG 0xC4 2 g
  | .tretCrew g => eG 0xC4 3 g
  | .tretLaunch g => eG 0xC4 4 g
  | .tqpop g d => eR 0xC5 0 0 0 g.bare d.code 0 0 0
  | .orinvObj g a => eR 0xC6 0 0 0 g.bare 0 a.code 0 0
  | .orinvSub g a => eR 0xC6 0 1 0 g.bare 0 a.code 0 0
  | .orinvAll g => eG 0xC6 2 g
  | .trapDelivery _ | .trapQueueOverflow _ | .warpRelease _ | .crewEnd _ | .launchAccept _ | .crewPlace _
  | .queueAgeing _ | .preemptWithdraw _ | .cooperativeSave _ | .forcedSave _ | .crewRestore _ => 0
  | .launchDone _ | .launchCancel _ => 0
  | .mloadComplete _ _ => 0
  | .mstreamComplete _ _ => 0
  | .copyCommandEnd _ _ _ => 0
  | .completionRecordArrival _ _ => 0
  | .faultUnitMigration _ _ => 0
  | .migrationComplete _ _ => 0
  | .relocationCommand _ => 0
  | .relocationInvalidated _ | .relocationCopyDone _ | .relocationDone _ => 0
  | .fabricRead _ | .fabricWrite _ | .fabricAtomic _ => 0
  | .fabricReply _ => 0
  | .fabricInvalidate _ _ | .fabricInvalidateAck _ _ => 0
  | .fabricMulticast _ _ _ _ _ _ => 0
  | .routeChange _ _ => 0
  | .routeChangeNotice _ _ _ _ => 0
  | .requestTimeout _ | .ackTimeoutReissue _ => 0
  | .linkFailure _ => 0
  | .dieLinkModuleRetire _ _ => 0
  | .towerFence _ => 0
  | .spireRetire _ _ => 0
  | .domeFailure _ => 0
  | .memoryDataError _ _ _ _ => 0
  | .invokeArrival _ | .messageAccept _ => 0
  | .messageReoffer _ => 0
  | .stateReport _ => 0
  | .breakNotice _ => 0
  | .resultMove _ => 0
  | .resultMoveAck _ _ => 0
  | .collContribution _ => 0
  | .collComplete _ => 0
  | .collAbandon _ => 0
  | .collDisagreement _ => 0
  | .haltPresented _ | .debugResume _ => 0
  | .debugStateWrite _ _ => 0
  | .contextStop _ _ | .contextResume _ _ | .contextCreate _ _ | .contextDestroy _ _ => 0
  | .contextStopComplete _ => 0
  | .dirtyTrackingEnable _ _ _ => 0
  | .qtailWrite _ _ _ | .queueEnable _ _ _ | .queueDisable _ _ _ => 0
  | .hostOrtbaseWrite _ _ _ _ => 0
  | .olctlModeChange _ _ _ | .dlOverflowClear _ _ _ => 0
  | .registerWrite _ _ _ => 0
  | .hostMemoryRead _ _ _ => 0
  | .hostMemoryWrite _ _ _ => 0
  | .coldStart | .warmStart | .getVersion | .getCapabilities | .negotiateAlgorithms | .getDigests | .getCertificate
  | .getMeasurements | .thermalThrottle | .thermalRecover | .thermalShutdown => 0
  | .startComplete _ => 0
  | .challenge _ => 0
  | .collfault _ _ _ => 0
  | .poisonedWriteback _ _ => 0

/-- The bytes of an instruction, lowest address first (R34). -/
def encodeBytes (i : Instr) : List Byte := (List.range 8).map (fun k => BitVec.ofNat 8 (encode i / 256 ^ k))

/-! ### The host's reading of the opcode table -/

/-- What the decoder reads from an instruction whose low `nbits` bits are `w` and whose other bits are zero. -/
def decodeTableWord (nbits w : Nat) : Option Instr :=
  match decodeWord (if nbits < 64 then w % 2 ^ nbits else w % 2 ^ 64) with
  | .ok i => some i
  | .error _ => none

end Sys2Proof
end

