-- ==== Sys2Proof/Machine/Atomic.lean ====
section
/-! DEFINITION. Atomics on global memory and on the scratchpad (R165, R272, R273) and the fences (R274 to R276). -/

namespace Sys2Proof.Machine

/-! ### The new value (the tables of R165 and R273) -/

/-- A combination of two S-bit words. -/
def atomBits (n : Nat) (f : BitVec n → BitVec n → BitVec n) (o v : Nat) : Rnd :=
  ⟨(f (BitVec.ofNat n o) (BitVec.ofNat n v)).toNat, 0⟩

/-- A slot operation on packed words. -/
def atomSlot (fw : Word) (o v l : Nat) (g : Word) (f : Val → Val → Word → Rnd) : Rnd :=
  packRnds (fmW fw) ((List.range (fmN fw)).map (fun k =>
    f (fmIn fw (subElem fw k o)) (fmIn fw (subElem fw k v)) (genRot g l k)))

/-- The new value from the old value o, the operand v and the swap value sw, with the flags it raises. -/
def atomNew (aop n o v sw : Nat) (fw : Word) (l : Nat) (g : Word) : Rnd :=
  match aop with
  | 0 => atomBits n (fun x y => x + y) o v
  | 1 => atomBits n (fun x y => x - y) o v
  | 2 => atomBits n minS o v
  | 3 => atomBits n maxS o v
  | 4 => atomBits n minU o v
  | 5 => atomBits n maxU o v
  | 6 => atomBits n (fun x y => x &&& y) o v
  | 7 => atomBits n (fun x y => x ||| y) o v
  | 8 => atomBits n (fun x y => x ^^^ y) o v
  | 9 => ⟨v, 0⟩
  | 10 => ⟨if o = v then sw else o, 0⟩
  | 11 => atomSlot fw o v l g (fun x y rw => rndAdd fw x y rw)
  | 12 => atomSlot fw o v l g (fun x y rw => rndVal fw (minMaxVal false x y) rw)
  | _ => atomSlot fw o v l g (fun x y rw => rndVal fw (minMaxVal true x y) rw)

/-- Whether an atomic steps SRGEN: `fadd`, `fmin` and `fmax` round under their slot (R75). -/
def atomRounds (aop : Nat) (fw : Word) : Bool := decide (11 ≤ aop) && fmRm fw == 5

/-- The part of R45 that depends on the warp. -/
def atomIll (f : Option FSlot) (srcs : List Src) (e : Env) : Bool :=
  regsOk srcs e && (match f with | some k => !fmIllegal (slotWord e.x k) | none => true)

/-- The slot word that an atomic names. -/
def atomFw (f : Option FSlot) (x : Warp) : Word :=
  match f with
  | some k => slotWord x k
  | none => 0

/-! ### Global memory (R273) -/

/-- The request that performs a lane's atomic at another device. -/
def atomReqs (s : State) (ctx aop : Nat) (fw g : Word) (v sw : Nat) (a : LaneAcc) : List FabReq :=
  a.locs.flatMap (fun p => (farPieces p.2.pieces).map (fun q =>
    { mkReq s 2 q.1 ctx p.1.obj q.2.1 q.2.2.1 q.2.2.2.2 v with
      aop := aop, swap := sw, slot := fw, lane := a.lane, rnd := g }))

/-- One lane's step: the old value, the flags, and the state after it. `ans` is the answer of a remote one, which its
holding device has performed. -/
def atomLane (s : State) (w ctx aop n v sw : Nat) (fw g : Word) (a : LaneAcc) (ans : Option (Nat × Option Nat)) :
    State × Nat × Nat :=
  match a.locs with
  | [] => (s, 0, 0)
  | p :: _ =>
    match ans with
    | some (_, some _) => (s, 0, 0)
    | some (o, none) => (s, o, (atomNew aop n o v sw fw a.lane g).flags)
    | none =>
      let bad := lanePoisoned s a
      let o := if bad then bits (Config.poisonData s.free).toNat 0 n else readPieces s [] p.2.pieces
      let s := if bad then { s with free := s.free + 1 } else s
      let r := atomNew aop n o v sw fw a.lane g
      (storeLoc s (some (0, w)) ctx p.1 p.2.pieces r.code, if bad then 0 else o, r.flags)

/-- What an atomic has done after some lanes: state, the old value and the flags of each lane, poisoned lanes. -/
structure AtomAcc where
  s    : State
  done : List (Nat × Nat × Nat)
  bad  : Mask

/-- The logged events of a lane (R277). -/
def atomEvents (logged : Bool) (a : LaneAcc) : List OlEvent :=
  if logged then a.locs.map (fun p => OlEvent.mk 1 a.lane p.1.a p.1.obj) else []

/-- The lanes whose events have their turn: all of them but in replay (R280), where the others wait. -/
def atomTurn (s : State) (e : Env) (logged : Bool) (accs : List LaneAcc) : Except Stop (List LaneAcc) :=
  (accs.foldl (fun (acc : Except Stop (State × List LaneAcc)) a => match acc with
    | .error x => .error x
    | .ok (t, ls) => match olFold t e (atomEvents logged a) with
      | .done t => .ok (t, ls ++ [a])
      | .wait => .ok (t, ls)
      | .unit ts => .error (.again ts)
      | .fetch ls => .error (.fetch ls)
      | .clear ls => .error (.clear ls)) (.ok (s, []))).map (·.2)

/-- Logs the events of lanes that have been performed (R279). -/
def atomLog (s : State) (e : Env) (logged : Bool) (accs : List LaneAcc) : State :=
  accs.foldl (fun s a => match olFold s e (atomEvents logged a) with
    | .done t => t
    | _ => s) s

/-- Whether an atomic of another owner on a remote location of this one is on its way while the context records: which
of the two is performed first is known only when that one has been logged, so this one is not sent before (R279). -/
def atomClash (s : State) (e : Env) (logged : Bool) (reqs : List FabReq) : Bool :=
  logged && (match ctxGet s e.cr.ctx with
    | some x => bits (csrN x 0x074) 0 2 == 1
    | none => false) &&
  reqs.any (fun r => s.fab.reqs.any (fun o => o.owner != .warp e.w && vuKind o.req.hdr == 2 &&
    vuDst o.req.hdr == vuDst r.hdr && o.req.bit == r.bit))

/-- `atom` (R272, R273): every lane whose event has its turn performs; an atomic of which some lanes must wait keeps
what the others have done, its SEQ, and the one output of the generator that all its lanes use (R75, R280; DEDUCED, unsafe:
log entry 14). -/
def atomOp (s : State) (h : Hdr) (m : AtomOp) (aop : Nat) (wide : Bool) (f : Option FSlot) (d c : Opnd) :
    Host.Outcome State Fault Refusal :=
  let k := if wide then 2 else 1
  let n := 32 * k
  let fslot := f.elim 0 (·.val)
  runInstr s fslot (atomIll f ((d, k) :: (c, k) :: globalSrcs m.b m.a)) anyMode h.g (fun e =>
    let tm := taking e h.g
    let idx := globalIndex e.x m.b m.a m.sc.toNat 0
    match checkLanes s e tm true true (fun l => (idx l).1) (planFixed s e idx n ⟨some .a, true, true⟩) with
    | .error x => .error x
    | .ok accs =>
        let fw := atomFw f e.x
        let gen := e.sl.turned.bind (·.gen)
        let g := gen.getD (stepGen s e.w (atomRounds aop fw) tm).1
        let stepped := fun s => if gen.isSome then s else (stepGen s e.w (atomRounds aop fw) tm).2
        let before := (e.sl.turned.map (·.done)).getD []
        let v := fun l => regNat e.x c k l
        let sw := fun l => regNat e.x d k l
        let logged := decide (11 ≤ aop) || !h.w || h.l.isSome
        let todo := accs.filter (fun a => !before.any (fun p => p.1 == a.lane))
        match atomTurn s e logged todo with
        | .error x => .error x
        | .ok now =>
          if now.isEmpty && !todo.isEmpty then .error (.park (.reissue .order) s)
          else
            let reqs := now.flatMap (fun a => atomReqs s e.cr.ctx aop fw g (v a.lane) (sw a.lane) a)
            if atomClash s e logged reqs then .error (.hold (holdPath s e))
            else match clearPeers s (accLines s e.cr.ctx now) with
            | (false, s) => .error (.hold (holdPath s e))
            | (true, s) => match exchange s (.warp e.w) reqs with
            | (none, s) => .error (.hold (holdPath s e))
            | (some ans, s) =>
              let answers := (reqs.map (·.lane)).zip ans
              let of := fun l => (answers.find? (fun p => p.1 == l)).map (·.2)
              let s := sawBytes s 0 e.w (pieceBytes (accPieces now))
              let s := atomLog s e logged (now.filter (fun a => !(of a.lane).any (·.2.isSome)))
              let r := now.foldl (fun (acc : AtomAcc) a =>
                let one := atomLane acc.s e.w e.cr.ctx aop n (v a.lane) (sw a.lane) fw g a (of a.lane)
                ⟨one.1, acc.done ++ [(a.lane, one.2.1, one.2.2)],
                  if lanePoisoned acc.s a then acc.bad ||| maskOf (fun l => l == a.lane) else acc.bad⟩) ⟨s, [], 0⟩
              let done := before ++ r.done
              let errors := fun s => returnErrors s e fslot now (answers.map (fun p => (p.1, p.2.2))) r.bad
              if now.length < todo.length then
                .error (.partly (errors (keepTurn (stepped r.s) e (some g) done)))
              else
                let s := raiseFlags (stepped r.s) e.w (done.foldl (fun acc p => acc ||| p.2.2) 0)
                let s := if logged && !accs.isEmpty then olCount s e else s
                let s := setWarp s e.w { warpAt s e.w with
                  lastLd := some ⟨e.pc, ⟨h, d, tm⟩, k, e.x.issued, fslot⟩ }
                match finish s e h d tm k (fun l => ((done.find? (fun p => p.1 == l)).map (·.2.1)).getD 0) with
                | .error x => .error x
                | .ok s => .ok (errors s))

/-! ### Scratchpad (R165) -/

/-- `atoms` (R165). OOS and ALIGN of its lanes come before the misuse of a queue port in C or D and before the park on one
that is empty or full (DESIGN CHOICE, unsafe: log entry 13: the spec gives no order). -/
def atomsOp (s : State) (h : Hdr) (m : AtomOp) (aop : Nat) (wide : Bool) (f : Option FSlot) (d c : Opnd) :
    Host.Outcome State Fault Refusal :=
  let k := if wide then 2 else 1
  let nb := 4 * k
  runInstr s (f.elim 0 (·.val)) (atomIll f ((d, k) :: (c, k) :: scratchSrcs m.b m.a)) anyMode h.g (fun e =>
    let tm := taking e h.g
    match lanesOrTrap tm (fun l => scratchCheck e.cr (scratchIndex e.x m.b m.a m.sc.toNat 0 l) nb nb) with
    | .error r => .error (.trap r)
    | .ok as => match readSrcs s e tm (if aop = 10 then [(c, k), (d, k)] else [(c, k)]) (some d) (!h.w) with
    | .error x => .error x
    | .ok (s, vals) =>
      let fw := atomFw f e.x
      let g := stepGen s e.w (atomRounds aop fw) tm
      let r := as.foldl (fun (acc : Memory × List (Nat × Nat) × Nat) p =>
        let o := memNat acc.1 p.2 nb
        let x := atomNew aop (8 * nb) o ((vals p.1).getD 0 0) ((vals p.1).getD 1 0) fw p.1 g.1
        (memPutNat acc.1 p.2 nb x.code, acc.2.1 ++ [(p.1, o)], acc.2.2 ||| x.flags)) (e.cr.scr, [], 0)
      let s := raiseFlags g.2 e.w r.2.2
      let s := setCrew s e.c { crewAt s e.c with scr := r.1 }
      finish s e h d tm k (fun l => ((r.2.1.find? (fun p => p.1 == l)).map (·.2)).getD 0))

/-! ### Fences (R274 to R276)

Every access of this model by a load, store or atomic takes effect in one order that all agents agree on, so a `fence`
orders nothing further (DESIGN CHOICE, unsafe: log entry 4). What a warp's own commands see of its earlier accesses on
another path is ordered by `fencex` only: it makes a path see writes that were hidden from it (`State.views`). -/

def execFence (g : Guard) (_scp : Scope) (_ord : Order) (_sc : Bool) (s : State) :
    Host.Outcome State Fault Refusal :=
  runInstr s 0 (fun _ => true) anyMode g (fun e => advance s e)

/-- Whether warp u lies in the scope of an operation of warp w (R260). -/
def inScope (s : State) (scp : Scope) (w u : Nat) : Bool :=
  match scp with
  | .wrp => u == w
  | .crw => (warpAt s u).crew == (warpAt s w).crew
  | .die => (crewOf s u).tower == (crewOf s w).tower
  | .dev | .dom => true

/-- `fencex` (R275, R276): what the FROM paths have accessed in its scope, the TO paths see from now on. An access in scope
counts as earlier whether or not an edge orders it before the `fencex` (DESIGN CHOICE, unsafe: log entry 4). -/
def execFencex (g : Guard) (scp : Scope) (src dst : PathSet) (s : State) : Host.Outcome State Fault Refusal :=
  runInstr s 0 (fun _ => true) anyMode g (fun e =>
    if taking e g = 0 then advance s e
    else advance (fenceViews s src dst (inScope s scp e.w) e.w) e)

/-! ### atom -/

def execAtomAdd (h : Hdr) (m : AtomOp) (wide : Bool) (d c : Opnd) (s : State) : Host.Outcome State Fault Refusal :=
  atomOp s h m 0 wide none d c
def execAtomSub (h : Hdr) (m : AtomOp) (wide : Bool) (d c : Opnd) (s : State) : Host.Outcome State Fault Refusal :=
  atomOp s h m 1 wide none d c
def execAtomMin (h : Hdr) (m : AtomOp) (wide : Bool) (d c : Opnd) (s : State) : Host.Outcome State Fault Refusal :=
  atomOp s h m 2 wide none d c
def execAtomMax (h : Hdr) (m : AtomOp) (wide : Bool) (d c : Opnd) (s : State) : Host.Outcome State Fault Refusal :=
  atomOp s h m 3 wide none d c
def execAtomMinu (h : Hdr) (m : AtomOp) (wide : Bool) (d c : Opnd) (s : State) : Host.Outcome State Fault Refusal :=
  atomOp s h m 4 wide none d c
def execAtomMaxu (h : Hdr) (m : AtomOp) (wide : Bool) (d c : Opnd) (s : State) : Host.Outcome State Fault Refusal :=
  atomOp s h m 5 wide none d c
def execAtomAnd (h : Hdr) (m : AtomOp) (wide : Bool) (d c : Opnd) (s : State) : Host.Outcome State Fault Refusal :=
  atomOp s h m 6 wide none d c
def execAtomOr (h : Hdr) (m : AtomOp) (wide : Bool) (d c : Opnd) (s : State) : Host.Outcome State Fault Refusal :=
  atomOp s h m 7 wide none d c
def execAtomXor (h : Hdr) (m : AtomOp) (wide : Bool) (d c : Opnd) (s : State) : Host.Outcome State Fault Refusal :=
  atomOp s h m 8 wide none d c
def execAtomXchg (h : Hdr) (m : AtomOp) (wide : Bool) (d c : Opnd) (s : State) : Host.Outcome State Fault Refusal :=
  atomOp s h m 9 wide none d c
def execAtomCas (h : Hdr) (m : AtomOp) (wide : Bool) (d c : Opnd) (s : State) : Host.Outcome State Fault Refusal :=
  atomOp s h m 10 wide none d c
def execAtomFadd (h : Hdr) (m : AtomOp) (f : FSlot) (d c : Opnd) (s : State) : Host.Outcome State Fault Refusal :=
  atomOp s h m 11 false (some f) d c
def execAtomFmin (h : Hdr) (m : AtomOp) (f : FSlot) (d c : Opnd) (s : State) : Host.Outcome State Fault Refusal :=
  atomOp s h m 12 false (some f) d c
def execAtomFmax (h : Hdr) (m : AtomOp) (f : FSlot) (d c : Opnd) (s : State) : Host.Outcome State Fault Refusal :=
  atomOp s h m 13 false (some f) d c

/-! ### atoms -/

def execAtomsAdd (h : Hdr) (m : AtomOp) (wide : Bool) (d c : Opnd) (s : State) : Host.Outcome State Fault Refusal :=
  atomsOp s h m 0 wide none d c
def execAtomsSub (h : Hdr) (m : AtomOp) (wide : Bool) (d c : Opnd) (s : State) : Host.Outcome State Fault Refusal :=
  atomsOp s h m 1 wide none d c
def execAtomsMin (h : Hdr) (m : AtomOp) (wide : Bool) (d c : Opnd) (s : State) : Host.Outcome State Fault Refusal :=
  atomsOp s h m 2 wide none d c
def execAtomsMax (h : Hdr) (m : AtomOp) (wide : Bool) (d c : Opnd) (s : State) : Host.Outcome State Fault Refusal :=
  atomsOp s h m 3 wide none d c
def execAtomsMinu (h : Hdr) (m : AtomOp) (wide : Bool) (d c : Opnd) (s : State) : Host.Outcome State Fault Refusal :=
  atomsOp s h m 4 wide none d c
def execAtomsMaxu (h : Hdr) (m : AtomOp) (wide : Bool) (d c : Opnd) (s : State) : Host.Outcome State Fault Refusal :=
  atomsOp s h m 5 wide none d c
def execAtomsAnd (h : Hdr) (m : AtomOp) (wide : Bool) (d c : Opnd) (s : State) : Host.Outcome State Fault Refusal :=
  atomsOp s h m 6 wide none d c
def execAtomsOr (h : Hdr) (m : AtomOp) (wide : Bool) (d c : Opnd) (s : State) : Host.Outcome State Fault Refusal :=
  atomsOp s h m 7 wide none d c
def execAtomsXor (h : Hdr) (m : AtomOp) (wide : Bool) (d c : Opnd) (s : State) : Host.Outcome State Fault Refusal :=
  atomsOp s h m 8 wide none d c
def execAtomsXchg (h : Hdr) (m : AtomOp) (wide : Bool) (d c : Opnd) (s : State) : Host.Outcome State Fault Refusal :=
  atomsOp s h m 9 wide none d c
def execAtomsCas (h : Hdr) (m : AtomOp) (wide : Bool) (d c : Opnd) (s : State) : Host.Outcome State Fault Refusal :=
  atomsOp s h m 10 wide none d c
def execAtomsFadd (h : Hdr) (m : AtomOp) (f : FSlot) (d c : Opnd) (s : State) : Host.Outcome State Fault Refusal :=
  atomsOp s h m 11 false (some f) d c
def execAtomsFmin (h : Hdr) (m : AtomOp) (f : FSlot) (d c : Opnd) (s : State) : Host.Outcome State Fault Refusal :=
  atomsOp s h m 12 false (some f) d c
def execAtomsFmax (h : Hdr) (m : AtomOp) (f : FSlot) (d c : Opnd) (s : State) : Host.Outcome State Fault Refusal :=
  atomsOp s h m 13 false (some f) d c
end Sys2Proof.Machine
end

