-- ==== Sys2Proof/Machine/Barrier.lean ====
section
/-! DEFINITION. Majors 0x70 to 0x72 (R166 to R170): named barriers, mbar objects and queue control. -/

namespace Sys2Proof.Machine

/-! ### bar (R149, R166) -/

/-- An arrival at barrier n, checked: UNIF, then a count above NWARPS, then a count that differs from the
phase's. The body is given the state and the count. -/
def barOp (s : State) (g : Guard) (n : Fin 16) (b : Opnd) (after : State → Env → Bool → Except Stop State) :
    Host.Outcome State Fault Refusal :=
  runInstr s 0 (regsOk [(b, 1)]) anyMode g (fun e =>
    let m := taking e g
    if m = 0 then advance s e
    else if outside e ≠ 0 then .error (unif e (outside e))
    else match readSrcs s e m [(b, 1)] none false with
    | .error x => .error x
    | .ok (s, vals) =>
      let cnt := warpValue m vals 0
      let bar := (crewAt s e.c).bars.getD n.val { arr := 0, exp := none, phase := false }
      if e.cr.warps.length < cnt then .error (queueTrapOf e m 8)
      else if bar.exp.any (· ≠ cnt) then .error (queueTrapOf e m 5)
      else after (barArrive s e.c n.val cnt) e bar.phase)

/-- Whether the phase bit of barrier n has left `ph`. -/
def barPassed (s : State) (c n : Nat) (ph : Bool) : Bool :=
  match (crewAt s c).bars[n]? with
  | some b => b.phase != ph
  | none => true

def execBarSync (g : Guard) (n : Fin 16) (b : Opnd) (s : State) : Host.Outcome State Fault Refusal :=
  barOp s g n b (fun s e ph =>
    if barPassed s e.c n.val ph then advance s e else .error (.park (.bar n.val ph) s))

def execBarArv (g : Guard) (n : Fin 16) (b : Opnd) (s : State) : Host.Outcome State Fault Refusal :=
  barOp s g n b (fun s e _ => advance s e)

def execBarWait (g : Guard) (n : Fin 16) (s : State) : Host.Outcome State Fault Refusal :=
  runInstr s 0 (fun _ => true) anyMode g (fun e =>
    if taking e g = 0 then advance s e
    else if outside e ≠ 0 then .error (unif e (outside e))
    else .error (.park (.bar n.val (barPassed s e.c n.val false)) s))

/-! ### mbar (R150, R151, R167, R168) -/

/-- An mbar form: the offset is checked as a 16-byte access, and the object must be initialised unless the
form is `init`. The body is given the state, the environment, the offset, the object and B. -/
def mbarOp (s : State) (g : Guard) (ds : List Src) (dst : Option Opnd) (push : Bool) (a : Opnd)
    (b : Option Opnd) (needInit : Bool)
    (body : State → Env → Mask → Nat → Nat → Nat → Except Stop State) : Host.Outcome State Fault Refusal :=
  let srcs : List Src := (a, 1) :: (match b with | some o => [(o, 1)] | none => [])
  runInstr s 0 (regsOk (ds ++ srcs)) anyMode g (fun e =>
    let m := taking e g
    match readSrcs s e m srcs dst push with
    | .error x => .error x
    | .ok (s, vals) =>
      if m = 0 then advance s e
      else match scratchWarp e m (warpValue m vals 0) 16 16 with
        | .error x => .error x
        | .ok off =>
          let obj := mbGet s e.c off
          if needInit && !mbInit obj then .error (queueTrapOf e m 4)
          else body s e m off obj (warpValue m vals 1))

def execMbarInit (g : Guard) (a b : Opnd) (s : State) : Host.Outcome State Fault Refusal :=
  mbarOp s g [] none false a (some b) false (fun s e m off _ v =>
    if bits v 0 16 = 0 ∨ bits v 16 16 ≠ 0 then .error (queueTrapOf e m 9)
    else advance (mbStore s e.c off (v + 2 ^ 16 * v + 2 ^ 65)) e)

def execMbarArv (h : Hdr) (d a : Opnd) (s : State) : Host.Outcome State Fault Refusal :=
  mbarOp s h.g [(d, 1)] (some d) (!h.w) a none true (fun s e m off obj _ =>
    finish (mbStore s e.c off (mbArrive obj)) e h d m 1 (fun _ => if mbPh obj then 1 else 0))

def execMbarArvtx (h : Hdr) (d a b : Opnd) (s : State) : Host.Outcome State Fault Refusal :=
  mbarOp s h.g [(d, 1)] (some d) (!h.w) a (some b) true (fun s e m off obj v =>
    finish (mbStore s e.c off (mbArrive (mbAddTx obj (sx 32 v)))) e h d m 1
      (fun _ => if mbPh obj then 1 else 0))

def execMbarTest (h : Hdr) (d : Pred) (a b : Opnd) (s : State) : Host.Outcome State Fault Refusal :=
  mbarOp s h.g [] none false a (some b) true (fun s e m _ obj v =>
    finishPred s e h d m (fun _ => mbPh obj != (bits v 0 1 == 1)))

def execMbarWait (g : Guard) (a b : Opnd) (s : State) : Host.Outcome State Fault Refusal :=
  mbarOp s g [] none false a (some b) true (fun s e _ off obj v =>
    let par := bits v 0 1 == 1
    if mbPh obj != par then advance s e else .error (.park (.mbar off par) s))

/-- INIT becomes 0, and the paths parked on the object trap QUEUE 4 at their `mbar.wait` (R168). -/
def execMbarInval (g : Guard) (a : Opnd) (s : State) : Host.Outcome State Fault Refusal :=
  mbarOp s g [] none false a none true (fun s e _ off obj _ =>
    let c := crewAt s e.c
    let s := setCrew s e.c { c with scr := memPutNat c.scr off 16 (setBits obj 65 1 0) }
    advance (forParked s c.warps (fun s w k p => match p with
      | .mbar o _ => if o = off then trapParked s w k 0x0D 4 true else s
      | _ => s)) e)

/-! ### qctl (R169, R170) -/

/-- Whether a path of a warp is parked on port n: the port lacks an entry that it waits for, or, after its pops, the room
for its push, or for a result that has been handed to it. -/
def parkedOnPort (s : State) (w n : Nat) : Bool :=
  let x := warpAt s w
  let cr := crewAt s x.crew
  [x.sa, x.sb, x.hdl].any (fun sl => sl.live && match sl.park with
    | some (.reissue (.ports pops push)) => decide (portCount x cr n < pops.count n) ||
      (push == some n && decide ((chanOf cr n).depth + pops.count n ≤ portCount x cr n + portTook s x cr n))
    | some (.handed _ dst _) => dstPort (some dst.d) == some n && portFull s cr (!dst.h.w) (some n)
    | _ => false)

/-- A role that the launch of a crew declares (R172). -/
def roleDeclared (s : State) (e : Env) (r : Nat) : Bool :=
  match launchOf s e.cr.launch with
  | some l => recBits l.record (160 + 16 * r) 6 != 0
  | none => false

def execQctlQbind (g : Guard) (d : Fin 6) (a : Opnd) (s : State) : Host.Outcome State Fault Refusal :=
  runInstr s 0 (regsOk [(a, 1)]) anyMode g (fun e =>
    let m := taking e g
    match readSrcs s e m [(a, 1)] none false with
    | .error x => .error x
    | .ok (s, vals) =>
      if m = 0 then advance s e
      else
        let v := warpValue m vals 0
        let cr := crewAt s e.c
        let bind := bits v 31 1 == 1
        let depth := bits v 4 5
        let bad := if bind then
            bits v 9 22 != 0 || depth == 0 || decide (16 < depth) || !roleDeclared s e (bits v 0 2) ||
              !roleDeclared s e (bits v 2 2)
          else bits v 0 31 != 0
        if !(chanOf cr d.val).entries.isEmpty || cr.warps.any (fun w => parkedOnPort s w d.val) then
          .error (queueTrapOf e m 10)
        else if bad then .error (queueTrapOf e m 11)
        else
          let ch : Chan := ⟨bind, bits v 0 2, bits v 2 2, depth, []⟩
          advance (setCrew s e.c { cr with chans := cr.chans.set d.val ch }) e)

/-- The status word of a port (R170). -/
def portStatus (s : State) (e : Env) (n : Nat) : Nat :=
  let x := warpAt s e.w
  let cr := crewAt s e.c
  if n < 6 then
    let c := chanOf cr n
    c.entries.length + portTook s x cr n + 2 ^ 5 * c.depth + 2 ^ 10 * c.prod + 2 ^ 12 * c.cons + (if c.bound then 2 ^ 14 else 0) +
      (if cr.warps.any (fun w => parkedOnPort s w n) then 2 ^ 15 else 0)
  else
    portCount x cr n + portTook s x cr n + 2 ^ 5 * 16 + 2 ^ 14 + (if parkedOnPort s e.w n then 2 ^ 15 else 0)

def execQctlQstat (h : Hdr) (d : Opnd) (a : Fin 8) (s : State) : Host.Outcome State Fault Refusal :=
  runInstr s 0 (regsOk [(d, 1)]) anyMode h.g (fun e =>
    let m := taking e h.g
    match readSrcs s e m [] (some d) (!h.w) with
    | .error x => .error x
    | .ok (s, _) => finish s e h d m 1 (fun _ => portStatus s e a.val))

end Sys2Proof.Machine
end

