-- ==== Sys2Proof/Machine/FaultUnit.lean ====
section
/-! DEFINITION. The fault units (R241 to R245, R317, R318): migration on access, its failures, the migration log,
and relocation step by step. -/

namespace Sys2Proof.Machine

/-! ### The migration log (R243) -/

/-- Whether the log of a context has room for one more operation beside those in progress. -/
def mlRoom (s : State) (c : Nat) : Bool :=
  match ctxGet s c with
  | none => false
  | some x =>
    let used := (csrN x 0x093 + 2 ^ 32 - csrN x 0x094) % 2 ^ 32
    decide (used + (s.fu.jobs.filter (fun j => j.t.ctx == c)).length < 2 ^ bits (csrN x 0x092) 0 5)

/-- A record of the migration log. -/
def mlRecord (old new : Nat) (t : SubTile) (kind detail : Nat) : Nat :=
  old % 2 ^ 64 + 2 ^ 64 * (new % 2 ^ 64) + 2 ^ 128 * (t.obj % 2 ^ 22) + 2 ^ 150 * (t.ctx % 2 ^ 12) +
    2 ^ 162 * (t.sub % 2 ^ 29) + 2 ^ 192 * kind + 2 ^ 200 * detail

/-- Writes a record of the migration log. -/
def mlWrite (s : State) (old new : Nat) (t : SubTile) (kind detail : Nat) : State :=
  match ctxGet s t.ctx with
  | none => s
  | some x =>
    let wr := csrN x 0x093
    let a := bits (csrPair x 0x090) 0 56 + 32 * (wr % 2 ^ bits (csrN x 0x092) 0 5)
    raiseMsix (ctxPut (physPut s a 32 (mlRecord old new t kind detail)) t.ctx
      (setCsr x 0x093 (wr + 1))) (ctxFunc s t.ctx) 2

/-! ### Records and entries as the fault unit changes them -/

/-- Drops the cached copies of an object's record and of a sub-tile's entry: what a fault unit changes needs no
`orinv` (R237). -/
def fuDrop (s : State) (t : SubTile) : State :=
  { s with caches := { s.caches with
    orc := s.caches.orc.filter (fun e => !(e.ctx == t.ctx && e.obj == t.obj))
    res := s.caches.res.filter (fun e => e.t != t) } }

/-- The physical address of an object's record. -/
def fuRecordAddr (s : State) (t : SubTile) : Option Nat := (ctxGet s t.ctx).bind (fun x => recordAddr s x t.obj)

/-- Changes word k of an object's record. -/
def fuRecordWord (s : State) (t : SubTile) (k : Nat) (f : Nat → Nat) : State :=
  match fuRecordAddr s t with
  | some a => { s with mem := memPutNat s.mem (a + 4 * k) 4 (f (memNat s.mem (a + 4 * k) 4)) }
  | none => s

/-- Adds 1 to VER (R236). -/
def bumpVer (s : State) (t : SubTile) : State := fuRecordWord s t 50 (fun v => v + 1)

/-- The record of a sub-tile's object, when it can be used. -/
def fuRecord (s : State) (t : SubTile) : Option Rec :=
  let r := recordWords s t.ctx t.obj
  if t.obj = Config.argObject ∨ !recV r ∨ recMalformed r then none else some r

/-- Whether a sub-tile lies beyond the residency table of its object (R238). -/
def beyondTable (r : Rec) (sub : Nat) : Bool := decide ((storageBound r - 1) / 2 ^ 19 < sub)

/-- The entry of a sub-tile as memory holds it: none where there is no entry. -/
def fuEntry (s : State) (t : SubTile) : Option Nat :=
  (fuRecord s t).bind (fun r =>
    if recRtab r = 0 ∨ beyondTable r t.sub = true then none else entryStored s r t.sub t.rep)

/-- Writes the entry of a sub-tile. -/
def putEntry (s : State) (t : SubTile) (e : Nat) : State :=
  match fuRecord s t with
  | some r => fuDrop { s with mem := memPutNat s.mem (entryAddr r t.sub t.rep) 8 e } t
  | none => s

/-- The entry of a sub-tile that lies in a frame of this device: RES 1, MOV 0, PIN and DIRTY as they were. -/
def entryHere (s : State) (e frame tier : Nat) : Nat :=
  s.plat.devnum % 2 ^ 13 + 2 ^ 16 * (frame % 2 ^ 40) + 2 ^ 58 * bits e 58 1 + 2 ^ 60 * bits e 60 1 +
    2 ^ 61 * tier + 2 ^ 63

/-! ### Who waits for a sub-tile -/

/-- Marks a slot whose path is parked on a sub-tile. -/
def failSlot (sl : Slot) (t : SubTile) (cause detail : Nat) : Slot :=
  match sl.live, sl.park with
  | true, some (.reissue (.residency ts)) =>
    if ts.contains t then { sl with failed := sl.failed ++ [(t, cause, detail)] } else sl
  | _, _ => sl

/-- The sub-tiles that a collective command waits for. -/
def collUnits (s : State) (c : CollCmd) : List SubTile :=
  let d := collDescOf c.desc
  let ag := collAgent s c
  let one := fun (xs : List ClSide) => (clStop 0 (xs.map (fun x => [x]))).1
  if c.shape.nrank = 0 then
    one (commSides s ag c.key.obj 0 (match commPeek s ag c.key.obj 0 with
      | some (some w) => commWords (bits w 0 14)
      | _ => 1))
  else if c.phase = 0 then
    if !c.begun then one (dstSides s c)
    else
      let jn := nextPart c d
      (clStop jn.1 (((List.range jn.2).map (· + jn.1)).map (partSides s ag d))).1
  else if c.phase = 1 then []
  else if !c.wrote then (dstSides s c).flatMap (fun x => match x with | .wait ts => ts | _ => [])
  else if d.narrow then
    (clStop 0 ((List.range d.count).map (fun k =>
      [clSide s ag d.res (d.count + k) false, clSide s ag d.res k true]))).1
  else []

/-- Whether the acceptance of a queue's next record has begun and waits for a sub-tile: one of the context of the record, which
for a host record is the queue's owner (R175, R410). -/
def queueWaits (s : State) (qn : Nat) (q : Queue) (t : SubTile) : Bool :=
  q.begun && q.head != q.tail && (match q.ring.find? (fun r => r.pos == q.head.toNat) with
    | none => false
    | some r =>
      let ctx := if r.kind = .host then q.owner else r.msg.ctx
      r.kind != .sent && ctx == t.ctx &&
        (capture s (dispAgent s ctx q.failed) (acceptOwner qn) (slotRecord s q)).2.units.contains t)

/-- The service of a sub-tile failed: everything that waits for it meets the trap at its replay (R240, R242). -/
def fuFail (s : State) (t : SubTile) (cause detail : Nat) : State :=
  let mark := (t, cause, detail)
  { s with
    warps := s.warps.map (fun x => { x with
      sa := failSlot x.sa t cause detail, sb := failSlot x.sb t cause detail, hdl := failSlot x.hdl t cause detail })
    crews := s.crews.zipIdx.map (fun c => { c.1 with eng := c.1.eng.map (fun k =>
      if k.load && k.obj && (readTile s c.2 k).2.units.contains t then { k with failed := k.failed ++ [mark] } else k) })
    copies := s.copies.map (fun k =>
      if (chanCmds s k.tower k.phys k.chan).head?.any (sameCmd k) && (cpUnits s k).contains t then
        { k with failed := k.failed ++ [mark] } else k)
    queues := s.queues.zipIdx.map (fun q =>
      if queueWaits s q.2 q.1 t then { q.1 with failed := q.1.failed ++ [mark] } else q.1)
    coll := { s.coll with cmds := s.coll.cmds.map (fun c =>
      if (c.live || c.owes.isSome) && (collUnits s c).contains t then { c with failed := c.failed ++ [mark] } else c) } }

/-! ### The copy of a sub-tile -/

def putJob (s : State) (t : SubTile) (f : FuJob → FuJob) : State :=
  { s with fu := { s.fu with jobs := s.fu.jobs.map (fun j => if j.t == t then f j else j) } }

def dropJob (s : State) (t : SubTile) : State :=
  { s with fu := { s.fu with jobs := s.fu.jobs.filter (fun j => j.t != t) } }

def jobOf (s : State) (t : SubTile) (ph : FuPhase) : Option FuJob :=
  s.fu.jobs.find? (fun j => j.t == t && j.phase == ph && !s.plat.fenced.getD j.tower false)

/-- The requests that read a sub-tile's frame at another device, line by line. -/
def frameReqs (s : State) (t : SubTile) (e : Nat) : List FabReq :=
  (List.range 512).map (fun k =>
    mkReq s 0 (bits e 0 13) t.ctx t.obj t.sub (bits e 16 40 * 2 ^ 19 + 1024 * k) 1024 0)

/-- Asks another device for the content of a sub-tile. -/
def askFrame (s : State) (t : SubTile) (e : Nat) : State :=
  if bits e 61 2 = 3 then sendMissing s (.unit t) (frameReqs s t e) else s

/-- What the copy of a frame comes to: waiting, a MIGFAIL detail, or done. -/
inductive Copied
  | wait (s : State)
  | fail (detail : Nat) (s : State)
  | ok (s : State)

/-- ECC words of a frame that are poisoned, by their place in it. -/
def framePoison (s : State) (frame : Nat) : List Nat :=
  (s.plat.poison.filter (fun w => decide (frame * 8192 ≤ w) && decide (w < (frame + 1) * 8192))).map (· - frame * 8192)

/-- Whether a frame number lies in a range of R234 that is not reserved. -/
def frameKnown (f : Nat) : Bool := frameInTier 0 f || frameInTier 1 f || frameInTier 2 f

/-- Copies 64 KiB from the place that an entry names to a frame of this device (R234, R241, R242, R253, R414), once no other
device holds a line of that frame (R374). A relocation carries an uncorrectable word over as it is (R245). What the copy and
matrix paths still see of memory is dropped with the frames that move. -/
def copyFrame (s : State) (j : FuJob) (r : MigResult) : Copied :=
  let src := bits j.old.toNat 16 40
  let dst := bits j.new.toNat 16 40
  let m := 136 + j.tower
  let moving := j.phase == .migrating
  let clear := clearPeers s ((List.range 512).map (fun k => ⟨s.plat.devnum, j.t.ctx, j.t.obj, j.t.sub, dst * 512 + k⟩))
  if !aclRange s.plat m (dst * 2 ^ 19) (2 ^ 19) 1 then .fail 3 s
  else if !frameKnown src then .fail 2 s
  else if !clear.1 then .wait clear.2
  else if bits j.old.toNat 61 2 = 3 then
    match exchange clear.2 (.unit j.t) (frameReqs s j.t j.old.toNat) with
    | (none, s) => if r == .ok then .wait s else .fail (if r == .sourceError then 2 else 3) s
    | (some ans, s) =>
      if r == .unreachable || ans.any (fun a => a.2 == some 4 || a.2 == some 5) then .fail 3 s
      else if r == .sourceError || ans.any (fun a => a.2.isSome) then .fail 2 s
      else .ok { s with
        views := []
        mem := (ans.zipIdx).foldl (fun m a => memPutNat m (dst * 65536 + 128 * a.2) 128 a.1.1) s.mem
        plat := { s.plat with poison := s.plat.poison.filter (fun w => !(decide (dst * 8192 ≤ w) && decide (w < (dst + 1) * 8192))) } }
  else if r == .unreachable || (match regionOf s.plat (src * 65536) with
      | some (.capacity port) => !s.plat.cxlUp.getD port false
      | some _ => false
      | none => true) || !aclRange s.plat m (src * 2 ^ 19) (2 ^ 19) 0 then .fail 3 s
  else if r == .sourceError || (moving && !(framePoison s src).isEmpty) then .fail 2 s
  else .ok { clear.2 with
    views := []
    mem := memCopy s.mem (dst * 65536) s.mem (src * 65536) 65536
    plat := { s.plat with poison :=
      (s.plat.poison.filter (fun w => !(decide (dst * 8192 ≤ w) && decide (w < (dst + 1) * 8192)))) ++
        (framePoison s src).map (· + dst * 8192) } }

/-- A copy that fails: MOV is cleared, a record of kind 2 is written, and what waits traps MIGFAIL (R242). -/
def fuCopyFailed (s : State) (j : FuJob) (detail : Nat) : State :=
  let s := match fuEntry s j.t with
    | some e => putEntry s j.t (setBits e 59 1 0)
    | none => s
  let new := setBits (setBits j.old.toNat 16 40 (bits j.new.toNat 16 40)) 61 2 (bits j.new.toNat 61 2)
  fuFail (dropJob (mlWrite s j.old.toNat new j.t 2 detail) j.t) j.t 8 detail

/-! ### Migration (R241, R242) -/

/-- Takes a frame from the pools that PLACE allows: the frame with its tier. -/
def fuFrame (s : State) (c place : Nat) : Option (Nat × Nat) × State :=
  let take := fun (s : State) (n tier : Nat) =>
    let r := poolTake (poolFuel s c n) s c n (fun e => bits e 40 24 == 0 && frameInTier tier (bits e 0 40))
    (r.1.map (fun e => (bits e 0 40, tier)), r.2)
  match place with
  | 1 => take s 0x080 1
  | 2 => take s 0x088 0
  | _ => match take s 0x080 1 with
    | (some f, s) => (some f, s)
    | (none, s) => take s 0x088 0

/-- Whether the dispatcher has asked for a sub-tile of a private region, which is brought here from the device where it is
resident (log entry 16). -/
def wantedHere (s : State) (t : SubTile) : Bool :=
  s.launches.any (fun l => l.ctx == t.ctx && splitOf l.record != 0 && recBits l.record (512 + 42) 22 == t.obj)

/-- The fault unit of a tower begins to serve a sub-tile that it was asked for. -/
def execFaultUnitMigration (tower : Nat) (t : SubTile) (s : State) : Host.Outcome State Fault Refusal :=
  .next (if !ready s || s.plat.fenced.getD tower false || !s.fu.asked.contains (tower, t) || fuBusy s t ||
      !mlRoom s t.ctx then s
    else
      let s := { s with fu := { s.fu with asked := s.fu.asked.filter (fun a => a.2 != t) } }
      match fuRecord s t, fuEntry s t with
      | some r, some e =>
        if entryMalformed s.plat.devnum e then s
        else if bits e 63 1 = 1 ∧ bits e 59 1 = 1 then fuFail s t 7 2
        else if bits e 63 1 = 1 ∧ !(bits e 61 2 == 3 && wantedHere s t) then s
        else if bits e 61 2 < 2 then s
        else match fuFrame s t.ctx (recPlace r) with
          | (none, s) => fuFail (mlWrite (putEntry s t (setBits e 59 1 0)) e e t 2 1) t 8 1
          | (some f, s) =>
            let j : FuJob := ⟨tower, t, .migrating, BitVec.ofNat 64 e, BitVec.ofNat 64 (entryHere s e f.1 f.2)⟩
            let s := putEntry s t (setBits e 59 1 1)
            askFrame { s with fu := { s.fu with jobs := s.fu.jobs ++ [j] } } t e
      | _, _ => s)

/-- The copy of a migration ends. The paths that wait resume once nothing that they asked for is pending. -/
def execMigrationComplete (t : SubTile) (r : MigResult) (s : State) : Host.Outcome State Fault Refusal :=
  .next (match jobOf s t .migrating with
    | none => s
    | some j => match copyFrame s j r with
      | .wait s => s
      | .fail d s => fuCopyFailed s j d
      | .ok s =>
        let e := (fuEntry s t).getD j.old.toNat
        let new := entryHere s e (bits j.new.toNat 16 40) (bits j.new.toNat 61 2)
        let s := bumpVer (putEntry s t new) t
        dropJob (mlWrite (fuDrop s t) j.old.toNat new t 1 0) t)

/-! ### Relocation (R244, R318) -/

/-- The first test of R244 that a command fails, and the entry that it read. -/
def rlRefusal (s : State) (t : SubTile) (frame tier : Nat) : Nat × Nat :=
  let e := fuEntry s t
  let d := if tier = 3 ∨ !frameInTier tier frame then 4
    else match fuRecord s t, e with
      | some r, some e =>
        if beyondTable r t.sub ∨ entryMalformed s.plat.devnum e then 5
        else if bits e 58 1 = 1 then 1
        else if bits e 63 1 = 0 then 2
        else if (match fuRecordAddr s t with
          | some a => bits (memNat s.mem (a + 204) 4) 31 1 == 1
          | none => false) then 3
        else 0
      | _, _ => 5
  (d, e.getD 0)

/-- The sub-tile that a relocation command names, with the replica of the fault unit's own tower. -/
def rlTile (s : State) (ctx tower obj sub : Nat) : SubTile :=
  let t : SubTile := ⟨ctx, bits obj 0 22, bits sub 0 29, 0⟩
  match fuRecord s t with
  | some r => { t with rep := replicaOf r (some tower) }
  | none => t

/-- A context's relocation command is accepted: tested, and refused or started. One that a fenced tower had not
accepted is discarded with detail 3 (R361). -/
def execRelocationCommand (ctx : Nat) (s : State) : Host.Outcome State Fault Refusal :=
  .next (match ctxGet s ctx with
    | none => s
    | some x => match x.rlCmd with
      | none => s
      | some (obj, sub, lo, hi) =>
        if !ready s || !mlRoom s ctx then s
        else
          let gone := s.plat.fenced.getD x.rlTower false
          let s := ctxPut s ctx (setCsr { x with rlCmd := none } 0x09C 0)
          let t := rlTile s ctx x.rlTower obj sub
          let frame := bits lo 0 32 + 2 ^ 32 * bits hi 0 8
          let tier := bits hi 8 2
          let d := if gone then (3, (rlRefusal s t frame tier).2) else rlRefusal s t frame tier
          if d.1 ≠ 0 then mlWrite s d.2 d.2 t 4 d.1
          else
            let j : FuJob := ⟨x.rlTower, t, .invalidating, BitVec.ofNat 64 d.2,
              BitVec.ofNat 64 (entryHere s d.2 frame tier)⟩
            let s := fuRecordWord s t 51 (fun _ => t.sub + 2 ^ 31)
            let s := bumpVer s t
            let s := { s with mem := match fuRecord s t with
              | some r => memPutNat s.mem (entryAddr r t.sub t.rep) 8 (setBits d.2 59 1 1)
              | none => s.mem }
            let orc := s.caches.orc.filter (fun e => !(e.ctx == ctx && e.obj == t.obj))
            { s with fu := { s.fu with jobs := s.fu.jobs ++ [j] }, caches := { s.caches with orc := orc } })

/-- Whether a write that passed its check before the relocation waits to be performed in the old frame: one that waits for
acknowledgements, or a combining step that has locked bits there (R290). -/
def writesLeft (s : State) (j : FuJob) : Bool :=
  s.fab.waits.any (fun w => w.frames.any (fun f => f.2 == bits j.old.toNat 16 40)) ||
  s.copies.any (fun k => k.out.any (fun o => o.near.any (fun p => p.1 / 2 ^ 19 == bits j.old.toNat 16 40)))

/-- Every acknowledgement of the first invalidation is in, and every write that passed its check before it has been
performed: the copy starts. -/
def execRelocationInvalidated (t : SubTile) (s : State) : Host.Outcome State Fault Refusal :=
  .next (match jobOf s t .invalidating with
    | none => s
    | some j =>
      if writesLeft s j then s
      else askFrame (putJob (fuDrop s t) t (fun j => { j with phase := .copying })) t j.old.toNat)

/-- A relocation whose copy cannot be made ends as a failed migration does, with BUSY cleared. -/
def rlCopyFailed (s : State) (j : FuJob) (detail : Nat) : State :=
  fuCopyFailed (fuRecordWord s j.t 51 (fun v => setBits v 31 1 0)) j detail

/-- The copy ends: the entry names the new frame, and the copies of the old entry are invalidated. -/
def execRelocationCopyDone (t : SubTile) (s : State) : Host.Outcome State Fault Refusal :=
  .next (match jobOf s t .copying with
    | none => s
    | some j => if writesLeft s j then s else match copyFrame s j .ok with
      | .wait s => s
      | .fail d s => rlCopyFailed s j d
      | .ok s =>
        let e := (fuEntry s t).getD j.old.toNat
        let new := entryHere s e (bits j.new.toNat 16 40) (bits j.new.toNat 61 2)
        putJob (putEntry s t new) t (fun j => { j with phase := .closing, new := BitVec.ofNat 64 new }))

/-- The last step of a relocation: BUSY is cleared and the record is written. -/
def rlFinish (s : State) (j : FuJob) : State :=
  let s := fuDrop (fuRecordWord s j.t 51 (fun v => setBits v 31 1 0)) j.t
  dropJob (mlWrite s j.old.toNat j.new.toNat j.t 3 0) j.t

/-- The second acknowledgements are in: BUSY is cleared, the record is written, and parked writes replay. -/
def execRelocationDone (t : SubTile) (s : State) : Host.Outcome State Fault Refusal :=
  .next (match jobOf s t .closing with
    | none => s
    | some j => rlFinish s j)

end Sys2Proof.Machine
end

