-- ==== Sys2Proof/Machine/Fabric.lean ====
section
/-! DEFINITION. The fabric and the package (R324, R325, R353 to R375): requests that this device serves, replies,
invalidations and multicasts, changes of route, failures of links, towers, spires and domes, and errors in data. -/

namespace Sys2Proof.Machine

/-! ### Serving a request (R373, R374) -/

/-- What the holding device's tables say of a request: refused, waiting for a relocation, or its frames here. -/
inductive FabLook
  | refuse
  | wait
  | here (r : Rec) (frames : List (Nat × Nat))
  deriving DecidableEq, Repr

/-- The access that a request makes, and the bit of the access table that admits it (R373, R414): a combining step (R290) and
the count of a communicator (R390) read and write. -/
def fabRight (r : FabReq) (atom : Bool) : Perm × Nat :=
  if !atom then (.w, 1) else if r.aop < 16 then (.a, 2) else (.w, 1)

/-- The checks of R373, and that a capacity frame can be reached (R253). A write is performed in every replica (R248). -/
def fabLook (s : State) (r : FabReq) (p : Perm) (aclBit : Nat) : FabLook :=
  let ctx := vuCtx r.hdr
  let obj := vuObj r.hdr
  let sub := vuSubt r.hdr
  let rec_ := recordWords s ctx obj
  if s.fab.barred.contains (vuSrc r.hdr) || obj == Config.argObject || !recV rec_ || recMalformed rec_ ||
      !recPerm rec_ .g || !recPerm rec_ p || (decide (16 ≤ r.aop) && !recPerm rec_ .r) || (p == .a && recProp rec_) || recRtab rec_ == 0 ||
      decide ((storageBound rec_ - 1) / 2 ^ 19 < sub) || r.bit / 2 ^ 19 != r.frame ||
      decide ((r.frame + 1) * 2 ^ 19 < r.bit + r.nbits) then .refuse
  else
    let es := (if p == .r then [replicaOf rec_ none] else replicasOf rec_).map (fun rep =>
      (rep, entryOf s ctx obj rec_ sub rep))
    let ok := fun (e : Nat) => !entryMalformed s.plat.devnum e && bits e 63 1 == 1 && bits e 61 2 != 3 &&
      (bits e 61 2 != 2 || capacityUp s.plat (bits e 16 40)) &&
      aclRange s.plat 208 (bits e 16 40 * 2 ^ 19 + r.bit % 2 ^ 19) r.nbits aclBit &&
      (decide (r.aop < 16) || aclRange s.plat 208 (bits e 16 40 * 2 ^ 19 + r.bit % 2 ^ 19) r.nbits 0)
    if es.any (fun e => !(e.2.any ok)) then .refuse
    else
      let fs := es.map (fun e => (e.1, bits (e.2.getD 0) 16 40))
      if (fs.find? (fun f => f.1 == replicaOf rec_ none)).map (·.2) ≠ some r.frame then .refuse
      else if p ≠ .r ∧ es.any (fun e => bits (e.2.getD 0) 59 1 == 1 || fuMoving s ⟨ctx, obj, sub, e.1⟩) = true then
        (if es.any (fun e => fuBusy s ⟨ctx, obj, sub, e.1⟩) then .wait else .refuse)
      else .here rec_ fs

/-- Answers a request, and keeps the answer for duplicates (R324). -/
def fabAnswer (s : State) (r : FabReq) (refused soft : Bool) (data : Nat) : State :=
  let src := vuSrc r.hdr
  let h := vuMake 3 src s.plat.devnum (vuPlane r.hdr) (vuCtx r.hdr) 0 (vuSubt r.hdr) (vuRseq r.hdr)
  let p : FabReply := ⟨h, refused, soft, data⟩
  send { s with fab := { s.fab with filter := s.fab.filter ++ [(src, vuRseq r.hdr, p)] } } (.reply src p)

/-- The pieces of a request at this device: one for each replica. -/
def fabPieces (r : FabReq) (fs : List (Nat × Nat)) : List Piece :=
  fs.map (fun f => ⟨.phys (f.2 * 2 ^ 19 + r.bit % 2 ^ 19), 0, r.nbits⟩)

/-- What an atomic or a combining step of a request leaves where `old` stood (R273, R290): of an element of which the sender
holds the other bits, its own part. -/
def fabNew (r : FabReq) (old : Nat) : Nat :=
  if r.aop < 16 then (atomNew r.aop r.nbits old r.data r.swap r.slot r.lane r.rnd).code
  else match r.part with
    | none => (combNew (r.aop - 16) r.nbits old r.data r.slot r.rnd).code
    | some (n, lo, rest) => bits (combNew (r.aop - 16) n (rest + 2 ^ lo * old) r.data r.slot r.rnd).code lo r.nbits

/-- Performs a write or an atomic that has passed its checks and whose line no other device holds any more: in the frames
that the checks found, whatever has been asked of the sub-tile since (R244, R373). -/
def fabPerform (s : State) (r : FabReq) (atom : Bool) (rec_ : Rec) (fs : List (Nat × Nat)) : State :=
  let ps := fabPieces r fs
  let bad := atom && ps.any (piecePoisoned s)
  let old := if bad then bits (Config.poisonData s.free).toNat 0 r.nbits else readPieces s [] (ps.take 1)
  let new := if atom then fabNew r old else r.data
  let s := if bad then { s with free := s.free + 1 } else s
  let s := fs.foldl (fun s f => markDirty s (vuCtx r.hdr) (vuObj r.hdr) rec_ (vuSubt r.hdr) f.1) s
  let s := hideWrite s none (pieceBytes ps)
  fabAnswer { s with mem := writePieces s.mem ps new, plat := unpoison s.plat ps } r false bad
    (if atom && !bad then old else 0)

/-- The directory after a write: the writer alone when it held a copy, no one otherwise. -/
def dirAfterWrite (s : State) (line writer : Nat) : State :=
  setDir s line (match dirAt s line with
    | some d => if (dirDevs d).contains writer then some (.shared [writer]) else none
    | none => none)

/-- The lines that a request touches. -/
def fabLines (r : FabReq) : List Nat := pieceLines r.bit r.nbits

/-- The devices besides a writer that hold a line of this one. -/
def otherDevs (s : State) (line writer : Nat) : List Nat :=
  ((dirAt s line).elim [] dirDevs).filter (fun d => d != writer && d != s.plat.devnum && !s.fab.barred.contains d)

/-- A write or an atomic that has passed its checks: the other copies of its lines go, line by line, and then it is performed
(R374). -/
def fabClear (s : State) (r : FabReq) (atom : Bool) (rec_ : Rec) (fs : List (Nat × Nat)) : State :=
  let src := vuSrc r.hdr
  match (fabLines r).find? (fun ln => !(otherDevs s ln src).isEmpty) with
  | some ln => askInvalidate s ln (otherDevs s ln src) r atom rec_ fs
  | none => (fabLines r).foldl (fun s ln => dirAfterWrite s ln src) (fabPerform s r atom rec_ fs)

/-- The answer to a combining step on a divided element whose line a step of this device has locked at its low part: the
sender tries again, so that two such steps never wait for each other (R290; DESIGN CHOICE, unsafe: log entry 26). -/
def fabBusy (s : State) (r : FabReq) : State := fabAnswer s r false false (2 ^ r.nbits)

/-- Whether an answer says that a step on a divided element has not been performed. -/
def fabWasBusy (r : FabReq) (p : FabReply) : Bool := r.part.isSome && decide (2 ^ r.nbits ≤ p.data)

/-- A write or an atomic: performed once every other copy has gone; one to a sub-tile under relocation is held (R373). -/
def fabChange (s : State) (r : FabReq) (atom : Bool) : State :=
  match fabLook s r (fabRight r atom).1 (fabRight r atom).2 with
  | .wait => { s with fab := { s.fab with held := s.fab.held ++ [(r, atom)] } }
  | .refuse => fabAnswer s r true false 0
  | .here rec_ fs =>
    if r.part.isSome && (fabLines r).any (fun ln => lineLocked s ln true) then fabBusy s r
    else if (fabLines r).any (lineWaits s) then s
    else fabClear s r atom rec_ fs

/-- A read: its requester becomes a holder of the line. -/
def fabServe (s : State) (r : FabReq) : State :=
  match fabLook s r .r 0 with
  | .here _ fs =>
    let line := lineOf r.bit
    if (fabLines r).any (lineWaits s) then s
    else
      let ps := fabPieces r fs
      let bad := ps.any (piecePoisoned s)
      let s := setDir s line (some (addSharer (dirAt s line) (vuSrc r.hdr)))
      fabAnswer s r false bad (if bad then 0 else readPieces s [] ps)
  | _ => fabAnswer s r true false 0

/-- A held request as it names its sub-tile now: in the frame where a relocation has put it. -/
def fabMoved (s : State) (r : FabReq) : FabReq :=
  let rec_ := recordWords s (vuCtx r.hdr) (vuObj r.hdr)
  match entryOf s (vuCtx r.hdr) (vuObj r.hdr) rec_ (vuSubt r.hdr) (replicaOf rec_ none) with
  | none => r
  | some e => { r with frame := bits e 16 40, bit := bits e 16 40 * 2 ^ 19 + r.bit % 2 ^ 19 }

/-- Requests that a relocation held replay once it is over (R244 step 5, R373). -/
def fabReplay (s : State) : State :=
  s.fab.held.foldl (fun s h =>
    let r := fabMoved s h.1
    match fabLook s r (fabRight r h.2).1 (fabRight r h.2).2 with
    | .wait => s
    | _ =>
      if (fabLines r).any (lineWaits s) then s
      else fabChange { s with fab := { s.fab with held := s.fab.held.erase h } } r h.2) s

/-- Whether a request of a device has arrived already and waits here. -/
def fabKnown (s : State) (h : Vuine) : Bool :=
  s.fab.waits.any (fun w => vuSrc w.req.hdr == vuSrc h && vuRseq w.req.hdr == vuRseq h) ||
  s.fab.held.any (fun w => vuSrc w.1.hdr == vuSrc h && vuRseq w.1.hdr == vuRseq h)

/-- A request arrives: discarded, answered from the duplicate filter, ignored on a route that its line has left,
or served. -/
def fabEnter (s : State) (r : FabReq) (kind : Nat) (serve : State → State) : State :=
  if !ready s then s
  else if !fabMine s r.hdr kind then fabDiscard s
  else match s.fab.filter.find? (fun f => f.1 == vuSrc r.hdr && f.2.1 == vuRseq r.hdr) with
  | some f => send s (.reply (vuSrc r.hdr) f.2.2)
  | none =>
    if fabKnown s r.hdr || s.fab.oldRoute.any (fun o => o.1 == vuSrc r.hdr && o.2.1 == lineOf r.bit &&
        (o.2.2.1 != vuPlane r.hdr || o.2.2.2 != r.port)) then s
    else serve s

def execFabricRead (r : FabReq) (s : State) : Host.Outcome State Fault Refusal :=
  .next (fabEnter s r 0 (fun s => fabServe s r))

def execFabricWrite (r : FabReq) (s : State) : Host.Outcome State Fault Refusal :=
  .next (fabEnter s r 1 (fun s => fabChange s r false))

def execFabricAtomic (r : FabReq) (s : State) : Host.Outcome State Fault Refusal :=
  .next (fabEnter s r 2 (fun s => fabChange s r true))

/-! ### Replies, invalidations and multicasts -/

/-- Drops this device's copies of the lines of a request. -/
def forgetLines (s : State) (r : FabReq) : State :=
  (pieceLines r.bit r.nbits).foldl (fun s ln => forgetPeer s (vuDst r.hdr) ln) s

/-- What a reply to a request does to this device's copies: a read installs its line, a write or an atomic that has been
performed updates them in place (R374), one that has not leaves them, and one whose outcome is not known here drops them. -/
def replyPeers (s : State) (r : FabReq) (p : FabReply) : State :=
  let dev := vuDst r.hdr
  if p.refused || fabWasBusy r p then s
  else if vuKind r.hdr = 0 then (if p.soft || r.nbits != 1024 then s else installPeer s dev (lineOf r.bit) p.data)
  else if p.soft then forgetLines s r
  else updatePeers s dev r.bit r.nbits (if vuKind r.hdr = 1 then r.data else fabNew r p.data)

/-- Ends a request; nobody takes the answer of one whose owner is lost (R359). -/
def endReq (s : State) (o : OutReq) (f : OutReq → OutReq) : State :=
  let rs := if o.owner = .lost then s.fab.reqs.filter (fun x => x.rseq != o.rseq)
    else s.fab.reqs.map (fun x => if x.rseq == o.rseq then f x else x)
  { s with fab := { s.fab with reqs := rs } }

/-- A reply ends the request that it names; another is ignored, and so is one that comes after the time of R369. -/
def execFabricReply (p : FabReply) (s : State) : Host.Outcome State Fault Refusal :=
  .next (if !fabMine s p.hdr 3 then fabDiscard s
    else match s.fab.reqs.find? (fun o => o.rseq == vuRseq p.hdr && vuDst o.req.hdr == vuSrc p.hdr && !reqOver o &&
        !expired s o) with
      | none => s
      | some o => endReq (replyPeers s o.req p) o (fun o =>
        if p.refused then { o with dead := some 5 }
        else if p.soft then { o with dead := some 2 }
        else { o with reply := some p }))

/-- Drops this device's copy of a line and acknowledges. -/
def dropPeer (s : State) (h : Vuine) (line : Nat) : State :=
  let src := vuSrc h
  let s := { s with fab := { s.fab with peers := s.fab.peers.filter (fun p => !(p.1 == src && p.2.1 == line)) } }
  send s (.invalidateAck src
    (vuMake 5 src s.plat.devnum (vuPlane h) (vuCtx h) 0 (vuSubt h) (vuRseq h)) line)

def execFabricInvalidate (h : Vuine) (line : Nat) (s : State) : Host.Outcome State Fault Refusal :=
  .next (if !ready s then s else if !fabMine s h 4 then fabDiscard s else dropPeer s h line)

/-- A write that waits goes on once the last acknowledgement of its line is in. -/
def finishWaits (s : State) : State :=
  let ws := s.fab.waits.filter (fun w => w.devs.isEmpty)
  let s := { s with fab := { s.fab with waits := s.fab.waits.filter (fun w => !w.devs.isEmpty) } }
  ws.foldl (fun s w =>
    if vuSrc w.req.hdr = s.plat.devnum then setDir s w.line none
    else fabClear (dirAfterWrite s w.line (vuSrc w.req.hdr)) w.req w.atom w.rec_ w.frames) s

/-- One device has let a line go, or is not waited for any more. -/
def ackFrom (s : State) (dev : Nat) (here : Nat → Bool) : State :=
  finishWaits { s with fab := { s.fab with waits := s.fab.waits.map (fun w =>
    if here w.line then { w with devs := w.devs.filter (· ≠ dev) } else w) } }

/-- A sharer that cannot be reached is not waited for any longer, and is refused until a route is reported again (R374). -/
def silentSharer (s : State) (dev : Nat) : State :=
  if s.fab.waits.any (fun w => w.devs.contains dev && decide (w.since + Config.unreachableAfter ≤ s.now)) ||
      (s.fab.waits.any (fun w => w.devs.contains dev) && (routeOf s.fab 0).isNone) then
    ackFrom { s with fab := { s.fab with
      barred := if s.fab.barred.contains dev then s.fab.barred else s.fab.barred ++ [dev] } } dev (fun _ => true)
  else s

def execFabricInvalidateAck (h : Vuine) (line : Nat) (s : State) : Host.Outcome State Fault Refusal :=
  .next (if !fabMine s h 5 then fabDiscard s else ackFrom s (vuSrc h) (fun l => l == line))

/-- Takes one node and its subtree at a tier: the subtree without the node, and what follows it. None when a node
word breaks R371 or the counts do not close. -/
def takeTree : Nat → Nat → List (BitVec 16) → Option (List (BitVec 16) × List (BitVec 16))
  | 0, _, _ => none
  | _, _, [] => none
  | f + 1, tier, n :: rest =>
    let index := bits n.toNat 0 6
    let kids := bits n.toNat 6 7
    let top := match tier with
      | 3 => 8
      | 2 => 16
      | _ => 64
    if bits n.toNat 13 3 ≠ 0 ∨ top ≤ index ∨ (tier = 1 ∧ kids ≠ 0) ∨ (tier ≠ 1 ∧ (kids = 0 ∨ 64 < kids)) then none
    else
      let go := (List.range kids).foldl (fun (acc : Option (List (BitVec 16) × List (BitVec 16) × Nat)) _ =>
        acc.bind (fun a => match a.2.1 with
          | [] => none
          | k :: _ =>
            if bits k.toNat 0 6 < a.2.2 then none
            else (takeTree f (tier - 1) a.2.1).map (fun t => (a.1 ++ (k :: t.1), t.2, bits k.toNat 0 6 + 1))))
        (some ([], rest, 0))
      go.map (fun a => (a.1, a.2.1))

/-- The first trees of a multicast: for each its INDEX, its number of children, and its subtree (R372). -/
def topTrees : Nat → Nat → Nat → List (BitVec 16) → Option (List (Nat × Nat × List (BitVec 16)))
  | 0, _, _, ns => if ns.isEmpty then some [] else none
  | r + 1, tier, lo, ns => match ns with
    | [] => none
    | n :: _ =>
      if bits n.toNat 0 6 < lo then none
      else (takeTree (tier + 1) tier ns).bind (fun t =>
        (topTrees r tier (bits n.toNat 0 6 + 1) t.2).map (fun rest =>
          (bits n.toNat 0 6, bits n.toNat 6 7, t.1) :: rest))

/-- Whether the header of a multicast breaks R371. -/
def mcBad (m : Multicast) : Bool :=
  bits m.word.toNat 17 15 != 0 || mcCount m != m.nodes.length || mcCount m == 0 || mcLevel m == 0 || mcRootn m == 0 ||
  decide (64 < mcRootn m)

/-- A multicast arrives: with tiers left it is split as a switch splits it (R372); with none left it is this
device's copy, an invalidation of a line (R374). -/
def execFabricMulticast (h : Vuine) (tree : Option (List (BitVec 16))) (count : BitVec 8) (levels : BitVec 2)
    (rootn : BitVec 22) (line : Nat) (s : State) : Host.Outcome State Fault Refusal :=
  .next (if vuBad h || vuKind h != 6 || vuDst h != vuSrc h then fabDiscard s
    else match tree with
      | none => if vuSrc h = s.plat.devnum || !ready s then s else dropPeer s h line
      | some ns =>
        let m : Multicast := ⟨mcWord count levels rootn, ns⟩
        if mcBad m then fabDiscard s
        else match topTrees (mcRootn m) (mcLevel m) 0 m.nodes with
          | none => fabDiscard s
          | some ts => ts.foldl (fun s t => send s (.multicast t.1 h
              (if mcLevel m = 1 then none else some (mcMake (mcLevel m - 1) t.2.1 t.2.2)) line)) s)

/-! ### Routes (R367 to R369, R374) -/

/-- Whether any plane leads anywhere. -/
def anyPlane (f : Fabric) : Bool := (routeOf f 0).isSome

/-- After the ports or planes have changed from `old`: a notice for each line with requests on a route that it has left, and
for each of which its device knows an earlier route from a notice. Without any route the copies of other devices' lines are
dropped. -/
def routesChanged (old : Fabric) (s : State) : State :=
  let s : State := if anyPlane s.fab then { s with fab := { s.fab with cut := none } }
    else { s with fab := { s.fab with peers := [], cut := s.fab.cut.or (some s.now) } }
  let ls := (s.fab.reqs.filter (fun o => !reqOver o && routeOf s.fab (lineOf o.req.bit) != some (o.plane, o.port))).map
    (fun o => (vuDst o.req.hdr, lineOf o.req.bit)) ++
    s.fab.noticed.filter (fun l => routeOf s.fab l.2 != routeOf old l.2)
  ls.eraseDups.foldl (fun s l => match routeOf s.fab l.2 with
    | some (p, port) => send { s with fab := { s.fab with noticed := s.fab.noticed.filter (· != l) ++ [l] } }
        (.routeNotice l.1 l.2 p port)
    | none => s) s

/-- A port goes down or comes back; a plane lives while one of its ports is up. -/
def execRouteChange (port : Nat) (up : Bool) (s : State) : Host.Outcome State Fault Refusal :=
  .next (if 24 ≤ port then s
    else
      let ports := s.fab.portUp.set port up
      let plane := port % 8
      let alive := (List.range 3).any (fun k => ports.getD (plane + 8 * k) false)
      let back := if up then [] else s.fab.barred
      routesChanged s.fab { s with fab := { s.fab with
        portUp := ports, planeUp := s.fab.planeUp.set plane alive, barred := back } })

/-- The target of a line's requests accepts nothing more on the old route. -/
def execRouteChangeNotice (src line plane port : Nat) (s : State) : Host.Outcome State Fault Refusal :=
  .next (if !ready s then s
    else send { s with fab := { s.fab with oldRoute :=
      (s.fab.oldRoute.filter (fun o => !(o.1 == src && o.2.1 == line))) ++ [(src, line, plane, port)] } }
      (.routeAck src line))

/-- Whether a request ends without an answer: it has been outstanding too long, or no live plane leads to its device (R369). -/
def reqDue (s : State) (o : OutReq) : Bool :=
  !reqOver o && (expired s o || !anyPlane s.fab || s.fab.barred.contains (vuDst o.req.hdr))

/-- A request ends without an answer: whether a write was performed is not known here, so that the copies of its lines go
(R369). -/
def cutReq (s : State) (o : OutReq) : State :=
  endReq (if vuKind o.req.hdr = 0 then s else forgetLines s o.req) o (fun o => { o with dead := some 4 })

def execRequestTimeout (rseq : Nat) (s : State) : Host.Outcome State Fault Refusal :=
  .next (match s.fab.reqs.find? (fun o => o.rseq == rseq && reqDue s o) with
    | none => s
    | some o => cutReq s o)

/-- Every request that is due ends (R5, R369). -/
def endDue (s : State) : State := (s.fab.reqs.filter (reqDue s)).foldl cutReq s

/-- The holding device stops waiting for the sharers that have not acknowledged in the time of R369 (R374). -/
def endWaits (s : State) : State :=
  let late := s.fab.waits.filter (fun w => decide (w.since + Config.unreachableAfter ≤ s.now) || !anyPlane s.fab)
  (late.flatMap (·.devs)).eraseDups.foldl silentSharer s

/-- Sends an outstanding request again, over the route that its line has now (R324). -/
def reissue (s : State) (o : OutReq) : State :=
  match routeOf s.fab (lineOf o.req.bit) with
  | none => s
  | some (p, port) =>
    let h := o.req.hdr
    let r := { o.req with port := port,
                          hdr := vuMake (vuKind h) (vuDst h) (vuSrc h) p (vuCtx h) (vuObj h) (vuSubt h) (vuRseq h) }
    send { s with fab := { s.fab with reqs := s.fab.reqs.map (fun x =>
      if x.rseq == o.rseq then { x with req := r, plane := p, port := port } else x) } } (.request (vuDst h) r)

def execAckTimeoutReissue (rseq : Nat) (s : State) : Host.Outcome State Fault Refusal :=
  .next (match s.fab.reqs.find? (fun o => o.rseq == rseq && !reqOver o) with
    | some o => reissue s o
    | none => s)

/-! ### Losing crews (R359, R360, R362, R363) -/

/-- The requests of a lost crew: what a target has performed stays so, every other one is discarded, and the copies of the
lines of those whose outcome is not known here go (R359). -/
def discardReqs (s : State) (c : Nat) : State :=
  let mine := s.fab.reqs.filter (fun o => crewOwns s c o.owner && !reqOver o)
  let s := { s with
    fab := { s.fab with reqs := s.fab.reqs.filter (fun o => !mine.contains o) }
    outbox := s.outbox.filter (fun m => match m.out with
      | .request _ r => !mine.any (fun o => vuRseq r.hdr == o.rseq % 2 ^ 40)
      | _ => true) }
  mine.foldl (fun s o => if vuKind o.req.hdr = 0 then s else forgetLines s o.req) s

/-- Ends crews that are lost. The dispatcher places those of a REISSUE launch again from their start, and breaks
the other launches, and a COSCHED one that no longer fits, with HWFAIL. -/
def loseCrews (s : State) (cs : List Nat) : State :=
  let hs := cs.foldl (fun (acc : List DWord) c =>
    let h := (crewAt s c).launch
    if acc.contains h then acc else acc ++ [h]) []
  let s := dropWanted s cs
  let ended := cs.foldl (fun (acc : State × List Brk) c =>
    let x := crewAt acc.1 c
    if x.gone then acc
    else
      let r := endCrew (discardReqs acc.1 c) c
      (putLaunch r.1 x.launch (fun l => { l with redo := l.redo ++ [x.lin], since := s.now }), acc.2 ++ r.2)) (s, [])
  let s := breakHandles ended.1 ended.2
  settleAll (hs.foldl (fun s h => match launchOf s h with
    | none => s
    | some l =>
      if l.state == .done || l.state == .broken then s
      else if recBits l.record 252 1 = 0 ∨ (isCosched l ∧ !deviceHolds s l.record) then breakLaunch s h 5 0
      else s) s)

/-- Every launch that is not resolved breaks with a code, those of other homes that are still in a ring or held here among
them (R363, R415, R418). -/
def breakEvery (s : State) (code : Nat) : State :=
  let hs := (s.launches.filter (fun l => !(l.state == .done || l.state == .broken))).map (·.h)
  let here := (s.disp.ents.filter (fun e => e.state < 3)).map (fun e => handleMake e.serial s.plat.devnum e.kind)
  let away := ((s.disp.heldMsgs ++ s.queues.flatMap (fun q => q.wait ++ q.ring.map (·.msg))).map (·.handle)).filter
    (fun h => !ownHome s h && h != 0)
  settleAll (breakHandles s ((hs ++ here ++ away).eraseDups.map (fun h => Brk.own h code 0)))

/-- Sets STATE, and tells the PF when it changes (R412). -/
def setState (s : State) (st : RunState) : State :=
  if s.plat.st = st then s else raiseMsix { s with plat := { s.plat with st := st } } 0 4

/-- The device stops in the safe state: every unresolved launch has broken, and nothing that was under way goes on (R363,
R418); memory has the host's writes that waited for other devices. -/
def stopDevice (s : State) : State :=
  let s := breakEvery s 5
  setState { s with
    mem := s.plat.hostWrites.foldl (fun m w => memPut m w.1 w.2) s.mem
    plat := { s.plat with hostWrites := [] }
    fu := { asked := [], jobs := [] }
    copies := []
    coll := { cmds := [], parts := [], gone := [], broken := [], moved := [] }
    fab := { s.fab with reqs := [], waits := [], held := [] } } .safe

/-- A relocation or a migration of a fenced tower as the master takes it over: it starts at its copy step again (R361). -/
def jobOver (m : Nat) (j : FuJob) : FuJob :=
  { j with tower := m, phase := match j.phase with
      | .migrating => .migrating
      | _ => .copying }

/-- The entry of a relocation that starts at its copy step again names the old frame, with MOV set. -/
def jobUndo (s : State) (j : FuJob) : State :=
  if j.phase = .closing then putEntry s j.t (setBits j.old.toNat 59 1 1) else fuDrop s j.t

/-- Damosk fences a tower (R357, R359, R361). -/
def fenceTower (s : State) (t : Nat) : State :=
  if s.plat.fenced.getD t true then s
  else
    let s := { s with plat := { s.plat with fenced := s.plat.fenced.set t true } }
    match (List.range Config.towers).find? (fun k => !s.plat.fenced.getD k true) with
    | none => stopDevice s
    | some m =>
      let mine := s.fu.jobs.filter (fun j => j.tower == t)
      let s := mine.foldl jobUndo s
      let jobs := s.fu.jobs.map (fun j => if j.tower == t then jobOver m j else j)
      let s := { s with
        disp := { s.disp with master := m }
        fu := { asked := s.fu.asked.map (fun a => (if a.1 == t then m else a.1, a.2)), jobs := jobs }
        caches := { s.caches with ilines := s.caches.ilines.filter (fun l => l.tower != t) } }
      loseCrews s ((List.range s.crews.length).filter (fun c => (crewAt s c).tower == t && !(crewAt s c).gone))

def execTowerFence (t : Nat) (s : State) : Host.Outcome State Fault Refusal := .next (fenceTower s t)

/-- A link has lost modules: traffic takes the other dome, a tower without links is fenced, and without the
dome–dome link a tower that has lost a link stops the device (R356, R363). -/
def linksChanged (s : State) : State :=
  let dead := fun (t d : Nat) => (s.fab.links.getD t []).getD d 0 == 0
  let up := (List.range Config.towers).filter (fun t => !s.plat.fenced.getD t true)
  if s.fab.domeLink = 0 ∧ (List.range Config.towers).any (fun t => dead t 0 || dead t 1) = true then stopDevice s
  else (up.filter (fun t => dead t 0 && dead t 1)).foldl fenceTower s

/-- Sets the modules of a link. -/
def setLink (s : State) (t d n : Nat) : State :=
  { s with fab := { s.fab with links := s.fab.links.set t ((s.fab.links.getD t []).set d n) } }

/-- A ring station, a die link, the dome–dome link, a CXL link or a plane fails: what was outstanding on it is
reissued over another route (R324). -/
def execLinkFailure (l : Link) (s : State) : Host.Outcome State Fault Refusal :=
  .next (match l with
    | .ring _ _ => s
    | .dieLink t d => linksChanged (setLink s t d 0)
    | .domeLink => linksChanged { s with fab := { s.fab with domeLink := 0 } }
    | .cxl port => { s with plat := { s.plat with cxlUp := s.plat.cxlUp.set port false } }
    | .plane p =>
      let os := s.fab.reqs.filter (fun o => !reqOver o && o.plane == p)
      let ports := (s.fab.portUp.zipIdx).map (fun u => u.1 && u.2 % 8 != p)
      let s := routesChanged s.fab { s with fab := { s.fab with planeUp := s.fab.planeUp.set p false, portUp := ports } }
      os.foldl reissue s)

/-- A module of a tower–dome link (towers 0 to 3), or of the dome–dome link (4), is retired. -/
def execDieLinkModuleRetire (t d : Nat) (s : State) : Host.Outcome State Fault Refusal :=
  .next (linksChanged (if t < Config.towers then setLink s t d ((s.fab.links.getD t []).getD d 0 - 1)
    else { s with fab := { s.fab with domeLink := s.fab.domeLink - 1 } }))

/-- A dome, or the link between the domes, fails beyond correction. -/
def execDomeFailure (_dome : Nat) (s : State) : Host.Outcome State Fault Refusal := .next (stopDevice s)

/-! ### Retiring a spire (R354, R362) -/

/-- A spare of a tower: a physical spire that backs nothing and has not been retired. -/
def spareOf (p : Platform) (t : Nat) : Option Nat :=
  (List.range Config.spiresPerTower).find? (fun ph => !p.retired.contains (Config.spiresPerTower * t + ph) &&
    (List.range 32).all (fun l => p.repair.getD (32 * t + l) none != some ph))

/-- The logical spire of a retired one moves to a spare, or to none. -/
def retireSpire (s : State) (t ph : Nat) : State :=
  let pl := { s.plat with retired := s.plat.retired ++ [Config.spiresPerTower * t + ph] }
  let l := (List.range 32).find? (fun l => pl.repair.getD (32 * t + l) none == some ph)
  let map := fun (m : List (Option Nat)) => match l with
    | some l => m.set (32 * t + l) (spareOf pl t)
    | none => m
  { s with plat := { pl with repair := map pl.repair, flash := { pl.flash with repair := map pl.flash.repair } } }

/-- Saves the crews of a working spire in full, with the groups that they belong to (R330), or says that one of them cannot
be saved yet. -/
def saveSpire (s : State) (cs : List Nat) : Bool × State :=
  let all := (cs.flatMap (groupOf s)).eraseDups
  let asked := all.foldl (fun (acc : Option State) c => acc.bind (fun s => requestOne s c)) (some s)
  match asked with
  | none => (false, all.foldl cleanFor s)
  | some s1 =>
    if !all.all (atBoundary s1) then (false, s)
    else
      let r := settleGroup s1 true all
      if !r.1 then (false, { s with fu := r.2.fu, fab := r.2.fab, outbox := r.2.outbox })
      else (true, settleAll ((savedOf r.2 all).foldl (fun s c => saveOne s c true 0) r.2))

/-- A spire is retired: a working one once its crews are saved, a failed one with the loss of its crews. -/
def execSpireRetire (spire : Nat) (working : Bool) (s : State) : Host.Outcome State Fault Refusal :=
  let t := spire / Config.spiresPerTower
  let ph := spire % Config.spiresPerTower
  let cs := spireCrews s (t, ph)
  .next (if s.plat.retired.contains spire || decide (Config.towers ≤ t) then s
    else if working then
      let r := saveSpire s cs
      if r.1 then retireSpire r.2 t ph else r.2
    else loseCrews (retireSpire s t ph) cs)

/-! ### Errors in data (R325) -/

/-- Returned data had an uncorrectable error: the lanes receive 0 and an entry is queued. A uniform D keeps its value when
the data of the lowest taking lane, which it holds (R10), was sound. -/
def execMemoryDataError (w : Nat) (lanes : Mask) (addr pc : DWord) (s : State) :
    Host.Outcome State Fault Refusal :=
  let x := warpAt s w
  .next (match x.lastLd with
    | none => s
    | some r =>
      let m := lanes &&& r.dst.lanes
      if r.pc ≠ pc ∨ m = 0 ∨ x.gone then s
      else
        let kept := r.dst.h.w || (match r.dst.d with
          | .s _ => !((lowest r.dst.lanes).any m.getLsbD)
          | _ => false)
        let s := setWarp s w { writeDest x { r.dst with h := { r.dst.h with w := kept }, lanes := m } r.words
          (fun _ => 0) with lastLd := none }
        asyncTrap s w r.issue r.fslot 0x16 m pc addr.toNat 2)

/-- A dirty line is written back poisoned: the ECC words (8 bytes each) that `words` numbers within it. -/
def execPoisonedWriteback (line : Nat) (words : List Nat) (s : State) : Host.Outcome State Fault Refusal :=
  let ws := (words.filter (fun k => decide (k < 16))).map (· + 16 * line)
  .next { s with plat := { s.plat with poison := s.plat.poison ++ ws.filter (fun w => !s.plat.poison.contains w) } }

end Sys2Proof.Machine
end

