-- ==== Sys2Proof/Machine/Lanes.lean ====
section
/-! DEFINITION. Majors 0x30 to 0x35 (R154 to R161): lane exchange, masks and reductions, `xswap`, the special
registers and profiling events. -/

namespace Sys2Proof.Machine

/-! ### lxch (R154) -/

/-- An exchange within segments of w = 32 / 2^seg lanes: `src` gives, from segment base, place j, width and
the lane's m, the source lane, or none where `.clip` keeps the lane's own A. -/
def lxchOp (s : State) (h : Hdr) (seg : Fin 6) (d : Opnd) (srcs : List Src)
    (src : Nat → Nat → Nat → Nat → Option Nat) : Host.Outcome State Fault Refusal :=
  runInstr s 0 (regsOk ((d, 1) :: srcs)) anyMode h.g (fun e =>
    let m := taking e h.g
    match readSrcs s e m srcs (some d) (!h.w) with
    | .error x => .error x
    | .ok (s, vals) =>
      let w := 32 / 2 ^ seg.val
      finish s e h d m 1 (fun l =>
        let own := (vals l).getD 0 0
        match src (l - l % w) (l % w) w (bits ((vals l).getD 1 0) 0 5) with
        | some k => if m.getLsbD k then (vals k).getD 0 0 else own
        | none => own))

def execLxchSel (h : Hdr) (seg : Fin 6) (d a b : Opnd) (s : State) : Host.Outcome State Fault Refusal :=
  lxchOp s h seg d [(a, 1), (b, 1)] (fun sb _ w m => some (sb + m % w))
def execLxchRdn (h : Hdr) (seg : Fin 6) (clip : Bool) (d a b : Opnd) (s : State) :
    Host.Outcome State Fault Refusal :=
  lxchOp s h seg d [(a, 1), (b, 1)] (fun sb j w m =>
    if clip && decide (w ≤ j + m) then none else some (sb + (j + m) % w))
def execLxchRup (h : Hdr) (seg : Fin 6) (clip : Bool) (d a b : Opnd) (s : State) :
    Host.Outcome State Fault Refusal :=
  lxchOp s h seg d [(a, 1), (b, 1)] (fun sb j w m =>
    if clip && decide (j < m) then none else some (sb + (j + 32 * w - m) % w))
def execLxchXor (h : Hdr) (seg : Fin 6) (d a b : Opnd) (s : State) : Host.Outcome State Fault Refusal :=
  lxchOp s h seg d [(a, 1), (b, 1)] (fun sb j w m => some (sb + (j ^^^ m) % w))
def execLxchRev (h : Hdr) (seg : Fin 6) (d a : Opnd) (s : State) : Host.Outcome State Fault Refusal :=
  lxchOp s h seg d [(a, 1)] (fun sb j w _ => some (sb + (w - 1 - j)))

/-! ### lmask (R155) -/

/-- A predicate result that a function of the taking lanes and predicate A's lanes gives every lane. -/
def lmaskPred (s : State) (h : Hdr) (d a : Pred) (f : Mask → Mask → Bool) : Host.Outcome State Fault Refusal :=
  runInstr s 0 (fun _ => true) anyMode h.g (fun e =>
    let m := taking e h.g
    finishPred s e h d m (fun _ => f m (predMask e.x a &&& m)))

/-- A word result of the same kind. -/
def lmaskWord (s : State) (h : Hdr) (d : Opnd) (a : Pred) (f : Mask → Nat) : Host.Outcome State Fault Refusal :=
  runInstr s 0 (regsOk [(d, 1)]) anyMode h.g (fun e =>
    let m := taking e h.g
    match readSrcs s e m [] (some d) (!h.w) with
    | .error x => .error x
    | .ok (s, _) => finish s e h d m 1 (fun _ => f (predMask e.x a &&& m)))

def execLmaskSome (h : Hdr) (d a : Pred) (s : State) : Host.Outcome State Fault Refusal :=
  lmaskPred s h d a (fun _ t => t != 0)
def execLmaskEvery (h : Hdr) (d a : Pred) (s : State) : Host.Outcome State Fault Refusal :=
  lmaskPred s h d a (fun m t => t == m)
def execLmaskMask (h : Hdr) (d : Opnd) (a : Pred) (s : State) : Host.Outcome State Fault Refusal :=
  lmaskWord s h d a (fun t => t.toNat)
def execLmaskCount (h : Hdr) (d : Opnd) (a : Pred) (s : State) : Host.Outcome State Fault Refusal :=
  lmaskWord s h d a (fun t => (lanesOf t).length)

def execLmaskSame (h : Hdr) (d : Pred) (a : Opnd) (s : State) : Host.Outcome State Fault Refusal :=
  runInstr s 0 (regsOk [(a, 1)]) anyMode h.g (fun e =>
    let m := taking e h.g
    match readSrcs s e m [(a, 1)] none false with
    | .error x => .error x
    | .ok (s, vals) =>
      let same := (lanesOf m).all (fun l => (vals l).getD 0 0 == warpValue m vals 0)
      finishPred s e h d m (fun _ => same))

/-! ### lred (R156) -/

/-- A value combined over the taking lanes. -/
def lredOp (s : State) (h : Hdr) (d a : Opnd) (f : Word → Word → Word) : Host.Outcome State Fault Refusal :=
  runInstr s 0 (regsOk [(d, 1), (a, 1)]) anyMode h.g (fun e =>
    let m := taking e h.g
    match readSrcs s e m [(a, 1)] (some d) (!h.w) with
    | .error x => .error x
    | .ok (s, vals) =>
      let xs := (lanesOf m).map (fun l => arg32 (vals l) 0)
      let r : Word := match xs with
        | [] => 0
        | x :: ys => ys.foldl f x
      finish s e h d m 1 (fun _ => r.toNat))

def execLredAdd (h : Hdr) (d a : Opnd) (s : State) : Host.Outcome State Fault Refusal :=
  lredOp s h d a (fun x y => x + y)
def execLredMin (h : Hdr) (d a : Opnd) (s : State) : Host.Outcome State Fault Refusal := lredOp s h d a minS
def execLredMax (h : Hdr) (d a : Opnd) (s : State) : Host.Outcome State Fault Refusal := lredOp s h d a maxS
def execLredMinu (h : Hdr) (d a : Opnd) (s : State) : Host.Outcome State Fault Refusal := lredOp s h d a minU
def execLredMaxu (h : Hdr) (d a : Opnd) (s : State) : Host.Outcome State Fault Refusal := lredOp s h d a maxU
def execLredAnd (h : Hdr) (d a : Opnd) (s : State) : Host.Outcome State Fault Refusal :=
  lredOp s h d a (fun x y => x &&& y)
def execLredOr (h : Hdr) (d a : Opnd) (s : State) : Host.Outcome State Fault Refusal :=
  lredOp s h d a (fun x y => x ||| y)
def execLredXor (h : Hdr) (d a : Opnd) (s : State) : Host.Outcome State Fault Refusal :=
  lredOp s h d a (fun x y => x ^^^ y)

/-! ### xswap (R157) -/

/-- Whether a warp's launch has the PAIR flag (R172). -/
def inPairLaunch (s : State) (e : Env) : Bool :=
  match launchOf s e.cr.launch with
  | some l => recBits l.record 254 1 == 1
  | none => false

/-- The partner of a warp: warp k of the partner crew, when that crew is on the device. -/
def partnerWarp (s : State) (e : Env) : Option Nat :=
  (List.range s.warps.length).find? (fun v =>
    let y := warpAt s v
    let d := crewAt s y.crew
    d.launch == e.cr.launch && d.lin == partnerLin e.cr.lin && y.wid == e.x.wid && !d.gone)

/-- Whether the partner warp has ended, or its crew has. -/
def partnerEnded (s : State) (e : Env) : Bool :=
  match partnerWarp s e with
  | some v => pathsDone (warpAt s v)
  | none => s.crews.any (fun c => c.launch == e.cr.launch && c.lin == partnerLin e.cr.lin && c.gone) &&
      !((launchOf s e.cr.launch).any (fun l => l.saved.any (fun k => k.lin == partnerLin e.cr.lin)))

/-- The partner's parked `xswap` that this one meets: warp, path, destination and operand. XSN counts the exchanges that
are complete, and of two that are parked the one issued first is met, so that the n-th of a warp meets the n-th of its
partner. -/
def partnerPark (s : State) (e : Env) : Option (Nat × Which × Dest × List Word) :=
  match partnerWarp s e with
  | none => none
  | some v =>
    let y := warpAt s v
    if y.xsn ≠ (warpAt s e.w).xsn then none
    else ((if y.last then [Which.a, .b] else [Which.b, .a]) ++ [Which.handler]).findSome? (fun k =>
      match (slotOf y k).live, (slotOf y k).park with
      | true, some (.xswap dst a _) => some (v, k, dst, a)
      | _, _ => none)

/-- What a side receives in lane l: the other side's A where that lane takes part there, or its own. -/
def swapVal (own other : List Word) (om : Mask) (l : Nat) : Nat :=
  (lane 0 (if om.getLsbD l then other else own) l).toNat

/-- One more exchange of a warp is complete. -/
def countSwap (s : State) (w : Nat) : State := setWarp s w { warpAt s w with xsn := (warpAt s w).xsn + 1 }

/-- Completes the partner's side: its result, its push, and its path at the next instruction. -/
def swapPartner (s : State) (v : Nat) (k : Which) (dst : Dest) (val : Nat → Nat) : Except Stop State :=
  let s := countSwap (setWarp s v (writeDest (warpAt s v) dst 1 val)) v
  let pushed : Except Stop State := match dst.d with
    | .q n => if dst.h.w then .ok s else pushChan s (envOf s ⟨v, k⟩) n.val dst.lanes val
    | _ => .ok s
  match pushed with
  | .error x => .error x
  | .ok s =>
    .ok (resumeSlot (setSlot s v k (stepOn (slotOf (warpAt s v) k))) v k)

/-- Whether the partner's push has no space yet: the entry that its own A has come from makes room (R147). -/
def swapBlocked (s : State) (v : Nat) (k : Which) (dst : Dest) : Bool :=
  portFull (setSlot s v k Slot.free) (crewOf s v) (!dst.h.w) (dstPort (some dst.d))

/-- `xswap` (R157). Its own checks come in the order UNIF, QUEUE 7, QUEUE 6, and then the misuse or emptiness of a queue
port in A or D (DESIGN CHOICE, unsafe: log entry 13: the spec gives no order). An A from a port is popped at the issue; a
swap that is given up puts the entry back (`giveBack`). -/
def execXswap (h : Hdr) (d a : Opnd) (s : State) : Host.Outcome State Fault Refusal :=
  runInstr s 0 (regsOk [(d, 1), (a, 1)]) anyMode h.g (fun e =>
    let m := taking e h.g
    if m = 0 then advance s e
    else if outside e ≠ 0 then .error (unif e (outside e))
    else if !inPairLaunch s e then .error (queueTrapOf e m 7)
    else if partnerEnded s e then .error (queueTrapOf e m 6)
    else match readSrcs s e m [(a, 1)] (some d) (!h.w) with
    | .error x => .error x
    | .ok (s1, vals) =>
      let own := tab (fun l => arg32 (vals l) 0)
      match partnerPark s1 e with
      | none => .error (.park (.xswap ⟨h, d, m⟩ own (dstPort (some a))) s1)
      | some (v, k, dst, theirs) =>
        if swapBlocked s1 v k dst then .error (.park (.reissue .partner) s)
        else match swapPartner (countSwap s1 e.w) v k dst (swapVal theirs own m) with
          | .error (.trap _) => .error (.park (.reissue .partner) s)
          | .error x => .error x
          | .ok s2 => finish s2 e h d m 1 (swapVal own theirs dst.lanes))

/-! ### rdsr (R158, R159, R381) -/

/-- The address of the argument object (R175). -/
def argAddr : Nat := Config.argObject * 2 ^ 42

/-- The special registers. -/
def specialReg (s : State) (e : Env) (n : Nat) : Nat :=
  let l : Option Launch := launchOf s e.cr.launch
  let r := (l.map (·.record)).getD []
  let res : DWord := (l.map (·.result)).getD 0
  let gx := recBits r 64 32
  let gy := recBits r 96 32
  match n with
  | 0 => e.x.wid
  | 1 => e.cr.warps.length
  | 2 => e.x.role
  | 3 => e.x.roleIx
  | 4 => e.cr.lin % gx
  | 5 => e.cr.lin / gx % gy
  | 6 => e.cr.lin / gx / gy
  | 7 => gx
  | 8 => gy
  | 9 => recBits r 128 32
  | 10 => e.cr.lin
  | 11 => if recBits r 251 1 = 1 then e.cr.logical else 0xFFFFFFFF
  | 12 => e.mask.toNat
  | 13 => if e.sup then 1 else 0
  | 14 => e.cr.scrLen
  | 15 => bits argAddr 0 32
  | 16 => bits argAddr 32 32
  | 17 => bits e.cr.launch.toNat 0 32
  | 18 => bits e.cr.launch.toNat 32 32
  | 19 => if recBits r 254 1 = 1 then partnerLin e.cr.lin else 0xFFFFFFFF
  | 20 => s.plat.devnum
  | 21 => e.cr.ctx
  | 22 => bits res.toNat 0 32
  | _ => bits res.toNat 32 32

def execRdsr (h : Hdr) (d : Opnd) (n : Fin 24) (s : State) : Host.Outcome State Fault Refusal :=
  runInstr s 0 (regsOk [(d, 1)]) anyMode h.g (fun e =>
    let m := taking e h.g
    match readSrcs s e m [] (some d) (!h.w) with
    | .error x => .error x
    | .ok (s, _) => finish s e h d m 1 (fun _ => specialReg s e n.val))

/-! ### prof (R160, R161) -/

/-- The 16-byte event. TIME counts from the last start of the device. -/
def profEvent (s : State) (e : Env) (code v : Nat) (lost : Bool) : Nat :=
  (s.now - s.plat.started) % 2 ^ 56 + 2 ^ 56 * code + 2 ^ 64 * v + 2 ^ 96 * e.x.wid + 2 ^ 101 * e.cr.slotNo +
    2 ^ 105 * (e.cr.phys + 64 * e.cr.tower) + 2 ^ 113 * e.cr.ctx + (if lost then 2 ^ 125 else 0)

/-- The operand of `prof`, which never parks or traps: from a queue port that cannot be read it is a value that the
manual does not state, and nothing is popped (DESIGN CHOICE, safe: log entry 7). -/
def profOperand (s : State) (e : Env) (m : Mask) (a : Opnd) : State × Nat :=
  match readSrcs s e m [(a, 1)] none false with
  | .ok (s, vals) => (s, warpValue m vals 0)
  | .error _ => ({ s with free := s.free + 1 }, (Config.unstatedWord s.free).toNat)

def execProf (g : Guard) (code : BitVec 8) (a : Opnd) (s : State) : Host.Outcome State Fault Refusal :=
  runInstr s 0 (regsOk [(a, 1)]) anyMode g (fun e =>
    let m := taking e g
    match ctxGet s e.cr.ctx with
    | none => advance s e
    | some x =>
      if m = 0 ∨ bits (csrN x 0x062) 8 1 = 0 then advance s e
      else
        let r := profOperand s e m a
        let s := r.1
        let wr := csrN x 0x063
        let lg := bits (csrN x 0x062) 0 5
        if ringFull wr (csrN x 0x064) lg then advance (ctxPut s e.cr.ctx { x with profLost := true }) e
        else
          let ev := profEvent s e code.toNat r.2 x.profLost
          let s := physPut s (bits (csrPair x 0x060) 0 56 + 16 * (wr % 2 ^ lg)) 16 ev
          let s := ctxPut s e.cr.ctx (setCsr { x with profLost := false } 0x063 (wr + 1))
          let used := (wr + 1 + 2 ^ 32 - csrN x 0x064) % 2 ^ 32
          advance (if becameHalf used lg then raiseMsix s (ctxFunc s e.cr.ctx) 5 else s) e)

end Sys2Proof.Machine
end

