-- ==== Sys2Proof/Machine/Levels.lean ====
section
/-! DEFINITION. Majors 0x5E to 0x62 but for atomics (R250 to R258): prefetch, promotion and demotion of HBM rows,
object queries, and cache operations. -/

namespace Sys2Proof.Machine

/-- `pref` (R255): nothing that it does is visible. -/
def execPref (g : Guard) (m : MemOp) (s : State) : Host.Outcome State Fault Refusal :=
  runInstr s 0 (regsOk (globalSrcs m.b m.a)) anyMode g (fun e => advance s e)

/-! ### Ranges of elements (R256, R258) -/

/-- The checks of a range: NOOBJ and PERM_R, then OOS at element i + n. Where i + n reaches 2^42, which no index holds, that
address carries into the object number (DESIGN CHOICE, unsafe: log entry 11: R256 does not speak of it). -/
def checkRange (s : State) (e : Env) (m : Mask) (addr n : Nat) : Except Stop Rec :=
  let obj := bits addr 42 22
  let i := bits addr 0 42
  match recordOf s (warpAgent s e.w) obj i with
  | .error f => .error (.trap ⟨f.cause, m, elemAddr obj i, f.detail⟩)
  | .ok r => match permFail r .r with
    | some d => .error (.trap ⟨5, m, elemAddr obj i, d⟩)
    | none =>
      if 0 < n ∧ recCount r < i + n then .error (.trap ⟨6, m, elemAddr obj (i + n), 0⟩)
      else .ok r

/-- The 128-byte lines of an object's storage that element i covers. -/
def elemLines (r : Rec) (i : Nat) : List Nat :=
  match translate r i with
  | none => []
  | some a => (List.range ((a + recEW r - 1) / 1024 - a / 1024 + 1)).map (· + a / 1024)

/-- The frame and the tier that hold a line of an object's storage, where its sub-tile is resident here. An entry that
breaks R239 but has RES = 1 and a local tier is used as it stands (DESIGN CHOICE, unsafe: log entry 11: R256 does not
name such entries). -/
def lineFrame (s : State) (ctx obj : Nat) (r : Rec) (rep line : Nat) : Option (Nat × Nat) :=
  if recRtab r = 0 then none
  else match entryOf s ctx obj r (line / 512) rep with
  | none => none
  | some e => if bits e 63 1 = 1 ∧ bits e 61 2 < 3 then some (bits e 16 40, bits e 61 2) else none

/-- The physical lines (byte address / 128) that a range of elements covers in the given replicas, in ascending element
order. -/
def rangeLines (s : State) (e : Env) (r : Rec) (obj i n : Nat) (reps : List Nat) : List (Nat × Nat) :=
  (List.range n).flatMap (fun k => (elemLines r (i + k)).flatMap (fun line => reps.filterMap (fun rep =>
    (lineFrame s e.cr.ctx obj r rep line).map (fun ft => (ft.1 * 512 + line % 512, ft.2)))))

/-! ### HBM rows (R250 to R252) -/

/-- The number of the bank that a place lies in: banks of pseudo-channels of channels of stacks. -/
def HbmAt.number (p : HbmAt) : Nat := p.stack + 16 * p.channel + 512 * p.pch + 1024 * p.bank

/-- The rows of a range that lie in the local far class, each once: bank and row. -/
def rangeRows (s : State) (e : Env) (r : Rec) (obj i n : Nat) : List (Nat × Nat) :=
  ((rangeLines s e r obj i n [replicaOf r (some e.cr.tower)]).filter (fun p => p.2 == 0)).foldl (fun acc p =>
    let at_ := hbmPlace (p.1 * 128)
    if acc.contains (at_.number, at_.row) then acc else acc ++ [(at_.number, at_.row)]) []

/-- The slots of a bank, least recent first. -/
def bankSlots (s : State) (k : Nat) : List PSlot :=
  match s.promo.find? (fun b => b.1 == k) with
  | some b => b.2
  | none => []

def setBank (s : State) (k : Nat) (xs : List PSlot) : State :=
  { s with promo := (s.promo.filter (fun b => b.1 != k)) ++ (if xs.isEmpty then [] else [(k, xs)]) }

/-- One promotion of a row (R252): the bank's slots after it, and whether the instruction counts it. -/
def promoteRow (xs : List PSlot) (row : Nat) (pin : Bool) : List PSlot × Bool :=
  match xs.find? (fun p => p.row == row) with
  | some p => ((xs.filter (fun q => q.row != row)) ++ [{ p with pinned := p.pinned || pin }], false)
  | none =>
    if xs.length < 2048 then
      let free := ((List.range 2048).find? (fun n => !xs.any (fun p => p.slot == n))).getD 0
      (xs ++ [⟨free, row, pin⟩], false)
    else match xs.find? (fun p => !p.pinned) with
      | some p => ((xs.filter (fun q => q.slot != p.slot)) ++ [⟨p.slot, row, pin⟩], false)
      | none => (xs, true)

/-- One demotion (R252). -/
def demoteRow (xs : List PSlot) (row : Nat) : List PSlot × Bool :=
  (xs.filter (fun p => p.row != row), xs.any (fun p => p.row == row))

/-- Applies a row operation to every row of a range, counting. The rows of one instruction are taken in one step, so
those of two instructions do not interleave (DESIGN CHOICE, unsafe: log entry 11: R251 states no order). -/
def overRows (s : State) (rows : List (Nat × Nat)) (f : List PSlot → Nat → List PSlot × Bool) : State × Nat :=
  rows.foldl (fun (acc : State × Nat) kf =>
    let r := f (bankSlots acc.1 kf.1) kf.2
    (setBank acc.1 kf.1 r.1, acc.2 + (if r.2 then 1 else 0))) (s, 0)

/-- `prom`, `prom.pin` and `dem` (R256). With n = 0 the path is parked too, so that its latches clear (DESIGN CHOICE,
unsafe: log entry 11: R256 has "nothing else happens" and "the instruction then parks"). -/
def rowOp (s : State) (h : Hdr) (d a b : Opnd) (priv : Env → Bool)
    (f : List PSlot → Nat → List PSlot × Bool) : Host.Outcome State Fault Refusal :=
  runInstr s 0 (regsOk [(d, 1), (a, 2), (b, 1)]) priv h.g (fun e =>
    let m := taking e h.g
    match readSrcs s e m [(a, 2), (b, 1)] (some d) (!h.w) with
    | .error x => .error x
    | .ok (s, vals) =>
      if m = 0 then advance s e
      else
        let addr := warpValue m vals 0
        let n := warpValue m vals 1
        match checkRange s e m addr n with
        | .error x => .error x
        | .ok r =>
          let t := overRows s (rangeRows s e r (bits addr 42 22) (bits addr 0 42) n) f
          (finish t.1 e h d m 1 (fun _ => t.2)).map (fun s => markStale s e))

/-- `prom.pin` needs PINEN of CTXCTL in user mode (R256, R314). -/
def pinPriv (s : State) (e : Env) : Bool :=
  !e.sup && (match ctxGet s e.cr.ctx with
    | some x => bits (csrN x 0x046) 0 1 == 0
    | none => true)

def execProm (h : Hdr) (d a b : Opnd) (s : State) : Host.Outcome State Fault Refusal :=
  rowOp s h d a b anyMode (fun xs row => promoteRow xs row false)
def execPromPin (h : Hdr) (d a b : Opnd) (s : State) : Host.Outcome State Fault Refusal :=
  rowOp s h d a b (pinPriv s) (fun xs row => promoteRow xs row true)
def execDem (h : Hdr) (d a b : Opnd) (s : State) : Host.Outcome State Fault Refusal :=
  rowOp s h d a b anyMode demoteRow

/-! ### objq (R257) -/

/-- The words of an object's record as the walkers see it, malformed or not: empty when absent. -/
def objqWords (s : State) (e : Env) (obj : Nat) : Rec :=
  if obj = Config.argObject then
    match (warpAgent s e.w).args with
    | some b => argRecord b
    | none => []
  else recordWords s e.cr.ctx obj

/-- One query per lane: a value, or the failing lane's trap. -/
def objqOp (s : State) (h : Hdr) (d : Opnd) (k : Nat) (srcs : List Src)
    (f : State → Env → List Nat → Except (Fail × Nat) Nat) : Host.Outcome State Fault Refusal :=
  runInstr s 0 (regsOk ((d, k) :: srcs)) anyMode h.g (fun e =>
    let m := taking e h.g
    match readSrcs s e m srcs (some d) (!h.w) with
    | .error x => .error x
    | .ok (s, vals) => match lanesOrTrap m (fun l => f s e (vals l)) with
      | .error r => .error (.trap r)
      | .ok rs => finish s e h d m k (fun l => match rs.find? (fun p => p.1 == l) with
          | some p => p.2
          | none => 0))

/-- `objq.rec`: an absent record is found before an index above 63 (DESIGN CHOICE, unsafe: log entry 11: R257 gives both
tests and no order), and a poisoned word that the walk reads before both (R325; DEDUCED, unsafe: log entry 11). -/
def execObjqRec (h : Hdr) (d a b : Opnd) (s : State) : Host.Outcome State Fault Refusal :=
  objqOp s h d 1 [(a, 2), (b, 1)] (fun s e v =>
    let addr := v.getD 0 0
    let ix := v.getD 1 0
    let r := objqWords s e (bits addr 42 22)
    if bits addr 42 22 ≠ Config.argObject ∧ recordSoft s e.cr.ctx (bits addr 42 22) = true then
      .error (⟨0x16, 2, bits addr 0 42⟩, addr)
    else if !recV r then .error (⟨4, 0, bits addr 0 42⟩, addr)
    else if 63 < ix then .error (⟨6, 0, bits addr 0 42⟩, addr)
    else .ok (rw r ix))

/-- `objq.res`: a poisoned entry is read as any other poisoned word (R325). -/
def execObjqRes (h : Hdr) (d a : Opnd) (s : State) : Host.Outcome State Fault Refusal :=
  objqOp s h d 2 [(a, 2)] (fun s e v =>
    let addr := v.getD 0 0
    let obj := bits addr 42 22
    let i := bits addr 0 42
    let ag := warpAgent s e.w
    match recordOf s ag obj i with
    | .error f => .error (f, addr)
    | .ok r => match checkShape s ag obj i (recEW r) ⟨none, false, false⟩ with
      | .error f => .error (f, addr)
      | .ok l =>
        if obj = Config.argObject then .ok (2 ^ 63 + 2 ^ 58)
        else if recRtab r = 0 then .error (⟨7, 3, i⟩, addr)
        else if entrySoft s e.cr.ctx obj r (l.a / 2 ^ 19) (replicaOf r (some e.cr.tower)) then .error (⟨0x16, 2, i⟩, addr)
        else match entryOf s e.cr.ctx obj r (l.a / 2 ^ 19) (replicaOf r (some e.cr.tower)) with
          | none => .error (⟨7, 2, i⟩, addr)
          | some x => .ok x)

/-! ### cflush and cinv (R249, R258) -/

/-- A cache operation over a range: `f` is given the physical lines of the resident part, in every replica. -/
def cacheOp (s : State) (g : Guard) (a b : Opnd) (f : State → List Nat → State) :
    Host.Outcome State Fault Refusal :=
  runInstr s 0 (regsOk [(a, 2), (b, 1)]) anyMode g (fun e =>
    let m := taking e g
    match readSrcs s e m [(a, 2), (b, 1)] none false with
    | .error x => .error x
    | .ok (s, vals) =>
      if m = 0 then advance s e
      else
        let addr := warpValue m vals 0
        let n := warpValue m vals 1
        match checkRange s e m addr n with
        | .error x => .error x
        | .ok r =>
          let lines := (rangeLines s e r (bits addr 42 22) (bits addr 0 42) n (replicasOf r)).map Prod.fst
          (advance (f s lines) e).map (fun s => markStale s e))

/-- L2 is coherent for every agent modelled here, so a flush changes nothing that is modelled. -/
def execCflush (g : Guard) (a b : Opnd) (s : State) : Host.Outcome State Fault Refusal :=
  cacheOp s g a b (fun s _ => s)

/-- The instruction-cache copies of the range go; an L1 data copy is never old in this model. -/
def execCinv (g : Guard) (selI _selD : Bool) (a b : Opnd) (s : State) : Host.Outcome State Fault Refusal :=
  cacheOp s g a b (fun s lines => if selI then
    { s with caches := { s.caches with ilines := s.caches.ilines.filter (fun c => !lines.contains c.line) } }
    else s)

end Sys2Proof.Machine
end

