-- ==== Sys2Proof/Machine/LoadStore.lean ====
section
/-! DEFINITION. Majors 0x50 to 0x5D and 0x68 to 0x6D: the global loads and stores (R110, R112) and the
scratchpad loads and stores (R164). -/

namespace Sys2Proof.Machine

def execLd8 (h : Hdr) (m : MemOp) (d : Opnd) (s : State) : Host.Outcome State Fault Refusal :=
  loadOp s h m d 1 false 8 (fun x => x)
def execLd8s (h : Hdr) (m : MemOp) (d : Opnd) (s : State) : Host.Outcome State Fault Refusal :=
  loadOp s h m d 1 false 8 (fun x => intBits 32 (sx 8 x))
def execLd16 (h : Hdr) (m : MemOp) (d : Opnd) (s : State) : Host.Outcome State Fault Refusal :=
  loadOp s h m d 1 false 16 (fun x => x)
def execLd16s (h : Hdr) (m : MemOp) (d : Opnd) (s : State) : Host.Outcome State Fault Refusal :=
  loadOp s h m d 1 false 16 (fun x => intBits 32 (sx 16 x))
def execLd32 (h : Hdr) (m : MemOp) (d : Opnd) (s : State) : Host.Outcome State Fault Refusal :=
  loadOp s h m d 1 false 32 (fun x => x)
def execLd64 (h : Hdr) (m : MemOp) (d : Opnd) (s : State) : Host.Outcome State Fault Refusal :=
  loadOp s h m d 2 false 64 (fun x => x)
def execLd128 (h : Hdr) (m : MemOp) (d : Opnd) (s : State) : Host.Outcome State Fault Refusal :=
  loadOp s h m d 4 false 128 (fun x => x)
def execLdp (h : Hdr) (m : MemOp) (d : Opnd) (s : State) : Host.Outcome State Fault Refusal :=
  loadOp s h m d 1 true 0 (fun x => x)
def execSt8 (g : Guard) (m : MemOp) (d : Opnd) (s : State) : Host.Outcome State Fault Refusal :=
  storeOp s g m d 1 false 8
def execSt16 (g : Guard) (m : MemOp) (d : Opnd) (s : State) : Host.Outcome State Fault Refusal :=
  storeOp s g m d 1 false 16
def execSt32 (g : Guard) (m : MemOp) (d : Opnd) (s : State) : Host.Outcome State Fault Refusal :=
  storeOp s g m d 1 false 32
def execSt64 (g : Guard) (m : MemOp) (d : Opnd) (s : State) : Host.Outcome State Fault Refusal :=
  storeOp s g m d 2 false 64
def execSt128 (g : Guard) (m : MemOp) (d : Opnd) (s : State) : Host.Outcome State Fault Refusal :=
  storeOp s g m d 4 false 128
def execStp (g : Guard) (m : MemOp) (d : Opnd) (s : State) : Host.Outcome State Fault Refusal :=
  storeOp s g m d 1 true 0
def execLds32 (h : Hdr) (m : MemOp) (d : Opnd) (s : State) : Host.Outcome State Fault Refusal := ldsOp s h m d 1
def execLds64 (h : Hdr) (m : MemOp) (d : Opnd) (s : State) : Host.Outcome State Fault Refusal := ldsOp s h m d 2
def execLds128 (h : Hdr) (m : MemOp) (d : Opnd) (s : State) : Host.Outcome State Fault Refusal := ldsOp s h m d 4
def execSts32 (g : Guard) (m : MemOp) (d : Opnd) (s : State) : Host.Outcome State Fault Refusal := stsOp s g m d 1
def execSts64 (g : Guard) (m : MemOp) (d : Opnd) (s : State) : Host.Outcome State Fault Refusal := stsOp s g m d 2
def execSts128 (g : Guard) (m : MemOp) (d : Opnd) (s : State) : Host.Outcome State Fault Refusal := stsOp s g m d 4

end Sys2Proof.Machine
end

