-- ==== Sys2Proof/Machine/Platform.lean ====
section
/-! DEFINITION. Start-up, identity and power (R415 to R418): starts and their ends, the failure counters and the
safe state, the management interface, and the thermal limits. -/

namespace Sys2Proof.Machine

/-! ### STATE (R415) -/

/-- A launch queue across a start: what the host has written stays, what the device held for it goes, and no launch comes
of a record in its ring that had its handle (log entry 24). -/
def Queue.restart (q : Queue) : Queue :=
  { q with raised := 0, since := 0, ring := q.ring.map RingRec.over, wait := [], begun := false, failed := [] }

/-- Everything that runs on the device ends: contexts, crews, engines, fault units, caches, the fabric's
outstanding requests and the handle table. Memory keeps its bytes, those of host writes that still waited among them. -/
def endAll (s : State) : State :=
  { s with
    mem := s.plat.hostWrites.foldl (fun m w => memPut m w.1 w.2) s.mem
    plat := { s.plat with hostWrites := [] }
    warps := []
    crews := []
    launches := []
    queues := s.queues.map Queue.restart
    disp := { Disp.zero with master := s.disp.master }
    ctxs := []
    copies := []
    coll := { cmds := [], parts := [], gone := [], broken := [], moved := [] }
    fu := { asked := [], jobs := [] }
    caches := { orc := [], res := [], ilines := [] }
    views := []
    promo := []
    fab := { s.fab with reqs := [], filter := [], dir := [], waits := [], held := [], peers := [], oldRoute := [], noticed := [], cut := none } }

/-- A start begins: every unresolved launch breaks with HWFAIL and every context ends. -/
def beginStart (s : State) (st : RunState) : State :=
  setState (endAll (breakEvery s 5)) st

/-- Whether a request for a start is ignored: one is being carried out. -/
def starting (s : State) : Bool := s.plat.st == .cold || s.plat.st == .warm

def coldStart (s : State) : State :=
  if starting s then s
  else
    let f := s.plat.flash
    beginStart { s with plat := { s.plat with flash := if f.wf = 3 then { f with wf := 0 } else f } } .cold

/-- A cold start is requested: by STARTCMD, or through the management interface, which also leaves the safe state. -/
def execColdStart (s : State) : Host.Outcome State Fault Refusal := .next (coldStart s)

/-- A warm start is requested by STARTCMD: with WF at 3 the start is cold, and WF becomes 0. -/
def warmStart (s : State) : State :=
  if starting s || s.plat.st == .safe then s
  else if s.plat.flash.wf = 3 then coldStart s
  else beginStart s .warm

def execWarmStart (s : State) : Host.Outcome State Fault Refusal := .next (warmStart s)

/-- The lowest-numbered tower that is not fenced (R357). -/
def masterTower (fenced : List Bool) : Nat :=
  ((List.range Config.towers).find? (fun k => !fenced.getD k true)).getD 0

/-- A start that passes: the links are trained, the repair maps and the configuration are applied, the handle
table is empty, the access tables are written and the master dispatcher is named. -/
def startPassed (s : State) : State :=
  let f := s.plat.flash
  let s := { s with
    disp := { Disp.zero with master := masterTower s.plat.fenced }
    fab := { Fabric.zero with rseq := s.fab.rseq, discards := s.fab.discards }
    plat := { s.plat with
      started := s.now
      flash := { f with wf := 0, cf := 0 }
      devnum := f.devnum
      repair := f.repair
      cxl := f.cxl
      cxlUp := [true, true, true, true]
      acl := f.acl } }
  setState s .ready

/-- A start that fails: a cold one counts in CF and a warm one in WF; the second cold failure in a row leaves the
safe state. -/
def startFailed (s : State) : State :=
  let f := s.plat.flash
  if s.plat.st = .cold then
    setState { s with plat := { s.plat with flash := { f with cf := f.cf + 1 } } } (if 2 ≤ f.cf + 1 then .safe else .reset)
  else setState { s with plat := { s.plat with flash := { f with wf := f.wf + 1 } } } .reset

def startComplete (s : State) (passed : Bool) : State :=
  if !starting s then s
  else if passed then startPassed s
  else startFailed s

def execStartComplete (passed : Bool) (s : State) : Host.Outcome State Fault Refusal :=
  .next (startComplete s passed)

/-! ### Register writes (R409, R415) -/

/-- A write of STARTCMD. -/
def startcmd (s : State) (v : Nat) : State :=
  if v = 1 then coldStart s
  else if v = 2 then warmStart s
  else s

/-- The host writes a register of BAR0. -/
def registerWrite (s : State) (fn off v : Nat) : State :=
  hostGate s fn (barBlock off) 1 (off % 4 == 0 && blockReach s fn off) (fun s =>
    if off = 0x08 then startcmd s v else barWrite s fn off v)

def execRegisterWrite (fn off : Nat) (x : Word) (s : State) : Host.Outcome State Fault Refusal :=
  .next (registerWrite s fn off x.toNat)

/-! ### The management interface (R417) -/

/-- Answers a request with a body. -/
def spdmAnswer (s : State) (request : Nat) (body : List Nat) : State := send s (.spdm request body)

/-- An answer whose contents the manual does not give. -/
def spdmOpen (s : State) (request : Nat) : State :=
  spdmAnswer { s with free := s.free + 1 } request [(Config.spdmBits s.free request).toNat]

/-- Version 1.3. -/
def execGetVersion (s : State) : Host.Outcome State Fault Refusal := .next (spdmAnswer s 0 [1, 3])
def execGetCapabilities (s : State) : Host.Outcome State Fault Refusal := .next (spdmOpen s 1)
/-- The algorithms offered: ECDSA over brainpoolP384r1 with SHA-384, given by the curve's and the hash's sizes. -/
def execNegotiateAlgorithms (s : State) : Host.Outcome State Fault Refusal := .next (spdmAnswer s 2 [384, 384])
def execGetDigests (s : State) : Host.Outcome State Fault Refusal := .next (spdmOpen s 3)
def execGetCertificate (s : State) : Host.Outcome State Fault Refusal := .next (spdmOpen s 4)
/-- The answer to a challenge repeats its nonce, and its signature is open. -/
def execChallenge (nonce : Nat) (s : State) : Host.Outcome State Fault Refusal :=
  .next (spdmAnswer { s with free := s.free + 1 } 5 [nonce, (Config.spdmBits s.free 5).toNat])
/-- The five measurements: firmware, device firmware, configuration and repair maps are open, WF and CF are the
counters. -/
def execGetMeasurements (s : State) : Host.Outcome State Fault Refusal :=
  .next (spdmAnswer { s with free := s.free + 4 } 6
    ((List.range 4).map (fun k => (Config.spdmBits (s.free + k) 6).toNat) ++ [s.plat.flash.wf, s.plat.flash.cf]))

/-- The count of corrected errors goes up (R325). -/
def countCorrected (s : State) : State := { s with plat := { s.plat with ecc := s.plat.ecc + 1 } }

/-- An entry of the handle table as R376 lays it out. -/
def entBits (e : HEnt) : Nat :=
  packBits [(48, e.serial), (3, e.state), (13, e.dev), (12, e.ctx), (3, e.kind), (1, boolNat e.moving), (16, e.refs),
    (4, e.code), (8, e.detail), (4, e.ocode), (8, e.odetail), (8, 0), (64, e.result.toNat), (64, e.origin.toNat),
    (64, e.up.toNat), (5, e.msgs.length + e.subs.length), (27, 0), (32, e.ovf.length), (32, e.aseq.toNat)]

/-- The entry of a serial number as the debugger sees it: STATE 7 when it is free. -/
def entryView (s : State) (serial : Nat) : Memory :=
  memPutNat [] 0 64 (match s.disp.ents.find? (fun e => e.serial % Config.handleEntries == serial % Config.handleEntries) with
    | some e => entBits e
    | none => 7 * 2 ^ 48)

/-- The rest of the management interface, which serves the PF's supervisor only (R417): the debugger's view of handle
entries and of halted warps, the count of corrected errors, and the stop and the resumption of a context. -/
def manage (s : State) (m : Manage) : State :=
  match m with
  | .entry n => send s (.managed m (entryView s n))
  | .warp w => send s (.managed m (haltView s w))
  | .errors => send s (.managed m (memPutNat [] 0 8 s.plat.ecc))
  | .stop c => ctxStop s c
  | .resume c => ctxResume s c

/-! ### Power (R418) -/

/-- The arithmetic clock goes down a step: only time changes. -/
def execThermalThrottle (s : State) : Host.Outcome State Fault Refusal :=
  .next { s with plat := { s.plat with clock := s.plat.clock + 1 } }
/-- The arithmetic clock goes up a step. -/
def execThermalRecover (s : State) : Host.Outcome State Fault Refusal :=
  .next { s with plat := { s.plat with clock := s.plat.clock - 1 } }
/-- At 115 degrees every unresolved launch breaks with HWFAIL, and the safe state holds. -/
def execThermalShutdown (s : State) : Host.Outcome State Fault Refusal := .next (stopDevice s)

end Sys2Proof.Machine
end

