-- ==== Sys2Proof/Machine/Dispatch.lean ====
section
/-! DEFINITION. One arm for each instruction and event: the direct call of its meaning. -/

namespace Sys2Proof.Machine

open Sys2Proof

def exec (i : Instr) (s : State) : Host.Outcome State Fault Refusal :=
  match i with
  -- major 0x01 (R88)
  | .nop g => Sys2Proof.Machine.execNop g s
  -- major 0x10 (R89)
  | .iadd h d a b => Sys2Proof.Machine.execIadd h d a b s
  | .isub h d a b => Sys2Proof.Machine.execIsub h d a b s
  | .imin h d a b => Sys2Proof.Machine.execImin h d a b s
  | .imax h d a b => Sys2Proof.Machine.execImax h d a b s
  | .iminu h d a b => Sys2Proof.Machine.execIminu h d a b s
  | .imaxu h d a b => Sys2Proof.Machine.execImaxu h d a b s
  | .iabs h d a => Sys2Proof.Machine.execIabs h d a s
  | .ineg h d a => Sys2Proof.Machine.execIneg h d a s
  | .iaddsat h d a b => Sys2Proof.Machine.execIaddsat h d a b s
  | .isubsat h d a b => Sys2Proof.Machine.execIsubsat h d a b s
  -- major 0x11 (R90)
  | .and h d a b => Sys2Proof.Machine.execAnd h d a b s
  | .or h d a b => Sys2Proof.Machine.execOr h d a b s
  | .xor h d a b => Sys2Proof.Machine.execXor h d a b s
  | .andn h d a b => Sys2Proof.Machine.execAndn h d a b s
  | .orn h d a b => Sys2Proof.Machine.execOrn h d a b s
  | .not h d a => Sys2Proof.Machine.execNot h d a s
  | .ltab h d a b c tt => Sys2Proof.Machine.execLtab h d a b c tt s
  -- major 0x12 (R91, R92)
  | .imul h d a b => Sys2Proof.Machine.execImul h d a b s
  | .imulh h d a b => Sys2Proof.Machine.execImulh h d a b s
  | .imulhu h d a b => Sys2Proof.Machine.execImulhu h d a b s
  | .imad h d a b c => Sys2Proof.Machine.execImad h d a b c s
  | .imulw h d a b => Sys2Proof.Machine.execImulw h d a b s
  | .imulwu h d a b => Sys2Proof.Machine.execImulwu h d a b s
  | .idiv h d a b => Sys2Proof.Machine.execIdiv h d a b s
  | .idivu h d a b => Sys2Proof.Machine.execIdivu h d a b s
  | .irem h d a b => Sys2Proof.Machine.execIrem h d a b s
  | .iremu h d a b => Sys2Proof.Machine.execIremu h d a b s
  -- major 0x13 (R93)
  | .shl h d a b => Sys2Proof.Machine.execShl h d a b s
  | .shr h d a b => Sys2Proof.Machine.execShr h d a b s
  | .sar h d a b => Sys2Proof.Machine.execSar h d a b s
  | .rotl h d a b => Sys2Proof.Machine.execRotl h d a b s
  | .rotr h d a b => Sys2Proof.Machine.execRotr h d a b s
  -- major 0x14 (R94, R95)
  | .popc h d a => Sys2Proof.Machine.execPopc h d a s
  | .clz h d a => Sys2Proof.Machine.execClz h d a s
  | .ctz h d a => Sys2Proof.Machine.execCtz h d a s
  | .brev h d a => Sys2Proof.Machine.execBrev h d a s
  | .bfe h d a b => Sys2Proof.Machine.execBfe h d a b s
  | .bfes h d a b => Sys2Proof.Machine.execBfes h d a b s
  | .bfi h d a b c => Sys2Proof.Machine.execBfi h d a b c s
  | .bgat h d a b c => Sys2Proof.Machine.execBgat h d a b c s
  -- major 0x15 (R96)
  | .iadd2 h d a b => Sys2Proof.Machine.execIadd2 h d a b s
  | .isub2 h d a b => Sys2Proof.Machine.execIsub2 h d a b s
  | .shl2 h d a b => Sys2Proof.Machine.execShl2 h d a b s
  | .shr2 h d a b => Sys2Proof.Machine.execShr2 h d a b s
  | .sar2 h d a b => Sys2Proof.Machine.execSar2 h d a b s
  | .padd h d a b => Sys2Proof.Machine.execPadd h d a b s
  -- majors 0x16, 0x17, 0x18 (R97, R98, R99)
  | .icmp h cond wide d a b => Sys2Proof.Machine.execIcmp h cond wide d a b s
  | .mov h d a => Sys2Proof.Machine.execMov h d a s
  | .sel h d a b p => Sys2Proof.Machine.execSel h d a b p s
  | .movp h d p => Sys2Proof.Machine.execMovp h d p s
  | .setp h d a => Sys2Proof.Machine.execSetp h d a s
  | .mov2 h d a => Sys2Proof.Machine.execMov2 h d a s
  | .pand h d a b => Sys2Proof.Machine.execPand h d a b s
  | .por h d a b => Sys2Proof.Machine.execPor h d a b s
  | .pxor h d a b => Sys2Proof.Machine.execPxor h d a b s
  | .pnot h d a => Sys2Proof.Machine.execPnot h d a s
  | .pandn h d a b => Sys2Proof.Machine.execPandn h d a b s
  -- majors 0x1A to 0x1F (R100)
  | .movi h d imm => Sys2Proof.Machine.execMovi h d imm s
  | .iaddi h d a imm => Sys2Proof.Machine.execIaddi h d a imm s
  | .andi h d a imm => Sys2Proof.Machine.execAndi h d a imm s
  | .ori h d a imm => Sys2Proof.Machine.execOri h d a imm s
  | .xori h d a imm => Sys2Proof.Machine.execXori h d a imm s
  | .movi2 h zx d imm => Sys2Proof.Machine.execMovi2 h zx d imm s
  -- majors 0x40 to 0x4A (R101 to R106, R334, R335)
  | .bra g u rj tgt => Sys2Proof.Machine.execBra g u rj tgt s
  | .call g u rj tgt k => Sys2Proof.Machine.execCall g u rj tgt k s
  | .brx g a => Sys2Proof.Machine.execBrx g a s
  | .callx h d a => Sys2Proof.Machine.execCallx h d a s
  | .ret g a => Sys2Proof.Machine.execRet g a s
  | .exit g => Sys2Proof.Machine.execExit g s
  | .yield g => Sys2Proof.Machine.execYield g s
  | .trap g code => Sys2Proof.Machine.execTrap g code s
  | .brk g code => Sys2Proof.Machine.execBrk g code s
  | .pchk h d => Sys2Proof.Machine.execPchk h d s
  | .pyield g dead => Sys2Proof.Machine.execPyield g dead s
  -- majors 0x50 to 0x5D (R110, R112)
  | .ld8 h m d => Sys2Proof.Machine.execLd8 h m d s
  | .ld8s h m d => Sys2Proof.Machine.execLd8s h m d s
  | .ld16 h m d => Sys2Proof.Machine.execLd16 h m d s
  | .ld16s h m d => Sys2Proof.Machine.execLd16s h m d s
  | .ld32 h m d => Sys2Proof.Machine.execLd32 h m d s
  | .ld64 h m d => Sys2Proof.Machine.execLd64 h m d s
  | .ld128 h m d => Sys2Proof.Machine.execLd128 h m d s
  | .ldp h m d => Sys2Proof.Machine.execLdp h m d s
  | .st8 g m d => Sys2Proof.Machine.execSt8 g m d s
  | .st16 g m d => Sys2Proof.Machine.execSt16 g m d s
  | .st32 g m d => Sys2Proof.Machine.execSt32 g m d s
  | .st64 g m d => Sys2Proof.Machine.execSt64 g m d s
  | .st128 g m d => Sys2Proof.Machine.execSt128 g m d s
  | .stp g m d => Sys2Proof.Machine.execStp g m d s
  -- majors 0x5E to 0x62 (R255 to R258)
  | .pref g m => Sys2Proof.Machine.execPref g m s
  | .prom h d a b => Sys2Proof.Machine.execProm h d a b s
  | .promPin h d a b => Sys2Proof.Machine.execPromPin h d a b s
  | .dem h d a b => Sys2Proof.Machine.execDem h d a b s
  | .objqRec h d a b => Sys2Proof.Machine.execObjqRec h d a b s
  | .objqRes h d a => Sys2Proof.Machine.execObjqRes h d a s
  | .cflush g a b => Sys2Proof.Machine.execCflush g a b s
  | .cinv g selI selD a b => Sys2Proof.Machine.execCinv g selI selD a b s
  -- major 0x60 (R272, R273)
  | .atomAdd h m wide d c => Sys2Proof.Machine.execAtomAdd h m wide d c s
  | .atomSub h m wide d c => Sys2Proof.Machine.execAtomSub h m wide d c s
  | .atomMin h m wide d c => Sys2Proof.Machine.execAtomMin h m wide d c s
  | .atomMax h m wide d c => Sys2Proof.Machine.execAtomMax h m wide d c s
  | .atomMinu h m wide d c => Sys2Proof.Machine.execAtomMinu h m wide d c s
  | .atomMaxu h m wide d c => Sys2Proof.Machine.execAtomMaxu h m wide d c s
  | .atomAnd h m wide d c => Sys2Proof.Machine.execAtomAnd h m wide d c s
  | .atomOr h m wide d c => Sys2Proof.Machine.execAtomOr h m wide d c s
  | .atomXor h m wide d c => Sys2Proof.Machine.execAtomXor h m wide d c s
  | .atomXchg h m wide d c => Sys2Proof.Machine.execAtomXchg h m wide d c s
  | .atomCas h m wide d c => Sys2Proof.Machine.execAtomCas h m wide d c s
  | .atomFadd h m f d c => Sys2Proof.Machine.execAtomFadd h m f d c s
  | .atomFmin h m f d c => Sys2Proof.Machine.execAtomFmin h m f d c s
  | .atomFmax h m f d c => Sys2Proof.Machine.execAtomFmax h m f d c s
  -- majors 0x63, 0x64 (R274, R275)
  | .fence g scp ord sc => Sys2Proof.Machine.execFence g scp ord sc s
  | .fencex g scp src dst => Sys2Proof.Machine.execFencex g scp src dst s
  -- majors 0x68 to 0x6E (R164, R165)
  | .lds32 h m d => Sys2Proof.Machine.execLds32 h m d s
  | .lds64 h m d => Sys2Proof.Machine.execLds64 h m d s
  | .lds128 h m d => Sys2Proof.Machine.execLds128 h m d s
  | .sts32 g m d => Sys2Proof.Machine.execSts32 g m d s
  | .sts64 g m d => Sys2Proof.Machine.execSts64 g m d s
  | .sts128 g m d => Sys2Proof.Machine.execSts128 g m d s
  | .atomsAdd h m wide d c => Sys2Proof.Machine.execAtomsAdd h m wide d c s
  | .atomsSub h m wide d c => Sys2Proof.Machine.execAtomsSub h m wide d c s
  | .atomsMin h m wide d c => Sys2Proof.Machine.execAtomsMin h m wide d c s
  | .atomsMax h m wide d c => Sys2Proof.Machine.execAtomsMax h m wide d c s
  | .atomsMinu h m wide d c => Sys2Proof.Machine.execAtomsMinu h m wide d c s
  | .atomsMaxu h m wide d c => Sys2Proof.Machine.execAtomsMaxu h m wide d c s
  | .atomsAnd h m wide d c => Sys2Proof.Machine.execAtomsAnd h m wide d c s
  | .atomsOr h m wide d c => Sys2Proof.Machine.execAtomsOr h m wide d c s
  | .atomsXor h m wide d c => Sys2Proof.Machine.execAtomsXor h m wide d c s
  | .atomsXchg h m wide d c => Sys2Proof.Machine.execAtomsXchg h m wide d c s
  | .atomsCas h m wide d c => Sys2Proof.Machine.execAtomsCas h m wide d c s
  | .atomsFadd h m f d c => Sys2Proof.Machine.execAtomsFadd h m f d c s
  | .atomsFmin h m f d c => Sys2Proof.Machine.execAtomsFmin h m f d c s
  | .atomsFmax h m f d c => Sys2Proof.Machine.execAtomsFmax h m f d c s
  -- majors 0x30 to 0x35 (R154 to R160)
  | .lxchSel h seg d a b => Sys2Proof.Machine.execLxchSel h seg d a b s
  | .lxchRdn h seg clip d a b => Sys2Proof.Machine.execLxchRdn h seg clip d a b s
  | .lxchRup h seg clip d a b => Sys2Proof.Machine.execLxchRup h seg clip d a b s
  | .lxchXor h seg d a b => Sys2Proof.Machine.execLxchXor h seg d a b s
  | .lxchRev h seg d a => Sys2Proof.Machine.execLxchRev h seg d a s
  | .lmaskSome h d a => Sys2Proof.Machine.execLmaskSome h d a s
  | .lmaskEvery h d a => Sys2Proof.Machine.execLmaskEvery h d a s
  | .lmaskMask h d a => Sys2Proof.Machine.execLmaskMask h d a s
  | .lmaskSame h d a => Sys2Proof.Machine.execLmaskSame h d a s
  | .lmaskCount h d a => Sys2Proof.Machine.execLmaskCount h d a s
  | .lredAdd h d a => Sys2Proof.Machine.execLredAdd h d a s
  | .lredMin h d a => Sys2Proof.Machine.execLredMin h d a s
  | .lredMax h d a => Sys2Proof.Machine.execLredMax h d a s
  | .lredMinu h d a => Sys2Proof.Machine.execLredMinu h d a s
  | .lredMaxu h d a => Sys2Proof.Machine.execLredMaxu h d a s
  | .lredAnd h d a => Sys2Proof.Machine.execLredAnd h d a s
  | .lredOr h d a => Sys2Proof.Machine.execLredOr h d a s
  | .lredXor h d a => Sys2Proof.Machine.execLredXor h d a s
  | .xswap h d a => Sys2Proof.Machine.execXswap h d a s
  | .rdsr h d n => Sys2Proof.Machine.execRdsr h d n s
  | .prof g code a => Sys2Proof.Machine.execProf g code a s
  -- majors 0x70 to 0x72 (R166 to R170)
  | .barSync g n b => Sys2Proof.Machine.execBarSync g n b s
  | .barArv g n b => Sys2Proof.Machine.execBarArv g n b s
  | .barWait g n => Sys2Proof.Machine.execBarWait g n s
  | .mbarInit g a b => Sys2Proof.Machine.execMbarInit g a b s
  | .mbarArv h d a => Sys2Proof.Machine.execMbarArv h d a s
  | .mbarArvtx h d a b => Sys2Proof.Machine.execMbarArvtx h d a b s
  | .mbarTest h d a b => Sys2Proof.Machine.execMbarTest h d a b s
  | .mbarWait g a b => Sys2Proof.Machine.execMbarWait g a b s
  | .mbarInval g a => Sys2Proof.Machine.execMbarInval g a s
  | .qctlQbind g d a => Sys2Proof.Machine.execQctlQbind g d a s
  | .qctlQstat h d a => Sys2Proof.Machine.execQctlQstat h d a s
  -- majors 0x80 to 0x89 (R210 to R217)
  | .macal g a => Sys2Proof.Machine.execMacal g a s
  | .mafree g a => Sys2Proof.Machine.execMafree g a s
  | .mown g band a => Sys2Proof.Machine.execMown g band a s
  | .mload g f obj blk o a b c => Sys2Proof.Machine.execMload g f obj blk o a b c s
  | .mswap g => Sys2Proof.Machine.execMswap g s
  | .mstream g f blk o a b c => Sys2Proof.Machine.execMstream g f blk o a b c s
  | .mdrain g w f clr rows d a => Sys2Proof.Machine.execMdrain g w f clr rows d a s
  | .mfill g f rows a d => Sys2Proof.Machine.execMfill g f rows a d s
  | .mzero g rows a => Sys2Proof.Machine.execMzero g rows a s
  | .mwait g => Sys2Proof.Machine.execMwait g s
  -- majors 0x90 to 0x95 (R302 to R304)
  | .cpy h chan d a => Sys2Proof.Machine.execCpy h chan d a s
  | .cpyg h chan d a b => Sys2Proof.Machine.execCpyg h chan d a b s
  | .cpys h chan d a b => Sys2Proof.Machine.execCpys h chan d a b s
  | .cpyq h chan d a => Sys2Proof.Machine.execCpyq h chan d a s
  | .cwait g a => Sys2Proof.Machine.execCwait g a s
  | .ccan g a => Sys2Proof.Machine.execCcan g a s
  -- majors 0xA0 to 0xA7 (R194, R195, R379, R381, R387, R398)
  | .lnch h d a qn => Sys2Proof.Machine.execLnch h d a qn s
  | .hwait h d a => Sys2Proof.Machine.execHwait h d a s
  | .hstat h d a => Sys2Proof.Machine.execHstat h d a s
  | .hstatOrg h d a => Sys2Proof.Machine.execHstatOrg h d a s
  | .hstatUp h d a => Sys2Proof.Machine.execHstatUp h d a s
  | .hstatOcd h d a => Sys2Proof.Machine.execHstatOcd h d a s
  | .hfree g a => Sys2Proof.Machine.execHfree g a s
  | .hdup h d a => Sys2Proof.Machine.execHdup h d a s
  | .invk h p ntf d a b => Sys2Proof.Machine.execInvk h p ntf d a b s
  | .hsend h p ntf d a b c => Sys2Proof.Machine.execHsend h p ntf d a b c s
  | .coll h p ntf d a => Sys2Proof.Machine.execColl h p ntf d a s
  -- majors 0x20 to 0x28 (R117 to R130)
  | .fadd h f d a b => Sys2Proof.Machine.execFadd h f d a b s
  | .fsub h f d a b => Sys2Proof.Machine.execFsub h f d a b s
  | .fmul h f d a b => Sys2Proof.Machine.execFmul h f d a b s
  | .fmin h f d a b => Sys2Proof.Machine.execFmin h f d a b s
  | .fmax h f d a b => Sys2Proof.Machine.execFmax h f d a b s
  | .fabs h f d a => Sys2Proof.Machine.execFabs h f d a s
  | .fneg h f d a => Sys2Proof.Machine.execFneg h f d a s
  | .fsgn h f d a b => Sys2Proof.Machine.execFsgn h f d a b s
  | .ffma h f d a b c => Sys2Proof.Machine.execFfma h f d a b c s
  | .ffms h f d a b c => Sys2Proof.Machine.execFfms h f d a b c s
  | .fnma h f d a b c => Sys2Proof.Machine.execFnma h f d a b c s
  | .fnms h f d a b c => Sys2Proof.Machine.execFnms h f d a b c s
  | .fdiv h f d a b => Sys2Proof.Machine.execFdiv h f d a b s
  | .fsqrt h f d a => Sys2Proof.Machine.execFsqrt h f d a s
  | .frcp h f d a => Sys2Proof.Machine.execFrcp h f d a s
  | .frsq h f d a => Sys2Proof.Machine.execFrsq h f d a s
  | .fex2 h f d a => Sys2Proof.Machine.execFex2 h f d a s
  | .flg2 h f d a => Sys2Proof.Machine.execFlg2 h f d a s
  | .fsin h f d a => Sys2Proof.Machine.execFsin h f d a s
  | .fcos h f d a => Sys2Proof.Machine.execFcos h f d a s
  | .ftanh h f d a => Sys2Proof.Machine.execFtanh h f d a s
  | .fsigm h f d a => Sys2Proof.Machine.execFsigm h f d a s
  | .fcmp h f cond k d a b => Sys2Proof.Machine.execFcmp h f cond k d a b s
  | .fclass h f k d a b => Sys2Proof.Machine.execFclass h f k d a b s
  | .fcvt h f src grp d a => Sys2Proof.Machine.execFcvt h f src grp d a s
  | .fcvti h f k uns trunc d a => Sys2Proof.Machine.execFcvti h f k uns trunc d a s
  | .ficvt h f k uns d a b => Sys2Proof.Machine.execFicvt h f k uns d a b s
  | .fdot h f d a b c => Sys2Proof.Machine.execFdot h f d a b c s
  | .fsum h f d a c => Sys2Proof.Machine.execFsum h f d a c s
  | .setfs g f a => Sys2Proof.Machine.execSetfs g f a s
  | .getfs h f d => Sys2Proof.Machine.execGetfs h f d s
  | .srseed g a => Sys2Proof.Machine.execSrseed g a s
  | .getsr h d => Sys2Proof.Machine.execGetsr h d s
  | .rdflag h sel d => Sys2Proof.Machine.execRdflag h sel d s
  | .clrflag g sel a => Sys2Proof.Machine.execClrflag g sel a s
  | .qnt g w f o d a b => Sys2Proof.Machine.execQnt g w f o d a b s
  | .qntr g w f o d a b c => Sys2Proof.Machine.execQntr g w f o d a b c s
  | .rqnt g w f o d a b => Sys2Proof.Machine.execRqnt g w f o d a b s
  | .dqnt g w f o d a => Sys2Proof.Machine.execDqnt g w f o d a s
  -- majors 0xC0 to 0xC6 (R319 to R323)
  | .csrr h d n => Sys2Proof.Machine.execCsrr h d n s
  | .csrw g n a => Sys2Proof.Machine.execCsrw g n a s
  | .csrs h d n a => Sys2Proof.Machine.execCsrs h d n a s
  | .csrc h d n a => Sys2Proof.Machine.execCsrc h d n a s
  | .tretRes g => Sys2Proof.Machine.execTretRes g s
  | .tretLanes g => Sys2Proof.Machine.execTretLanes g s
  | .tretWarp g => Sys2Proof.Machine.execTretWarp g s
  | .tretCrew g => Sys2Proof.Machine.execTretCrew g s
  | .tretLaunch g => Sys2Proof.Machine.execTretLaunch g s
  | .tqpop g d => Sys2Proof.Machine.execTqpop g d s
  | .orinvObj g a => Sys2Proof.Machine.execOrinvObj g a s
  | .orinvSub g a => Sys2Proof.Machine.execOrinvSub g a s
  | .orinvAll g => Sys2Proof.Machine.execOrinvAll g s
  -- major 0x00: every word with OP 0, whatever its other fields (R88)
  | .ill => Sys2Proof.Machine.execIll s
  -- the Matrix Engine and the copy channels
  | .mloadComplete crew fail => Sys2Proof.Machine.execMloadComplete crew fail s
  | .mstreamComplete crew softErr => Sys2Proof.Machine.execMstreamComplete crew softErr s
  | .copyCommandEnd spire chan fail => Sys2Proof.Machine.execCopyCommandEnd spire chan fail s
  | .completionRecordArrival warp q7 => Sys2Proof.Machine.execCompletionRecordArrival warp q7 s
  -- traps, warps, crews and the dispatcher
  | .trapDelivery warp => Sys2Proof.Machine.execTrapDelivery warp s
  | .trapQueueOverflow warp => Sys2Proof.Machine.execTrapQueueOverflow warp s
  | .warpRelease warp => Sys2Proof.Machine.execWarpRelease warp s
  | .crewEnd crew => Sys2Proof.Machine.execCrewEnd crew s
  | .launchAccept q => Sys2Proof.Machine.execLaunchAccept q s
  | .crewPlace spire => Sys2Proof.Machine.execCrewPlace spire s
  | .queueAgeing q => Sys2Proof.Machine.execQueueAgeing q s
  | .preemptWithdraw crew => Sys2Proof.Machine.execPreemptWithdraw crew s
  | .cooperativeSave crew => Sys2Proof.Machine.execCooperativeSave crew s
  | .forcedSave crew => Sys2Proof.Machine.execForcedSave crew s
  | .crewRestore spire => Sys2Proof.Machine.execCrewRestore spire s
  | .launchDone h => Sys2Proof.Machine.execLaunchDone h s
  | .launchCancel h => Sys2Proof.Machine.execLaunchCancel h s
  -- the fault unit
  | .faultUnitMigration tower t => Sys2Proof.Machine.execFaultUnitMigration tower t s
  | .migrationComplete t r => Sys2Proof.Machine.execMigrationComplete t r s
  | .relocationCommand ctx => Sys2Proof.Machine.execRelocationCommand ctx s
  | .relocationInvalidated t => Sys2Proof.Machine.execRelocationInvalidated t s
  | .relocationCopyDone t => Sys2Proof.Machine.execRelocationCopyDone t s
  | .relocationDone t => Sys2Proof.Machine.execRelocationDone t s
  -- the fabric and the package
  | .fabricRead r => Sys2Proof.Machine.execFabricRead r s
  | .fabricWrite r => Sys2Proof.Machine.execFabricWrite r s
  | .fabricAtomic r => Sys2Proof.Machine.execFabricAtomic r s
  | .fabricReply r => Sys2Proof.Machine.execFabricReply r s
  | .fabricInvalidate hdr line => Sys2Proof.Machine.execFabricInvalidate hdr line s
  | .fabricInvalidateAck hdr line => Sys2Proof.Machine.execFabricInvalidateAck hdr line s
  | .fabricMulticast hdr tree count levels rootn line => Sys2Proof.Machine.execFabricMulticast hdr tree count levels rootn line s
  | .routeChange port up => Sys2Proof.Machine.execRouteChange port up s
  | .routeChangeNotice src line plane port => Sys2Proof.Machine.execRouteChangeNotice src line plane port s
  | .requestTimeout rseq => Sys2Proof.Machine.execRequestTimeout rseq s
  | .ackTimeoutReissue rseq => Sys2Proof.Machine.execAckTimeoutReissue rseq s
  | .linkFailure l => Sys2Proof.Machine.execLinkFailure l s
  | .dieLinkModuleRetire tower dome => Sys2Proof.Machine.execDieLinkModuleRetire tower dome s
  | .towerFence tower => Sys2Proof.Machine.execTowerFence tower s
  | .spireRetire spire working => Sys2Proof.Machine.execSpireRetire spire working s
  | .domeFailure dome => Sys2Proof.Machine.execDomeFailure dome s
  | .memoryDataError warp lanes addr pc => Sys2Proof.Machine.execMemoryDataError warp lanes addr pc s
  -- comets
  | .invokeArrival m => Sys2Proof.Machine.execInvokeArrival m s
  | .messageAccept m => Sys2Proof.Machine.execMessageAccept m s
  | .messageReoffer home => Sys2Proof.Machine.execMessageReoffer home s
  | .stateReport r => Sys2Proof.Machine.execStateReport r s
  | .breakNotice n => Sys2Proof.Machine.execBreakNotice n s
  | .resultMove ctx => Sys2Proof.Machine.execResultMove ctx s
  | .resultMoveAck h dev => Sys2Proof.Machine.execResultMoveAck h dev s
  -- collectives
  | .collContribution c => Sys2Proof.Machine.execCollContribution c s
  | .collComplete h => Sys2Proof.Machine.execCollComplete h s
  | .collAbandon a => Sys2Proof.Machine.execCollAbandon a s
  | .collDisagreement k => Sys2Proof.Machine.execCollDisagreement k s
  -- the debugger
  | .haltPresented warp => Sys2Proof.Machine.execHaltPresented warp s
  | .debugStateWrite warp e => Sys2Proof.Machine.execDebugStateWrite warp e s
  | .debugResume warp => Sys2Proof.Machine.execDebugResume warp s
  -- the host
  | .contextStop fn ctx => Sys2Proof.Machine.execContextStop fn ctx s
  | .contextStopComplete ctx => Sys2Proof.Machine.execContextStopComplete ctx s
  | .contextResume fn ctx => Sys2Proof.Machine.execContextResume fn ctx s
  | .contextCreate fn ctx => Sys2Proof.Machine.execContextCreate fn ctx s
  | .contextDestroy fn ctx => Sys2Proof.Machine.execContextDestroy fn ctx s
  | .dirtyTrackingEnable fn ctx on => Sys2Proof.Machine.execDirtyTrackingEnable fn ctx on s
  | .qtailWrite fn q x => Sys2Proof.Machine.execQtailWrite fn q x s
  | .queueEnable fn q qcfg => Sys2Proof.Machine.execQueueEnable fn q qcfg s
  | .queueDisable fn q qcfg => Sys2Proof.Machine.execQueueDisable fn q qcfg s
  | .hostOrtbaseWrite fn ctx high x => Sys2Proof.Machine.execHostOrtbaseWrite fn ctx high x s
  | .olctlModeChange fn ctx x => Sys2Proof.Machine.execOlctlModeChange fn ctx x s
  | .dlOverflowClear fn ctx x => Sys2Proof.Machine.execDlOverflowClear fn ctx x s
  | .registerWrite fn off x => Sys2Proof.Machine.execRegisterWrite fn off x s
  | .hostMemoryRead fn addr len => Sys2Proof.Machine.execHostMemoryRead fn addr len s
  | .hostMemoryWrite fn addr data => Sys2Proof.Machine.execHostMemoryWrite fn addr data s
  -- start-up, identity, power
  | .coldStart => Sys2Proof.Machine.execColdStart s
  | .warmStart => Sys2Proof.Machine.execWarmStart s
  | .startComplete passed => Sys2Proof.Machine.execStartComplete passed s
  | .getVersion => Sys2Proof.Machine.execGetVersion s
  | .getCapabilities => Sys2Proof.Machine.execGetCapabilities s
  | .negotiateAlgorithms => Sys2Proof.Machine.execNegotiateAlgorithms s
  | .getDigests => Sys2Proof.Machine.execGetDigests s
  | .getCertificate => Sys2Proof.Machine.execGetCertificate s
  | .challenge nonce => Sys2Proof.Machine.execChallenge nonce s
  | .getMeasurements => Sys2Proof.Machine.execGetMeasurements s
  | .thermalThrottle => Sys2Proof.Machine.execThermalThrottle s
  | .thermalRecover => Sys2Proof.Machine.execThermalRecover s
  | .thermalShutdown => Sys2Proof.Machine.execThermalShutdown s
  | .collfault h code addr => Sys2Proof.Machine.execCollfault h code addr s
  | .poisonedWriteback line words => Sys2Proof.Machine.execPoisonedWriteback line words s

end Sys2Proof.Machine
end

