-- ==== Sys2Proof/Machine/Issue.lean ====
section
/-! DEFINITION. What happens at a warp's turn to issue (R28, R46, R135, R137, R144, R146, R240, R308, R326, R327):
which path issues and when, its fetch, and what stands before and after the meaning of the instruction. -/

namespace Sys2Proof.Machine

/-! ### Fetching (R28, R114, R240) -/

/-- What the fetch at a path's PC gives. -/
inductive Fetched
  | word (x : Nat)
  | trap (cause detail : Nat)
  | wait (ts : List SubTile)
  | far (s : State)
  deriving DecidableEq, Repr

/-- The 8 bytes at a bit address, from the spire's instruction cache when it holds their line. -/
def fetchNear (s : State) (e : Env) (p : Piece) (bit : Nat) : Fetched :=
  match s.caches.ilines.find? (fun l => l.tower == e.cr.tower && l.phys == e.cr.phys && l.line == lineOf bit) with
  | some l => .word (bytesNat ((l.bytes.drop (bit % 1024 / 8)).take 8))
  | none => if piecePoisoned s p then .trap 0x16 6 else .word (memBits s.mem bit 64)

/-- The instruction word at the PC of a path, after the fetch checks. -/
def fetchAt (s : State) (e : Env) : Fetched :=
  if e.sl.failed.contains lastMark then .trap 6 0
  else
    let ag := envAgent s e
    match checkShape s ag (bits e.pc.toNat 42 22) (bits e.pc.toNat 0 42 : Nat) 64 ⟨some .x, false, true⟩ with
    | .error f => .trap f.cause f.detail
    | .ok l =>
      let f := findAll s ag l false
      match f.bad with
      | some b => .trap b.1 b.2
      | none =>
        if !f.units.isEmpty then .wait f.units
        else match f.pieces with
          | [p] => match p.place with
            | .phys bit => fetchNear s e p bit
            | .arg _ => .trap 5 3
            | .far dev _ bit => match fetchLines s (.warp e.w) e.cr.ctx l.obj [p] with
              | (none, s) => .far s
              | (some (some d), _) => .trap (deadCause d) (if d = 2 then 6 else d)
              | (some none, s) => .word (peerBits s dev bit 64)
          | _ => .trap 6 0

/-! ### Choosing the path (R135, R137, R146, R171) -/

/-- The paths that a warp may issue from: its handler's in supervisor mode, otherwise those of its slots (R308). -/
def whichs (x : Warp) : List Which := if x.mode = .supervisor then [.handler] else [.a, .b]

/-- A warp that issues at all: it has a path left, is not halted, and its crew is here and is not being saved. Past the
deadline of its crew's request a warp stops at its instruction boundary: only an instruction that it holds goes on
(R5, R333). -/
def mayIssue (s : State) (w : Nat) : Bool :=
  let x := warpAt s w
  let c := crewAt s x.crew
  !x.gone && !pathsDone x && (x.halt == .no || x.halt == .pending) && !c.saving && !c.gone &&
  (x.holdSl.isSome || !overdue s x.crew)

/-- Whether a path that waits to issue its instruction again could complete it whole now: issuing it does not
park it again for want of something, or lets more of its logged events happen (R146, R280). -/
def couldComplete (s : State) (w : Nat) (k : Which) : Bool :=
  let t := setSlot s w k { slotOf (warpAt s w) k with park := none }
  let cur : Cur := ⟨w, k⟩
  match fetchAt t (envOf t cur) with
  | .word x => match decodeWord x with
    | .ok i => match exec i { t with cur := some cur } with
      | .next t' => match (slotOf (warpAt t' w) k).park with
        | some (.reissue (.residency _)) => true
        | some (.reissue _) => (slotOf (warpAt t' w) k).turned != (slotOf (warpAt t w) k).turned
        | _ => true
      | _ => true
    | .error _ => true
  | _ => true

/-- Whether a path that parked to issue its instruction again may do so. -/
def reissueReady (s : State) (w : Nat) (k : Which) : Reissue → Bool
  | .residency ts => ts.all (fun t => !fuPending s t)
  | .ports _ _ => couldComplete s w k
  | .ring _ => couldComplete s w k
  | .channel _ => couldComplete s w k
  | .messages => couldComplete s w k
  | .colls => couldComplete s w k
  | .relocation => couldComplete s w k
  | .resultMove => couldComplete s w k
  | .order => couldComplete s w k
  | .partner => couldComplete s w k

/-- A live path that is not parked, or whose park is over. -/
def pathReady (s : State) (w : Nat) (k : Which) : Bool :=
  let sl := slotOf (warpAt s w) k
  sl.live && (match sl.park with
    | none => true
    | some (.reissue r) => reissueReady s w k r
    | some _ => false)

/-- The warps of the spire that holds a warp. -/
def spireWarps (s : State) (w : Nat) : List Nat :=
  (List.range s.warps.length).filter (fun v =>
    (crewOf s v).tower == (crewOf s w).tower && (crewOf s v).phys == (crewOf s w).phys && !(warpAt s v).gone)

/-- Whether another path of the spire could issue: a path that stepped aside lets it go first (R171). -/
def otherReady (s : State) (w : Nat) (k : Which) : Bool :=
  (spireWarps s w).any (fun v => mayIssue s v && (whichs (warpAt s v)).any (fun j =>
    (v != w || j != k) && !(slotOf (warpAt s v) j).aside && pathReady s v j))

/-- Whether a path is eligible. -/
def eligible (s : State) (w : Nat) (k : Which) : Bool :=
  pathReady s w k && (!(slotOf (warpAt s w) k).aside || !otherReady s w k)

/-- The path that issues next: one that holds an instruction first (R305), then by the alternation of R137. -/
def choosePath (s : State) (w : Nat) : Option Which :=
  let x := warpAt s w
  match x.mode, x.holdSl with
  | .supervisor, some _ => some .handler
  | .supervisor, none => if eligible s w .handler then some .handler else none
  | .user, some b => some (if b then .b else .a)
  | .user, none => match eligible s w .a, eligible s w .b with
    | true, true => some (if x.last then .a else .b)
    | true, false => some .a
    | false, true => some .b
    | false, false => none

/-! ### Before and after an instruction (R137, R144, R171, R326, R327) -/

/-- Whether the latches clear before an issue: the other slot issued last, the mask changed, or the path was
parked. An instruction that the path still holds has been issued already (DEDUCED, unsafe: log entry 8). -/
def latchesClear (x : Warp) (k : Which) : Bool :=
  let sl := slotOf x k
  x.holdSl.isNone && (sl.stale || sl.park.isSome || (k != .handler && x.last != (k == .b)))

/-- The warp as its instruction finds it. -/
def issueWarp (x : Warp) (k : Which) : Warp :=
  let sl := slotOf x k
  let x : Warp := if latchesClear x k then { x with b := List.replicate 3 (List.replicate 32 0) } else x
  withSlot { x with
    last := if k = .handler then x.last else k == .b
    issued := if x.holdSl.isSome then x.issued else x.issued + 1
    lastLd := none
    holdSl := none } k { sl with park := none, stale := false, aside := false }

/-- The path that holds an instruction that its warp has issued (R305). -/
def heldPath (x : Warp) : Option Which :=
  if x.mode = .supervisor then x.holdSl.map (fun _ => .handler) else x.holdSl.map (fun b => if b then .b else .a)

/-- Whether path j of warp v waits for the arbiter: it is eligible to issue an instruction that it has not issued yet, also
while the warp's other path holds one. -/
def pathWaits (s : State) (v : Nat) (j : Which) : Bool :=
  mayIssue s v && heldPath (warpAt s v) != some j && ((warpAt s v).holdSl.isNone || !overdue s (warpAt s v).crew) &&
  (whichs (warpAt s v)).contains j && eligible s v j

/-- The slots of a warp when path k of warp w issues: its other paths, those aside included, have let one go first
(R171), and those that are eligible have waited for one more (R135). A path that is not eligible counts anew. -/
def passOver (s0 : State) (w : Nat) (k : Which) (s : State) (v : Nat) : State :=
  [Which.a, .b, .handler].foldl (fun s j =>
    let sl := slotOf (warpAt s v) j
    if v = w ∧ j = k then setSlot s v j { sl with waited := 0 }
    else setSlot s v j { sl with aside := false, waited := if pathWaits s0 v j then sl.waited + 1 else 0 }) s

/-- What an issue of path k of warp w means for the paths of its spire: nothing when it goes on with an instruction that
it has issued already. -/
def countIssue (s : State) (w : Nat) (k : Which) : State :=
  if (warpAt s w).holdSl.isSome then s else (spireWarps s w).foldl (passOver s w k) s

/-- Path k of warp w issues. -/
def openIssue (s : State) (w : Nat) (k : Which) : State :=
  let s := countIssue s w k
  let s := setWarp s w (issueWarp (warpAt s w) k)
  let c := ctxNumOf s w
  let s : State := match ctxGet s c with
    | some x => if x.ranWarp then s else ctxPut s c { x with ranWarp := true }
    | none => s
  { s with cur := some ⟨w, k⟩ }

/-- Whether the path has still to complete the instruction that it issued. -/
def unfinished (x : Warp) (sl : Slot) : Bool :=
  x.holdSl.isSome || x.halt != .no || (match sl.park with
    | some p => !parkAdvances p
    | none => false)

/-- What follows an issue: the marks that it has used go, and a warp that issues one instruction halts again. -/
def closeIssue (sl0 : Slot) (s : State) (w : Nat) (k : Which) : State :=
  let x := warpAt s w
  let sl := slotOf x k
  let s := setSlot s w k { sl with
    failed := if sl.failed = sl0.failed then [] else sl.failed
    skipBp := sl.skipBp && sl.path.pc == sl0.path.pc && unfinished x sl }
  let s : State := { s with cur := none }
  if x.step && x.halt == .no && x.holdSl.isNone && !x.gone then haltWarp s w else s

/-! ### The promise of the arbiter (R135) -/

/-- How long a path has waited, where it must go first of its warp's two counting the other's wait too (R137). -/
def urgency (x : Warp) (k : Which) : Nat :=
  let o := slotOf x (otherSlot k)
  if k != .handler && o.live && x.last != (k == .b) then max (slotOf x k).waited (o.waited + 1)
  else (slotOf x k).waited

/-- The urgencies of the live paths of a warp's spire. -/
def urgencies (s : State) (w : Nat) : List Nat :=
  (spireWarps s w).flatMap (fun v => (whichs (warpAt s v)).filterMap (fun k =>
    if (slotOf (warpAt s v) k).live then some (urgency (warpAt s v) k) else none))

/-- Whether every path of a spire can still issue before 128 other instructions have, if the most urgent goes first. -/
def promiseHolds (s : State) (w : Nat) : Bool :=
  let us := urgencies s w
  us.all (fun u => decide (u + us.countP (fun v => decide (u ≤ v)) ≤ 128))

/-- The urgency of the path that a warp would issue: of its other path, while one holds an instruction. -/
def choiceUrgency (s : State) (w : Nat) : Option Nat :=
  if !mayIssue s w then none
  else if (warpAt s w).holdSl.isNone then (choosePath s w).map (urgency (warpAt s w))
  else ((whichs (warpAt s w)).find? (pathWaits s w)).map (urgency (warpAt s w))

/-- Whether the arbiter lets path k of warp w issue: the promise to every path of the spire still holds after it, or no
other warp's is more urgent. An instruction that has been issued goes on (R135). -/
def arbiterLets (s : State) (w : Nat) (k : Which) : Bool :=
  (warpAt s w).holdSl.isSome || promiseHolds (countIssue s w k) w ||
  (spireWarps s w).all (fun v => (choiceUrgency s v).all (fun u => decide (u ≤ urgency (warpAt s w) k)))

/-! ### Breakpoints (R326) -/

/-- The instruction breakpoint that a path's PC matches. -/
def bpMatch (s : State) (w : Nat) (k : Which) : Option Nat :=
  let sl := slotOf (warpAt s w) k
  if k = .handler ∨ sl.skipBp = true ∨ (warpAt s w).holdSl.isSome = true then none
  else match ctxGet s (ctxNumOf s w) with
    | none => none
    | some x => (List.range 2).find? (fun j =>
        let v := csrPair x (0x052 + 2 * j)
        bits v 0 1 == 1 && bits v 3 61 == bits sl.path.pc.toNat 3 61)

/-! ### The turn of a warp -/

/-- What a warp's turn comes to: a new state, or an instruction to run in the state in which its path has
issued, with the slot as it stood before. -/
inductive Issued
  | done (s : State)
  | run (i : Instr) (k : Which) (sl0 : Slot) (s : State)
  deriving DecidableEq, Repr

/-- The F field of an instruction word (R36, R39): 0 in the formats that have none and under a major that names no
instruction. -/
def fieldF (x : Nat) : Nat :=
  let op := bits x 56 8
  let within := fun (r : Nat × Nat) => decide (r.1 ≤ op) && decide (op ≤ r.2)
  if op = 0x60 ∨ op = 0x6E then bits x 0 4
  else if [(0x01, 0x01), (0x10, 0x18), (0x20, 0x28), (0x30, 0x35), (0x42, 0x4A), (0x5F, 0x5F), (0x61, 0x64),
      (0x70, 0x72), (0x80, 0x89), (0x90, 0x95), (0xA0, 0xA7), (0xC0, 0xC6)].any within then bits x 13 4
  else 0

/-- The F field of the instruction that a path stands at; 0 where its word cannot be had (R307). -/
def fslotAt (s : State) (w : Nat) (k : Which) : Nat :=
  match fetchAt s (envOf s ⟨w, k⟩) with
  | .word x => fieldF x
  | _ => 0

/-- A trap of the instruction that a path stands at, before its meaning, with the lanes of the path. A path that has no
further instruction keeps the mark that says so. -/
def issueTrap (s : State) (w : Nat) (k : Which) (cause : Nat) (addr : Option Nat) (detail : Nat) : State :=
  let sl0 := slotOf (warpAt s w) k
  let t := openIssue s w k
  let e := envOf t ⟨w, k⟩
  closeIssue { sl0 with failed := if sl0.failed.contains lastMark then [] else sl0.failed }
    (takeTrap t e (fslotAt t w k) ⟨cause, e.mask, addr.getD e.pc.toNat, detail⟩) w k

/-- Whether a path that waited for a sub-tile of its split stack has come to its rejoin address: it resumes, and issues
nothing there (R141). -/
def rejoins (sl : Slot) : Bool :=
  (match sl.park with
    | some (.reissue (.residency _)) => true
    | _ => false) && arrives { sl with park := none }

/-- The end of a warp whose last path left its slot outside an instruction (R141). -/
def endPaths (s : State) (w : Nat) : State :=
  if pathsDone (warpAt s w) && (warpAt s w).alive != 0 then finishWarp s w else s

/-- The chosen path issues: breakpoints, the fetch, and decoding (R28, R46, R326). -/
def issuePath (s : State) (w : Nat) (k : Which) : Issued :=
  let sl0 := slotOf (warpAt s w) k
  if rejoins sl0 then .done (endPaths (resumeSlot s w k) w)
  else match bpMatch s w k with
  | some j => .done (issueTrap s w k 0x13 none j)
  | none =>
    let t := openIssue s w k
    let e := envOf t ⟨w, k⟩
    match fetchAt t e with
    | .trap c d => .done (issueTrap s w k c none d)
    | .wait ts =>
      .done (closeIssue sl0 (parkPath (askUnit t e.cr.tower ts) w k (.reissue (.residency ts))) w k)
    | .far t => .done (closeIssue sl0 (holdPath t e) w k)
    | .word x => match decodeWord x with
      | .error _ => .done (issueTrap s w k 1 none 0)
      | .ok i => .run i k sl0 t

/-- The status words that paths of a warp wait to push go into their ports where these have room, and the paths resume
at the next instruction (R146, R147, R195). Such a push carries the SEQ that the warp has reached by then (DEDUCED, unsafe:
log entry 14: R278 counts events as they happen, and does not speak of a result that comes later). -/
def pushHanded (s : State) (w : Nat) : State :=
  [Which.a, .b, .handler].foldl (fun s k =>
    match (slotOf (warpAt s w) k).park with
    | some (.handed _ dst st) =>
      if portFull s (crewOf s w) (!dst.h.w) (dstPort (some dst.d)) then s
      else
        let e := envOf s ⟨w, k⟩
        let val := fun (_ : Nat) => st.toNat
        let t := setWarp s w (writeDest (warpAt s w) dst 1 val)
        let pushed := match dst.d with
          | .q n => pushChan t e n.val dst.lanes val
          | _ => .ok t
        match pushed with
        | .ok t => resumeSlot t w k
        | .error (.again ts) => askUnit s e.cr.tower ts
        | .error _ => s
    | _ => s) s

/-- Whether a debugger halt is due at the warp's boundary: one that STOP or STEP asked for, or under DBGEN a breakpoint
at the path that would issue (R308, R326). -/
def haltDue (s : State) (w : Nat) : Option State :=
  let x := warpAt s w
  if x.holdSl.isSome then none
  else if x.halt = .pending then some (haltWarp s w)
  else match choosePath s w with
    | none => none
    | some k =>
      if (bpMatch s w k).isSome && bits (dbgctl s w) 0 1 == 1 then
        some (haltWarp (setSlot s w k { slotOf x k with skipBp := true }) w)
      else none

/-- A warp's turn: a result that waits for its port, a halt that is due, then a trap that is due, then one instruction,
when the arbiter lets it (R135, R308, R327). -/
def issueTurn (s : State) (w : Nat) : Issued :=
  let s := if (warpAt s w).gone || (crewOf s w).saving || (crewOf s w).gone then s else endPaths (pushHanded s w) w
  if !mayIssue s w then .done s
  else match haltDue s w with
  | some t => .done t
  | none =>
    if trapDue (warpAt s w) then .done (deliverTrap s w)
    else match choosePath s w with
      | none => .done s
      | some k => if arbiterLets s w k then issuePath s w k else .done s

/-- The warp's turn carried out. -/
def takeIssue (s : State) (w : Nat) : Host.Outcome State Fault Refusal :=
  match issueTurn s w with
  | .done s => .next s
  | .run i k sl0 t => match exec i t with
    | .next t' => .next (closeIssue sl0 t' w k)
    | .fault r => .fault r
    | .refused r => .refused r

/-- The guard and the operands of an instruction that reads nothing else of the warp; none for one that reads a slot, a
predicate, a latch, the generator or flags besides, or what a captured slot gives. -/
def operandsOnly : Instr → Option (Guard × List Opnd)
  | .iadd h _ a b | .isub h _ a b | .imin h _ a b | .imax h _ a b | .iminu h _ a b | .imaxu h _ a b
  | .iaddsat h _ a b | .isubsat h _ a b | .and h _ a b | .or h _ a b | .xor h _ a b | .andn h _ a b
  | .orn h _ a b | .imul h _ a b | .imulh h _ a b | .imulhu h _ a b | .imulw h _ a b | .imulwu h _ a b
  | .idiv h _ a b | .idivu h _ a b | .irem h _ a b | .iremu h _ a b | .shl h _ a b | .shr h _ a b
  | .sar h _ a b | .rotl h _ a b | .rotr h _ a b | .bfe h _ a b | .bfes h _ a b | .iadd2 h _ a b
  | .isub2 h _ a b | .shl2 h _ a b | .shr2 h _ a b | .sar2 h _ a b | .padd h _ a b | .prom h _ a b
  | .promPin h _ a b | .dem h _ a b | .objqRec h _ a b =>
    some (h.g, [a, b])
  | .iabs h _ a | .ineg h _ a | .not h _ a | .popc h _ a | .clz h _ a | .ctz h _ a | .brev h _ a | .mov h _ a
  | .mov2 h _ a | .callx h _ a | .objqRes h _ a | .lredAdd h _ a | .lredMin h _ a | .lredMax h _ a
  | .lredMinu h _ a | .lredMaxu h _ a | .lredAnd h _ a | .lredOr h _ a | .lredXor h _ a | .xswap h _ a
  | .mbarArv h _ a | .hwait h _ a | .hstat h _ a | .hstatOrg h _ a | .hstatUp h _ a | .hstatOcd h _ a
  | .hdup h _ a | .setp h _ a | .lmaskSame h _ a =>
    some (h.g, [a])
  | .ltab h _ a b c _ =>
    some (h.g, [a, b, c])
  | .imad h _ a b c | .bfi h _ a b c | .bgat h _ a b c =>
    some (h.g, [a, b, c])
  | .iaddi h _ a _ | .andi h _ a _ | .ori h _ a _ | .xori h _ a _ =>
    some (h.g, [a])
  | .icmp h _ _ _ a b =>
    some (h.g, [a, b])
  | .lxchSel h _ _ a b | .lxchXor h _ _ a b =>
    some (h.g, [a, b])
  | .lxchRdn h _ _ _ a b | .lxchRup h _ _ _ a b =>
    some (h.g, [a, b])
  | .lxchRev h _ _ a =>
    some (h.g, [a])
  | .mbarArvtx h _ a b | .mbarTest h _ a b =>
    some (h.g, [a, b])
  | .brx g a | .ret g a | .macal g a | .mafree g a | .cwait g a | .ccan g a | .hfree g a | .srseed g a
  | .orinvObj g a | .orinvSub g a | .mbarInval g a =>
    some (g, [a])
  | .barSync g _ a | .barArv g _ a | .mown g _ a | .mzero g _ a | .qctlQbind g _ a | .prof g _ a | .csrw g _ a =>
    some (g, [a])
  | .mbarInit g a b | .mbarWait g a b | .cflush g a b =>
    some (g, [a, b])
  | .cinv g _ _ a b =>
    some (g, [a, b])
  | .lnch h _ a _ =>
    some (h.g, [a])
  | .csrs h _ _ a | .csrc h _ _ a =>
    some (h.g, [a])
  | .invk h _ _ _ a b =>
    some (h.g, [a, b])
  | .hsend h _ _ _ a b c =>
    some (h.g, [a, b, c])
  | .ld8 h m _ | .ld8s h m _ | .ld16 h m _ | .ld16s h m _ | .ld32 h m _ | .ld64 h m _ | .ld128 h m _
  | .ldp h m _ | .lds32 h m _ | .lds64 h m _ | .lds128 h m _ =>
    some (h.g, [m.a, m.b])
  | .st8 g m d | .st16 g m d | .st32 g m d | .st64 g m d | .st128 g m d | .stp g m d | .sts32 g m d
  | .sts64 g m d | .sts128 g m d =>
    some (g, [m.a, m.b, d])
  | .pref g m =>
    some (g, [m.a, m.b])
  | .atomAdd h m _ _ c | .atomSub h m _ _ c | .atomMin h m _ _ c | .atomMax h m _ _ c | .atomMinu h m _ _ c
  | .atomMaxu h m _ _ c | .atomAnd h m _ _ c | .atomOr h m _ _ c | .atomXor h m _ _ c | .atomXchg h m _ _ c
  | .atomCas h m _ _ c | .atomsAdd h m _ _ c | .atomsSub h m _ _ c | .atomsMin h m _ _ c | .atomsMax h m _ _ c
  | .atomsMinu h m _ _ c | .atomsMaxu h m _ _ c | .atomsAnd h m _ _ c | .atomsOr h m _ _ c
  | .atomsXor h m _ _ c | .atomsXchg h m _ _ c | .atomsCas h m _ _ c =>
    some (h.g, [m.a, m.b, c])
  | .nop g | .exit g | .yield g | .mswap g | .mwait g | .tretRes g | .tretLanes g | .tretWarp g | .tretCrew g
  | .tretLaunch g | .orinvAll g =>
    some (g, [])
  | .movi h _ _ | .rdsr h _ _ | .qctlQstat h _ _ | .csrr h _ _ =>
    some (h.g, [])
  | .movi2 h _ _ _ =>
    some (h.g, [])
  | .bra g _ _ _ =>
    some (g, [])
  | .call g _ _ _ _ =>
    some (g, [])
  | .trap g _ | .brk g _ | .pyield g _ | .barWait g _ | .tqpop g _ =>
    some (g, [])
  | .pchk h _ =>
    some (h.g, [])
  | .fence g _ _ _ | .fencex g _ _ _ =>
    some (g, [])
  | .ill => some (⟨7, false⟩, [])
  | _ => none

/-- Whether an operand is held in a register or a latch, which an error can strike: not a port, `z` or `lid` (R325). -/
def opndHeld : Opnd → Bool
  | .v _ => true
  | .s _ => true
  | .b _ => true
  | .q _ => false
  | .z => false
  | .lid => false

/-- Whether an instruction reads something of the warp that an error can strike: a source, or the predicate of its
guard. -/
def readsWarp (i : Instr) : Bool :=
  match operandsOnly i with
  | some (g, os) => g.p.val != 7 || os.any opndHeld
  | none => true

/-- A state with byte `a` of a crew's scratchpad replaced. -/
def scratchSet (s : State) (c a : Nat) (b : Byte) : State :=
  setCrew s c { crewAt s c with scr := memSet (crewAt s c).scr a b }

/-- Whether an instruction reads byte `a` of its crew's scratchpad: what it does depends on that byte. -/
def readsScratch (i : Instr) (s : State) (w a : Nat) : Bool :=
  let c := (warpAt s w).crew
  let b := memGet (crewAt s c).scr a
  match exec i s, exec i (scratchSet s c a (~~~b)) with
  | .next t, .next u => decide (t ≠ u ∧ t ≠ scratchSet u c a b)
  | _, _ => false

/-- An error that cannot be corrected strikes what the warp's next instruction reads: a register, latch or slot
(detail 1), a scratchpad word that holds byte `addr` (3), an accumulator word of `mdrain` (4), or the instruction itself
(6) (R220, R325). -/
def takeUpset (s : State) (w detail addr : Nat) : State :=
  match issueTurn s w with
  | .done s => s
  | .run i k sl0 t =>
    if detail = 1 then (if readsWarp i then issueTrap s w k 0x16 (some 0) 1 else s)
    else if detail = 3 then (if readsScratch i t w addr then issueTrap s w k 0x16 (some addr) 3 else s)
    else if detail = 4 then
      match i with
      | .mdrain g wb f clr rows d a => match mdrainOp true g wb f clr rows d a t with
        | .next t' => closeIssue sl0 t' w k
        | _ => s
      | _ => s
    else if detail = 6 then issueTrap s w k 0x16 none 6
    else s

end Sys2Proof.Machine
end

