-- ==== Sys2Proof/Machine/Turns.lean ====
section
/-! DEFINITION. One turn of the machine: a warp issues, an event happens, time passes, a message leaves or is lost, a
cache takes or drops a copy; and what goes on when no turn is named. -/

namespace Sys2Proof.Machine

/-! ### Messages that leave (R369, R374, R379, R396) -/

/-- The device that a message goes to; none for one to the host or to the fabric. -/
def outDst (o : Out) : Option Nat :=
  match o with
  | .request d _ => some d
  | .reply d _ => some d
  | .invalidate d _ _ => some d
  | .invalidateAck d _ _ => some d
  | .routeNotice d _ _ _ => some d
  | .routeAck d _ => some d
  | o => o.engineDst

/-- The classes of messages that a receiver takes in the order of their sending: messages with their records, and what a
move or a migration sends behind them (R381, R383, R385); what a home is told about handles (R378, R386); the parts of
collectives (R392). -/
inductive OutClass
  | records
  | states
  | parts
  deriving DecidableEq, Repr

/-- The class of a message, if it is ordered. -/
def outClass : Out → Option OutClass
  | .message _ _ => some .records
  | .forward _ _ => some .records
  | .moveGo _ _ _ => some .records
  | .context _ _ _ => some .records
  | .report _ _ => some .states
  | .notice _ _ => some .states
  | .refs _ _ _ => some .states
  | .contribution _ _ => some .parts
  | _ => none

/-- Whether a message waits until an earlier one has arrived: of its class, to the same device. -/
def outWaits (earlier : List Sent) (o : Out) : Bool :=
  (outClass o).isSome && earlier.any (fun n => outClass n.out == outClass o && outDst n.out == outDst o)

/-- Takes message i away. -/
def dropOut (s : State) (i : Nat) : State := { s with outbox := s.outbox.eraseIdx i }

/-- The state an outcome holds, or the one before it. -/
def nextOr (s : State) : Host.Outcome State Fault Refusal → State
  | .next t => t
  | .fault _ => s
  | .refused _ => s

/-- A message that this device has sent to itself arrives: none while it cannot be taken. -/
def arriveHere (s : State) : Out → Option State
  | .invoke _ m => invokeAccept s m
  | .message _ m => some (messageAccept s false m)
  | .forward _ m => some (messageAccept s true m)
  | .decline _ m => some (messageDeclined s m)
  | .report _ r => some (stateReport s r)
  | .subscribe d h c a => homeAsked s d h c a
  | .refs _ h up => some (homeCount s h up)
  | .notice _ n => some (breakNotice s n)
  | .moveAsk d c h dev => some (moveAsked s d c h dev)
  | .moveGo _ h dev => some (moveGone s h dev)
  | .moveAck _ h dev => some (moveEnded s h dev)
  | .context _ c m => ctxArrive s c m
  | .contribution _ c => some (contributionArrival c s)
  | .abandon _ a => some (abandonArrival a s)
  | .disagree _ k => some (disagreeArrival k s)
  | _ => some s

/-- Message i reaches its receiver, which acknowledges it: messages of one class to one device arrive in order. -/
def deliverOut (s : State) (i : Nat) : State :=
  match s.outbox[i]? with
  | none => s
  | some m =>
    if outWaits (s.outbox.take i) m.out then s
    else if outDst m.out = some s.plat.devnum then (arriveHere (dropOut s i) m.out).getD s
    else dropOut s i

/-- Whether another device may count as unreachable for a message sent at a time (R369, R379; DEDUCED,
unsafe: log entry 10). -/
def unreachable (s : State) (dst time : Nat) : Bool :=
  dst != s.plat.devnum && decide (time + Config.unreachableAfter ≤ s.now)

/-- What a message that cannot reach its receiver leads to. A handle whose home cannot be reached reads BROKEN with
HWFAIL, and what depends on it breaks with UPSTREAM and that handle as its origin (R379, R386). -/
def lostTo (s : State) (dst : Nat) : Out → State
  | .invoke _ m => breakLaunch s m.handle 5 0
  | .message _ m => breakLaunch s m.handle 5 0
  | .forward _ m => breakLaunch s m.handle 5 0
  | .contribution _ _ => collLost s dst
  | .invalidate _ _ _ => silentSharer s dst
  | .subscribe _ h c a => stateReport s { invalidReport h with state := 4, code := 5, origin := h, ctx := c, asker := a }
  | .moveAsk _ _ h _ => clearGo s h
  | _ => s

/-- Message i has not reached its receiver in the time that R369 and R379 allow. -/
def loseOut (s : State) (i : Nat) : State :=
  match s.outbox[i]? with
  | none => s
  | some m => match outDst m.out with
    | none => s
    | some d => if unreachable s d m.time then settleAll (lostTo (dropOut s i) d m.out) else s

/-- A member device has not been reached for as long as R369 allows: the collectives that have waited so long for it break
here (R396). -/
def collSilent (s : State) (dev : Nat) : State :=
  if (s.coll.cmds.any (fun c => c.live && c.phase != 2 && decide (c.since + Config.unreachableAfter ≤ s.now) &&
      ((collDevs s c).getD []).contains dev)) = true ∧ dev ≠ s.plat.devnum then settleAll (collLost s dev) else s

/-- The members of collectives that wait here, this device apart. -/
def collMembers (s : State) : List Nat :=
  ((s.coll.cmds.filter (fun c => c.live && c.phase != 2)).flatMap (fun c => (collDevs s c).getD [])).eraseDups.filter
    (· != s.plat.devnum)

/-- No plane has led anywhere for as long as R369, R379 and R396 allow: what other devices have not acknowledged for so long
is lost, and the collectives that wait for members there break (R5). -/
def endCut (s : State) : State :=
  match s.fab.cut with
  | none => s
  | some t =>
    let late := s.outbox.filter (fun m => (outDst m.out).any (fun d => unreachable s d m.time))
    let devs := collMembers s
    if s.now < t + Config.unreachableAfter ∨ (late.isEmpty = true ∧ devs.isEmpty = true) then s
    else
      let s : State := { s with outbox := s.outbox.filter (fun m => !late.contains m) }
      let s := late.foldl (fun s m => match outDst m.out with
        | some d => lostTo s d m.out
        | none => s) s
      settleAll (devs.foldl collLost s)

/-! ### Copies that caches take (R114, R237, R249) -/

/-- Whether a warp of a context has run. -/
def ctxRan (s : State) (c : Nat) : Bool :=
  match ctxGet s c with
  | some x => x.ranWarp
  | none => false

def fillOrc (s : State) (c obj : Nat) : State :=
  if !ctxRan s c ∨ (s.caches.orc.any (fun e => e.ctx == c && e.obj == obj)) = true then s
  else { s with caches := { s.caches with orc := s.caches.orc ++ [⟨c, obj, recordWords s c obj⟩] } }

def dropOrc (s : State) (c obj : Nat) : State :=
  { s with caches := { s.caches with orc := s.caches.orc.filter (fun e => !(e.ctx == c && e.obj == obj)) } }

/-- The residency cache takes an entry that its object's record leads to. -/
def fillRes (s : State) (t : SubTile) : State :=
  let r := recordWords s t.ctx t.obj
  if !ctxRan s t.ctx ∨ (s.caches.res.any (fun e => e.t == t)) = true ∨ recV r = false ∨ recMalformed r = true ∨
      recRtab r = 0 then s
  else match entryStored s r t.sub t.rep with
    | some e => { s with caches := { s.caches with res := s.caches.res ++ [⟨t, BitVec.ofNat 64 e⟩] } }
    | none => s

def dropRes (s : State) (t : SubTile) : State :=
  { s with caches := { s.caches with res := s.caches.res.filter (fun e => e.t != t) } }

/-- A spire's instruction cache takes a line, unless a word of it is poisoned. -/
def fillLine (s : State) (tower phys line : Nat) : State :=
  if (s.caches.ilines.any (fun l => l.tower == tower && l.phys == phys && l.line == line)) = true ∨
      (s.plat.poison.any (fun w => w / 16 == line)) = true then s
  else { s with caches := { s.caches with
    ilines := s.caches.ilines ++ [⟨tower, phys, line, memBytes s.mem (128 * line) 128⟩] } }

def dropLine (s : State) (tower phys line : Nat) : State :=
  { s with caches := { s.caches with
    ilines := s.caches.ilines.filter (fun l => !(l.tower == tower && l.phys == phys && l.line == line)) } }

/-! ### A replay that waits for ever (R280) -/

/-- The merges of an unordered collective that are due here: block and rank. -/
def mergesDue (c : CollCmd) : List (Nat × Nat) :=
  let d := collDescOf c.desc
  if c.live && c.phase != 2 && d.unord && decide (d.op < 2) then
    (collBlocks d c.shape.nrank c.rank).flatMap (fun b => (c.got.filter (fun g =>
      !(mergedOf c b).contains g.rank && blockHere c d b g.rank)).map (fun g => (b, g.rank)))
  else []

/-- Whether a merge waits for its turn in the replayed order, or can be done now. -/
def mergeHeld (s : State) (c : CollCmd) (held : Bool) : Bool :=
  (mergesDue c).any (fun m => match olOne s (olAgent c.key.ctx c.failed) (mergeRecord c m.1 m.2) with
    | .wait => held
    | _ => !held)

/-- The launches that have ended in a context's replay are looked for among the entries of the log that are not performed,
once the log is here to be read; one that names such a launch sets MISM (R280). -/
def olCheck (s : State) (c : Nat) (x : Ctx) : State :=
  if x.olEnded.isEmpty then s
  else
    let ag := olAgent c []
    let us := olUnits s ag x
    if !x.replays then ctxPut s c { x with olEnded := [] }
    else if !us.isEmpty then askUnit s s.disp.master us
    else match fetchSet s (.unit ⟨c, 0, 0, 0⟩) (olFar s ag x) with
    | (none, s) => s
    | (some _, s) =>
      let y : Ctx := { x with olEnded := [] }
      ctxPut s c (if olNames s ag x then setCsr y 0x074 (setBits (csrN x 0x074) 9 1 1) else y)

/-- Whether a path of a warp is parked for something that has not come yet. -/
def pathStuck (s : State) (w : Nat) (k : Which) : Bool :=
  match (slotOf (warpAt s w) k).park with
  | none => false
  | some (.handed _ _ _) => (slotOf (warpAt (pushHanded s w) w) k).park.isSome
  | some (.reissue r) => !reissueReady s w k r
  | some _ => true

/-- Whether a logged event of a parked path waits for its turn: one of its instruction, or the push of its result. -/
def pathEvent (s : State) (w : Nat) (k : Which) : Bool :=
  match (slotOf (warpAt s w) k).park with
  | some (.reissue .order) => true
  | some (.handed _ dst _) => !portFull s (crewOf s w) (!dst.h.w) (dstPort (some dst.d))
  | _ => false

/-- The live paths of a warp in its slots and in its handler. -/
def livePaths (s : State) (w : Nat) : List (Nat × Which) :=
  let x := warpAt s w
  (([Which.a, .b] ++ (if x.mode = .supervisor then [Which.handler] else [])).filter (fun k => (slotOf x k).live)).map
    (fun k => (w, k))

/-- Whether a warp has a path in its split stack. -/
def hasSpilled (s : State) (w : Nat) : Bool := (List.range (warpAt s w).ssn).any (fun k => entKind (entGet s w k) == 1)

/-- The warps of a context that have paths here. -/
def ctxWarps (s : State) (c : Nat) : List Nat :=
  (List.range s.warps.length).filter (fun w => !(warpAt s w).gone && !(crewOf s w).gone && ctxNumOf s w == c)

/-- Whether every path of a context's saved crews is parked; one that waits for its turn may find it when it is back. -/
def savedParked (s : State) (c : Nat) : Bool :=
  (s.launches.filter (fun l => l.ctx == c)).all (fun l => l.saved.all (fun k => k.warps.all (fun x =>
    [x.sa, x.sb, x.hdl].all (fun sl => !sl.live || (match sl.park with
      | none => false
      | some (.reissue .order) => false
      | some _ => true)))))

/-- Whether a context's replay can go on no more: an event waits and every path is parked (R280). -/
def replayStuck (s : State) (c : Nat) : Bool :=
  let ws := ctxWarps s c
  let ps := ws.flatMap (livePaths s)
  let ks := s.coll.cmds.filter (fun k => k.key.ctx == c)
  savedParked s c && ws.all (fun w => !hasSpilled s w) && ps.all (fun p => pathStuck s p.1 p.2) &&
  !ks.any (fun k => mergeHeld s k false) &&
  (ps.any (fun p => pathEvent s p.1 p.2) || ks.any (fun k => mergeHeld s k true))

/-- Sets MISM of every context whose replay can go on no more, and lets its merges go. -/
def mismStuck (s : State) : State :=
  s.ctxs.foldl (fun s e =>
    if bits (csrN e.2 0x074) 0 2 = 2 ∧ bits (csrN e.2 0x074) 9 1 = 0 ∧ replayStuck s e.1 = true then
      match ctxGet s e.1 with
      | some x =>
        let s := ctxPut s e.1 (setCsr x 0x074 (setBits (csrN x 0x074) 9 1 1))
        (s.coll.cmds.filter (fun k => k.live && k.key.ctx == e.1)).foldl (fun s k => mergeHere s k.h) s
      | none => s
    else s) s

/-! ### Turns -/

/-- The host or the supervisor asks for a crew's pre-emption (R330). Bad entries at the head of the frame pool are consumed
also when no good one follows (R336). -/
def preemptAsked (s : State) (c : Nat) : State :=
  if !ready s || (crewAt s c).gone || (crewAt s c).req.isSome then s else (requestGroup s c).getD (cleanFor s c)

/-- From now on the matrix path (1) or the copy path (2) does not see what other paths write, until a `fencex` or what has
been read makes it see a write (R218, R266, R275, R300). All that has been written so far it sees. -/
def takeView (s : State) (path : Nat) : State :=
  if path = 1 ∨ path = 2 then { s with views := s.views.filter (fun v => v.path != path) ++ [⟨path, []⟩] } else s

/-- An event happens. Where a debugger halt and the delivery of a trap are due at the same boundary of a warp, the halt
comes first (R308). -/
def takeEvent (s : State) (e : Instr) : Host.Outcome State Fault Refusal :=
  match e with
  | .trapDelivery w => match haltDue s w with
    | some t => .next t
    | none => exec e s
  | e => exec e s

/-- One turn. -/
def turnOnce (s : State) : Turn → Host.Outcome State Fault Refusal
  | .issue w => takeIssue s w
  | .upset w d a => .next (takeUpset s w d a)
  | .event e => takeEvent s e
  | .wait n => .next { s with now := s.now + n }
  | .deliver i => .next (deliverOut s i)
  | .lost i => .next (loseOut s i)
  | .silent dev => .next (collSilent (silentSharer s dev) dev)
  | .ask hdr h c a => .next (engineIn s hdr (fun s => homeAsked s (vuSrc hdr) h c a))
  | .count hdr h up => .next (engineIn s hdr (fun s => some (homeCount s h up)))
  | .declined hdr m => .next (engineIn s hdr (fun s => some (messageDeclined s m)))
  | .moveAsk hdr c h dev => .next (engineIn s hdr (fun s => some (moveAsked s (vuSrc hdr) c h dev)))
  | .moveGo hdr h dev => .next (engineIn s hdr (fun s => some (moveGone s h dev)))
  | .ctxLeave c dev => .next (ctxLeave s c dev)
  | .ctxArrive hdr c m => .next (engineIn s hdr (fun s => ctxArrive s c m))
  | .collRun h => .next (collRun s h)
  | .preempt c => .next (preemptAsked s c)
  | .view path => .next (takeView s path)
  | .engineRead c seq a => .next (engineRead s c seq a)
  | .msixWrite v => .next (msixWrite s v)
  | .msixControl c => .next (msixControl s c)
  | .msixRead fn vec => .next (msixRead s fn vec)
  | .corrected => .next (countCorrected s)
  | .manage m => .next (manage s m)
  | .barRead fn off => .next (hostBarRead s fn off)
  | .fillOrc c obj => .next (fillOrc s c obj)
  | .dropOrc c obj => .next (dropOrc s c obj)
  | .fillRes t => .next (fillRes s t)
  | .dropRes t => .next (dropRes s t)
  | .fillLine t p l => .next (fillLine s t p l)
  | .dropLine t p l => .next (dropLine s t p l)

/-! ### When no turn is named -/

/-- What one move of the machine leads to. -/
abbrev Move := State → Host.Outcome State Fault Refusal

/-- What could happen next of itself, in the order in which it is tried. -/
def ownMoves (s : State) : List Move :=
  (if s.plat.st = .reset then [execColdStart] else []) ++
  [execStartComplete true] ++
  (List.range s.warps.length).map (fun w t => takeIssue t w) ++
  (List.range s.crews.length).flatMap (fun c => [execMloadComplete c none, execMstreamComplete c false]) ++
  s.copies.filterMap (fun k => if h : k.chan < 8 then
    some (execCopyCommandEnd (34 * k.tower + k.phys) ⟨k.chan, h⟩ none) else none) ++
  (List.range s.warps.length).flatMap (fun w =>
    [execCompletionRecordArrival w false, execCompletionRecordArrival w true]) ++
  s.fu.asked.map (fun a => execFaultUnitMigration a.1 a.2) ++
  s.fu.jobs.flatMap (fun j => [execMigrationComplete j.t .ok, execRelocationInvalidated j.t,
    execRelocationCopyDone j.t, execRelocationDone j.t]) ++
  s.ctxs.flatMap (fun c => [execRelocationCommand c.1, execResultMove c.1, execContextStopComplete c.1]) ++
  s.coll.cmds.flatMap (fun k => [fun t => .next (collRun t k.h), execCollComplete k.h]) ++
  (List.range s.outbox.length).map (fun i t => .next (deliverOut t i)) ++
  (s.disp.offers.filterMap (fun m => m.comet.map hHome)).map execMessageReoffer ++
  (List.range s.crews.length).map execCooperativeSave ++
  (List.range s.warps.length).flatMap (fun w => [execHaltPresented w, execWarpRelease w]) ++
  (List.range s.crews.length).map execCrewEnd ++
  s.launches.map (fun l => execLaunchDone l.h) ++
  (List.range s.queues.length).flatMap (fun q => [execLaunchAccept q, execQueueAgeing q]) ++
  s.fab.reqs.map (fun o => execRequestTimeout o.rseq) ++
  (if (s.launches.any crewsLeft) = true then
    (List.range 128).flatMap (fun p => [execCrewRestore p, execCrewPlace p]) else [])

/-- Whether a move does anything. -/
def moveActs (s : State) (m : Move) : Bool :=
  match m s with
  | .next u => decide (u ≠ s)
  | _ => true

/-- The state after one arithmetic clock. -/
def tick (s : State) : State := { s with now := s.now + 1 }

/-- The move made when no turn is named: the next of the machine's own that does something, and one arithmetic clock. The
search begins one further with each clock, so that no move waits for ever behind others. -/
def ownMove (s : State) : Host.Outcome State Fault Refusal :=
  let ms := ownMoves s
  match (ms.rotate (s.now % ms.length)).find? (moveActs s) with
  | some m => match m s with
    | .next u => .next (tick u)
    | o => o
  | none => .next (tick s)

/-- Crews whose deadline has passed are saved as soon as their warps have stopped (R5, R333). -/
def forceOverdue (s : State) : State :=
  (List.range s.crews.length).foldl (fun s c => if overdue s c then nextOr s (execForcedSave c s) else s) s

/-- A queue's candidate has waited AGETH ac, once or more often (R5, R184). -/
def ageQueue (s : State) (q : Nat) : State :=
  (List.range 7).foldl (fun s _ => nextOr s (execQueueAgeing q s)) s

/-- Every queue's priority as it has risen by now: of the queues that have a candidate (R5, R184). -/
def ageQueues (s : State) : State := ((s.launches.filter crewsLeft).map (·.queue)).eraseDups.foldl ageQueue s

/-- The writes of split-stack entries that other devices have answered are over; one that could not be performed, or whose
outcome is not known, is an asynchronous error of its warp, of no lane and with the PC of slot A (R325, R369; DESIGN CHOICE,
unsafe: log entry 11). -/
def endStacks (s : State) : State :=
  let done := s.fab.reqs.filter (fun o => (match o.owner with | .stack _ => true | _ => false) && reqOver o)
  done.foldl (fun s o => match o.owner, o.dead with
    | .stack w, some d => asyncTrap s w (warpAt s w).issued 0 (deadCause d) 0 (warpAt s w).sa.path.pc
        (elemAddr (vuObj o.req.hdr) ((vuSubt o.req.hdr * 2 ^ 19 + o.req.bit % 2 ^ 19) / 8)) d
    | _, _ => s) { s with fab := { s.fab with reqs := s.fab.reqs.filter (fun o => !done.contains o) } }

/-- The launches that have ended in replay are looked for in the logs of their contexts. -/
def checkLogs (s : State) : State := s.ctxs.foldl (fun s e => olCheck s e.1 e.2) s

/-- What is due by a count that has run out: requests and waits for copies end (R369, R374), what no plane carries is lost
(R379, R396), priorities rise (R184), and saves begin or are forced (R332, R333). -/
def dueNow (s : State) : State := forceOverdue (beginSaves (ageQueues (endCut (endWaits (endDue s)))))

/-- What follows every move: requests that a relocation held, the host's writes that waited for other devices' copies,
what is due, and the check of replays. -/
def afterTurn (s : State) : State := mismStuck (checkLogs (endStacks (dueNow (flushHost (fabReplay s)))))

/-- What follows a move, in a machine that runs. -/
def afterMove (o : Host.Outcome State Fault Refusal) : Host.Outcome State Fault Refusal :=
  match o with
  | .next u => .next (if ready u then afterTurn u else u)
  | .fault r => .fault r
  | .refused r => .refused r

/-- One step: the next named turn, or the machine's own. -/
def takeStep (s : State) : Host.Outcome State Fault Refusal :=
  match s.turns with
  | [] => afterMove (ownMove s)
  | t :: ts => afterMove (turnOnce { s with turns := ts } t)

end Sys2Proof.Machine
end

