-- ==== Sys2Proof/Machine/Step.lean ====
section
/-! DEFINITION. The step of the machine, and the placing of one instruction where it fetches next. -/

namespace Sys2Proof.Machine

/-- One step: the next named turn, or the machine's own. -/
def step (s : State) : Host.Outcome State Fault Refusal := Sys2Proof.Machine.takeStep s

/-- `s` with an instruction whose low `nbits` bits are `w`, the rest zero, where `step` fetches next. -/
def State.withFetchWord (s : State) (nbits w : Nat) : State :=
  Sys2Proof.Machine.placeWord s (if nbits < 64 then w % 2 ^ nbits else w % 2 ^ 64)

end Sys2Proof.Machine
end

