-- ==== Sys2Proof/Safety.lean ====
section
/-! DEFINITION. The terms that claims use: what a safe run is, and when the path that issues goes straight on. -/

namespace Sys2Proof.Machine

/-! ### Runs -/

/-- The step from `s` answers a next state. -/
def runs (s : State) : Prop := ∃ t, step s = .next t

/-- The byte stores of a crew: its scratchpad, its accumulators and the weights of its planes. -/
def crewWf (c : Crew) : Bool := c.scr.wf && c.acc.wf && c.plA.wt.wf && c.plS.wt.wf

/-- The byte stores of the saved crews that move with a context. -/
def moveWf (m : CtxMove) : Bool := m.crews.all (fun k => crewWf k.2)

def turnWf : Turn → Bool
  | .ctxArrive _ _ m => moveWf m
  | _ => true

def outWf : Out → Bool
  | .context _ _ m => moveWf m
  | .managed _ data => data.wf
  | _ => true

/-- Every byte store of a state is in canonical form: memory, those of the crews, and those of crews that arrive or leave
with a context. -/
def storesWf (s : State) : Bool :=
  s.mem.wf && s.crews.all crewWf && s.outbox.all (fun m => outWf m.out) && s.turns.all turnWf

/-- `n` steps from `s` all answer next states, and every one of them keeps the canonical form. -/
def safeFor : Nat → State → Prop
  | 0, s => storesWf s = true
  | n + 1, s => storesWf s = true ∧ ∃ t, step s = .next t ∧ safeFor n t

/-! ### The issuing path -/

/-- Path `c` issues: its warp and crew exist, and no resumed wait or fetch has left it a trap to take. -/
def issuing (s : State) (c : Cur) : Bool :=
  s.cur == some c && decide (c.w < s.warps.length) && decide ((warpAt s c.w).crew < s.crews.length) &&
  (dueMark (slotOf (warpAt s c.w) c.which)).isNone

/-- Path k of a warp arrives nowhere when its PC becomes `pc`: it is live and has lanes, `pc` is not its rejoin
address, no other path of the warp arrives, and no spilled path can take a free slot (R141). -/
def goesTo (x : Warp) (k : Which) (pc : DWord) : Bool :=
  match k with
  | .handler => true
  | k =>
    let sl := slotOf x k
    let o := slotOf x (otherSlot k)
    sl.live && sl.park.isNone && sl.path.mask != 0 && (pc != sl.path.rjpc || sl.path.rjpc == noRejoin) &&
    !arrives o && (o.live || x.ssn == 0 || (decide (x.ssn ≤ 4) && entKind (x.ents.getD (x.ssn - 1) 0) != 1))

/-- The PC of path c. -/
def pcOf (s : State) (c : Cur) : DWord := (slotOf (warpAt s c.w) c.which).path.pc

/-- Path c issues, and goes straight on to the next instruction word (R28, R141). -/
def plain (s : State) (c : Cur) : Bool :=
  issuing s c && goesTo (warpAt s c.w) c.which (nextPc (pcOf s c)) && bits (pcOf s c).toNat 0 42 != 2 ^ 42 - 8

/-- `s` with the PC of path c at `pc`, where it has performed nothing of its instruction yet. -/
def movedTo (s : State) (c : Cur) (pc : DWord) : State :=
  let sl := slotOf (warpAt s c.w) c.which
  setSlot s c.w c.which { sl with path := { sl.path with pc := pc }, turned := none }

/-- `s` with path c one instruction word on. -/
def stepped (s : State) (c : Cur) : State := movedTo s c (nextPc (pcOf s c))

/-- The lanes that take part in an instruction of path c under a guard (R29, R131). -/
def takers (s : State) (c : Cur) (g : Guard) : Mask := taking (envOf s c) g

end Sys2Proof.Machine
end

