-- ==== Sys2Proof/Certificates/Slice0/Obligations.lean ====
section
/-! DEFINITION. The statements for the provers: what the manual says that the instructions and the machine do. Results are
written in the arithmetic of the manual's tables, on natural numbers and integers. -/

namespace Sys2Proof.Machine

/-! ### The vocabulary of results -/

/-- An instruction whose one result goes to D (R30, R31): its header, D and its width in words, its sources, and the
value it gives lane l, from the path as it stood, the taking lanes and every lane's source values. -/
structure Result where
  h    : Hdr
  d    : Opnd
  k    : Nat
  srcs : List Src
  val  : State → Env → Mask → (Nat → List Nat) → Nat → Nat

/-- An instruction whose one result is a predicate. -/
structure PredResult where
  h    : Hdr
  p    : Pred
  srcs : List Src
  val  : Env → Mask → (Nat → List Nat) → Nat → Bool

/-- Source j of lane l as a 32-bit and as a 64-bit number. -/
def w32 (v : Nat → List Nat) (j l : Nat) : Nat := (v l).getD j 0 % 2 ^ 32
def w64 (v : Nat → List Nat) (j l : Nat) : Nat := (v l).getD j 0 % 2 ^ 64

/-- The bit k of a number. -/
def bitOf (x k : Nat) : Nat := x / 2 ^ k % 2

/-- The number whose bit k, for k below 32, is given. -/
def ofBits (f : Nat → Nat) : Nat := ((List.range 32).map (fun k => f k % 2 * 2 ^ k)).sum

/-- A result of k words from one, two or three sources of the given widths, lane by lane. -/
def res1 (h : Hdr) (d : Opnd) (k : Nat) (a : Src) (f : Nat → Nat) : Option Result :=
  some ⟨h, d, k, [a], fun _ _ _ v l => f (if a.2 = 2 then w64 v 0 l else w32 v 0 l)⟩
def res2 (h : Hdr) (d : Opnd) (k : Nat) (a b : Src) (f : Nat → Nat → Nat) : Option Result :=
  some ⟨h, d, k, [a, b], fun _ _ _ v l =>
    f (if a.2 = 2 then w64 v 0 l else w32 v 0 l) (if b.2 = 2 then w64 v 1 l else w32 v 1 l)⟩
def res3 (h : Hdr) (d : Opnd) (a b c : Opnd) (f : Nat → Nat → Nat → Nat) : Option Result :=
  some ⟨h, d, 1, [(a, 1), (b, 1), (c, 1)], fun _ _ _ v l => f (w32 v 0 l) (w32 v 1 l) (w32 v 2 l)⟩

/-- What it means that an instruction has this result: with sources that can be read and a destination that is no
port, it completes, D and the latch hold the value in the taking lanes, the pops have happened, the PC is 8 further,
and nothing else has changed. -/
def completesWith (i : Instr) (r : Result) : Prop :=
  ∀ (s : State) (c : Cur) (s1 : State) (v : Nat → List Nat),
    plain s c = true → regsOk ((r.d, r.k) :: r.srcs) (envOf s c) = true → (∀ n, r.d ≠ .q n) →
    readSrcs s (envOf s c) (takers s c r.h.g) r.srcs (some r.d) (!r.h.w) = .ok (s1, v) →
    exec i s = .next (stepped (setWarp s1 c.w (writeDest (warpAt s1 c.w) ⟨r.h, r.d, takers s c r.h.g⟩ r.k
      (r.val s (envOf s c) (takers s c r.h.g) v))) c)

/-- The same for a predicate result. -/
def completesWithPred (i : Instr) (r : PredResult) : Prop :=
  ∀ (s : State) (c : Cur) (s1 : State) (v : Nat → List Nat),
    plain s c = true → regsOk r.srcs (envOf s c) = true →
    readSrcs s (envOf s c) (takers s c r.h.g) r.srcs none false = .ok (s1, v) →
    exec i s = .next (stepped (setWarp s1 c.w (writePred (warpAt s1 c.w) r.h r.p (takers s c r.h.g)
      (r.val (envOf s c) (takers s c r.h.g) v))) c)

/-! ### Integer arithmetic (R89, R91, R92) -/

def arithResult : Instr → Option Result
  | .iadd h d a b => res2 h d 1 (a, 1) (b, 1) (fun x y => (x + y) % 2 ^ 32)
  | .isub h d a b => res2 h d 1 (a, 1) (b, 1) (fun x y => intBits 32 ((x : Int) - y))
  | .imin h d a b => res2 h d 1 (a, 1) (b, 1) (fun x y => intBits 32 (min (sx 32 x) (sx 32 y)))
  | .imax h d a b => res2 h d 1 (a, 1) (b, 1) (fun x y => intBits 32 (max (sx 32 x) (sx 32 y)))
  | .iminu h d a b => res2 h d 1 (a, 1) (b, 1) (fun x y => min x y)
  | .imaxu h d a b => res2 h d 1 (a, 1) (b, 1) (fun x y => max x y)
  | .iabs h d a => res1 h d 1 (a, 1) (fun x => intBits 32 |sx 32 x|)
  | .ineg h d a => res1 h d 1 (a, 1) (fun x => intBits 32 (-(sx 32 x)))
  | .iaddsat h d a b => res2 h d 1 (a, 1) (b, 1) (fun x y =>
      intBits 32 (max (-2 ^ 31) (min (2 ^ 31 - 1) (sx 32 x + sx 32 y))))
  | .isubsat h d a b => res2 h d 1 (a, 1) (b, 1) (fun x y =>
      intBits 32 (max (-2 ^ 31) (min (2 ^ 31 - 1) (sx 32 x - sx 32 y))))
  | .imul h d a b => res2 h d 1 (a, 1) (b, 1) (fun x y => x * y % 2 ^ 32)
  | .imulh h d a b => res2 h d 1 (a, 1) (b, 1) (fun x y => intBits 32 (sx 32 x * sx 32 y / 2 ^ 32))
  | .imulhu h d a b => res2 h d 1 (a, 1) (b, 1) (fun x y => x * y / 2 ^ 32)
  | .imad h d a b c => res3 h d a b c (fun x y z => (x * y + z) % 2 ^ 32)
  | .imulw h d a b => res2 h d 2 (a, 1) (b, 1) (fun x y => intBits 64 (sx 32 x * sx 32 y))
  | .imulwu h d a b => res2 h d 2 (a, 1) (b, 1) (fun x y => x * y)
  | _ => none

/-- Division (R92): fixed results for a zero divisor; otherwise truncation, and a remainder with the sign of A. -/
def divisionResult : Instr → Option Result
  | .idiv h d a b => res2 h d 1 (a, 1) (b, 1) (fun x y =>
      if y = 0 then 2 ^ 32 - 1 else intBits 32 ((sx 32 x).tdiv (sx 32 y)))
  | .idivu h d a b => res2 h d 1 (a, 1) (b, 1) (fun x y => if y = 0 then 2 ^ 32 - 1 else x / y)
  | .irem h d a b => res2 h d 1 (a, 1) (b, 1) (fun x y =>
      if y = 0 then x else intBits 32 ((sx 32 x).tmod (sx 32 y)))
  | .iremu h d a b => res2 h d 1 (a, 1) (b, 1) (fun x y => if y = 0 then x else x % y)
  | _ => none

/-! ### Logic, shifts and bit operations (R90, R93 to R95) -/

def logicResult : Instr → Option Result
  | .and h d a b => res2 h d 1 (a, 1) (b, 1) (fun x y => ofBits (fun k => bitOf x k * bitOf y k))
  | .or h d a b => res2 h d 1 (a, 1) (b, 1) (fun x y => ofBits (fun k => max (bitOf x k) (bitOf y k)))
  | .xor h d a b => res2 h d 1 (a, 1) (b, 1) (fun x y => ofBits (fun k => bitOf x k + bitOf y k))
  | .andn h d a b => res2 h d 1 (a, 1) (b, 1) (fun x y => ofBits (fun k => bitOf x k * (1 - bitOf y k)))
  | .orn h d a b => res2 h d 1 (a, 1) (b, 1) (fun x y => ofBits (fun k => max (bitOf x k) (1 - bitOf y k)))
  | .not h d a => res1 h d 1 (a, 1) (fun x => 2 ^ 32 - 1 - x)
  | .ltab h d a b c tt => res3 h d a b c (fun x y z =>
      ofBits (fun k => bitOf tt.toNat (bitOf x k + 2 * bitOf y k + 4 * bitOf z k)))
  | .shl h d a b => res2 h d 1 (a, 1) (b, 1) (fun x y => x * 2 ^ (y % 32) % 2 ^ 32)
  | .shr h d a b => res2 h d 1 (a, 1) (b, 1) (fun x y => x / 2 ^ (y % 32))
  | .sar h d a b => res2 h d 1 (a, 1) (b, 1) (fun x y => intBits 32 (sx 32 x / 2 ^ (y % 32)))
  | .rotl h d a b => res2 h d 1 (a, 1) (b, 1) (fun x y =>
      x * 2 ^ (y % 32) % 2 ^ 32 + x / 2 ^ (32 - y % 32))
  | .rotr h d a b => res2 h d 1 (a, 1) (b, 1) (fun x y =>
      x / 2 ^ (y % 32) + x * 2 ^ (32 - y % 32) % 2 ^ 32)
  | .popc h d a => res1 h d 1 (a, 1) (fun x => ((List.range 32).filter (fun k => bitOf x k = 1)).length)
  | .clz h d a => res1 h d 1 (a, 1) (fun x => if x = 0 then 32 else 31 - Nat.log2 x)
  | .ctz h d a => res1 h d 1 (a, 1) (fun x => ((List.range 32).find? (fun k => bitOf x k = 1)).getD 32)
  | .brev h d a => res1 h d 1 (a, 1) (fun x => ofBits (fun k => bitOf x (31 - k)))
  | _ => none

/-- The position and the effective length of a field (R95). -/
def fieldPos (y : Nat) : Nat := y % 256
def fieldLen (y : Nat) : Nat := if fieldPos y < 32 then min (y / 256 % 256) (32 - fieldPos y) else 0

/-- Byte k of `bgat`'s result (R95). -/
def gatherByte (x y z k : Nat) : Nat :=
  let sel := z / 2 ^ (8 * k) % 256
  let src := (x + 2 ^ 32 * y) / 2 ^ (8 * (sel % 8)) % 256
  match sel / 8 % 4 with
  | 0 => src
  | 1 => if 128 ≤ src then 255 else 0
  | 2 => 0
  | _ => 255

def fieldResult : Instr → Option Result
  | .bfe h d a b => res2 h d 1 (a, 1) (b, 1) (fun x y => x / 2 ^ fieldPos y % 2 ^ fieldLen y)
  | .bfes h d a b => res2 h d 1 (a, 1) (b, 1) (fun x y =>
      if fieldLen y = 0 then 0 else intBits 32 (sx (fieldLen y) (x / 2 ^ fieldPos y)))
  | .bfi h d a b c => res3 h d a b c (fun x y z =>
      if fieldLen y = 0 then z
      else ofBits (fun k => if fieldPos y ≤ k ∧ k < fieldPos y + fieldLen y then bitOf x (k - fieldPos y) else bitOf z k))
  | .bgat h d a b c => res3 h d a b c (fun x y z =>
      gatherByte x y z 0 + 2 ^ 8 * gatherByte x y z 1 + 2 ^ 16 * gatherByte x y z 2 + 2 ^ 24 * gatherByte x y z 3)
  | _ => none

/-! ### 64-bit arithmetic, moves and immediates (R96, R98, R100) -/

def wideResult : Instr → Option Result
  | .iadd2 h d a b => res2 h d 2 (a, 2) (b, 2) (fun x y => (x + y) % 2 ^ 64)
  | .isub2 h d a b => res2 h d 2 (a, 2) (b, 2) (fun x y => intBits 64 ((x : Int) - y))
  | .shl2 h d a b => res2 h d 2 (a, 2) (b, 1) (fun x y => x * 2 ^ (y % 64) % 2 ^ 64)
  | .shr2 h d a b => res2 h d 2 (a, 2) (b, 1) (fun x y => x / 2 ^ (y % 64))
  | .sar2 h d a b => res2 h d 2 (a, 2) (b, 1) (fun x y => intBits 64 (sx 64 x / 2 ^ (y % 64)))
  | .padd h d a b => res2 h d 2 (a, 2) (b, 2) (fun x y => x / 2 ^ 42 * 2 ^ 42 + (x + y) % 2 ^ 42)
  | .mov h d a => res1 h d 1 (a, 1) (fun x => x)
  | .mov2 h d a => res1 h d 2 (a, 2) (fun x => x)
  | .sel h d a b p => some ⟨h, d, 1, [(a, 1), (b, 1)], fun _ e _ v l =>
      (v l).getD (if (predMask e.x p).getLsbD l then 0 else 1) 0⟩
  | .movp h d p => some ⟨h, d, 1, [], fun _ e _ _ l => if (predMask e.x p).getLsbD l then 1 else 0⟩
  | .movi h d imm => some ⟨h, d, 1, [], fun _ _ _ _ _ => imm.toNat⟩
  | .iaddi h d a imm => res1 h d 1 (a, 1) (fun x => (x + imm.toNat) % 2 ^ 32)
  | .andi h d a imm => res1 h d 1 (a, 1) (fun x => ofBits (fun k => bitOf x k * bitOf imm.toNat k))
  | .ori h d a imm => res1 h d 1 (a, 1) (fun x => ofBits (fun k => max (bitOf x k) (bitOf imm.toNat k)))
  | .xori h d a imm => res1 h d 1 (a, 1) (fun x => ofBits (fun k => bitOf x k + bitOf imm.toNat k))
  | .movi2 h zx d imm => some ⟨h, d, 2, [], fun _ _ _ _ _ =>
      if zx then imm.toNat else intBits 64 (sx 32 imm.toNat)⟩
  | _ => none

/-! ### Lane exchange and reductions (R154 to R156) -/

/-- The lane that a segment of w lanes reads: the segment's base, the lane's place and its operand m. -/
def exchanged (e : Mask) (seg : Nat) (v : Nat → List Nat) (l : Nat) (src : Nat → Nat → Nat → Option Nat) : Nat :=
  let w := 32 / 2 ^ seg
  match src (l % w) w ((v l).getD 1 0 % 32) with
  | none => (v l).getD 0 0
  | some j => if e.getLsbD (l - l % w + j) then (v (l - l % w + j)).getD 0 0 else (v l).getD 0 0

/-- The values of A of the taking lanes, in ascending lane order. -/
def takenValues (m : Mask) (v : Nat → List Nat) : List Nat := (lanesOf m).map (fun l => w32 v 0 l)

def laneResult : Instr → Option Result
  | .lxchSel h sg d a b => some ⟨h, d, 1, [(a, 1), (b, 1)], fun _ _ t v l =>
      exchanged t sg.val v l (fun _ w m => some (m % w))⟩
  | .lxchRdn h sg clip d a b => some ⟨h, d, 1, [(a, 1), (b, 1)], fun _ _ t v l =>
      exchanged t sg.val v l (fun j w m => if clip = true ∧ w ≤ j + m then none else some ((j + m) % w))⟩
  | .lxchRup h sg clip d a b => some ⟨h, d, 1, [(a, 1), (b, 1)], fun _ _ t v l =>
      exchanged t sg.val v l (fun j w m =>
        if clip = true ∧ j < m then none else some (((j : Int) - m) % (w : Int)).toNat)⟩
  | .lxchXor h sg d a b => some ⟨h, d, 1, [(a, 1), (b, 1)], fun _ _ t v l =>
      exchanged t sg.val v l (fun j w m => some ((j ^^^ m) % w))⟩
  | .lxchRev h sg d a => some ⟨h, d, 1, [(a, 1)], fun _ _ t v l =>
      exchanged t sg.val v l (fun j w _ => some (w - 1 - j))⟩
  | .lmaskMask h d a => some ⟨h, d, 1, [], fun _ e t _ _ => (predMask e.x a &&& t).toNat⟩
  | .lmaskCount h d a => some ⟨h, d, 1, [], fun _ e t _ _ =>
      ((List.range 32).filter (fun l => (predMask e.x a).getLsbD l && t.getLsbD l)).length⟩
  | .lredAdd h d a => some ⟨h, d, 1, [(a, 1)], fun _ _ t v _ => (takenValues t v).sum % 2 ^ 32⟩
  | .lredMin h d a => some ⟨h, d, 1, [(a, 1)], fun _ _ t v _ =>
      intBits 32 ((((takenValues t v).map (sx 32)).min?).getD 0)⟩
  | .lredMax h d a => some ⟨h, d, 1, [(a, 1)], fun _ _ t v _ =>
      intBits 32 ((((takenValues t v).map (sx 32)).max?).getD 0)⟩
  | .lredMinu h d a => some ⟨h, d, 1, [(a, 1)], fun _ _ t v _ => ((takenValues t v).min?).getD 0⟩
  | .lredMaxu h d a => some ⟨h, d, 1, [(a, 1)], fun _ _ t v _ => ((takenValues t v).max?).getD 0⟩
  | .lredAnd h d a => some ⟨h, d, 1, [(a, 1)], fun _ _ t v _ =>
      if takenValues t v = [] then 0 else ofBits (fun k => if (takenValues t v).all (fun x => bitOf x k = 1) then 1 else 0)⟩
  | .lredOr h d a => some ⟨h, d, 1, [(a, 1)], fun _ _ t v _ =>
      ofBits (fun k => if (takenValues t v).any (fun x => bitOf x k = 1) then 1 else 0)⟩
  | .lredXor h d a => some ⟨h, d, 1, [(a, 1)], fun _ _ t v _ =>
      ofBits (fun k => ((takenValues t v).map (fun x => bitOf x k)).sum)⟩
  | _ => none

/-! ### Predicates (R97 to R99, R155, R334) -/

/-- The relations of R97, on signed and on unsigned values. -/
def relates (cond : ICond) (sa sb : Int) (a b : Nat) : Bool :=
  match cond with
  | .eq => a = b
  | .ne => a ≠ b
  | .lt => sa < sb
  | .le => sa ≤ sb
  | .gt => sa > sb
  | .ge => sa ≥ sb
  | .ltu => a < b
  | .leu => a ≤ b
  | .gtu => a > b
  | .geu => a ≥ b

/-- Predicate p of lane l. -/
def predAt (e : Env) (p : Pred) (l : Nat) : Bool := (predMask e.x p).getLsbD l

def predResult : Instr → Option PredResult
  | .icmp h cond wide d a b => some ⟨h, d, [(a, if wide then 2 else 1), (b, if wide then 2 else 1)], fun _ _ v l =>
      if wide then relates cond (sx 64 (w64 v 0 l)) (sx 64 (w64 v 1 l)) (w64 v 0 l) (w64 v 1 l)
      else relates cond (sx 32 (w32 v 0 l)) (sx 32 (w32 v 1 l)) (w32 v 0 l) (w32 v 1 l)⟩
  | .setp h d a => some ⟨h, d, [(a, 1)], fun _ _ v l => w32 v 0 l ≠ 0⟩
  | .pand h d a b => some ⟨h, d, [], fun e _ _ l => predAt e a l && predAt e b l⟩
  | .por h d a b => some ⟨h, d, [], fun e _ _ l => predAt e a l || predAt e b l⟩
  | .pxor h d a b => some ⟨h, d, [], fun e _ _ l => predAt e a l != predAt e b l⟩
  | .pnot h d a => some ⟨h, d, [], fun e _ _ l => !predAt e a l⟩
  | .pandn h d a b => some ⟨h, d, [], fun e _ _ l => predAt e a l && !predAt e b l⟩
  | .lmaskSome h d a => some ⟨h, d, [], fun e t _ _ => (lanesOf t).any (predAt e a)⟩
  | .lmaskEvery h d a => some ⟨h, d, [], fun e t _ _ => (lanesOf t).all (predAt e a)⟩
  | .lmaskSame h d a => some ⟨h, d, [(a, 1)], fun _ t v _ =>
      (lanesOf t).all (fun l => (lanesOf t).all (fun j => (v l).getD 0 0 = (v j).getD 0 0))⟩
  | .pchk h d => some ⟨h, d, [], fun e _ _ _ => e.cr.req.isSome⟩
  | _ => none

/-! ### Values that the state holds (R127, R158, R170, R319) -/

/-- The special registers of R158. -/
def specialValue (s : State) (e : Env) (n : Nat) : Nat :=
  let r := ((launchOf s e.cr.launch).map (·.record)).getD []
  let res := ((launchOf s e.cr.launch).map (·.result)).getD 0
  [e.x.wid, e.cr.warps.length, e.x.role, e.x.roleIx, e.cr.lin % recBits r 64 32,
    e.cr.lin / recBits r 64 32 % recBits r 96 32, e.cr.lin / recBits r 64 32 / recBits r 96 32,
    recBits r 64 32, recBits r 96 32, recBits r 128 32, e.cr.lin,
    if recBits r 251 1 = 1 then e.cr.logical else 2 ^ 32 - 1, e.mask.toNat, if e.x.mode = .supervisor then 1 else 0,
    e.cr.scrLen, 0x3FFFFF * 2 ^ 42 % 2 ^ 32, 0x3FFFFF * 2 ^ 42 / 2 ^ 32, e.cr.launch.toNat % 2 ^ 32,
    e.cr.launch.toNat / 2 ^ 32, if recBits r 254 1 = 1 then partnerLin e.cr.lin else 2 ^ 32 - 1,
    s.plat.devnum, e.cr.ctx, res.toNat % 2 ^ 32, res.toNat / 2 ^ 32].getD n 0

def stateResult : Instr → Option Result
  | .rdsr h d n => some ⟨h, d, 1, [], fun s e _ _ _ => specialValue s e n.val⟩
  | .getfs h f d => some ⟨h, d, 1, [], fun _ e _ _ _ => (e.x.fs.getD f.val 0).toNat⟩
  | .getsr h d => some ⟨h, d, 2, [], fun _ e _ _ _ => e.x.srgen.toNat⟩
  | .rdflag h sel d => some ⟨h, d, 1, [], fun _ e _ _ _ => (match sel with
      | .ff => e.x.fflags
      | .qs => e.x.qstat
      | .as => e.x.accstat).toNat⟩
  | .qctlQstat h d a => some ⟨h, d, 1, [], fun s e _ _ _ => portStatus s e a.val⟩
  | _ => none

/-! ### Arithmetic under a format slot (R64 to R75, R115 to R126) -/

/-- An instruction under a slot: the slot, D, the sources, what else R45 asks of the warp, whether it rounds under RM 5,
and the value and flags that it gives lane l, from the slot word, the lane's sources and the generator's output. -/
structure SlotResult where
  h      : Hdr
  f      : FSlot
  d      : Opnd
  srcs   : List Src
  legal  : Env → Bool
  rounds : Word → Bool
  val    : Env → Word → List Nat → Nat → Word → Rnd

/-- An instruction whose sub-elements are computed one by one: `fn` is given the slot word, the sub-element's encodings
and the word that its rounding draws (R71, R75). -/
def perElement (h : Hdr) (f : FSlot) (d : Opnd) (srcs : List Opnd) (fn : Word → (Nat → Nat) → Word → Rnd) :
    Option SlotResult :=
  some ⟨h, f, d, srcs.map (fun o => (o, 1)), fun _ => true, fun fw => fmRm fw == 5, fun _ fw v l g =>
    packRnds (fmW fw) ((List.range (fmN fw)).map (fun k =>
      fn fw (fun j => bits (v.getD j 0) (k * fmW fw) (fmW fw)) (genRot g l k)))⟩

/-- a × b ± c, with the signs that `np` and `nc` turn, rounded once (R118). -/
def fusedValue (np nc : Bool) (fw : Word) (a b c : Val) (rw : Word) : Rnd :=
  let p := if np then (mulVals a b).flip else mulVals a b
  let q := if nc then c.flip else c
  if a.isNan || b.isNan || c.isNan then nanOut fw
  else if zeroInf a b || infClash p q then nvOut fw
  else roundTo fw (addVals (fmRm fw) p q) rw

def slotResult : Instr → Option SlotResult
  | .fadd h f d a b => perElement h f d [a, b] (fun fw x rw => rndAdd fw (fmIn fw (x 0)) (fmIn fw (x 1)) rw)
  | .fsub h f d a b => perElement h f d [a, b] (fun fw x rw => rndAdd fw (fmIn fw (x 0)) (fmIn fw (x 1)).flip rw)
  | .fmul h f d a b => perElement h f d [a, b] (fun fw x rw => rndMul fw (fmIn fw (x 0)) (fmIn fw (x 1)) rw)
  | .fmin h f d a b => perElement h f d [a, b] (fun fw x rw =>
      rndVal fw (minMaxVal false (fmIn fw (x 0)) (fmIn fw (x 1))) rw)
  | .fmax h f d a b => perElement h f d [a, b] (fun fw x rw =>
      rndVal fw (minMaxVal true (fmIn fw (x 0)) (fmIn fw (x 1))) rw)
  | .fabs h f d a => perElement h f d [a] (fun fw x rw => rndVal fw ((fmIn fw (x 0)).signed false) rw)
  | .fneg h f d a => perElement h f d [a] (fun fw x rw => rndVal fw (fmIn fw (x 0)).flip rw)
  | .fsgn h f d a b => perElement h f d [a, b] (fun fw x rw =>
      rndVal fw ((fmIn fw (x 0)).signed (fmS fw == 1 && bitOf (x 1) (fmW fw - 1) == 1)) rw)
  | .ffma h f d a b c => perElement h f d [a, b, c] (fun fw x rw =>
      fusedValue false false fw (fmIn fw (x 0)) (fmIn fw (x 1)) (fmIn fw (x 2)) rw)
  | .ffms h f d a b c => perElement h f d [a, b, c] (fun fw x rw =>
      fusedValue false true fw (fmIn fw (x 0)) (fmIn fw (x 1)) (fmIn fw (x 2)) rw)
  | .fnma h f d a b c => perElement h f d [a, b, c] (fun fw x rw =>
      fusedValue true false fw (fmIn fw (x 0)) (fmIn fw (x 1)) (fmIn fw (x 2)) rw)
  | .fnms h f d a b c => perElement h f d [a, b, c] (fun fw x rw =>
      fusedValue true true fw (fmIn fw (x 0)) (fmIn fw (x 1)) (fmIn fw (x 2)) rw)
  | .fdiv h f d a b => perElement h f d [a, b] (fun fw x rw => rndDiv fw (fmIn fw (x 0)) (fmIn fw (x 1)) rw)
  | .fsqrt h f d a => perElement h f d [a] (fun fw x rw => rndSqrt fw (fmIn fw (x 0)) rw)
  | .frcp h f d a => perElement h f d [a] (fun fw x rw => rndDiv fw (valInt 1) (fmIn fw (x 0)) rw)
  | .frsq h f d a => perElement h f d [a] (fun fw x rw => specialOp fw fnRsq (x 0) rw)
  | .fex2 h f d a => perElement h f d [a] (fun fw x rw => specialOp fw fnEx2 (x 0) rw)
  | .flg2 h f d a => perElement h f d [a] (fun fw x rw => specialOp fw fnLg2 (x 0) rw)
  | .fsin h f d a => perElement h f d [a] (fun fw x rw => specialOp fw fnSin (x 0) rw)
  | .fcos h f d a => perElement h f d [a] (fun fw x rw => specialOp fw fnCos (x 0) rw)
  | .ftanh h f d a => perElement h f d [a] (fun fw x rw => specialOp fw fnTanh (x 0) rw)
  | .fsigm h f d a => perElement h f d [a] (fun fw x rw => specialOp fw fnSigm (x 0) rw)
  | .fcvt h f src grp d a => some ⟨h, f, d, [],
      fun e => !fmIllegal (slotWord e.x src) &&
        decide (grp.val * fmN (slotWord e.x f) + fmN (slotWord e.x f) ≤ 4 * fmN (slotWord e.x src)) &&
        cvtOk e.x a ((grp.val * fmN (slotWord e.x f) + fmN (slotWord e.x f) - 1) / fmN (slotWord e.x src)),
      fun fw => fmRm fw == 5, fun e fw _ l g =>
        let fa := slotWord e.x src
        packRnds (fmW fw) ((List.range (fmN fw)).map (fun k =>
          let t := grp.val * fmN fw + k
          roundTo fw (fmIn fa (subElem fa (t % fmN fa) (regNat e.x (opndAfter a (t / fmN fa)) 1 l))) (genRot g l k)))⟩
  | .fcvti h f k uns trunc d a => some ⟨h, f, d, [(a, 1)], fun e => decide (k.val < fmN (slotWord e.x f)),
      fun fw => !trunc && fmRm fw == 5, fun _ fw v l g =>
        toInt32 (if trunc then 1 else fmRm fw) uns (fmIn fw (subElem fw k (v.getD 0 0))) (genRot g l k)⟩
  | .ficvt h f k uns d a b => some ⟨h, f, d, [(a, 1), (b, 1)], fun e => decide (k.val < fmN (slotWord e.x f)),
      fun fw => fmRm fw == 5, fun _ fw v l g =>
        let r := roundTo fw (valInt (if uns then (v.getD 0 0 : Nat) else sx 32 (v.getD 0 0))) (genRot g l k)
        ⟨setBits (bits (v.getD 1 0) 0 (fmN fw * fmW fw)) (k * fmW fw) (fmW fw) r.code, r.flags⟩⟩
  | .fdot h f d a b c => some ⟨h, f, d, [(a, 1), (b, 1), (c, 1)], fun _ => true, fun _ => false, fun _ fw v _ _ =>
      exactSum (BitVec.ofNat 32 (v.getD 2 0)) ((List.range (fmN fw)).map (fun k =>
        (fmIn fw (subElem fw k (v.getD 0 0)), fmIn fw (subElem fw k (v.getD 1 0)))))⟩
  | .fsum h f d a c => some ⟨h, f, d, [(a, 1), (c, 1)], fun _ => true, fun _ => false, fun _ fw v _ _ =>
      exactSum (BitVec.ofNat 32 (v.getD 1 0)) ((List.range (fmN fw)).map (fun k =>
        (fmIn fw (subElem fw k (v.getD 0 0)), valInt 1)))⟩
  | _ => none

/-- What it means that an instruction has this result under its slot: SRGEN has stepped once where it rounds under RM 5
and a lane takes part, the lanes' flags are in FFLAGS, D holds the value, the PC is 8 further, and nothing else has
changed. -/
def completesUnderSlot (i : Instr) (r : SlotResult) : Prop :=
  ∀ (s : State) (c : Cur) (s1 : State) (v : Nat → List Nat),
    let e := envOf s c
    let m := takers s c r.h.g
    let fw := slotWord e.x r.f
    let x := warpAt s1 c.w
    let draws := r.rounds fw && m != 0
    let gen := if draws then genStep x.srgen else x.srgen
    let out := fun l => r.val e fw (v l) l (if draws then genOut gen else 0)
    let flags := ((lanesOf m).map (fun l => (out l).flags)).foldl (fun a b => a ||| b) 0
    plain s c = true → regsOk ((r.d, 1) :: r.srcs) e = true → fmIllegal fw = false → r.legal e = true →
    (∀ n, r.d ≠ .q n) → readSrcs s e m r.srcs (some r.d) (!r.h.w) = .ok (s1, v) →
    exec i s = .next (stepped (setWarp s1 c.w (writeDest
      { x with srgen := gen, fflags := x.fflags ||| BitVec.ofNat 32 flags } ⟨r.h, r.d, m⟩ 1 (fun l => (out l).code))) c)

/-- Compares and classes of one sub-element (R121, R122). -/
def slotPredValue : Instr → Option (Hdr × FSlot × Fin 8 × Pred × Opnd × Opnd × (Word → Nat → Nat → Bool))
  | .fcmp h f cond k d a b => some (h, f, k, d, a, b, fun fw x y =>
      let p := fmIn fw (subElem fw k x)
      let q := fmIn fw (subElem fw k y)
      let un := p.isNan || q.isNan
      match cond with
      | .eq => !un && !valLt false p q && !valLt false q p
      | .ne => un || valLt false p q || valLt false q p
      | .lt => !un && valLt false p q
      | .le => !un && !valLt false q p
      | .gt => !un && valLt false q p
      | .ge => !un && !valLt false p q
      | .un => un
      | .ord => !un)
  | .fclass h f k d a b => some (h, f, k, d, a, b, fun fw x y => bitOf y (fmClass fw (subElem fw k x)) == 1)
  | _ => none

/-! ### Blocks (R129, R130) -/

/-- A block instruction: its slot, its ranges, its scalar source and the value of one lane. -/
structure BlockForm where
  g    : Guard
  w    : Bool
  f    : FSlot
  o    : Fin 3
  d    : Opnd
  a    : Opnd
  b    : Option Opnd
  c    : Option Opnd
  nd   : Word → Nat
  na   : Word → Nat
  rounds : Bool
  val  : Word → List Word → Nat → List Word → Nat → Word → BlockRes

def blockForm : Instr → Option BlockForm
  | .qnt g w f o d a b => some ⟨g, w, f, o, d, a, some b, none, fun fw => (6 * fmW fw + 1 + 3 * o + 3) / 4, fun _ => 48, true,
      fun fw xs cap _ l gen =>
        let q := quantBlock fw xs (BitVec.ofNat 32 cap) o gen l
        ⟨blkWords ((6 * fmW fw + 1 + 3 * o + 3) / 4) q.blk, [], q.flags, q.evs⟩⟩
  | .qntr g w f o d a b c => some ⟨g, w, f, o, d, a, some b, some c, fun fw => (6 * fmW fw + 1 + 3 * o + 3) / 4, fun _ => 48,
      true, fun fw xs cap rs l gen =>
        let q := quantResid fw xs rs (BitVec.ofNat 32 cap) o gen l
        ⟨blkWords ((6 * fmW fw + 1 + 3 * o + 3) / 4) q.1.blk, q.2, q.1.flags, q.1.evs⟩⟩
  | .rqnt g w f o d a b => some ⟨g, w, f, o, d, a, some b, none, fun fw => (6 * fmW fw + 1 + 3 * o + 3) / 4,
      fun fw => (6 * fmW fw + 1 + 3 * o + 3) / 4, true, fun fw xs e _ l gen =>
        let q := requantBlock fw (wordsNat xs) o (bits e 0 8) gen l
        ⟨blkWords ((6 * fmW fw + 1 + 3 * o + 3) / 4) q.blk, [], q.flags, q.evs⟩⟩
  | .dqnt g w f o d a => some ⟨g, w, f, o, d, a, none, none, fun _ => 48, fun fw => (6 * fmW fw + 1 + 3 * o + 3) / 4, false,
      fun fw xs _ _ _ _ =>
        let rs := (List.range 48).map (fun j => round32 (blkValue fw o (wordsNat xs) j))
        ⟨rs.map (·.code), [], rs.foldl (fun a r => a ||| r.flags) 0, []⟩⟩
  | _ => none

/-- The block instruction's checks of R45 and R129. -/
def blockLegal (r : BlockForm) (e : Env) : Bool :=
  let fw := slotWord e.x r.f
  !fmIllegal fw && decide (2 ≤ fmW fw) && decide (fmW fw ≤ 8) &&
  regsOk (match r.b with | some b => [(b, 1)] | none => []) e && rangeOk e.x r.d (r.nd fw) && rangeOk e.x r.a (r.na fw) &&
  (match r.c with | some c => rangeOk e.x c 48 | none => true)

/-! ### Writes of a status word, and instructions that only go on (R88, R127, R255, R274, R275) -/

/-- A write of one warp register from the warp value of A: the guard, A and its width, and the change; none where the
value is refused. -/
def statusUpdate : Instr → Option (Guard × Opnd × Nat × (Nat → Option (Warp → Warp)))
  | .setfs g f a => some (g, a, 1, fun v =>
      if fmIllegal (BitVec.ofNat 32 v) then none else some (fun x => { x with fs := x.fs.set f.val (BitVec.ofNat 32 v) }))
  | .srseed g a => some (g, a, 2, fun v => some (fun x => { x with srgen := BitVec.ofNat 64 v }))
  | .clrflag g sel a => some (g, a, 1, fun v => some (fun x => match sel with
      | .ff => { x with fflags := x.fflags &&& ~~~(BitVec.ofNat 32 v) }
      | .qs => { x with qstat := x.qstat &&& ~~~(BitVec.ofNat 32 v) }
      | .as => { x with accstat := x.accstat &&& ~~~(BitVec.ofNat 32 v) }))
  | _ => none

/-- The guard and the register operands of an instruction that only goes on. -/
def hintForm : Instr → Option (Guard × List Src)
  | .nop g => some (g, [])
  | .pref g m => some (g, globalSrcs m.b m.a)
  | .fence g _ _ _ => some (g, [])
  | _ => none

/-- `t` is `s` but for what the engine paths see. A TO path sees every write that it did not see and that a FROM path has
accessed in the scope; a write that it still does not see, it did not see before. The other paths see what they saw
(R218, R275). -/
def seesThrough (s t : State) (src dst : PathSet) (mine : Nat → Bool) : Prop :=
  t = { s with views := t.views } ∧ t.views.map (·.path) = s.views.map (·.path) ∧
  ∀ (i : Nat) (v u : View), s.views[i]? = some v → t.views[i]? = some u →
    (dst.getLsbD v.path = true → u.hidden.Sublist v.hidden ∧
      ∀ h ∈ u.hidden, ∀ x ∈ h.via, src.getLsbD x.1 = true → mine x.2 = false) ∧
    (dst.getLsbD v.path = false → u.hidden.map (fun h => (h.addr, h.old)) = v.hidden.map (fun h => (h.addr, h.old)))

/-- Views in which the engine paths see what they see in `s`: only through which accesses a `fencex` can make a write seen
may differ (R266, R275). -/
def sameViews (s : State) (vs : List View) : Prop :=
  vs.map (fun v => (v.path, v.hidden.map (fun h => (h.addr, h.old)))) =
    s.views.map (fun v => (v.path, v.hidden.map (fun h => (h.addr, h.old))))

/-- No other device holds a line of this one, and no write waits for one or has locked one (R290, R374). -/
def ownLines (s : State) : Prop :=
  s.fab.dir = [] ∧ s.fab.waits = [] ∧ ∀ k ∈ s.copies, ∀ o ∈ k.out, o.near = []

/-- What `prof` reads: the warp value of its operand, `s1` being the state after the pop; from a port that cannot be read
a value that nothing states, which takes one free value (R160; the model's choice, log entry 7). -/
def profReads (s : State) (c : Cur) (g : Guard) (a : Opnd) (s1 : State) (x : Nat) : Prop :=
  (∃ v l, lowest (takers s c g) = some l ∧ readSrcs s (envOf s c) (takers s c g) [(a, 1)] none false = .ok (s1, v) ∧
    x = (v l).getD 0 0) ∨
  ((∃ r, readSrcs s (envOf s c) (takers s c g) [(a, 1)] none false = .error r) ∧ takers s c g ≠ 0 ∧
    s1 = { s with free := s.free + 1 } ∧ x = (Config.unstatedWord s.free).toNat)

/-! ### Transfers of control (R28, R101, R102, R136 to R142) -/

/-- The guard, `.u`, RJ, TGT and link of a direct branch. -/
def branchForm : Instr → Option (Guard × Bool × BitVec 17 × BitVec 24 × Option Opnd)
  | .bra g u rj tgt => some (g, u, rj, tgt, none)
  | .call g u rj tgt k => some (g, u, rj, tgt, some k)
  | _ => none

/-- The index that lies `off` instructions from a PC, and the address of an index in the PC's object (R40). -/
def indexFrom (pc : DWord) (off : Int) : Int := (bits pc.toNat 0 42 : Nat) + 8 * off
def indexOk (i : Int) : Prop := 0 ≤ i ∧ i < 2 ^ 42
def placeOf (pc : DWord) (i : Int) : DWord := BitVec.ofNat 64 (bits pc.toNat 42 22 * 2 ^ 42 + i.toNat)

/-- The operand of a link and its width, for the check of R9. -/
def linkSrc (k : Option Opnd) : List Src := match k with | some o => [(o, 2)] | none => []

/-- `s` with the return address in the taking lanes of a link register. -/
def linked (s : State) (c : Cur) (k : Option Opnd) (m : Mask) : State :=
  match k with
  | none => s
  | some o => setWarp s c.w (writeReg (warpAt s c.w) o m 2 (fun _ => (nextPc (pcOf s c)).toNat))

/-- The guard, the target and the link of an indirect transfer. -/
def indirectForm : Instr → Option (Guard × Opnd × Option (Hdr × Opnd))
  | .brx g a => some (g, a, none)
  | .ret g a => some (g, a, none)
  | .callx h d a => some (h.g, a, some (h, d))
  | _ => none

/-- Where lane l of an indirect transfer goes (R102). -/
def laneTarget (s : State) (c : Cur) (m : Mask) (a : Opnd) (l : Nat) : DWord :=
  if m.getLsbD l then BitVec.ofNat 64 (regNat (warpAt s c.w) a 2 l) else nextPc (pcOf s c)

/-- The warp in which path k has split: lanes `tm` at `t`, lanes `nm` at the next instruction, both with the rejoin
address and the depth that R140 gives them. The taken side takes the other slot, or goes on the split stack. -/
def splitOnto (x : Warp) (k : Which) (tm nm : Mask) (t : DWord) (rj : Option DWord) : Warp :=
  let p := (slotOf x k).path
  let j : List (BitVec 256) × Nat × DWord × Nat := match rj with
    | some r => (x.ents.set x.ssn (entMake 2 2 { p with pc := r }), x.ssn + 1, r, x.ssn + 1)
    | none =>
      if p.depth = 0 then (x.ents, x.ssn, p.rjpc, 0)
      else
        let en := x.ents.getD (p.depth - 1) 0
        (x.ents.set (p.depth - 1) (entMake 2 (entCnt en + 1) (entPath en)), x.ssn, p.rjpc, p.depth)
  let y := withSlot { x with ents := j.1, ssn := j.2.1 } k { slotOf x k with
    stale := true, path := ⟨nextPc p.pc, nm, j.2.2.1, j.2.2.2⟩, turned := none }
  let q : Path := ⟨t, tm, j.2.2.1, j.2.2.2⟩
  if (slotOf y (otherSlot k)).live then { y with ents := y.ents.set y.ssn (entMake 1 0 q), ssn := y.ssn + 1 }
  else withSlot y (otherSlot k) (Slot.ofPath q)

/-- An instruction by which the PC of path c becomes its rejoin address: one that goes on, or a branch that every lane
takes. -/
def arrivesBy (i : Instr) (s : State) (c : Cur) : Prop :=
  let rjpc := (slotOf (warpAt s c.w) c.which).path.rjpc
  (∃ g, i = .nop g ∧ nextPc (pcOf s c) = rjpc ∧ bits (pcOf s c).toNat 0 42 ≠ 2 ^ 42 - 8) ∨
  (∃ g u rj tgt, i = .bra g u rj tgt ∧ takers s c g ≠ 0 ∧ takers s c g = (envOf s c).mask ∧
    indexOk (indexFrom (pcOf s c) (sx 24 tgt.toNat)) ∧ placeOf (pcOf s c) (indexFrom (pcOf s c) (sx 24 tgt.toNat)) = rjpc)

/-- Neither slot of a warp arrives (R141). -/
def noArrival (x : Warp) : Prop := arrives x.sa = false ∧ arrives x.sb = false

/-! ### Control registers and trap returns (R313 to R323) -/

/-- A warp with one of its own control registers written: TPC, TFFLAGS and TSCR0 to TSCR3 (R313, R314). -/
def ownRegister (x : Warp) (n v : Nat) : Option Warp :=
  match n with
  | 8 => some { x with tpc := BitVec.ofNat 64 (x.tpc.toNat / 2 ^ 32 * 2 ^ 32 + v % 2 ^ 32 / 8 * 8) }
  | 9 => some { x with tpc := BitVec.ofNat 64 (x.tpc.toNat % 2 ^ 32 + 2 ^ 32 * (v % 2 ^ 32)) }
  | 10 => some { x with tfflags := BitVec.ofNat 32 (v % 32) }
  | 12 => some { x with tscr := x.tscr.set 0 (BitVec.ofNat 32 v) }
  | 13 => some { x with tscr := x.tscr.set 1 (BitVec.ofNat 32 v) }
  | 14 => some { x with tscr := x.tscr.set 2 (BitVec.ofNat 32 v) }
  | 15 => some { x with tscr := x.tscr.set 3 (BitVec.ofNat 32 v) }
  | _ => none

/-- The state in which a context's register has been written (R313, R315 to R318, R385): a plain register takes the
stored value; OLCTL starts a log anew when its mode changes; RLCMD hands the four relocation registers to the fault
unit; GO of CMDEV starts a result move; a move of SLRD takes records that waited for space. -/
def contextRegister (s : State) (c : Nat) (x : Ctx) (n v tower : Nat) : Option State :=
  let w := csrStored n (csrN x n) v
  if n = 0x074 then some (ctxPut s c (if bits (csrN x n) 0 2 = bits w 0 2 then setCsr x n w
    else setCsr (setCsr { x with lseq := [], replayed := [], olEnded := [] } n (bits w 0 2)) 0x073 0))
  else if n = 0x09C then
    if w = 1 ∧ x.rlCmd = none then some (ctxPut s c (setCsr { x with
      rlTower := tower, rlCmd := some (csrN x 0x098, csrN x 0x099, csrN x 0x09A, csrN x 0x09B) } n 1))
    else none
  else if n = 0x0BA then
    if bits w 31 1 = 0 then some (ctxPut s c (setCsr x n (w + 2 ^ 31 * bits (csrN x n) 31 1)))
    else if x.cmMove.isSome then none
    else some (ctxPut s c (setCsr { x with
      cmMove := some (BitVec.ofNat 64 (csrPair x 0x0B8), bits w 0 13), cmAsked := false } n w))
  else if n = 0x0AC then some (saveLogFlush (ctxPut s c (setCsr x n w)) c)
  else if 0x040 ≤ n then some (ctxPut s c (setCsr x n w))
  else none

/-- The guard, D, number, A and the value written of an instruction that writes a control register (R319). -/
def csrForm : Instr → Option (Guard × Option (Hdr × Opnd) × BitVec 9 × Opnd × (Nat → Nat → Nat))
  | .csrw g n a => some (g, none, n, a, fun _ v => v)
  | .csrs h d n a => some (h.g, some (h, d), n, a, fun old v => old ||| v)
  | .csrc h d n a => some (h.g, some (h, d), n, a, fun old v => old &&& (2 ^ 32 - 1 ^^^ v))
  | _ => none

/-- D of such an instruction as a source list, as a destination, and whether it pushes. -/
def csrDst (d : Option (Hdr × Opnd)) : List Src := match d with | some (_, o) => [(o, 1)] | none => []
def csrPush (d : Option (Hdr × Opnd)) : Bool := match d with | some (h, _) => !h.w | none => false

/-- The old value in D, where the instruction has one. -/
def csrOld (x : Warp) (d : Option (Hdr × Opnd)) (m : Mask) (old : Nat) : Warp :=
  match d with
  | some (h, o) => writeDest x ⟨h, o, m⟩ 1 (fun _ => old)
  | none => x

/-- `s` with path c marked as having been parked: its latches clear before its next instruction (R144, R146). -/
def markedStale (s : State) (c : Cur) : State :=
  setSlot s c.w c.which { slotOf (warpAt s c.w) c.which with stale := true }

/-- `s` with the warp of path c back in user mode: flags and latches restored, the record gone; a warp whose lanes have
all ended while it had some is finished (R321). -/
def handlerLeft (s : State) (c : Cur) (lanes : Mask) : State :=
  let x := warpAt s c.w
  let y := { x with fflags := x.tfflags, b := x.shadow, cur := none, mode := .user, hdl := Slot.free }
  let t := setWarp s c.w y
  if pathsDone y ∧ y.gone = false ∧ lanes ≠ 0 then finishWarp t c.w else t

/-- A slot without the lanes of a mask; a path that has lost its last lane waits for nothing (R142, R321). -/
def cutSlot (sl : Slot) (m : Mask) : Slot :=
  if sl.live = true ∧ sl.path.mask &&& m ≠ 0 then
    { sl with stale := true, path := { sl.path with mask := sl.path.mask &&& ~~~m }
              park := if sl.path.mask &&& ~~~m = 0 then none else sl.park } else sl

/-- No path of a warp waits in an `xswap` whose A has taken an entry from a port: one that is ended puts it back (R32,
R157). -/
def noSwaps (x : Warp) : Prop := ∀ k d a n, (slotOf x k).park ≠ some (.xswap d a (some n))

/-- The slot of a trapped path, resumed at TPC (R321, R326). -/
def resumedSlot (sl : Slot) (pc : DWord) (cause : Nat) : Slot :=
  { sl with
    path := { sl.path with pc := pc }, skipBp := sl.skipBp || cause == 0x13 || cause == 0x15,
    failed := if pc = sl.path.pc then sl.failed else []
    turned := if pc = sl.path.pc then sl.turned else none }

/-- The instructions that user mode may not run (R15, R256, R314, R319 to R323), with the check that they are legal. -/
def privileged (s : State) : Instr → Option (Env → Bool)
  | .csrr _ d n => if (csrInfo n.toNat).elim false (·.user) then none
      else some (fun e => csrOk n.toNat && regsOk [(d, 1)] e)
  | .csrw _ n a => some (fun e => csrOk n.toNat && regsOk [(a, 1)] e)
  | .csrs _ d n a => some (fun e => csrOk n.toNat && regsOk [(d, 1), (a, 1)] e)
  | .csrc _ d n a => some (fun e => csrOk n.toNat && regsOk [(d, 1), (a, 1)] e)
  | .tretRes _ => some (fun _ => true)
  | .tretLanes _ => some (fun _ => true)
  | .tretWarp _ => some (fun _ => true)
  | .tretCrew _ => some (fun _ => true)
  | .tretLaunch _ => some (fun _ => true)
  | .tqpop _ d => some (regsOk [(d, 1)])
  | .orinvObj _ a => some (regsOk [(a, 2)])
  | .orinvSub _ a => some (regsOk [(a, 2)])
  | .orinvAll _ => some (fun _ => true)
  | .promPin _ d a b => some (fun e => regsOk [(d, 1), (a, 2), (b, 1)] e && (match ctxGet s e.cr.ctx with
      | some x => bits (csrN x 0x046) 0 1 == 0
      | none => true))
  | _ => none

/-! ### Memory (R107 to R113, R162 to R165, R240, R246, R272, R273) -/

/-- A global load: header, memory operand, D and its words, the bits of one access (none where it is packed), and what
the loaded bits become. -/
structure LoadForm where
  h    : Hdr
  m    : MemOp
  d    : Opnd
  k    : Nat
  n    : Option Nat
  post : Nat → Nat

def loadShape : Instr → Option LoadForm
  | .ld8 h m d => some ⟨h, m, d, 1, some 8, fun x => x⟩
  | .ld8s h m d => some ⟨h, m, d, 1, some 8, fun x => intBits 32 (sx 8 x)⟩
  | .ld16 h m d => some ⟨h, m, d, 1, some 16, fun x => x⟩
  | .ld16s h m d => some ⟨h, m, d, 1, some 16, fun x => intBits 32 (sx 16 x)⟩
  | .ld32 h m d => some ⟨h, m, d, 1, some 32, fun x => x⟩
  | .ld64 h m d => some ⟨h, m, d, 2, some 64, fun x => x⟩
  | .ld128 h m d => some ⟨h, m, d, 4, some 128, fun x => x⟩
  | .ldp h m d => some ⟨h, m, d, 1, none, fun x => x⟩
  | _ => none

/-- A global store: guard, memory operand, D and its words, and the bits of one access. -/
def storeShape : Instr → Option (Guard × MemOp × Opnd × Nat × Option Nat)
  | .st8 g m d => some (g, m, d, 1, some 8)
  | .st16 g m d => some (g, m, d, 1, some 16)
  | .st32 g m d => some (g, m, d, 1, some 32)
  | .st64 g m d => some (g, m, d, 2, some 64)
  | .st128 g m d => some (g, m, d, 4, some 128)
  | .stp g m d => some (g, m, d, 1, none)
  | _ => none

/-- The accesses of lane l, in ascending element order, each with the pieces of storage that it lies in; none where a
check of R109, R240 or R326 stops the lane. -/
def located (s : State) (c : Cur) (m : MemOp) (n : Option Nat) (nd : Need) (rd wr : Bool) (l : Nat) :
    Option (List (Loc × Found)) :=
  let e := envOf s c
  let idx := globalIndex e.x m.b m.a m.sc.toNat (sx 16 m.off.toNat)
  let plan := match n with
    | some k => planFixed s e idx k nd l
    | none => planPacked s e idx nd l
  match laneSteps s e (idx l).1 rd wr plan with
  | .ok fs => some fs
  | .error _ => none

/-- Whether every piece of an access is here: in this device's memory or in the argument object. -/
def allHere (fs : List (Loc × Found)) : Bool :=
  fs.all (fun p => p.2.units.isEmpty && p.2.pieces.all (fun q => match q.place with
    | .far _ _ _ => false
    | _ => true))

/-- Whether a piece of an access is poisoned (R325). -/
def anyPoison (s : State) (fs : List (Loc × Found)) : Bool := fs.any (fun p => p.2.pieces.any (piecePoisoned s))

/-- The packed value of a lane's accesses: element k from bit k·W up (R25, R112). -/
def valueAt (s : State) (args : List Byte) (fs : List (Loc × Found)) : Nat :=
  (fs.foldl (fun (acc : Nat × Nat) p =>
    (acc.1 + 2 ^ acc.2 * readPieces s args p.2.pieces, acc.2 + p.1.n)) (0, 0)).1

/-- `s` with a value stored in a lane's accesses by warp w on the path LS, element k from bit k·W of the value (R111,
R112). -/
def storedAt (s : State) (w ctx : Nat) (fs : List (Loc × Found)) (v : Nat) : State :=
  (fs.foldl (fun (acc : State × Nat) p =>
    (storeLoc acc.1 (some (0, w)) ctx p.1 p.2.pieces (bits v acc.2 p.1.n), acc.2 + p.1.n)) (s, 0)).1

/-- `s` after the stores of the taking lanes, in ascending order. -/
def storedLanes (s : State) (c : Cur) (m : MemOp) (d : Opnd) (k : Nat) (n : Option Nat) (lanes : Mask) : State :=
  (lanesOf lanes).foldl (fun t l => match located s c m n ⟨some .w, true, n.isSome⟩ false true l with
    | some fs => storedAt t c.w (envOf s c).cr.ctx fs (regNat (envOf s c).x d k l)
    | none => t) s

/-- Whether a byte lies in a piece, in an entry of the residency table that an access may mark dirty, or in the ring of
a context's dirty log (R246, R247). -/
def inPiece (p : Piece) (a : Nat) : Bool :=
  match p.place with
  | .phys bit => decide (bit / 8 ≤ a) && decide (a < (bit + p.n + 7) / 8)
  | _ => false
def inEntry (l : Loc) (a : Nat) : Bool :=
  (subTilesOf l.a l.n).any (fun sub => (replicasOf l.rec_).any (fun rep =>
    decide (entryAddr l.rec_ sub rep ≤ a) && decide (a < entryAddr l.rec_ sub rep + 8)))
def inDirtyRing (s : State) (ctx a : Nat) : Bool :=
  match ctxGet s ctx with
  | none => false
  | some x =>
    let base := bits ((x.dl.getD 0 0).toNat + 2 ^ 32 * (x.dl.getD 1 0).toNat) 0 56
    x.dten && decide (base ≤ a) && decide (a < base + 8 * 2 ^ bits (x.dl.getD 2 0).toNat 0 5)

/-- The scratchpad address of lane l (R162), and whether an access of n bytes there is in range and aligned. -/
def scratchAt (s : State) (c : Cur) (b a : Opnd) (sc : BitVec 3) (off : Int) (l : Nat) : Int :=
  scratchIndex (warpAt s c.w) b a sc.toNat off l
def scratchFits (s : State) (c : Cur) (x : Int) (n : Nat) : Prop :=
  0 ≤ x ∧ x + n ≤ ((crewOf s c.w).scrLen : Nat) ∧ x % (n : Int) = 0

def ldsShape : Instr → Option (Hdr × MemOp × Opnd × Nat)
  | .lds32 h m d => some (h, m, d, 1)
  | .lds64 h m d => some (h, m, d, 2)
  | .lds128 h m d => some (h, m, d, 4)
  | _ => none

def stsShape : Instr → Option (Guard × MemOp × Opnd × Nat)
  | .sts32 g m d => some (g, m, d, 1)
  | .sts64 g m d => some (g, m, d, 2)
  | .sts128 g m d => some (g, m, d, 4)
  | _ => none

/-- An atomic: header, operand, words, format slot, D, C, whether D holds a swap value, and the new value from the slot
word, the old value, the operand and the swap value, with the lane and the generator's output (R165, R273). -/
structure AtomForm where
  h    : Hdr
  m    : AtomOp
  k    : Nat
  f    : Option FSlot
  d    : Opnd
  c    : Opnd
  swap : Bool
  new  : Word → Nat → Nat → Nat → Nat → Word → Rnd

/-- The integer operations on n-bit words. -/
def intAtom (h : Hdr) (m : AtomOp) (wide : Bool) (d c : Opnd) (f : Nat → Nat → Nat → Nat) : AtomForm :=
  ⟨h, m, if wide then 2 else 1, none, d, c, false, fun _ o v _ _ _ => ⟨f (if wide then 64 else 32) o v, 0⟩⟩

/-- The operations under a slot, on packed sub-elements. -/
def slotAtom (h : Hdr) (m : AtomOp) (f : FSlot) (d c : Opnd) (fn : Word → Val → Val → Word → Rnd) : AtomForm :=
  ⟨h, m, 1, some f, d, c, false, fun fw o v _ l g => packRnds (fmW fw) ((List.range (fmN fw)).map (fun k =>
    fn fw (fmIn fw (subElem fw k o)) (fmIn fw (subElem fw k v)) (genRot g l k)))⟩

def casAtom (h : Hdr) (m : AtomOp) (wide : Bool) (d c : Opnd) : AtomForm :=
  ⟨h, m, if wide then 2 else 1, none, d, c, true, fun _ o v sw _ _ => ⟨if o = v then sw else o, 0⟩⟩

def addN (n o v : Nat) : Nat := (o + v) % 2 ^ n
def subN (n o v : Nat) : Nat := intBits n ((o : Int) - v)
def minN (n o v : Nat) : Nat := intBits n (min (sx n o) (sx n v))
def maxN (n o v : Nat) : Nat := intBits n (max (sx n o) (sx n v))

def atomsShape : Instr → Option AtomForm
  | .atomsAdd h m w d c => some (intAtom h m w d c addN)
  | .atomsSub h m w d c => some (intAtom h m w d c subN)
  | .atomsMin h m w d c => some (intAtom h m w d c minN)
  | .atomsMax h m w d c => some (intAtom h m w d c maxN)
  | .atomsMinu h m w d c => some (intAtom h m w d c (fun _ o v => min o v))
  | .atomsMaxu h m w d c => some (intAtom h m w d c (fun _ o v => max o v))
  | .atomsAnd h m w d c => some (intAtom h m w d c (fun _ o v => o &&& v))
  | .atomsOr h m w d c => some (intAtom h m w d c (fun _ o v => o ||| v))
  | .atomsXor h m w d c => some (intAtom h m w d c (fun _ o v => o ^^^ v))
  | .atomsXchg h m w d c => some (intAtom h m w d c (fun _ _ v => v))
  | .atomsCas h m w d c => some (casAtom h m w d c)
  | .atomsFadd h m f d c => some (slotAtom h m f d c (fun fw x y rw => rndAdd fw x y rw))
  | .atomsFmin h m f d c => some (slotAtom h m f d c (fun fw x y rw => rndVal fw (minMaxVal false x y) rw))
  | .atomsFmax h m f d c => some (slotAtom h m f d c (fun fw x y rw => rndVal fw (minMaxVal true x y) rw))
  | _ => none

def atomShape : Instr → Option AtomForm
  | .atomAdd h m w d c => some (intAtom h m w d c addN)
  | .atomSub h m w d c => some (intAtom h m w d c subN)
  | .atomMin h m w d c => some (intAtom h m w d c minN)
  | .atomMax h m w d c => some (intAtom h m w d c maxN)
  | .atomMinu h m w d c => some (intAtom h m w d c (fun _ o v => min o v))
  | .atomMaxu h m w d c => some (intAtom h m w d c (fun _ o v => max o v))
  | .atomAnd h m w d c => some (intAtom h m w d c (fun _ o v => o &&& v))
  | .atomOr h m w d c => some (intAtom h m w d c (fun _ o v => o ||| v))
  | .atomXor h m w d c => some (intAtom h m w d c (fun _ o v => o ^^^ v))
  | .atomXchg h m w d c => some (intAtom h m w d c (fun _ _ v => v))
  | .atomCas h m w d c => some (casAtom h m w d c)
  | .atomFadd h m f d c => some (slotAtom h m f d c (fun fw x y rw => rndAdd fw x y rw))
  | .atomFmin h m f d c => some (slotAtom h m f d c (fun fw x y rw => rndVal fw (minMaxVal false x y) rw))
  | .atomFmax h m f d c => some (slotAtom h m f d c (fun fw x y rw => rndVal fw (minMaxVal true x y) rw))
  | _ => none

/-- The slot word of an atomic, and whether that slot is legal. -/
def AtomForm.word (r : AtomForm) (x : Warp) : Word := match r.f with | some f => slotWord x f | none => 0
def AtomForm.legal (r : AtomForm) (x : Warp) : Bool := match r.f with | some f => !fmIllegal (slotWord x f) | none => true

/-- Whether an atomic steps SRGEN: under RM 5, with a lane taking part (R75). -/
def AtomForm.draws (r : AtomForm) (x : Warp) (m : Mask) : Bool := r.f.isSome && fmRm (r.word x) == 5 && m != 0

/-- The one access of lane l of a global atomic, with its pieces. -/
def atomLocated (s : State) (c : Cur) (r : AtomForm) (l : Nat) : Option (Loc × Found) :=
  let e := envOf s c
  let idx := globalIndex e.x r.m.b r.m.a r.m.sc.toNat 0
  match laneSteps s e (idx l).1 true true (planFixed s e idx (32 * r.k) ⟨some .a, true, true⟩ l) with
  | .ok [p] => some p
  | _ => none

/-- What the lanes of a global atomic have done so far: the state, the old values, the flags. -/
structure AtomRun where
  s     : State
  olds  : List (Nat × Nat)
  flags : Nat

/-- The lanes of a global atomic, each on the memory that the lanes below it left (R272). -/
def atomRun (s : State) (c : Cur) (r : AtomForm) (m : Mask) (gen : Word) : AtomRun :=
  let e := envOf s c
  (lanesOf m).foldl (fun acc l => match atomLocated s c r l with
    | none => acc
    | some p =>
      let o := readPieces acc.s [] p.2.pieces
      let n := r.new (r.word e.x) o (regNat e.x r.c r.k l) (regNat e.x r.d r.k l) l gen
      ⟨storeLoc acc.s (some (0, c.w)) e.cr.ctx p.1 p.2.pieces n.code, acc.olds ++ [(l, o)], acc.flags ||| n.flags⟩) ⟨s, [], 0⟩

/-- The lanes of a scratchpad atomic: the scratchpad, the old values, the flags. -/
def scratchRun (s : State) (c : Cur) (r : AtomForm) (m : Mask) (v : Nat → List Nat) (gen : Word) :
    Memory × List (Nat × Nat) × Nat :=
  let e := envOf s c
  (lanesOf m).foldl (fun acc l =>
    let a := (scratchAt s c r.m.b r.m.a r.m.sc 0 l).toNat
    let o := memNat acc.1 a (4 * r.k)
    let n := r.new (r.word e.x) o ((v l).getD 0 0) ((v l).getD 1 0) l gen
    (memPutNat acc.1 a (4 * r.k) n.code, acc.2.1 ++ [(l, o)], acc.2.2 ||| n.flags)) (e.cr.scr, [], 0)

/-- The old value of a lane. -/
def oldOf (olds : List (Nat × Nat)) (l : Nat) : Nat := ((olds.find? (fun p => p.1 == l)).map (·.2)).getD 0

/-- What a promotion of a row does to the slots of its bank, least recent first: a row that is held becomes the most
recent, and pinned where it is asked; a row that is not takes the lowest free slot, or, with all 2048 taken, the slot of
the least recent row that is not pinned; where all are pinned nothing changes and D counts the row (R251, R252). -/
def promotes (pin : Bool) (xs ys : List PSlot) (row : Nat) (hit : Bool) : Prop :=
  (∃ p, xs.find? (fun q => q.row == row) = some p ∧ hit = false ∧
    ys = xs.filter (fun q => q.row != row) ++ [{ p with pinned := p.pinned || pin }]) ∨
  ((∀ q ∈ xs, q.row ≠ row) ∧ xs.length < 2048 ∧ hit = false ∧ ∃ n, n < 2048 ∧ (∀ q ∈ xs, q.slot ≠ n) ∧
    (∀ m < n, ∃ q ∈ xs, q.slot = m) ∧ ys = xs ++ [⟨n, row, pin⟩]) ∨
  ((∀ q ∈ xs, q.row ≠ row) ∧ 2048 ≤ xs.length ∧ hit = false ∧ ∃ a p b, xs = a ++ p :: b ∧ p.pinned = false ∧
    (∀ q ∈ a, q.pinned = true) ∧ ys = (a ++ b).filter (fun q => q.slot != p.slot) ++ [⟨p.slot, row, pin⟩]) ∨
  ((∀ q ∈ xs, q.row ≠ row) ∧ 2048 ≤ xs.length ∧ (∀ q ∈ xs, q.pinned = true) ∧ ys = xs ∧ hit = true)

/-- What a demotion of a row does: it leaves its bank's slots, and D counts it where it was held (R252). -/
def demotes (xs ys : List PSlot) (row : Nat) (hit : Bool) : Prop :=
  ys = xs.filter (fun q => q.row != row) ∧ (hit = true ↔ ∃ q ∈ xs, q.row = row)

/-- `prom`, `prom.pin` and `dem`: header, D, A, B, and what one row does to its bank. -/
def rowForm : Instr → Option (Hdr × Opnd × Opnd × Opnd × (List PSlot → List PSlot → Nat → Bool → Prop))
  | .prom h d a b => some (h, d, a, b, promotes false)
  | .promPin h d a b => some (h, d, a, b, promotes true)
  | .dem h d a b => some (h, d, a, b, demotes)
  | _ => none

/-- From `s` the rows are taken one after the other, each on its own bank; `t` is the state after them, and n of them are
counted. -/
def rowsTaken (f : List PSlot → List PSlot → Nat → Bool → Prop) : List (Nat × Nat) → State → State → Nat → Prop
  | [], s, t, n => t = s ∧ n = 0
  | r :: rest, s, t, n => ∃ u hit k, u = { s with promo := u.promo } ∧ f (bankSlots s r.1) (bankSlots u r.1) r.2 hit ∧
      (∀ j ≠ r.1, bankSlots u j = bankSlots s j) ∧ rowsTaken f rest u t k ∧ n = k + (if hit then 1 else 0)

/-! ### Warp values, waits and results (R12, R146, R153) -/

/-- Path c goes straight on, its operands lie in the allocation, a lane takes part, and the sources read as `a` in the
lowest such lane, `s1` being the state after the pops. -/
def given (s : State) (c : Cur) (g : Guard) (ds srcs : List Src) (dst : Option Opnd) (push : Bool) (s1 : State)
    (a : Nat → Nat) : Prop :=
  plain s c = true ∧ regsOk (ds ++ srcs) (envOf s c) = true ∧ ∃ l v, lowest (takers s c g) = some l ∧
    readSrcs s (envOf s c) (takers s c g) srcs dst push = .ok (s1, v) ∧ a = fun k => (v l).getD k 0

/-- `t` with a result of k words in D and the latch of path c, which goes on. -/
def wrote (t : State) (c : Cur) (h : Hdr) (d : Opnd) (m : Mask) (k : Nat) (val : Nat → Nat) : State :=
  stepped (setWarp t c.w (writeDest (warpAt t c.w) ⟨h, d, m⟩ k val)) c

/-- Path c parked with its PC at the next instruction, or at this one, which it issues again (R146). -/
def waiting (t : State) (c : Cur) (p : Park) : State :=
  let sl := slotOf (warpAt t c.w) c.which
  setSlot t c.w c.which { sl with park := some p, path := { sl.path with pc := nextPc sl.path.pc }, turned := none }
def retrying (t : State) (c : Cur) (p : Park) : State :=
  setSlot t c.w c.which { slotOf (warpAt t c.w) c.which with park := some p }

/-- Path c stands in `t` where it stood in `s`, and goes straight on there too. -/
def unmoved (s t : State) (c : Cur) : Prop :=
  plain t c = true ∧ pcOf t c = pcOf s c ∧ t.warps.length = s.warps.length

/-- A trap of the issuing instruction, its lanes those that take part. -/
def traps (i : Instr) (s : State) (c : Cur) (fslot cause : Nat) (m : Mask) (addr detail : Nat) : Prop :=
  exec i s = .next (takeTrap s (envOf s c) fslot ⟨cause, m, addr, detail⟩)

/-! ### Barriers, mbar objects and channels (R147 to R151, R166 to R169) -/

/-- A barrier of a crew. -/
def barAt (cr : Crew) (n : Nat) : Barrier := cr.bars.getD n { arr := 0, exp := none, phase := false }

/-- `s` after an arrival at barrier n of crew c with a count: one arrival more, or, when the arrivals reach the count
(the crew's warps that have not ended, for 0), the phase turned and the paths that wait for it resumed. -/
def barReached (s : State) (c n cnt : Nat) : State :=
  let cr := crewAt s c
  let b := barAt cr n
  let need := if cnt = 0 then (cr.warps.filter (fun w => !pathsDone (warpAt s w))).length else cnt
  if b.arr + 1 < need then
    setCrew s c { cr with bars := cr.bars.set n { b with arr := b.arr + 1, exp := some cnt } }
  else
    wakeWhere (setCrew s c { cr with bars := cr.bars.set n { arr := 0, exp := none, phase := !b.phase } }) cr.warps
      (fun p => match p with
        | .bar k ph => k == n && ph == b.phase
        | _ => false)

/-- The fields of an mbar object (R150). -/
structure MbarObj where
  exp  : Nat
  pend : Nat
  tx   : Int
  ph   : Bool
  init : Bool
  err  : Bool
  rest : Nat
  deriving DecidableEq, Repr

def mbarObj (v : Nat) : MbarObj :=
  ⟨bits v 0 16, bits v 16 16, sx 32 (bits v 32 32), bits v 64 1 == 1, bits v 65 1 == 1, bits v 66 1 == 1, bits v 67 61⟩

def mbarWord (o : MbarObj) : Nat :=
  o.exp + 2 ^ 16 * o.pend + 2 ^ 32 * intBits 32 o.tx + (if o.ph then 2 ^ 64 else 0) + (if o.init then 2 ^ 65 else 0) +
  (if o.err then 2 ^ 66 else 0) + 2 ^ 67 * o.rest

/-- An arrival that adds d to TX: TX is clamped, with ERR; one that finds PEND = 0 sets ERR and changes neither PEND nor
PH; otherwise the phase turns when PEND and TX are 0 (R151). -/
def mbarArrival (o : MbarObj) (d : Int) : MbarObj :=
  let t := max (-2 ^ 31) (min (2 ^ 31 - 1) (o.tx + d))
  let err := o.err || decide (t ≠ o.tx + d)
  if o.pend = 0 then { o with tx := t, err := true }
  else if o.pend = 1 ∧ t = 0 then { o with pend := o.exp, tx := 0, ph := !o.ph, err := err }
  else { o with pend := o.pend - 1, tx := t, err := err }

/-- `s` with an mbar object of crew c stored and the paths that wait for its new phase resumed. -/
def mbarStored (s : State) (c off : Nat) (o : MbarObj) : State :=
  let cr := crewAt s c
  wakeWhere (setCrew s c { cr with scr := memPutNat cr.scr off 16 (mbarWord o) }) cr.warps (fun p => match p with
    | .mbar k par => k == off && o.ph != par
    | _ => false)

/-- Whether a path of a warp waits for the mbar object at `off`. -/
def waitsFor (s : State) (w off : Nat) : Bool :=
  [Which.a, Which.b, Which.handler].any (fun k => (slotOf (warpAt s w) k).live && (match (slotOf (warpAt s w) k).park with
    | some (.mbar o _) => o == off
    | _ => false))

/-! ### The matrix engine (R196 to R217) -/

/-- A crew with rows of a bank zero. -/
def rowsZero (acc : Memory) (b row rows : Nat) : Memory :=
  memClear acc (b * 2 ^ 14 + 256 * row) (b * 2 ^ 14 + 256 * (row + rows))

/-- Rows row to row + n - 1 of bank b lie in a band of the warp (R200, R211). -/
def inBand (x : Warp) (b row n : Nat) : Prop :=
  ∃ y ∈ x.bands, bits y.toNat 16 7 ≠ 0 ∧ bits y.toNat 0 4 = b ∧ bits y.toNat 8 6 ≤ row ∧
    row + n ≤ bits y.toNat 8 6 + bits y.toNat 16 7

/-- A bank word names rows of the bank (R211). -/
def bankWord (v n : Nat) : Prop := bits v 4 4 = 0 ∧ bits v 14 18 = 0 ∧ bits v 8 6 + n ≤ 64

/-- The mbar operand of a command: none for z, otherwise an aligned offset in the window (R207). -/
def mbarAt (e : Env) (o : Opnd) (v : Nat) (mb : Option Nat) : Prop :=
  (o = .z ∧ mb = none) ∨ (o ≠ .z ∧ v % 16 = 0 ∧ v + 16 ≤ e.cr.scrLen ∧ mb = some v)

/-- `t` with a command at the end of a crew's engine order (R198). -/
def engineTakes (t : State) (e : Env) (m : Mask) (l : Nat) (f : FSlot) (load obj blk : Bool) (o a cfg : Nat)
    (mb : Option Nat) : State :=
  let cr := crewAt t e.c
  setCrew t e.c { cr with
    eng := cr.eng ++ [⟨load, cr.engSeq, obj, blk, o, BitVec.ofNat 64 a, BitVec.ofNat 32 cfg, slotWord e.x f, mb, e.w, l, m,
      e.pc, e.x.issued, f.val, [], []⟩]
    engSeq := cr.engSeq + 1 }

/-- The bytes of a block of 48 elements under a slot word (R79, R212). -/
def blockLen (fw : Word) (o : Nat) : Nat := 6 * fmW fw + 1 + 3 * o

/-- Registers of a row of `mdrain` and `mfill` (R215): two when a register holds one element. -/
def regsPerRow (fw : Word) : Nat := if fmN fw = 1 then 2 else 1

/-- The sub-elements of `mdrain` and `mfill`: lane, register of the range, sub-element, row of the bank and column; those
beyond column 63 name no word (R215, R216). -/
def bankColumn (fw : Word) (l j k : Nat) : Nat := 32 * fmN fw * (j % regsPerRow fw) + fmN fw * l + k

/-- Register j of lane l of an `mdrain`. -/
def drained (cr : Crew) (fw : Word) (b row0 : Nat) (gen : Word) (l j : Nat) : Rnd :=
  packRnds (fmW fw) ((List.range (fmN fw)).map (fun k =>
    let col := bankColumn fw l j k
    if 64 ≤ col then ⟨0, 0⟩
    else if cr.abank.getLsbD b then
      roundTo fw (fmDecode fmB32 (memNat cr.acc (b * 2 ^ 14 + 256 * (row0 + j / regsPerRow fw) + 4 * col) 4)) (genRot gen l k)
    else roundTo fw (.zero false) (genRot gen l k)))

/-- The words that an `mfill` writes, in ascending lane order: address in the banks, value and flags. -/
def filled (x : Warp) (fw : Word) (d : Opnd) (b row0 total : Nat) (m : Mask) : List (Nat × Rnd) :=
  (lanesOf m).flatMap (fun l => (List.range total).flatMap (fun j => (List.range (fmN fw)).filterMap (fun k =>
    let col := bankColumn fw l j k
    if 64 ≤ col then none
    else some (b * 2 ^ 14 + 256 * (row0 + j / regsPerRow fw) + 4 * col,
      round32 (fmIn fw (subElem fw k (((rangeWords x d total l).getD j 0).toNat)))))))

/-- `t` after the end of an engine command: the arrival at its mbar object, and the waits that this ends (R199, R217). -/
def engineEnds (t : State) (k : Nat) (cmd : EngCmd) : State := wakeMwait (engArrive t k cmd) k

/-- A warp with flags in FFLAGS, and with bits set in ACCSTAT. -/
def flagged (x : Warp) (fl : Nat) : Warp := { x with fflags := x.fflags ||| BitVec.ofNat 32 fl }
def orFlags (xs : List Nat) : Nat := xs.foldl (fun a b => a ||| b) 0

/-! ### The copy engine (R282 to R304) -/

/-- The instruction's header, kind, channel, D, A and B. -/
def copyForm : Instr → Option (Hdr × CopyOp × Fin 8 × Opnd × Opnd × Option Opnd)
  | .cpy h ch d a => some (h, .plain, ch, d, a, none)
  | .cpyg h ch d a b => some (h, .gather, ch, d, a, some b)
  | .cpys h ch d a b => some (h, .scatter, ch, d, a, some b)
  | .cpyq h ch d a => some (h, .quant, ch, d, a, none)
  | _ => none

/-- The outstanding commands of a channel of a spire (R282). -/
def channelOf (s : State) (cr : Crew) (ch : Nat) : List CopyCmd :=
  s.copies.filter (fun k => k.tower == cr.tower && k.phys == cr.phys && k.chan == ch)

/-- The token of a command (R283). -/
def tokenWord (ch seq : Nat) : Nat := ch + 2 ^ 8 * (seq % 2 ^ 24)

/-! ### Handles and launches (R173 to R195, R376 to R387) -/

/-- What this device answers about a handle without asking: INVALID for the null handle, an unknown kind and a handle of
this home that has no entry for the context; otherwise the entry (R178, R376). -/
def homeSays (s : State) (ctx : Nat) (h : DWord) (r : HandleReport) : Prop :=
  ((h = 0 ∨ 2 ≤ hKind h ∨ (ownHome s h = true ∧ entValid s ctx h = none)) ∧ r = invalidReport h) ∨
  (h ≠ 0 ∧ hKind h < 2 ∧ ownHome s h = true ∧ ∃ e, entValid s ctx h = some e ∧ r = entReport e h)

/-- The status word: STATE, ARVERR, and CODE and DETAIL of a BROKEN handle (R178). -/
def statusOfReport (r : HandleReport) : Nat :=
  r.state + (if r.arverr then 2 ^ 3 else 0) + (if r.state = 4 then 2 ^ 8 * r.code + 2 ^ 16 * r.detail else 0)

/-- `s` with the reference count of a handle of this home changed, and what nothing holds any more reclaimed (R179). -/
def recounted (s : State) (h : DWord) (f : Nat → Nat) : State :=
  reclaim (putEnt s (hSerial h) (fun e => { e with refs := f e.refs }))

/-- `s` with a record and its handle at the tail of a queue's ring (R173, R194, R379). -/
def ringTakes (s : State) (qn : Nat) (m : LaunchMsg) (kind : RingKind) : State :=
  let q := s.queues.getD qn Queue.zero
  let s := physPut s (q.base.toNat + 128 * (q.tail.toNat % 2 ^ q.log)) 128 (bytesNat m.record)
  { s with
    queues := s.queues.set qn { q with tail := q.tail + 1, ring := q.ring ++ [⟨q.tail.toNat, m, kind⟩] } }

/-- A queue that is enabled, has room and lets no message wait. -/
def ringOpen (q : Queue) : Prop := q.en = true ∧ (q.tail - q.head).toNat ≠ 2 ^ q.log ∧ q.wait = []

/-- The instructions that send a launch to another unit: header, p, `ntf`, D, A, and from the warp values of the sources
the sources, the legality of the words, the target, the comet, the queue and the message (R379, R381). -/
structure SendForm where
  h     : Hdr
  p     : Pred
  ntf   : Bool
  d     : Opnd
  srcs  : List Src
  ok    : (Nat → Nat) → Bool
  dev   : (Nat → Nat) → Nat
  comet : (Nat → Nat) → Option DWord
  queue : (Nat → Nat) → Nat
  out   : Nat → LaunchMsg → Out

def sendForm : Instr → Option SendForm
  | .invk h p ntf d a b => some ⟨h, p, ntf, d, [(a, 1), (b, 1)],
      fun v => bits (v 1) 13 3 == 0 && bits (v 1) 24 8 == 0, fun v => bits (v 1) 0 13, fun _ => none,
      fun v => bits (v 1) 16 8, .invoke⟩
  | .hsend h p ntf d a b c => some ⟨h, p, ntf, d, [(a, 1), (b, 2), (c, 1)],
      fun v => bits (v 2) 8 24 == 0 && BitVec.ofNat 64 (v 1) != 0 && decide (hKind (BitVec.ofNat 64 (v 1)) < 2),
      fun v => hHome (BitVec.ofNat 64 (v 1)), fun v => some (BitVec.ofNat 64 (v 1)), fun v => bits (v 2) 0 8, .message⟩
  | _ => none

/-- `t` with a handle in D and the predicate that says whether there is one. -/
def gaveHandle (t : State) (c : Cur) (h : Hdr) (p : Pred) (d : Opnd) (m : Mask) (hd : DWord) : State :=
  wrote (setWarp t c.w (writePredReg (warpAt t c.w) p m (fun _ => hd != 0))) c h d m 2 (fun _ => hd.toNat)

/-- Messages of `invk`, `hsend` and `coll` without an acknowledgement: sent, or declined and to be offered again (R379,
R384). -/
def sentOpen (s : State) : Nat :=
  (s.outbox.filter (fun o => match o.out with
    | .invoke _ _ => true
    | .message _ _ => true
    | .contribution _ _ => true
    | _ => false)).length + s.disp.offers.length

/-- Every piece lies on this device, and none is poisoned. -/
def soundHere (s : State) (ps : List Piece) : Bool :=
  ps.all (fun p => (match p.place with
    | .far _ _ _ => false
    | _ => true) && !piecePoisoned s p)

/-! ### Results that go to a port (R147) -/

/-- The one-word results of the tables above. -/
def wordResult (i : Instr) : Option Result :=
  [arithResult i, divisionResult i, logicResult i, fieldResult i, wideResult i, laneResult i, stateResult i].findSome? id

/-- `t` once the instruction of path c has logged events: it takes its SEQ, if it has not done so before (R278). -/
def eventsCounted (t : State) (c : Cur) : State :=
  if (slotOf (warpAt t c.w) c.which).turned.isSome then t
  else setWarp t c.w { warpAt t c.w with olseq := (warpAt t c.w).olseq + 1 }

/-- `t` with an entry at the end of channel n of the crew of path c: the value in the lanes of m and 0 in the others. A
push that several warps of the producing role may make is an event of the order log (R277). -/
def channelTakes (t : State) (c : Cur) (n : Nat) (m : Mask) (val : Nat → Nat) : State :=
  let k := (warpAt t c.w).crew
  let ch := chanOf (crewAt t k) n
  let others := (crewAt t k).warps.filter (fun w => (warpAt t w).role == ch.prod)
  let t := if 1 < others.length then eventsCounted t c else t
  setCrew t k { crewAt t k with chans := (crewAt t k).chans.set n { ch with
    entries := ch.entries ++ [tab (fun l => if m.getLsbD l then BitVec.ofNat 32 (val l) else 0)] } }

/-- The five trap returns (R321). -/
def returns : Instr → Bool
  | .tretRes _ => true
  | .tretLanes _ => true
  | .tretWarp _ => true
  | .tretCrew _ => true
  | .tretLaunch _ => true
  | _ => false

/-! ### What rounding is (R60 to R69, R73) -/

/-- The real number that an exact value stands for. -/
def exQ (x : Ex) : ℚ := (if x.neg then -1 else 1) * (x.num : ℚ) / (x.den : ℚ) * (2 : ℚ) ^ x.exp

/-- The bits below the sign, the exponent field and the mantissa field of an encoding (R60). -/
def codeBody (f : Word) (w : Nat) : Nat := w % 2 ^ (fmE f + fmM f)
def codeExp (f : Word) (w : Nat) : Nat := codeBody f w / 2 ^ fmM f
def codeMan (f : Word) (w : Nat) : Nat := codeBody f w % 2 ^ fmM f

/-- Whether an encoding is special (R62). -/
def codeSpecial (f : Word) (w : Nat) : Bool :=
  let ones := codeExp f w == 2 ^ fmE f - 1
  let top := codeBody f w == 2 ^ (fmE f + fmM f) - 1
  fmE f != 0 && ((fmInf f == 1 && ones) || (fmNan f == 1 && ones && codeMan f w != 0) ||
    ((fmInf f == 2 || fmNan f == 2) && top) || (fmNan f == 3 && w == 2 ^ (fmE f + fmM f)))

/-- The finite value of an encoding (R63, R64). -/
def slotValue (f : Word) (w : Nat) : Option ℚ :=
  if 2 ^ fmW f ≤ w ∨ codeSpecial f w = true then none
  else if fmE f = 0 then some (((if fmS f = 1 ∧ 2 ^ fmM f ≤ w then (w : ℚ) - 2 ^ fmW f else w)) * (2 : ℚ) ^ (-fmBias f))
  else
    let sg : ℚ := if 2 ^ (fmE f + fmM f) ≤ w then -1 else 1
    if codeExp f w = 0 then some (sg * (2 : ℚ) ^ (1 - fmBias f) * codeMan f w / 2 ^ fmM f)
    else some (sg * (2 : ℚ) ^ ((codeExp f w : Int) - fmBias f) * (1 + codeMan f w / 2 ^ fmM f))

/-- No finite value of the slot lies strictly between v and r, and v is r when it is one. -/
def adjacent (f : Word) (v r : ℚ) : Prop :=
  ∀ w u, slotValue f w = some u → ¬(v < u ∧ u < r) ∧ ¬(r < u ∧ u < v) ∧ (u = v → r = v)

/-- No finite value of the slot is nearer to v than r. -/
def closest (f : Word) (v r : ℚ) : Prop := ∀ w u, slotValue f w = some u → |v - r| ≤ |v - u|

/-- The encoding c holds what the slot's RM chooses for v (R66). -/
def chosen (f : Word) (v : ℚ) (c : Nat) : Prop :=
  ∃ r, slotValue f c = some r ∧ adjacent f v r ∧ (match fmRm f with
    | 0 => closest f v r ∧ ∀ w u, slotValue f w = some u → u ≠ r → |v - u| = |v - r| → c % 2 = 0
    | 1 => |r| ≤ |v|
    | 2 => r ≤ v
    | 3 => v ≤ r
    | 4 => closest f v r ∧ ∀ w u, slotValue f w = some u → |v - u| = |v - r| → |u| ≤ |r|
    | 5 => True
    | _ => r ≠ v → c % 2 = 1)

/-- The smallest normal value (R63). -/
def slotNormal (f : Word) : ℚ := (2 : ℚ) ^ (1 - fmBias f)

/-- v is not smaller than the smallest normal value, where the slot has one. -/
def isNormal (f : Word) (v : ℚ) : Prop := fmE f ≠ 0 → slotNormal f ≤ |v|

/-- v lies between the finite values of the slot. -/
def inSlot (f : Word) (v : ℚ) : Prop :=
  (∃ w u, slotValue f w = some u ∧ v ≤ u) ∧ ∃ w u, slotValue f w = some u ∧ u ≤ v

/-- c is the encoding of the largest finite value m on v's side of zero, and v lies beyond it. -/
def beyond (f : Word) (v : ℚ) (c : Nat) (m : ℚ) : Prop :=
  slotValue f c = some m ∧ 0 < m * v ∧ |m| < |v| ∧ ∀ w u, slotValue f w = some u → 0 < u * v → |u| ≤ |m|

/-- The spacing of a slot's grid at a value (R66, R67). -/
def gridAt (f : Word) (m : ℚ) : ℚ :=
  if fmE f = 0 then (2 : ℚ) ^ (-fmBias f) else (2 : ℚ) ^ (Int.log 2 |m| - fmM f)

/-- The integer that a rounding mode gives for v (R66, R124). -/
def intChosen (rm : Nat) (v : ℚ) (t : Int) : Prop :=
  match rm with
  | 0 => 2 * |v - t| < 1 ∨ (2 * |v - t| = 1 ∧ t % 2 = 0)
  | 1 => |(t : ℚ)| ≤ |v| ∧ |v - t| < 1
  | 2 => (t : ℚ) ≤ v ∧ v < t + 1
  | 3 => v ≤ t ∧ (t : ℚ) < v + 1
  | 4 => 2 * |v - t| < 1 ∨ (2 * |v - t| = 1 ∧ |v| < |(t : ℚ)|)
  | 5 => v = t
  | _ => v = t ∨ (|v - t| < 1 ∧ t % 2 = 1)

/-- A finite nonzero real with this value. -/
def isReal (x : Ex) (v : ℚ) : Prop := 0 < x.num ∧ 0 < x.den ∧ exQ x = v

/-- The generator's step, its output, the word that lane l draws for sub-element k, and how that word rounds a magnitude
q + r / d of grid steps (R74, R76). -/
def generatorRules : Prop :=
  (∀ s : DWord, let a := s.toNat ^^^ (s.toNat * 2 ^ 13 % 2 ^ 64)
    let b := a ^^^ (a / 2 ^ 7)
    (genStep s).toNat = b ^^^ (b * 2 ^ 17 % 2 ^ 64) ∧ (genOut s).toNat = s.toNat / 2 ^ 32) ∧
  (∀ (o : Word) l k, ∀ j < 32, (genRot o l k).getLsbD ((j + (5 * l + 3 * k)) % 32) = o.getLsbD j) ∧
  (∀ r d k (rw : Word), 0 < r → r < d → 1 ≤ k → k ≤ 32 → (k = 32 ∨ r * 2 ^ k % d = 0) →
    (∀ j, 1 ≤ j → j < k → r * 2 ^ j % d ≠ 0) →
    (stochAway r d rw = true ↔ 2 ^ k ≤ r * 2 ^ k / d + rw.toNat / 2 ^ (32 - k)))

/-- Quotients and roots before they are rounded, and their special inputs (R119). The root of a value whose root is no
dyadic number is taken to within 2^-400 of its square. -/
def quotientRules : Prop :=
  (∀ f rw x y u v, isReal x u → isReal y v → ∃ z, isReal z (u / v) ∧ rndDiv f (.fin x) (.fin y) rw = roundTo f (.fin z) rw) ∧
  (∀ f rw x n m, let sg := x.neg != n
    rndDiv f (.fin x) (.zero n) rw = ⟨(infOut f sg).code, (infOut f sg).flags ||| 8⟩ ∧
    rndDiv f (.zero n) (.fin x) rw = roundTo f (.zero (n != x.neg)) rw ∧
    rndDiv f (.inf n) (.fin x) rw = infOut f (n != x.neg) ∧ rndDiv f (.fin x) (.inf n) rw = roundTo f (.zero sg) rw ∧
    rndDiv f (.zero n) (.zero m) rw = ⟨(nanOut f).code, 16⟩ ∧ rndDiv f (.inf n) (.inf m) rw = ⟨(nanOut f).code, 16⟩) ∧
  (∀ f rw y, rndDiv f .nan y rw = nanOut f ∧ rndDiv f y .nan rw = nanOut f ∧ rndSqrt f .nan rw = nanOut f) ∧
  (∀ f rw x u, isReal x u → x.den = 1 →
    (u < 0 → rndSqrt f (.fin x) rw = ⟨(nanOut f).code, 16⟩) ∧
    (∀ q, 0 < q → u = q * q → ∃ z, isReal z q ∧ rndSqrt f (.fin x) rw = roundTo f (.fin z) rw) ∧
    (0 < u → ∃ z q, isReal z q ∧ 0 < q ∧ |q * q - u| * 2 ^ 400 ≤ u ∧ rndSqrt f (.fin x) rw = roundTo f (.fin z) rw)) ∧
  (∀ f rw n, rndSqrt f (.zero n) rw = roundTo f (.zero n) rw ∧
    rndSqrt f (.inf n) rw = (if n then ⟨(nanOut f).code, 16⟩ else infOut f false))

/-- The smaller and the larger of two values (R117), and the integer that `fcvti` gives (R124). -/
def chosenRules : Prop :=
  (∀ x y u v, isReal x u → isReal y v →
    (∃ z, minMaxVal false (.fin x) (.fin y) = .fin z ∧ isReal z (min u v)) ∧
    (∃ z, minMaxVal true (.fin x) (.fin y) = .fin z ∧ isReal z (max u v))) ∧
  (∀ mx v, minMaxVal mx .nan v = v ∧ minMaxVal mx v .nan = v) ∧
  (∀ m n, minMaxVal false (.zero m) (.zero n) = .zero (m || n) ∧ minMaxVal true (.zero m) (.zero n) = .zero (m && n)) ∧
  (∀ rm uns x rw u (t : Int), isReal x u → intChosen rm u t →
    let lo : Int := if uns then 0 else -2 ^ 31
    let hi : Int := if uns then 2 ^ 32 - 1 else 2 ^ 31 - 1
    toInt32 rm uns (.fin x) rw = (if t < lo ∨ hi < t then ⟨intBits 32 (max lo (min hi t)), 16⟩
      else ⟨intBits 32 t, if (t : ℚ) = u then 0 else 1⟩)) ∧
  (∀ rm uns n rw, toInt32 rm uns .nan rw = ⟨0, 16⟩ ∧ toInt32 rm uns (.zero n) rw = ⟨0, 0⟩ ∧
    toInt32 rm uns (.inf n) rw = ⟨if n then (if uns then 0 else 2 ^ 31) else (if uns then 2 ^ 32 - 1 else 2 ^ 31 - 1), 16⟩)

/-- The special functions: the input is rounded to a 24-bit significand, the special inputs give the table's values and
flags, powers of two and their logarithms are exact, and the result is rounded into the slot (R119, R120). Their values at
other arguments, where R84 bounds them, are not stated here. -/
def specialRules : Prop :=
  (∀ f fn w rw, let r := fn (r24Val (fmIn f w))
    let o := roundTo f r.y rw
    specialOp f fn w rw = ⟨o.code, r.flags ||| o.flags⟩) ∧
  (∀ x u, isReal x u → isReal (r24 x) (exQ (r24 x)) ∧ 2 * |exQ (r24 x) - u| ≤ (2 : ℚ) ^ (Int.log 2 |u| - 23)) ∧
  (∀ fn ∈ [fnEx2, fnLg2, fnSin, fnCos, fnTanh, fnSigm, fnRsq], fn .nan = ⟨.nan, 0⟩) ∧
  (fnEx2 (.inf false) = ⟨.inf false, 0⟩ ∧ fnEx2 (.inf true) = ⟨.zero false, 0⟩ ∧ fnLg2 (.inf false) = ⟨.inf false, 0⟩ ∧
    fnLg2 (.inf true) = ⟨.nan, 16⟩ ∧ fnSigm (.inf true) = ⟨.zero false, 0⟩ ∧ fnRsq (.inf false) = ⟨.zero false, 0⟩ ∧
    fnRsq (.inf true) = ⟨.nan, 16⟩) ∧
  (∀ n, fnLg2 (.zero n) = ⟨.inf true, 8⟩ ∧ fnRsq (.zero n) = ⟨.inf n, 8⟩ ∧ fnSin (.inf n) = ⟨.nan, 16⟩ ∧
    fnCos (.inf n) = ⟨.nan, 16⟩ ∧ fnSin (.zero n) = ⟨.zero n, 0⟩ ∧ fnTanh (.zero n) = ⟨.zero n, 0⟩) ∧
  (∀ n, ∃ one half, isReal one 1 ∧ isReal half (1 / 2) ∧ fnEx2 (.zero n) = ⟨.fin one, 0⟩ ∧ fnCos (.zero n) = ⟨.fin one, 0⟩ ∧
    fnSigm (.inf false) = ⟨.fin one, 0⟩ ∧ fnSigm (.zero n) = ⟨.fin half, 0⟩) ∧
  (∀ n, ∃ z, isReal z (if n then -1 else 1) ∧ fnTanh (.inf n) = ⟨.fin z, 0⟩) ∧
  (∀ x u, isReal x u → u < 0 → fnLg2 (.fin x) = ⟨.nan, 16⟩ ∧ fnRsq (.fin x) = ⟨.nan, 16⟩) ∧
  (∀ x (n : Int), isReal x n → |n| < 2 ^ 14 → ∃ z, fnEx2 (.fin x) = ⟨.fin z, 0⟩ ∧ isReal z ((2 : ℚ) ^ n)) ∧
  (∀ x (n : Int), isReal x ((2 : ℚ) ^ n) → fnLg2 (.fin x) = ⟨valInt n, 0⟩)

/-! ### The values of blocks (R77 to R82) -/

/-- A block with every element code 0, the scale byte 255 and its outlier entries unused (R78, R79). -/
def nonFiniteBlock (w o blk : Nat) : Prop :=
  blk < 2 ^ (48 * w + 8 + 24 * o) ∧ bits blk 0 (48 * w) = 0 ∧ bits blk (48 * w) 8 = 255 ∧
  ∀ i < o, bits blk (48 * w + 8 + 24 * i) 24 = 63

/-- Step 5 of R79, from the finite elements that are no outliers: their values and results. -/
def blockCounts (f : Word) (evs : List Nat) (es : List (Val × Rnd)) : Prop :=
  (0 ∈ evs ↔ (∃ p ∈ es, p.1.isZero = false) ∧ ∀ p ∈ es, (fmDecode f p.2.code).isZero = true) ∧
  (1 ∈ evs ↔ es ≠ [] ∧ ∀ p ∈ es, bits p.2.flags 2 1 = 1) ∧ 2 ∉ evs ∧ evs.Nodup

/-- The values of `quantBlock`, `blkValue`, `requantBlock` and `quantResid`, which the block instructions give (R78 to R82).
The magnitudes of finite binary32 words are ordered as their low 31 bits. -/
def blockRules : Prop :=
  (∀ f xs cap o g l, fmIllegal f = false → 2 ≤ fmW f → fmW f ≤ 8 → xs.length = 48 →
    let w := fmW f
    let q := quantBlock f xs cap o g l
    let val := fun j => fmDecode fmB32 (xs.getD j 0).toNat
    let mag := fun j => (xs.getD j 0).toNat % 2 ^ 31
    let fin := (List.range 48).filter (fun j => !(val j).isNan && !(val j).isInf)
    let bad := (fmNan f = 0 ∧ ∃ j < 48, (val j).isNan = true) ∨ (fmInf f = 0 ∧ ∃ j < 48, (val j).isInf = true)
    let capNan := (fmDecode fmB32 cap.toNat).isNan
    let cands := fin.filter (fun j => !capNan && decide (cap.toNat % 2 ^ 31 < mag j))
    (bad → nonFiniteBlock w o q.blk ∧ q.flags = 0 ∧ q.evs = [2]) ∧
    (¬ bad → ∃ (outs : List Nat) (e : Nat) (r : Nat → Rnd),
      let rest := fin.filter (fun j => !outs.contains j)
      outs.length = min o cands.length ∧ outs.Nodup ∧ (∀ j ∈ outs, j ∈ cands) ∧
      outs.Pairwise (fun i j => mag j < mag i ∨ (mag j = mag i ∧ i < j)) ∧
      (∀ i ∈ outs, ∀ j ∈ cands, j ∉ outs → mag j < mag i ∨ (mag j = mag i ∧ i < j)) ∧
      e ≤ 254 ∧ ((∀ j ∈ rest, mag j = 0) → e = 0) ∧
      (∀ j ∈ rest, mag j ≠ 0 → (∀ i ∈ rest, mag i ≤ mag j) → ∀ u m, slotValue fmB32 (mag j) = some u →
        slotValue f (fmMaxOf f false) = some m → (e : Int) = max 0 (min 254 (Int.log 2 u - Int.log 2 m + 127))) ∧
      (∀ j < 48, (j ∈ outs → r j = ⟨0, 0⟩) ∧ ((val j).isNan = true ∨ (val j).isInf = true → r j = roundTo f (val j) 0) ∧
        (∀ n, val j = .zero n → r j = roundTo f (.zero n) (genRot g l j)) ∧
        (∀ u, j ∉ outs → slotValue fmB32 (xs.getD j 0).toNat = some u → u ≠ 0 →
          ∃ z, isReal z (u * (2 : ℚ) ^ (127 - (e : Int))) ∧ r j = roundTo f (.fin z) (genRot g l j))) ∧
      (∀ j < 48, bits q.blk (j * w) w = (r j).code) ∧ bits q.blk (48 * w) 8 = e ∧
      (∀ i < o, bits q.blk (48 * w + 8 + 24 * i) 24 = (match outs[i]? with
        | some j => j + 2 ^ 8 * (roundTo fmBf16 (val j) 0).code
        | none => 63)) ∧
      q.flags = orFlags ((List.range 48).map (fun j => (r j).flags)) ∧
      blockCounts f q.evs (rest.map (fun j => (val j, r j))) ∧ (3 ∈ q.evs ↔ o < cands.length))) ∧
  (∀ f o blk j, let w := fmW f
    let entry := fun i => bits blk (48 * w + 8 + 24 * i) 24
    let scale := bits blk (48 * w) 8
    (scale = 255 → blkValue f o blk j = .nan) ∧
    (∀ i < o, scale ≠ 255 → j < 48 → bits (entry i) 0 6 = j → (∀ k < o, i < k → bits (entry k) 0 6 ≠ j) →
      blkValue f o blk j = fmDecode fmBf16 (bits (entry i) 8 16)) ∧
    (scale ≠ 255 → j < 48 → (∀ i < o, bits (entry i) 0 6 ≠ j) →
      (∀ x u, fmIn f (bits blk (j * w) w) = .fin x → isReal x u →
        ∃ z, isReal z (u * (2 : ℚ) ^ ((scale : Int) - 127)) ∧ blkValue f o blk j = .fin z) ∧
      ((∀ x, fmIn f (bits blk (j * w) w) ≠ .fin x) → blkValue f o blk j = fmIn f (bits blk (j * w) w)))) ∧
  (∀ f blk o e g l, fmIllegal f = false → 2 ≤ fmW f → fmW f ≤ 8 → e ≤ 255 → blk < 2 ^ (48 * fmW f + 8 + 24 * o) →
    let w := fmW f
    let q := requantBlock f blk o e g l
    let val := fun j => blkValue f o blk j
    let named := fun j => ∃ i < o, bits (bits blk (48 * w + 8 + 24 * i) 24) 0 6 = j
    (bits blk (48 * w) 8 = 255 → q = ⟨blk, 0, []⟩) ∧
    (bits blk (48 * w) 8 ≠ 255 → e = 255 → nonFiniteBlock w o q.blk ∧ q.flags = 0 ∧ q.evs = [2]) ∧
    (bits blk (48 * w) 8 ≠ 255 → e ≠ 255 → ∃ r : Nat → Rnd,
      (∀ j < 48, ¬ named j → (val j).isNan = false → (val j).isInf = false →
        (∀ n, val j = .zero n → r j = roundTo f (.zero n) (genRot g l j)) ∧
        (∀ x u, val j = .fin x → isReal x u → ∃ z, isReal z (u * (2 : ℚ) ^ (127 - (e : Int))) ∧
          r j = roundTo f (.fin z) (genRot g l j)) ∧ bits q.blk (j * w) w = (r j).code) ∧
      (∀ j < 48, named j ∨ (val j).isNan = true ∨ (val j).isInf = true →
        r j = ⟨0, 0⟩ ∧ bits q.blk (j * w) w = bits blk (j * w) w) ∧
      bits q.blk (48 * w) 8 = e ∧ bits q.blk (48 * w + 8) (24 * o) = bits blk (48 * w + 8) (24 * o) ∧
      q.flags = orFlags ((List.range 48).map (fun j => (r j).flags)) ∧ 3 ∉ q.evs ∧
      ∃ es : List Nat, es.Nodup ∧ (∀ j, j ∈ es ↔ j < 48 ∧ ¬ named j ∧ (val j).isNan = false ∧ (val j).isInf = false) ∧
        blockCounts f q.evs (es.map (fun j => (val j, r j))))) ∧
  (∀ f xs rs cap o g l, ∃ ys : List Word, ys.length = 48 ∧
    (∀ j < 48, let a := fmDecode fmB32 (xs.getD j 0).toNat
      let b := fmDecode fmB32 (rs.getD j 0).toNat
      (ys.getD j 0).toNat = (if infClash a b then nan32 else (round32 (addVals 0 a b)).code)) ∧
    let p := quantResid f xs rs cap o g l
    p.1 = quantBlock f ys cap o g l ∧ p.2.length = 48 ∧
    ∀ j < 48, let v := fmDecode fmB32 (ys.getD j 0).toNat
      p.2.getD j 0 = (if bits p.1.blk (48 * fmW f) 8 = 255 ∨ v.isNan = true ∨ v.isInf = true then 0
        else (round32 (addVals 0 v (blkValue f o p.1.blk j).flip)).code))

/-! ### Merging (R392, R393) -/

/-- Element j of rank r's contribution, as a command has gathered it. -/
def partElem (k : CollCmd) (r j : Nat) : Nat :=
  ((k.got.find? (fun g => g.rank == r)).map (fun g => (g.elems.getD j 0).toNat)).getD 0

/-- c is merge(a, b) of two finite binary32 encodings: their sum rounded once, or the smaller or larger of them. -/
def mergeOf (red a b c : Nat) : Prop :=
  ∀ u v, slotValue fmB32 a = some u → slotValue fmB32 b = some v →
    (red = 0 → u + v ≠ 0 → inSlot fmB32 (u + v) → chosen fmB32 (u + v) c) ∧
    (red = 0 → u + v = 0 → slotValue fmB32 c = some 0) ∧
    (red = 1 → slotValue fmB32 c = some (min u v)) ∧ (red = 2 → slotValue fmB32 c = some (max u v))

/-- x is T(lo, lo + n) of R392 over the ranks' elements. -/
inductive TreeMerged (red : Nat) (leaf : Nat → Nat) : Nat → Nat → Nat → Prop
  | one (lo : Nat) : TreeMerged red leaf lo 1 (leaf lo)
  | two (lo n k a b x : Nat) : 2 ^ k < n → n ≤ 2 * 2 ^ k → TreeMerged red leaf lo (2 ^ k) a →
      TreeMerged red leaf (lo + 2 ^ k) (n - 2 ^ k) b → mergeOf red a b x → TreeMerged red leaf lo n x

/-- x is the left fold of merge over ranks in the order in which they were merged (R393). -/
inductive FoldMerged (red : Nat) (leaf : Nat → Nat) : List Nat → Nat → Prop
  | one (r : Nat) : FoldMerged red leaf [r] (leaf r)
  | more (rs : List Nat) (r a x : Nat) : FoldMerged red leaf rs a → mergeOf red a (leaf r) x →
      FoldMerged red leaf (rs ++ [r]) x

/-! ### What a save record holds (R337 to R341) -/

/-- The state of crew k keeps to the lengths and widths that the layout of a record gives its fields. -/
def recordFits (s : State) (k : Nat) : Prop :=
  let x := crewAt s k
  x.warps.length < 64 ∧ x.scrLen ≤ 0x60000 ∧ x.lin < 2 ^ 31 ∧ (crewCopies s k).length ≤ 128 ∧
  (crewColls s k).length ≤ 16 ∧ x.bars.length = 16 ∧ (∀ b ∈ x.bars, b.arr < 64 ∧ b.exp.getD 0 < 64) ∧
  x.chans.length = 6 ∧ (∀ h ∈ x.chans, h.prod < 4 ∧ h.cons < 4 ∧ h.depth < 32 ∧ h.entries.length ≤ 16 ∧
    ∀ e ∈ h.entries, e.length = 32) ∧
  x.cseqn.length = 8 ∧ (∀ n ∈ x.cseqn, n < 2 ^ 24) ∧
  (∀ p ∈ [x.plA, x.plS], p.valid = true → p.k < 128 ∧ p.n < 128) ∧
  (∀ c ∈ crewCopies s k, c.desc.length = 128 ∧ c.chan < 8 ∧ c.seq < 2 ^ 24) ∧
  (∀ c ∈ crewColls s k, c.desc.length = 64 ∧ c.next < 2 ^ 32) ∧
  (x.warps.map (fun w => (warpAt s w).wid)).Nodup ∧
  ∀ w ∈ x.warps, let y := warpAt s w
    y.wid < 32 ∧ y.regs ≤ 192 ∧ y.v.length = y.regs ∧ (∀ r ∈ y.v, r.length = 32) ∧ y.s.length = 32 ∧ y.p.length = 7 ∧
    y.accstat &&& 0x77 = y.accstat ∧ y.fs.length = 16 ∧ y.b.length = 3 ∧ (∀ r ∈ y.b, r.length = 32) ∧ y.shadow.length = 3 ∧
    (∀ r ∈ y.shadow, r.length = 32) ∧ y.ents.length = 4 ∧ y.ssn < 2 ^ 16 ∧ y.tscr.length = 4 ∧ y.tq.length ≤ 8 ∧
    y.bands.length = 4 ∧ y.q6.length ≤ 16 ∧ y.q7.length ≤ 16 ∧ y.xsn < 2 ^ 32 ∧ y.olseq < 2 ^ 32 ∧
    y.sa.path.depth < 2 ^ 16 ∧ y.sb.path.depth < 2 ^ 16

/-- A slot comes back as it was: its path, and a park that ends by a condition; one that waited for an entry of its split
stack at its rejoin address waits again, and any other that was to issue again does (R340, R343). -/
def slotKept (a b : Slot) : Prop :=
  b.live = a.live ∧ (a.live = true → (a.path.pc.toNat % 8 = 0 → b.path = a.path) ∧ (a.park = none → b.park = none) ∧
    (∀ off par, off < 2 ^ 32 → a.park = some (.mbar off par) → b.park = a.park) ∧
    (∀ n ph, n < 16 → a.park = some (.bar n ph) → b.park = a.park) ∧
    (∀ tok, a.park = some (.cwait tok) → b.park = a.park) ∧ (∀ h d, a.park = some (.hwait h d) → b.park = a.park) ∧
    (∀ r, a.park = some (.reissue r) → b.park =
      (if a.path.pc = a.path.rjpc ∧ a.path.rjpc ≠ noRejoin then some (.reissue (.residency [])) else none)))

/-- A plane comes back as it was, weight for weight. -/
def planeKept (a b : Plane) : Prop :=
  b.valid = a.valid ∧ (a.valid = true → b.k = a.k ∧ b.n = a.n ∧ b.fw = a.fw ∧ b.blk = a.blk ∧ b.nf = a.nf ∧
    ∀ j < 0xC000, memGet b.wt j = memGet a.wt j)

/-- Warp z is warp y as a record gives it back: every register, flag, latch, split-stack entry, trap record and port. -/
def warpKept (y z : Warp) : Prop :=
  z.v = y.v ∧ z.s = y.s ∧ z.p = y.p ∧ z.fs = y.fs ∧ z.b = y.b ∧ z.shadow = y.shadow ∧ z.srgen = y.srgen ∧
  z.fflags = y.fflags ∧ z.qstat = y.qstat ∧ z.accstat = y.accstat ∧ z.mode = y.mode ∧ z.last = y.last ∧ z.ssn = y.ssn ∧
  (∀ j < min 4 y.ssn, z.ents.getD j 0 = y.ents.getD j 0) ∧ z.cur.map (·.bits) = y.cur.map (·.bits) ∧
  z.tq.map (·.bits) = y.tq.map (·.bits) ∧ z.tpc = y.tpc ∧ z.tfflags = y.tfflags ∧ z.tscr = y.tscr ∧ z.bands = y.bands ∧
  z.q6 = y.q6 ∧ z.q7 = y.q7 ∧ z.olseq = y.olseq ∧ slotKept y.sa z.sa ∧ slotKept y.sb z.sb

/-- The header of a record of crew k in frame f of memory m (R338). -/
def headerOf (s : State) (k f : Nat) (forced : Bool) (dead : Nat) (m : Memory) : Prop :=
  let x := crewAt s k
  let h := memNat m f 256
  bits h 0 8 = 1 ∧ bits h 8 6 = x.warps.length ∧ bits h 14 1 = (if forced then 1 else 0) ∧ bits h 15 3 = dead ∧
  bits h 18 14 = 0 ∧ bits h 32 32 = x.scrLen ∧ bits h 64 64 = x.launch.toNat ∧ bits h 128 31 = x.lin ∧
  bits h 160 16 = x.abank.toNat ∧ bits h 176 8 = (crewCopies s k).length ∧ bits h 928 1120 = 0

/-- A record of crew k in frame f changes no byte outside the frame, has the header of R338, and gives back the crew, its
warps and its commands, with what `dead` names left out (R337 to R342). -/
def recordKeeps (s : State) (k f : Nat) (forced : Bool) (dead : Nat) : Prop :=
  let x := crewAt s k
  let m := saveRecord s k f forced dead
  let c := crewBack m f x
  (∀ a, a < f ∨ f + 2 ^ 21 ≤ a → memGet m a = memGet s.mem a) ∧ headerOf s k f forced dead m ∧
  (∀ a < x.scrLen, memGet c.scr a = if bits dead 0 1 = 1 then 0 else memGet x.scr a) ∧
  (∀ a < 0x40000, memGet c.acc a = if bits dead 1 1 = 1 then 0 else memGet x.acc a) ∧
  (bits dead 2 1 = 1 → c.plA.valid = false ∧ c.plS.valid = false) ∧
  (bits dead 2 1 = 0 → planeKept x.plA c.plA ∧ planeKept x.plS c.plS) ∧
  c.abank = x.abank ∧ c.cseqn = x.cseqn ∧
  (∀ n < 16, ∀ b, x.bars[n]? = some b → ∃ d, c.bars[n]? = some d ∧ d.arr = b.arr ∧ d.phase = b.phase ∧
    (b.arr ≠ 0 → ∀ e, b.exp = some e → d.exp = some e)) ∧
  (∀ n < 6, ∀ h, x.chans[n]? = some h → c.chans[n]? = some h) ∧
  (∀ w ∈ x.warps, warpKept (warpAt s w) (warpBack m f (warpAt s w))) ∧
  (∀ j y, (crewCopies s k)[j]? = some y → let r := memNat m (f + 0x4000 + 0xC0 * j) 0xC0
    natBytes 128 r = y.desc ∧ bits r 1024 3 = y.chan ∧ bits r 1032 24 = y.seq ∧ bits r 1088 64 = y.gen.toNat) ∧
  (∀ j y, (crewColls s k)[j]? = some y → let r := memNat m (f + 0xA000 + 0x200 * j) 128
    natBytes 64 r = y.desc ∧ bits r 512 64 = y.h.toNat ∧ bits r 624 32 = y.next ∧ bits r 704 64 = y.gen.toNat)

/-! ### The fabric (R364 to R374) -/

/-- A header of this device and of a kind (R366). -/
def arrived (s : State) (h : Vuine) (kind : Nat) : Prop := vuBad h = false ∧ vuKind h = kind ∧ vuDst h = s.plat.devnum

/-- A message of the engines of another device is served here: the device is ready, the header is sound, for this device
and of kind 7, and it has not been taken before (R324, R366). -/
def engineArrives (s : State) (h : Vuine) : Prop :=
  s.plat.st = .ready ∧ arrived s h 7 ∧ s.fab.filter.any (fun f => f.1 == vuSrc h && f.2.1 == vuRseq h) = false

/-- `t` with such a message remembered as taken. -/
def engineTaken (t : State) (h : Vuine) : State :=
  { t with fab := { t.fab with filter := t.fab.filter ++ [(vuSrc h, vuRseq h, ⟨h, false, false, 0⟩)] } }

/-- A request that the device serves now: no duplicate, none that waits here already, on the route that its line has, and on
lines that no other step holds (R290, R324, R368). -/
def served (s : State) (r : FabReq) (kind : Nat) : Prop :=
  s.plat.st = .ready ∧ arrived s r.hdr kind ∧
  s.fab.filter.find? (fun f => f.1 == vuSrc r.hdr && f.2.1 == vuRseq r.hdr) = none ∧ s.fab.waits = [] ∧
  s.fab.held.any (fun h => vuSrc h.1.hdr == vuSrc r.hdr && vuRseq h.1.hdr == vuRseq r.hdr) = false ∧
  (∀ o ∈ s.fab.oldRoute, o.1 = vuSrc r.hdr → o.2.1 = lineOf r.bit → o.2.2 = (vuPlane r.hdr, r.port)) ∧
  ∀ ln ∈ pieceLines r.bit r.nbits, lineWaits s ln = false

/-- The devices other than the writer that hold a line here (R374). -/
def otherHolders (s : State) (r : FabReq) (line : Nat) : List Nat :=
  ((dirAt s line).elim [] dirDevs).filter (fun d =>
    d != vuSrc r.hdr && d != s.plat.devnum && !s.fab.barred.contains d)

/-- `t` with the directory entries of the lines of a write: the writer alone where it held a copy, no one otherwise (R374). -/
def linesWritten (t : State) (r : FabReq) : State :=
  (pieceLines r.bit r.nbits).foldl (fun t ln => dirAfterWrite t ln (vuSrc r.hdr)) t

/-- `t` with a value written in the frames of a request, its sub-tile marked dirty in each, and no engine path left that does
not see it (R218, R246, R248). -/
def framesWritten (t : State) (r : FabReq) (rc : Rec) (fs : List (Nat × Nat)) (v : Nat) : State :=
  let t := hideWrite (fs.foldl (fun t f => markDirty t (vuCtx r.hdr) (vuObj r.hdr) rc (vuSubt r.hdr) f.1) t) none
    (pieceBytes (fabPieces r fs))
  { t with mem := writePieces t.mem (fabPieces r fs) v, plat := unpoison t.plat (fabPieces r fs) }

/-- `s` with the warps, crews, launches and contexts of a device that starts, and STATE (R415). -/
def restarted (s : State) (st : RunState) : Prop :=
  s.warps = [] ∧ s.crews = [] ∧ s.launches = [] ∧ s.ctxs = [] ∧ s.copies = [] ∧ s.disp.ents = [] ∧ s.plat.st = st

/-- A write by function fn to a block of BAR0 takes its effect: the function exists, its access table admits it, no write of
the host waits before it, and the device is not in the safe state (R408, R410, R414, R415). -/
def hostMay (s : State) (fn block : Nat) : Prop :=
  fn ≤ 63 ∧ s.plat.hostWrites = [] ∧ barOk s fn block 1 = true ∧ s.plat.st ≠ .safe

/-- `s` with FUNC of a context's CTXHOST written (R408, R410). -/
def funcSet (s : State) (ctx f : Nat) : State :=
  { s with plat := { s.plat with funcs := (ctx, f) :: s.plat.funcs.filter (fun g => g.1 != ctx) } }

/-- Nothing of a machine waits for a count to run out: no request, write or wait is open, planes lead somewhere, no launch
is queued, no crew is to be saved, and no context replays. -/
def atRest (u : State) : Prop :=
  u.fab.held = [] ∧ u.fab.reqs = [] ∧ u.fab.waits = [] ∧ u.fab.cut = none ∧ u.plat.hostWrites = [] ∧ u.launches = [] ∧
  (∀ c < u.crews.length, (crewAt u c).req = none) ∧ ∀ e ∈ u.ctxs, e.2.olEnded = [] ∧ bits (csrN e.2 0x074) 0 2 ≠ 2

/-- What a step makes of the state that its move has led to, in a machine that runs. -/
def afterIt (u : State) : State := if u.plat.st = .ready then afterTurn u else u

/-! ### Fetching and starting (R28, R114, R189, R240) -/

/-- The PC of path c passes the checks of a fetch, and its instruction word lies at byte address a of this device's
memory; the spire's instruction cache holds no copy of its line, and no error strikes it (R28, R114, R240). -/
def codeAt (s : State) (c : Cur) (a : Nat) : Prop :=
  let e := envOf s c
  e.sl.failed.contains lastMark = false ∧ ∃ l p,
    checkShape s (envAgent s e) (bits e.pc.toNat 42 22) (bits e.pc.toNat 0 42 : Nat) 64 ⟨some .x, false, true⟩ = .ok l ∧
    findAll s (envAgent s e) l false = ⟨none, [], [p]⟩ ∧ p.place = .phys (8 * a) ∧ piecePoisoned s p = false ∧
    ∀ k ∈ s.caches.ilines, k.tower = e.cr.tower → k.phys = e.cr.phys → k.line ≠ lineOf (8 * a)

/-- At a turn of warp w, when nothing else is due, path k issues: no result waits for a port, no halt, trap, breakpoint or
arrival comes first, and the arbiter keeps its promise to the other paths (R135, R146, R308, R326, R327). -/
def issues (s : State) (w : Nat) (k : Which) : Prop :=
  mayIssue s w = true ∧ ((warpAt s w).halt = .no ∨ (warpAt s w).holdSl ≠ none) ∧ trapDue (warpAt s w) = false ∧
  (∀ j h d st, (slotOf (warpAt s w) j).park ≠ some (.handed h d st)) ∧ choosePath s w = some k ∧
  arbiterLets s w k = true ∧ rejoins (slotOf (warpAt s w) k) = false ∧ bpMatch s w k = none

/-- The bytes of an example's word, lowest address first. -/
def wordBytes (w : Nat) : List Byte := (List.range 8).map (fun k => BitVec.ofNat 8 (w / 256 ^ k))

/-- The guard `pt`, and a header with it and nothing else. -/
def always : Guard := ⟨7, false⟩
def plainHdr : Hdr := ⟨always, false, none⟩

/-- The start values of a warp at its launch's entry (R8, R134, R189): of warp `wid` of crew `lin`. -/
def startsAs (l : Launch) (lin wid : Nat) (x : Warp) : Prop :=
  (∀ n < x.regs, ∀ k < 32, ((x.v.getD n []).getD k 1) = 0) ∧ (∀ n, ∀ k < 32, (x.b.getD n []).getD k 0 = 0) ∧
  (∀ n < 32, (x.s.getD n 1).toNat = bits (bytesNat l.args) (32 * n) 32) ∧ (∀ n < 7, x.p.getD n 1 = 0) ∧
  x.fs = l.fmt ∧ x.fflags = 0 ∧ x.qstat = 0 ∧ x.accstat = 0 ∧ x.mode = .user ∧
  x.srgen.toNat = (recBits l.record 576 64) ^^^ ((lin * 32 + wid) * 0x9E3779B97F4A7C15 % 2 ^ 64) ∧
  x.sa.live = true ∧ x.sa.path = ⟨BitVec.ofNat 64 (recBits l.record 0 64), BitVec.allOnes 32, noRejoin, 0⟩ ∧
  x.sb.live = false ∧ x.ssn = 0 ∧ x.last = false ∧ x.alive = BitVec.allOnes 32 ∧ x.q6 = [] ∧ x.q7 = [] ∧ x.tq = []

end Sys2Proof.Machine

open Sys2Proof Sys2Proof.Machine

/-- Integer arithmetic, logic, shifts, counts, reversal, bit fields and byte gathering give the results of R89 to R91 and
R93 to R95. -/
def Obligations.IntegerArithmetic : Prop :=
  (∀ i r, arithResult i = some r → completesWith i r) ∧ (∀ i r, logicResult i = some r → completesWith i r) ∧
  (∀ i r, fieldResult i = some r → completesWith i r)

/-- Division never traps, and gives the quotients and remainders of R92. -/
def Obligations.Division : Prop := ∀ i r, divisionResult i = some r → completesWith i r

/-- 64-bit arithmetic, moves and immediates give the results of R96, R98 and R100. -/
def Obligations.WideMovesImmediates : Prop := ∀ i r, wideResult i = some r → completesWith i r

/-- Lane exchange, lane masks and reductions give the results of R154 to R156. -/
def Obligations.LaneExchange : Prop := ∀ i r, laneResult i = some r → completesWith i r

/-- Compares, predicate logic and votes give the predicates of R97 to R99, R155 and R334; `fcmp` and `fclass` give those of
R121 and R122 from sub-element k. -/
def Obligations.Predicates : Prop :=
  (∀ i r, predResult i = some r → completesWithPred i r) ∧
  (∀ i h f k p a b fn, slotPredValue i = some (h, f, k, p, a, b, fn) → ∀ (s : State) (c : Cur) (s1 : State)
    (v : Nat → List Nat),
    let fw := slotWord (envOf s c).x f
    plain s c = true → regsOk [(a, 1), (b, 1)] (envOf s c) = true → fmIllegal fw = false → k.val < fmN fw →
    readSrcs s (envOf s c) (takers s c h.g) [(a, 1), (b, 1)] none false = .ok (s1, v) →
    exec i s = .next (stepped (setWarp s1 c.w (writePred (warpAt s1 c.w) h p (takers s c h.g)
      (fun l => fn fw ((v l).getD 0 0) ((v l).getD 1 0)))) c))

/-- Reads of special registers, slots, SRGEN, status words and ports give the values that R127, R158 and R170 name, and those
of special registers 22 and 23 the value that R381 adds. -/
def Obligations.StateReads : Prop := ∀ i r, stateResult i = some r → completesWith i r

/-- Arithmetic under a format slot gives the results of R117 to R126, raises their flags, and steps SRGEN once under
RM 5 (R64, R75). What the quotient, the root, the smaller and the larger of two values, the integer of `fcvti`, and the
special functions of their special inputs and of powers of two are is stated in rational arithmetic, and the generator's
step, output, rotation and rounding as R74 and R76 give them; the values of the special functions at other arguments are
not. -/
def Obligations.SlotArithmetic : Prop :=
  (∀ i r, slotResult i = some r → completesUnderSlot i r) ∧ generatorRules ∧ quotientRules ∧ chosenRules ∧ specialRules

/-- What the rounding of the slot instructions is. An encoding decodes to the value of R63 or R64. A nonzero real between the
slot's finite values becomes the value that RM chooses among its neighbours, with NX when it differs and UF only for results
below the normal values; a flushing slot makes a small one zero, with UF and NX. Beyond the largest finite value, RM chooses
between that value and an overflow, with OF and the result that SAT, INF and NAN of the slot give. A negative real under an
unsigned slot raises NV (R66 to R69). Sums and products of two reals are exact, an exact sum of zero is +0 and under RM 2 -0,
and `fdot`'s exact sum is rounded once as binary32 (R69, R73). What a tie goes to in a slot with M = 0 is the model's reading
(log entry 12). -/
def Obligations.Rounding : Prop :=
  (∀ f w u, fmIllegal f = false → slotValue f w = some u →
    (u ≠ 0 → ∃ x, fmDecode f w = .fin x ∧ 0 < x.num ∧ 0 < x.den ∧ exQ x = u) ∧ (u = 0 → ∃ n, fmDecode f w = .zero n)) ∧
  (∀ f x rw, let v := exQ x
    let r := roundTo f (.fin x) rw
    fmIllegal f = false → 0 < x.num → 0 < x.den →
    (inSlot f v → isNormal f v ∨ fmSub f = 0 ∨ fmSub f = 3 →
      chosen f v r.code ∧ (bits r.flags 0 1 = 1 ↔ slotValue f r.code ≠ some v) ∧ r.flags < 4 ∧
      (isNormal f v → bits r.flags 1 1 = 0) ∧
      (∀ u, slotValue f r.code = some u → u ≠ v → ¬ isNormal f u → bits r.flags 1 1 = 1)) ∧
    (fmE f ≠ 0 → 2 * |v| < slotNormal f → fmSub f = 1 ∨ fmSub f = 2 →
      slotValue f r.code = some 0 ∧ r.flags = 3) ∧
    (∀ c m, beyond f v c m → isNormal f m → let g := gridAt f m
      (|m| + g ≤ |v| → r.code = overflowOut f x.neg ∧ bits r.flags 2 1 = 1) ∧
      (|v| < |m| + g →
        let down := match fmRm f with
          | 0 => 2 * |v| < 2 * |m| + g ∨ (2 * |v| = 2 * |m| + g ∧ c % 2 = 0)
          | 1 => True
          | 2 => 0 < v
          | 3 => v < 0
          | 4 => 2 * |v| < 2 * |m| + g
          | _ => c % 2 = 1
        fmRm f ≠ 5 → (down → r.code = c ∧ r.flags = 1) ∧ (¬ down → r.code = overflowOut f x.neg ∧ r.flags = 5))) ∧
    (fmS f = 0 → v < 0 → isNormal f v → (fmE f = 0 → (2 : ℚ) ^ (-fmBias f) ≤ |v|) →
      bits r.flags 4 1 = 1 ∧ r.code = (if fmNan f = 0 then 0 else fmNanCode f))) ∧
  (∀ f neg, (fmSat f = true ∨ fmInf f = 0 ∧ fmNan f = 0 → overflowOut f neg = fmMaxOf f neg) ∧
    (fmSat f = false → fmInf f ≠ 0 → overflowOut f neg = fmInfCode f neg) ∧
    (fmSat f = false → fmInf f = 0 → fmNan f ≠ 0 → overflowOut f neg = fmNanCode f)) ∧
  (∀ rm x y, 0 < x.num → 0 < x.den → 0 < y.num → 0 < y.den →
    (exQ x + exQ y = 0 → addVals rm (.fin x) (.fin y) = .zero (rm == 2)) ∧
    (exQ x + exQ y ≠ 0 → ∃ z, addVals rm (.fin x) (.fin y) = .fin z ∧ 0 < z.num ∧ 0 < z.den ∧ exQ z = exQ x + exQ y) ∧
    ∃ z, mulVals (.fin x) (.fin y) = .fin z ∧ exQ z = exQ x * exQ y) ∧
  (∀ (acc : Word) (ts : List (Ex × Ex)) u, ts ≠ [] → slotValue fmB32 acc.toNat = some u →
    (∀ p ∈ ts, 0 < p.1.num ∧ 0 < p.1.den ∧ 0 < p.2.num ∧ 0 < p.2.den) →
    let v := u + (ts.map (fun p => exQ p.1 * exQ p.2)).sum
    let r := exactSum acc (ts.map (fun p => (.fin p.1, .fin p.2)))
    (v = 0 → r = ⟨0, 0⟩) ∧ (v ≠ 0 → ∃ z, 0 < z.num ∧ 0 < z.den ∧ exQ z = v ∧ r = roundTo fmB32 (.fin z) 0))

/-- Block instructions give the blocks and residuals of R79 to R82 in their register ranges, raise the flags, and
count in QSTAT (R14, R129, R130); what these blocks and residuals hold is stated bit by bit. That a register that the ranges
of `qntr` share holds a free value, with the counter of free values raised by 2048, is the model's choice (log entries 7 and
12), as is the sign of a residual's sum of zeros (log entry 12). -/
def Obligations.Blocks : Prop :=
  blockRules ∧ ∀ i r, blockForm i = some r → ∀ (s : State) (c : Cur) (s1 : State) (v : Nat → List Nat),
    let e := envOf s c
    let m := takers s c r.g
    let fw := slotWord e.x r.f
    let x := warpAt s1 c.w
    let draws := r.rounds && fmRm fw == 5 && m != 0
    let gen := if draws then genStep x.srgen else x.srgen
    let out := fun l => r.val fw (rangeWords e.x r.a (r.na fw) l) ((v l).getD 0 0)
      (match r.c with | some rc => rangeWords e.x rc 48 l | none => []) l (if draws then genOut gen else 0)
    let flags := ((lanesOf m).map (fun l => (out l).flags)).foldl (fun a b => a ||| b) 0
    let y := { x with
      srgen := gen
      fflags := x.fflags ||| BitVec.ofNat 32 flags
      qstat := (lanesOf m).foldl (fun q l => qstatAdd q (out l).evs) x.qstat }
    let z := match r.c with
      | some rc => writeRange y rc 48 m (fun l j => (out l).resid.getD j 0)
      | none => y
    let shared := fun (j : Nat) => match r.c, r.d with
      | some (.v rc), .v rd => decide (rc.val ≤ rd.val + j) && decide (rd.val + j < rc.val + 48)
      | _, _ => false
    let t := setWarp s1 c.w (if r.w then z else writeRange z r.d (r.nd fw) m (fun l j =>
      if shared j then (Config.unstatedWord (s1.free + 64 * l + j)).toNat else (out l).out.getD j 0))
    plain s c = true → blockLegal r e = true →
    readSrcs s e m (match r.b with | some b => [(b, 1)] | none => []) none false = .ok (s1, v) →
    exec i s = .next (stepped (if r.c.isSome && !r.w then { t with free := s1.free + 2048 } else t) c)

/-- `setfs` with a legal slot word, `srseed` and `clrflag` change the one register that they name, by the warp value of A;
`setfs` with a word that no slot can hold traps FMT and changes no slot (R127). -/
def Obligations.StatusWrites : Prop :=
  (∀ i g a k u, statusUpdate i = some (g, a, k, u) → ∀ (s : State) (c : Cur) (s1 : State) (v : Nat → List Nat) (l : Nat)
    (f : Warp → Warp),
    plain s c = true → regsOk [(a, k)] (envOf s c) = true → lowest (takers s c g) = some l →
    readSrcs s (envOf s c) (takers s c g) [(a, k)] none false = .ok (s1, v) → u ((v l).getD 0 0) = some f →
    exec i s = .next (stepped (setWarp s1 c.w (f (warpAt s1 c.w))) c)) ∧
  (∀ g f a (s : State) (c : Cur) (s1 : State) (v : Nat → List Nat) (l : Nat),
    plain s c = true → regsOk [(a, 1)] (envOf s c) = true → lowest (takers s c g) = some l →
    readSrcs s (envOf s c) (takers s c g) [(a, 1)] none false = .ok (s1, v) →
    fmIllegal (BitVec.ofNat 32 ((v l).getD 0 0)) = true →
    exec (.setfs g f a) s = .next (takeTrap s (envOf s c) f.val ⟨9, takers s c g, 0, (v l).getD 0 0⟩))

/-- `nop`, `pref` and `fence` only go on (R88, R255, R274; that a fence orders nothing further is the model's choice, log
entry 4). `fencex` makes its TO paths see what its FROM paths have accessed in its scope (R275; that every such access counts as
an earlier one is the model's choice, log entry 4). `prof` only goes on without a taking
lane or while its ring is disabled; otherwise it writes one 16-byte event and advances the write index, or, with the ring
full, only notes the loss; it never parks (R160, R161). -/
def Obligations.HintsAndProfiling : Prop :=
  (∀ i g srcs, hintForm i = some (g, srcs) → ∀ (s : State) (c : Cur),
      plain s c = true → regsOk srcs (envOf s c) = true → exec i s = .next (stepped s c)) ∧
  (∀ g scp src dst (s : State) (c : Cur), plain s c = true →
      (takers s c g = 0 → exec (.fencex g scp src dst) s = .next (stepped s c)) ∧
      (takers s c g ≠ 0 → ∃ t, seesThrough s t src dst (inScope s scp c.w) ∧
        exec (.fencex g scp src dst) s = .next (stepped t c))) ∧
  (∀ g code a (s : State) (c : Cur) (s1 : State) (val : Nat) (x : Ctx),
      let e := envOf s c
      let w := csrN x 0x063
      let n := 2 ^ bits (csrN x 0x062) 0 5
      let used := (w + 2 ^ 32 - csrN x 0x064) % 2 ^ 32
      plain s c = true → regsOk [(a, 1)] e = true → ctxGet s e.cr.ctx = some x →
      ((takers s c g = 0 ∨ bits (csrN x 0x062) 8 1 = 0) → exec (.prof g code a) s = .next (stepped s c)) ∧
      (profReads s c g a s1 val → bits (csrN x 0x062) 8 1 = 1 → used = n →
        exec (.prof g code a) s = .next (stepped (ctxPut s1 e.cr.ctx { x with profLost := true }) c)) ∧
      (profReads s c g a s1 val → bits (csrN x 0x062) 8 1 = 1 → used ≠ n →
        let ev := (s1.now - s1.plat.started) % 2 ^ 56 + 2 ^ 56 * code.toNat + 2 ^ 64 * val + 2 ^ 96 * e.x.wid +
          2 ^ 101 * e.cr.slotNo + 2 ^ 105 * (e.cr.phys + 64 * e.cr.tower) + 2 ^ 113 * e.cr.ctx +
          (if x.profLost then 2 ^ 125 else 0)
        let t := ctxPut (physPut s1 (bits (csrPair x 0x060) 0 56 + 16 * (w % n)) 16 ev) e.cr.ctx
          (setCsr { x with profLost := false } 0x063 (w + 1))
        let held := (w + 1 + 2 ^ 32 - csrN x 0x064) % 2 ^ 32
        exec (.prof g code a) s = .next (stepped
          (if n ≤ 2 * held ∧ 2 * (held - 1) < n then raiseMsix t (ctxFunc t e.cr.ctx) 5 else t) c)))


/-- `bra` and `call`: a target outside the object traps OOS; with no lane taking they go on; with every lane of the path
taking, the PC becomes the target and `call` leaves PC + 8 in its link; lanes that differ under `.u` trap UNIF, and so do
those of a handler, which cannot split: the lanes that do not take the branch (R40, R101, R309). That the OOS trap is taken
with no lane too, and that a handler's UNIF names those lanes, is the model's choice (log entry 8). -/
def Obligations.Branches : Prop :=
  ∀ i g u rj tgt k, branchForm i = some (g, u, rj, tgt, k) → ∀ (s : State) (c : Cur),
    let e := envOf s c
    let m := takers s c g
    let ix := indexFrom e.pc (sx 24 tgt.toNat)
    issuing s c = true → regsOk (linkSrc k) e = true →
    (m = 0 → indexOk ix → plain s c = true → exec i s = .next (stepped s c)) ∧
    (¬ indexOk ix → exec i s = .next (takeTrap s e 0 ⟨6, m, e.pc.toNat, 0⟩)) ∧
    (m ≠ 0 → m = e.mask → indexOk ix → goesTo (warpAt s c.w) c.which (placeOf e.pc ix) = true →
      exec i s = .next (movedTo (linked s c k m) c (placeOf e.pc ix))) ∧
    (∀ l, lowest e.mask = some l → m ≠ 0 → m ≠ e.mask → indexOk ix → u = true →
      exec i s = .next (takeTrap s e 0 ⟨0x0A, if m.getLsbD l then e.mask &&& ~~~m else m, e.pc.toNat, 0⟩)) ∧
    (m ≠ 0 → m ≠ e.mask → indexOk ix → u = false → c.which = .handler →
      exec i s = .next (takeTrap s e 0 ⟨0x0A, e.mask &&& ~~~m, e.pc.toNat, 0⟩))

/-- A branch whose path splits: the lanes that do not take it go on in the slot, the others go to the target in the
other slot or on the split stack, and a rejoin address pushes a JOIN entry of two children (R140). A rejoin address
outside the object traps OOS; a split that needs more entries than the capacity, and a malformed entry in memory, trap
SPLIT (R139). Entries 0 to 3 are the warp's own; entry k of 4 or more lies in the private object, from byte
region·NWARPS·SPLITB + WID·SPLITB + 32·(k - 4) (R139, R190). The lanes of the trap of a malformed entry are the model's
choice (log entry 11). -/
def Obligations.Divergence : Prop :=
  (∀ i g rj tgt k, branchForm i = some (g, false, rj, tgt, k) → ∀ (s : State) (c : Cur),
    let e := envOf s c
    let m := takers s c g
    let n := e.mask &&& ~~~m
    let ix := indexFrom e.pc (sx 24 tgt.toNat)
    let rx := indexFrom e.pc (sx 17 rj.toNat)
    let t := linked s c k m
    let p := e.sl.path
    let y := splitOnto (warpAt t c.w) c.which m n (placeOf e.pc ix) (if rj = 0 then none else some (placeOf e.pc rx))
    let room := 4 + ((launchOf s e.cr.launch).map (fun l => recBits l.record 400 21)).getD 0 / 32
    let pushes := (if rj = 0 then 0 else 1) + (if (slotOf e.x (otherSlot c.which)).live then 1 else 0)
    issuing s c = true → c.which ≠ .handler → regsOk (linkSrc k) e = true → m ≠ 0 → n ≠ 0 → indexOk ix →
    (rj ≠ 0 → ¬ indexOk rx → exec i s = .next (takeTrap s e 0 ⟨6, m, e.pc.toNat, 0⟩)) ∧
    ((rj = 0 ∨ indexOk rx) →
      (room < e.x.ssn + pushes → exec i s = .next (takeTrap s e 0 ⟨0x0B, m, e.pc.toNat, 1⟩)) ∧
      (e.sl.live = true → p.depth ≤ 4 → y.ssn ≤ 4 → bits e.pc.toNat 0 42 ≠ 2 ^ 42 - 8 → noArrival y →
        exec i s = .next (setWarp t c.w y)) ∧
      (∀ en, rj = 0 → 4 < p.depth → e.x.ssn + pushes ≤ room → entRead t e.sl.failed c.w (p.depth - 1) = .ok en →
        entMalformed en = true → exec i s = .next (takeTrap s e 0 ⟨0x0B, e.mask, e.pc.toNat, 2⟩)) ∧
      (∀ t1, rj ≠ 0 → 4 ≤ e.x.ssn → e.x.ssn + pushes ≤ room → (slotOf e.x (otherSlot c.which)).live = false →
        e.sl.live = true → bits e.pc.toNat 0 42 ≠ 2 ^ 42 - 8 →
        entPut t e.sl.failed c.w e.x.ssn (entMake 2 2 { p with pc := placeOf e.pc rx }) = .ok t1 →
        let x := warpAt t1 c.w
        let z := withSlot (withSlot { x with ssn := e.x.ssn + 1 } c.which { slotOf x c.which with
            stale := true, path := ⟨nextPc p.pc, n, placeOf e.pc rx, e.x.ssn + 1⟩, turned := none }) (otherSlot c.which)
          (Slot.ofPath ⟨placeOf e.pc ix, m, placeOf e.pc rx, e.x.ssn + 1⟩)
        noArrival z → exec i s = .next (setWarp t1 c.w z)))) ∧
  (∀ (s : State) w fl j l region r (en : BitVec 256),
    let cr := crewOf s w
    let sb := recBits l.record 400 21
    let obj := recBits l.record 554 22
    let byte := region * (cr.warps.length * sb) + (warpAt s w).wid * sb + 32 * (j - 4)
    let ag := entAgent s w fl
    let at_ : Loc := ⟨r, obj, byte, 8 * byte, 256⟩
    ownLines s → 4 ≤ j → launchOf s cr.launch = some l → cr.region = some region →
    recordOf s ag obj byte = .ok r → 8 * byte + 256 ≤ storageBound r →
    (∀ ps, findAll s ag at_ false = ⟨none, [], ps⟩ → soundHere s ps = true →
      entRead s fl w j = .ok (BitVec.ofNat 256 (readPieces s [] ps))) ∧
    (∀ ps, findAll s ag at_ true = ⟨none, [], ps⟩ → (∀ q ∈ ps, ∀ dev sub bit, q.place ≠ .far dev sub bit) →
      entPut s fl w j en = .ok (storeLoc s (some (0, w)) cr.ctx at_ ps en.toNat)))

/-- `brx`, `callx` and `ret`: lanes with one aligned target go there, and `callx` leaves PC + 8 in D; a target that is no
multiple of 8 traps ALIGN; targets that differ trap UNIF (R102, R143). -/
def Obligations.IndirectTransfers : Prop :=
  ∀ i g a d, indirectForm i = some (g, a, d) → ∀ (s : State) (c : Cur) (l0 : Nat),
    let e := envOf s c
    let m := takers s c g
    let t := laneTarget s c m a l0
    let left := match d with
      | some (h, o) => setWarp s c.w (writeDest (warpAt s c.w) ⟨h, o, m⟩ 2 (fun _ => (nextPc e.pc).toNat))
      | none => s
    issuing s c = true → regsOk ((a, 2) :: linkSrc (d.map Prod.snd)) e = true → lowest e.mask = some l0 →
    (m = 0 → plain s c = true → exec i s = .next (stepped s c)) ∧
    (m ≠ 0 → (∀ l ∈ lanesOf e.mask, laneTarget s c m a l = t) → t.toNat % 8 = 0 →
      goesTo (warpAt s c.w) c.which t = true → exec i s = .next (movedTo left c t)) ∧
    (m ≠ 0 → (∀ l ∈ lanesOf e.mask, laneTarget s c m a l = t) → t.toNat % 8 ≠ 0 →
      exec i s = .next (takeTrap s e 0 ⟨3, m, t.toNat, 1⟩)) ∧
    ((∃ l ∈ lanesOf e.mask, laneTarget s c m a l ≠ t) → exec i s = .next (takeTrap s e 0
      ⟨0x0A, maskOf (fun l => e.mask.getLsbD l && laneTarget s c m a l != t), e.pc.toNat, 0⟩))

/-- `exit` ends its lanes: the others go on; when they were all that the warp had, the warp has ended; in the handler it
traps ILL (R103, R142, R309). -/
def Obligations.Exit : Prop :=
  ∀ g (s : State) (c : Cur),
    let e := envOf s c
    let m := takers s c g
    let x := warpAt s c.w
    issuing s c = true →
    (c.which = .handler → exec (.exit g) s = .next (takeTrap s e 0 ⟨1, e.mask, e.pc.toNat, 0⟩)) ∧
    (c.which ≠ .handler → m = 0 → plain s c = true → exec (.exit g) s = .next (stepped s c)) ∧
    (c.which ≠ .handler → m ≠ 0 → m ≠ e.mask → plain s c = true →
      exec (.exit g) s = .next (stepped (setWarp s c.w (withSlot { x with alive := x.alive &&& ~~~m } c.which
        (cutSlot e.sl m))) c)) ∧
    (c.which ≠ .handler → m ≠ 0 → m = e.mask → e.sl.live = true → e.sl.park = none → e.sl.path.depth = 0 →
      (slotOf x (otherSlot c.which)).live = false → x.ssn = 0 →
      exec (.exit g) s = .next (finishWarp (setWarp s c.w (withSlot { x with alive := x.alive &&& ~~~m } c.which
        Slot.free)) c.w))

/-- A path whose PC becomes its rejoin address arrives, whether it goes on to it, branches to it, or resumes there from a
park: a JOIN entry that still expects others counts one less and the slot is free; otherwise the slot holds the joined path,
with the entry's lanes that have not ended (R141). An entry of 4 or more is read and written in memory, and traps SPLIT when
it is malformed (R139; the lanes of that trap are the model's choice, log entry 11). -/
def Obligations.Reconvergence : Prop :=
  (∀ i (s : State) (c : Cur),
    let e := envOf s c
    let x := warpAt s c.w
    let d := e.sl.path.depth
    let en := x.ents.getD (d - 1) 0
    let joined := Slot.ofPath { entPath en with mask := entMask en &&& x.alive }
    issuing s c = true → c.which ≠ .handler → e.sl.live = true → e.sl.park = none → arrivesBy i s c →
    e.sl.path.rjpc ≠ noRejoin → 1 ≤ d → d = x.ssn → arrives (slotOf x (otherSlot c.which)) = false →
    (d ≤ 4 → entKind en = 2 → 1 < entCnt en → exec i s = .next (setWarp s c.w (withSlot { x with
      ents := x.ents.set (d - 1) (entMake 2 (entCnt en - 1) (entPath en)) } c.which Slot.free))) ∧
    (d ≤ 4 → entKind en = 2 → entCnt en ≤ 1 → arrives joined = false →
      ((slotOf x (otherSlot c.which)).live = true ∨ d = 1) →
      exec i s = .next (setWarp s c.w (withSlot { x with ssn := d - 1 } c.which joined))) ∧
    (∀ far, 4 < d → entRead s e.sl.failed c.w (d - 1) = .ok far →
      (entMalformed far = true → exec i s = .next (takeTrap s e 0 ⟨0x0B, e.mask, e.pc.toNat, 2⟩)) ∧
      (∀ t left, entMalformed far = false → 1 < entCnt far →
        entPut (setSlot s c.w c.which Slot.free) e.sl.failed c.w (d - 1)
          (entMake 2 (entCnt far - 1) (entPath far)) = .ok t →
        entRead t e.sl.failed c.w (d - 1) = .ok left → entKind left = 2 → exec i s = .next t) ∧
      (∀ path, path = Slot.ofPath { entPath far with mask := entMask far &&& x.alive } →
        entMalformed far = false → entCnt far ≤ 1 → arrives path = false →
        (slotOf x (otherSlot c.which)).live = true →
        exec i s = .next (setWarp s c.w (withSlot { x with ssn := d - 1 } c.which path))))) ∧
  (∀ (s : State) w k p,
    let x := warpAt s w
    let sl := slotOf x k
    let d := sl.path.depth
    let en := x.ents.getD (d - 1) 0
    let joined := Slot.ofPath { entPath en with mask := entMask en &&& x.alive }
    k ≠ .handler → sl.live = true → sl.park = some p → sl.path.pc = sl.path.rjpc → sl.path.rjpc ≠ noRejoin → 1 ≤ d →
    d ≤ 4 → d = x.ssn → arrives (slotOf x (otherSlot k)) = false → entKind en = 2 →
    (1 < entCnt en → resumeSlot s w k = setWarp s w (withSlot { x with
      ents := x.ents.set (d - 1) (entMake 2 (entCnt en - 1) (entPath en)) } k Slot.free)) ∧
    (entCnt en ≤ 1 → arrives joined = false → ((slotOf x (otherSlot k)).live = true ∨ d = 1) →
      resumeSlot s w k = setWarp s w (withSlot { x with ssn := d - 1 } k joined)))

/-- `trap`, `brk` and the words of major 0x00 raise their traps; under DBGEN `brk` instead halts the warp at the next
instruction (R88, R105, R106, R326). -/
def Obligations.SoftwareTraps : Prop :=
  ∀ g (code : BitVec 8) (s : State) (c : Cur),
    let e := envOf s c
    let m := takers s c g
    issuing s c = true →
    exec .ill s = .next (takeTrap s e 0 ⟨1, e.mask, e.pc.toNat, 0⟩) ∧
    (m ≠ 0 → exec (.trap g code) s = .next (takeTrap s e 0 ⟨0x14, m, 0, code.toNat⟩)) ∧
    (m ≠ 0 → bits (dbgctl s c.w) 0 1 = 0 → exec (.brk g code) s = .next (takeTrap s e 0 ⟨0x14, m, 0, 0x100 + code.toNat⟩)) ∧
    (m ≠ 0 → bits (dbgctl s c.w) 0 1 = 1 → bits (dbgctl s c.w) 2 2 = 0 → plain s c = true →
      exec (.brk g code) s = .next (setWarp (stepped s c) c.w
        { warpAt (stepped s c) c.w with halt := .halted, step := false })) ∧
    (m = 0 → plain s c = true → exec (.trap g code) s = .next (stepped s c) ∧ exec (.brk g code) s = .next (stepped s c))

/-- A trap that an instruction takes in user mode is queued behind those of earlier instructions, with the record that
R307 lays out; in supervisor mode it breaks the launch with FAULT and the cause (R309). -/
def Obligations.TrapRecords : Prop :=
  (∀ (s : State) (c : Cur) (fslot : Nat) (r : Raise), (warpAt s c.w).mode = .supervisor →
    takeTrap s (envOf s c) fslot r = breakLaunch s (crewOf s c.w).launch 2 r.cause) ∧
  ∀ (s : State) (c : Cur) (fslot : Nat) (r : Raise),
    let x := warpAt s c.w
    x.mode = .user → x.gone = false → pathsDone x = false → x.tq.length < 8 →
    ∃ b : BitVec 256,
      takeTrap s (envOf s c) fslot r = setWarp s c.w { x with tq := insertTrap ⟨b, x.issued⟩ x.tq } ∧
      bits b.toNat 0 8 = r.cause % 256 ∧ bits b.toNat 8 1 = (if c.which = .b then 1 else 0) ∧ bits b.toNat 9 1 = 0 ∧
      bits b.toNat 10 6 = 0 ∧ bits b.toNat 16 4 = fslot % 16 ∧ bits b.toNat 20 12 = 0 ∧
      bits b.toNat 32 32 = r.lanes.toNat ∧ bits b.toNat 64 64 = (pcOf s c).toNat ∧
      bits b.toNat 128 64 = r.addr % 2 ^ 64 ∧ bits b.toNat 192 32 = r.detail % 2 ^ 32 ∧ bits b.toNat 224 32 = 0

/-- In user mode an instruction that only supervisor mode may run traps PRIV, whatever lanes take part (R15). -/
def Obligations.PrivilegedInstructions : Prop :=
  ∀ i (s : State) (c : Cur) ok, privileged s i = some ok → issuing s c = true → (envOf s c).x.mode = .user →
    ok (envOf s c) = true →
    exec i s = .next (takeTrap s (envOf s c) 0 ⟨2, (envOf s c).mask, (envOf s c).pc.toNat, 0⟩)

/-- Whatever a program's instruction does, it clears no bit of any warp's FFLAGS unless it is `clrflag` of the flags or a
`tret`; it puts no warp into supervisor mode; and it takes a warp out of it only as that warp's `tret`, or where the warp
ends. At a turn of a warp, a warp enters supervisor mode only by the delivery of a trap that is due to it, once the status
words that its paths wait to push are in their ports (R13, R15, R308). -/
def Obligations.StatusRegisters : Prop :=
  (∀ x i (s t : State) (c : Cur) w, decodeWord x = .ok i → s.cur = some c → w < s.warps.length → exec i s = .next t →
    let a := warpAt s w
    let b := warpAt t w
    ((∀ g r, i ≠ .clrflag g .ff r) → returns i = false → b.fflags &&& a.fflags = a.fflags) ∧
    (a.mode = .user → b.mode = .user) ∧
    (a.mode = .supervisor → b.mode = .user → (returns i = true ∧ w = c.w) ∨ b.alive = 0)) ∧
  (∀ (s t : State) w v, v < s.warps.length → takeIssue s w = .next t → (warpAt s v).mode = .user →
    (warpAt t v).mode = .supervisor →
    let u := endPaths (pushHanded s w) w
    v = w ∧ trapDue (warpAt u w) = true ∧ t = deliverTrap u w)

/-- The five trap returns, in a handler with a lane taking part (R321, R322). -/
def Obligations.TrapReturns : Prop :=
  ∀ g (s : State) (c : Cur),
    let e := envOf s c
    let x := warpAt s c.w
    let pc := BitVec.ofNat 64 (x.tpc.toNat / 8 * 8)
    let cause := match x.cur with | some t => trCause t.bits | none => 0
    issuing s c = true → x.mode = .supervisor → takers s c g ≠ 0 →
    ((∀ t, x.cur = some t → trAsync t.bits = true) → exec (.tretRes g) s = .next (handlerLeft s c x.alive)) ∧
    (∀ t k, x.cur = some t → trAsync t.bits = false → k = (if trSlotB t.bits then Which.b else Which.a) →
      goesTo x k pc = true →
      exec (.tretRes g) s = .next (handlerLeft (setSlot s c.w k (resumedSlot (slotOf x k) pc (trCause t.bits))) c x.alive)) ∧
    (∀ t k, x.cur = some t → trAsync t.bits = false → k = (if trSlotB t.bits then Which.b else Which.a) → x.ssn = 0 →
      noSwaps x →
      let h := x.hdl.path.mask
      let y := { x with alive := x.alive &&& ~~~h, sa := cutSlot x.sa h, sb := cutSlot x.sb h }
      let z := withSlot y k (resumedSlot (slotOf y k) pc (trCause t.bits))
      noArrival z → exec (.tretLanes g) s = .next (handlerLeft (setWarp s c.w z) c x.alive)) ∧
    (noSwaps x → exec (.tretWarp g) s = .next (handlerLeft (setWarp s c.w { x with
      sa := Slot.free, sb := Slot.free, ssn := 0, alive := 0, tq := [] }) c x.alive)) ∧
    exec (.tretCrew g) s = .next (handlerLeft (endCrewByHandler s x.crew) c x.alive) ∧
    exec (.tretLaunch g) s = .next (handlerLeft (breakLaunch s e.cr.launch 2 cause) c x.alive)

/-- `tqpop` takes an asynchronous entry from the head of the queue as the current record and gives 1; otherwise it gives
0 and takes nothing (R320). -/
def Obligations.TrapQueuePop : Prop :=
  ∀ g d (s : State) (c : Cur) (s1 : State) (v : Nat → List Nat),
    let x := warpAt s c.w
    let m := takers s c g
    plain s c = true → x.mode = .supervisor → regsOk [(d, 1)] (envOf s c) = true → (∀ q, d ≠ .q q) →
    readSrcs s (envOf s c) m [] (some d) true = .ok (s1, v) →
    (∀ t rest, x.tq = t :: rest → m ≠ 0 → trAsync t.bits = true →
      exec (.tqpop g d) s = .next (stepped (setWarp s c.w (writeReg
        { x with tq := rest, cur := some t, tpc := trPc t.bits } d m 1 (fun _ => 1))) c)) ∧
    ((x.tq = [] ∨ m = 0 ∨ ∃ t rest, x.tq = t :: rest ∧ trAsync t.bits = false) →
      exec (.tqpop g d) s = .next (stepped (setWarp s c.w (writeReg x d m 1 (fun _ => 0))) c))

/-- `csrr` gives D the value of a control register, in supervisor mode, or in user mode one that user mode may read;
`csrw`, `csrs` and `csrc` in supervisor mode write the register and leave its old value in D; after a register of the
context the path has been parked, and a relocation command waits for the one before it; a register that is read only traps
ILL (R313 to R319). -/
def Obligations.ControlRegisters : Prop :=
  (∀ h d (n : BitVec 9) (s : State) (c : Cur) (s1 : State) (v : Nat → List Nat),
      plain s c = true → csrOk n.toNat = true → regsOk [(d, 1)] (envOf s c) = true → (∀ q, d ≠ .q q) →
      ((envOf s c).x.mode = .supervisor ∨ (csrInfo n.toNat).elim false (·.user) = true) →
      readSrcs s (envOf s c) (takers s c h.g) [] (some d) (!h.w) = .ok (s1, v) →
      exec (.csrr h d n) s = .next (stepped (setWarp s c.w (writeDest (warpAt s c.w) ⟨h, d, takers s c h.g⟩ 1
        (fun _ => csrRead s c.w n.toNat))) c)) ∧
  (∀ i g d (n : BitVec 9) a f, csrForm i = some (g, d, n, a, f) → ∀ (s : State) (c : Cur) (s1 : State)
      (v : Nat → List Nat) (l : Nat),
      let e := envOf s c
      let m := takers s c g
      let ix := n.toNat
      let old := csrRead s c.w ix
      let val := f old ((v l).getD 0 0)
      plain s c = true → e.x.mode = .supervisor → csrOk ix = true → csrReadOnly ix = false →
      regsOk (csrDst d ++ [(a, 1)]) e = true → (∀ h q, d ≠ some (h, .q q)) → lowest m = some l →
      readSrcs s e m [(a, 1)] (d.map Prod.snd) (csrPush d) = .ok (s1, v) →
      (∀ x, ownRegister (warpAt s1 c.w) ix val = some x →
        exec i s = .next (stepped (setWarp s1 c.w (csrOld x d m old)) c)) ∧
      (∀ x t, 0x040 ≤ ix → ctxGet s e.cr.ctx = some x → contextRegister s1 e.cr.ctx x ix val e.cr.tower = some t →
        exec i s = .next (markedStale (stepped (setWarp t c.w (csrOld (warpAt t c.w) d m old)) c) c)) ∧
      (∀ x, ix = 0x09C → ctxGet s e.cr.ctx = some x → csrStored ix (csrN x ix) val = 1 → x.rlCmd.isSome = true →
        exec i s = .next (retrying s c (.reissue .relocation)))) ∧
  (∀ i g d (n : BitVec 9) a f, csrForm i = some (g, d, n, a, f) → ∀ (s : State) (c : Cur),
      let e := envOf s c
      issuing s c = true → e.x.mode = .supervisor → csrOk n.toNat = true → csrReadOnly n.toNat = true →
      regsOk (csrDst d ++ [(a, 1)]) e = true → exec i s = .next (takeTrap s e 0 ⟨1, e.mask, e.pc.toNat, 0⟩))

/-- `yield` exchanges the path with a spilled one on top of the split stack, and otherwise lets other paths of the spire
issue first (R104, R171); a malformed entry on top traps SPLIT; in the handler, and with no lane, it only goes on. `pyield` only goes on while no pre-emption is
requested; under a request the path parks at the next instruction with the dead resources that it names; it must be the
warp's only path (R335). -/
def Obligations.Yields : Prop :=
  (∀ g (s : State) (c : Cur),
      let e := envOf s c
      let x := warpAt s c.w
      let n := x.ssn
      let top := x.ents.getD (n - 1) 0
      plain s c = true →
      ((takers s c g = 0 ∨ c.which = .handler) → exec (.yield g) s = .next (stepped s c)) ∧
      (takers s c g ≠ 0 → c.which ≠ .handler → (n = 0 ∨ (n ≤ 4 ∧ entMalformed top = false ∧ entKind top ≠ 1)) →
        exec (.yield g) s = .next (stepped (setSlot s c.w c.which { e.sl with aside := true }) c)) ∧
      (∀ en, takers s c g ≠ 0 → c.which ≠ .handler → 1 ≤ n → entRead s e.sl.failed c.w (n - 1) = .ok en →
        entMalformed en = true → exec (.yield g) s = .next (takeTrap s e 0 ⟨0x0B, takers s c g, e.pc.toNat, 2⟩)) ∧
      (takers s c g ≠ 0 → c.which ≠ .handler → 1 ≤ n → n ≤ 4 → entMalformed top = false → entKind top = 1 →
        arrives (Slot.ofPath (entPath top)) = false →
        exec (.yield g) s = .next (setWarp s c.w (withSlot { x with
          ents := x.ents.set (n - 1) (entMake 1 0 { e.sl.path with pc := nextPc e.pc }) } c.which
          (Slot.ofPath (entPath top)))))) ∧
  (∀ g (dead : BitVec 3) (s : State) (c : Cur),
      let e := envOf s c
      let m := takers s c g
      plain s c = true →
      ((m = 0 ∨ e.x.mode = .supervisor) → exec (.pyield g dead) s = .next (stepped s c)) ∧
      (m ≠ 0 → e.x.mode = .user → e.x.alive &&& ~~~e.mask = 0 → e.cr.req = none →
        exec (.pyield g dead) s = .next (stepped s c)) ∧
      (m ≠ 0 → e.x.mode = .user → e.x.alive &&& ~~~e.mask = 0 → e.cr.req ≠ none →
        exec (.pyield g dead) s = .next (setSlot s c.w c.which { e.sl with
          park := some (.pyield dead), path := { e.sl.path with pc := nextPc e.pc }, turned := none })) ∧
      (m ≠ 0 → e.x.mode = .user → e.x.alive &&& ~~~e.mask ≠ 0 →
        exec (.pyield g dead) s = .next (takeTrap s e 0 ⟨0x0A, e.x.alive &&& ~~~e.mask, e.pc.toNat, 0⟩)))


/-- Global loads whose data lies on this device and carries no error give D the bits of the elements, extended as R110
says, or packed (R25, R107 to R110, R112). What the engine paths see stays as it was; that a load makes what it has read
known for a later `fencex` is the model's choice (log entry 4). -/
def Obligations.GlobalLoads : Prop :=
  ∀ i r, loadShape i = some r → ∀ (s : State) (c : Cur) (val : Nat → Nat),
    let e := envOf s c
    let m := takers s c r.h.g
    let x := warpAt s c.w
    let args := ((launchOf s e.cr.launch).map (·.args)).getD []
    plain s c = true → regsOk ((r.d, r.k) :: globalSrcs r.m.b r.m.a) e = true → (∀ q, r.d ≠ .q q) →
    (∀ l ∈ lanesOf m, ∃ fs, located s c r.m r.n ⟨some .r, false, r.n.isSome⟩ true false l = some fs ∧
      allHere fs = true ∧ anyPoison s fs = false ∧ val l = r.post (valueAt s args fs)) →
    ∃ vs, sameViews s vs ∧ exec i s = .next (stepped (setWarp { s with views := vs } c.w (writeDest
      { x with lastLd := some ⟨e.pc, ⟨r.h, r.d, m⟩, r.k, x.issued, 0⟩ } ⟨r.h, r.d, m⟩ r.k val)) c)

/-- Global stores to memory of this device that no other device caches: every lane's checks come first, then the lanes
write in ascending order, each its element bits and no other (R32, R109, R111, R112). -/
def Obligations.GlobalStores : Prop :=
  ∀ i g mo d k n, storeShape i = some (g, mo, d, k, n) → ∀ (s : State) (c : Cur),
    let m := takers s c g
    plain s c = true → regsOk ((d, k) :: globalSrcs mo.b mo.a) (envOf s c) = true → ownLines s →
    (∀ l ∈ lanesOf m, ∃ fs, located s c mo n ⟨some .w, true, n.isSome⟩ false true l = some fs ∧ allHere fs = true) →
    exec i s = .next (stepped (storedLanes s c mo d k n m) c)

/-- A global store leaves every byte as it was, but for those of its elements, the residency entries that it marks dirty
and the dirty log (R25, R111, R246, R259). -/
def Obligations.StoreFrame : Prop :=
  ∀ i g mo d k n, storeShape i = some (g, mo, d, k, n) → ∀ (s t : State) (c : Cur) (a : Nat),
    let m := takers s c g
    plain s c = true → regsOk ((d, k) :: globalSrcs mo.b mo.a) (envOf s c) = true → ownLines s →
    (∀ l ∈ lanesOf m, ∃ fs, located s c mo n ⟨some .w, true, n.isSome⟩ false true l = some fs ∧ allHere fs = true ∧
      ∀ p ∈ fs, inEntry p.1 a = false ∧ ∀ q ∈ p.2.pieces, inPiece q a = false) →
    inDirtyRing s (envOf s c).cr.ctx a = false →
    exec i s = .next t → memGet t.mem a = memGet s.mem a

/-- A load or store that a check of R109 or R240 stops in a lane traps with the cause, detail and address of the lowest
such lane, and the mask of the lanes that fail with that cause; nothing is written (R32, R109). -/
def Obligations.AccessTraps : Prop :=
  ∀ i g mo d k n rd, (∃ r, loadShape i = some r ∧ (g, mo, d, k, n, rd) = (r.h.g, r.m, r.d, r.k, r.n, true)) ∨
      (storeShape i = some (g, mo, d, k, n) ∧ rd = false) →
    ∀ (s : State) (c : Cur) (l : Nat) (f : Fail) (addr : Nat),
    let e := envOf s c
    let m := takers s c g
    let nd : Need := ⟨some (if rd then .r else .w), !rd, n.isSome⟩
    let idx := globalIndex e.x mo.b mo.a mo.sc.toNat (sx 16 mo.off.toNat)
    let steps := fun l => laneSteps s e (idx l).1 rd (!rd) (match n with
      | some w => planFixed s e idx w nd l
      | none => planPacked s e idx nd l)
    issuing s c = true → regsOk ((d, k) :: globalSrcs mo.b mo.a) e = true → l ∈ lanesOf m →
    steps l = .error (f, addr) → (∀ j ∈ lanesOf m, j < l → ∃ fs, steps j = .ok fs) → f.cause ≠ 0x15 →
    exec i s = .next (takeTrap s e 0 ⟨f.cause,
      maskOf (fun j => m.getLsbD j && (match steps j with | .error y => y.1.cause == f.cause | .ok _ => false)),
      addr, f.detail⟩)

/-- Scratchpad loads give D the bytes at each lane's address; scratchpad stores write them, in ascending lane order
(R162 to R164). -/
def Obligations.ScratchpadAccesses : Prop :=
  (∀ i h mo d k, ldsShape i = some (h, mo, d, k) → ∀ (s : State) (c : Cur),
    let e := envOf s c
    let m := takers s c h.g
    let at_ := scratchAt s c mo.b mo.a mo.sc (sx 16 mo.off.toNat)
    plain s c = true → regsOk ((d, k) :: scratchSrcs mo.b mo.a) e = true → (∀ q, d ≠ .q q) →
    (∀ l ∈ lanesOf m, scratchFits s c (at_ l) (4 * k)) →
    exec i s = .next (stepped (setWarp s c.w (writeDest (warpAt s c.w) ⟨h, d, m⟩ k
      (fun l => memNat e.cr.scr (at_ l).toNat (4 * k)))) c)) ∧
  (∀ i g mo d k, stsShape i = some (g, mo, d, k) → ∀ (s : State) (c : Cur),
    let e := envOf s c
    let m := takers s c g
    let at_ := scratchAt s c mo.b mo.a mo.sc (sx 16 mo.off.toNat)
    plain s c = true → regsOk ((d, k) :: scratchSrcs mo.b mo.a) e = true →
    (∀ l ∈ lanesOf m, scratchFits s c (at_ l) (4 * k)) →
    exec i s = .next (stepped (setCrew s e.c { e.cr with scr := (lanesOf m).foldl (fun scr l =>
      memPutNat scr (at_ l).toNat (4 * k) (regNat e.x d k l)) e.cr.scr }) c))

/-- Scratchpad atomics: each lane, in ascending order, replaces the word at its address by the new value and gives D the
old one; flags and SRGEN as the slot says (R165). -/
def Obligations.ScratchpadAtomics : Prop :=
  ∀ i r, atomsShape i = some r → ∀ (s : State) (c : Cur) (s1 : State) (v : Nat → List Nat),
    let e := envOf s c
    let m := takers s c r.h.g
    let x := warpAt s1 c.w
    let gen := if r.draws e.x m then genStep x.srgen else x.srgen
    let run := scratchRun s c r m v (if r.draws e.x m then genOut gen else 0)
    let t := setCrew s1 e.c { crewAt s1 e.c with scr := run.1 }
    plain s c = true → regsOk ((r.d, r.k) :: (r.c, r.k) :: scratchSrcs r.m.b r.m.a) e = true → r.legal e.x = true →
    (∀ q, r.d ≠ .q q) → (∀ l ∈ lanesOf m, scratchFits s c (scratchAt s c r.m.b r.m.a r.m.sc 0 l) (4 * r.k)) →
    readSrcs s e m (if r.swap then [(r.c, r.k), (r.d, r.k)] else [(r.c, r.k)]) (some r.d) (!r.h.w) = .ok (s1, v) →
    exec i s = .next (stepped (setWarp t c.w (writeDest
      { x with srgen := gen, fflags := x.fflags ||| BitVec.ofNat 32 run.2.2 } ⟨r.h, r.d, m⟩ r.k
      (oldOf run.2.1))) c)

/-- Global atomics on memory of this device that no other device caches, outside an order log: each lane, in ascending
order, replaces its word by the new value and gives D the old one (R272, R273). One that is a logged event counts SEQ (R277,
R278); that it counts in every mode of OLCTL is the model's reading (log entry 14). -/
def Obligations.GlobalAtomics : Prop :=
  ∀ i r, atomShape i = some r → ∀ (s : State) (c : Cur),
    let e := envOf s c
    let m := takers s c r.h.g
    let x := warpAt s c.w
    let gen := if r.draws x m then genStep x.srgen else x.srgen
    let logged := m ≠ 0 ∧ (r.f.isSome = true ∨ r.h.w = false ∨ r.h.l.isSome = true)
    plain s c = true → regsOk ((r.d, r.k) :: (r.c, r.k) :: globalSrcs r.m.b r.m.a) e = true → r.legal x = true →
    (∀ q, r.d ≠ .q q) → ownLines s → (slotOf x c.which).turned = none →
    (∀ k, ctxGet s e.cr.ctx = some k → bits (csrN k 0x074) 0 2 = 0) →
    (∀ l ∈ lanesOf m, ∃ p, atomLocated s c r l = some p ∧ allHere [p] = true ∧ anyPoison s [p] = false) →
    ∃ vs, sameViews s vs ∧
    let run := atomRun { s with views := vs } c r m (if r.draws x m then genOut gen else 0)
    exec i s = .next (stepped (setWarp run.s c.w (writeDest
      { x with srgen := gen, fflags := x.fflags ||| BitVec.ofNat 32 run.flags
               olseq := if logged then x.olseq + 1 else x.olseq
               lastLd := some ⟨e.pc, ⟨r.h, r.d, m⟩, r.k, x.issued, r.f.elim 0 (·.val)⟩ } ⟨r.h, r.d, m⟩ r.k
      (oldOf run.olds))) c)

/-- `prom`, `prom.pin` and `dem` complete: each row of the range that lies in the local far class, once and in ascending element
order, is promoted in its bank's slots or leaves them, and D is the count: of the rows that found all slots pinned, or of the rows demoted (R250 to
R252, R256). That the rows of one instruction are taken in one step is the model's choice (log entry 11). -/
def Obligations.RowPromotion : Prop :=
  ∀ i h d a b f, rowForm i = some (h, d, a, b, f) → ∀ (s : State) (c : Cur) (s1 : State) (v : Nat → List Nat) (l : Nat)
    (r : Rec),
    let e := envOf s c
    let m := takers s c h.g
    let addr := (v l).getD 0 0
    let n := (v l).getD 1 0
    let places := (List.range n).flatMap (fun k => (elemLines r (bits addr 0 42 + k)).filterMap (fun line =>
      match lineFrame s1 e.cr.ctx (bits addr 42 22) r (replicaOf r (some e.cr.tower)) line with
      | some (frame, 0) => some ((hbmPlace ((frame * 512 + line % 512) * 128)).number,
          (hbmPlace ((frame * 512 + line % 512) * 128)).row)
      | _ => none))
    plain s c = true → regsOk [(d, 1), (a, 2), (b, 1)] e = true → (∀ q, d ≠ .q q) → lowest m = some l →
    (e.x.mode = .supervisor ∨ (∀ h d a b, i ≠ .promPin h d a b) ∨
      ∃ x, ctxGet s e.cr.ctx = some x ∧ bits (csrN x 0x046) 0 1 = 1) →
    readSrcs s e m [(a, 2), (b, 1)] (some d) (!h.w) = .ok (s1, v) → checkRange s1 e m addr n = .ok r →
    ∃ rows t count, rows.Nodup ∧ (∀ x, x ∈ rows ↔ x ∈ places) ∧
      rows.Pairwise (fun x y => places.idxOf x < places.idxOf y) ∧ rowsTaken f rows s1 t count ∧
      exec i s = .next (markedStale (stepped (setWarp t c.w (writeDest (warpAt t c.w) ⟨h, d, m⟩ 1
        (fun _ => count))) c) c)

/-- `objq.rec` gives a word of an object's record, `objq.res` the residency entry of an element (R257). -/
def Obligations.ObjectQueries : Prop :=
  (∀ h d a b (s : State) (c : Cur) (s1 : State) (v : Nat → List Nat),
    let e := envOf s c
    let m := takers s c h.g
    let r := fun l => objqWords s1 e (bits ((v l).getD 0 0) 42 22)
    plain s c = true → regsOk [(d, 1), (a, 2), (b, 1)] e = true → (∀ q, d ≠ .q q) →
    readSrcs s e m [(a, 2), (b, 1)] (some d) (!h.w) = .ok (s1, v) →
    (∀ l ∈ lanesOf m, recV (r l) = true ∧ (v l).getD 1 0 ≤ 63 ∧
      (bits ((v l).getD 0 0) 42 22 = Config.argObject ∨ recordSoft s1 e.cr.ctx (bits ((v l).getD 0 0) 42 22) = false)) →
    exec (.objqRec h d a b) s = .next (stepped (setWarp s1 c.w (writeDest (warpAt s1 c.w) ⟨h, d, m⟩ 1
      (fun l => rw (r l) ((v l).getD 1 0)))) c)) ∧
  (∀ h d a (s : State) (c : Cur) (s1 : State) (v : Nat → List Nat) (val : Nat → Nat),
    let e := envOf s c
    let m := takers s c h.g
    let ag := warpAgent s1 c.w
    plain s c = true → regsOk [(d, 2), (a, 2)] e = true → (∀ q, d ≠ .q q) →
    readSrcs s e m [(a, 2)] (some d) (!h.w) = .ok (s1, v) →
    (∀ l ∈ lanesOf m,
      let obj := bits ((v l).getD 0 0) 42 22
      let i := bits ((v l).getD 0 0) 0 42
      ∃ r loc, recordOf s1 ag obj i = .ok r ∧ checkShape s1 ag obj i (recEW r) ⟨none, false, false⟩ = .ok loc ∧
        ((obj = Config.argObject ∧ val l = 2 ^ 63 + 2 ^ 58) ∨ (obj ≠ Config.argObject ∧ recRtab r ≠ 0 ∧
          entrySoft s1 e.cr.ctx obj r (loc.a / 2 ^ 19) (replicaOf r (some e.cr.tower)) = false ∧
          entryOf s1 e.cr.ctx obj r (loc.a / 2 ^ 19) (replicaOf r (some e.cr.tower)) = some (val l)))) →
    exec (.objqRes h d a) s = .next (stepped (setWarp s1 c.w (writeDest (warpAt s1 c.w) ⟨h, d, m⟩ 2 val)) c))

/-- `cinv.i` drops the instruction cache's copies of the lines of a range; `cflush` and `cinv.d` change nothing that this
model holds (R249, R258; that L1 and L2 hold no old data is the model's choice, log entry 4). `orinv` drops the walkers'
copies of an object, of a sub-tile, or of the whole context, whose directory is then the one that ORTBASE names, once the writes
sent under them have been performed (R323, R345). -/
def Obligations.CacheMaintenance : Prop :=
  (∀ g (selI selD : Bool) a b (s : State) (c : Cur) (s1 : State) (v : Nat → List Nat) (l : Nat) (r : Rec),
      let e := envOf s c
      let m := takers s c g
      let addr := (v l).getD 0 0
      let n := (v l).getD 1 0
      let lines := (rangeLines s1 e r (bits addr 42 22) (bits addr 0 42) n (replicasOf r)).map Prod.fst
      let gone := { s1 with caches := { s1.caches with
        ilines := s1.caches.ilines.filter (fun k => !lines.contains k.line) } }
      plain s c = true → regsOk [(a, 2), (b, 1)] e = true → lowest m = some l →
      readSrcs s e m [(a, 2), (b, 1)] none false = .ok (s1, v) → checkRange s1 e m addr n = .ok r →
      exec (.cflush g a b) s = .next (markedStale (stepped s1 c) c) ∧
      exec (.cinv g selI selD a b) s = .next (markedStale (stepped (if selI then gone else s1) c) c)) ∧
  (∀ g a (s : State) (c : Cur) (l : Nat),
      let e := envOf s c
      let addr := regNat e.x a 2 l
      let kept := fun (orc : OrcEnt → Bool) (res : ResEnt → Bool) => { s with caches := { s.caches with
        orc := s.caches.orc.filter (fun k => !orc k), res := s.caches.res.filter (fun k => !res k) } }
      let sameObj := fun (k : SubTile) => k.ctx == e.cr.ctx && k.obj == bits addr 42 22
      plain s c = true → e.x.mode = .supervisor → lowest (takers s c g) = some l →
      (regsOk [(a, 2)] e = true → writesOpen s e.cr.ctx (some (bits addr 42 22)) none = false → exec (.orinvObj g a) s = .next (markedStale (stepped
        (kept (fun k => k.ctx == e.cr.ctx && k.obj == bits addr 42 22) (fun k => sameObj k.t)) c) c)) ∧
      (∀ r loc, regsOk [(a, 2)] e = true → recordOf s (warpAgent s c.w) (bits addr 42 22) (bits addr 0 42) = .ok r →
        checkShape s (warpAgent s c.w) (bits addr 42 22) (bits addr 0 42 : Nat) (recEW r) ⟨none, false, false⟩ = .ok loc →
        writesOpen s e.cr.ctx (some loc.obj) (some (loc.a / 2 ^ 19)) = false →
        exec (.orinvSub g a) s = .next (markedStale (stepped (kept (fun _ => false) (fun k =>
          k.t.ctx == e.cr.ctx && k.t.obj == loc.obj && k.t.sub == loc.a / 2 ^ 19)) c) c)) ∧
      (∀ x, ctxGet s e.cr.ctx = some x → writesOpen s e.cr.ctx none none = false → exec (.orinvAll g) s = .next (markedStale (stepped
        (ctxPut (kept (fun k => k.ctx == e.cr.ctx) (fun k => k.t.ctx == e.cr.ctx)) e.cr.ctx
          { x with ortF := BitVec.ofNat 64 (csrPair x 0x044) }) c) c)))


/-- `bar.arv` arrives and goes on; `bar.sync` arrives and goes on when its arrival completes the phase, and waits
otherwise; `bar.wait` waits for the phase to turn (R149, R166). A warp with other paths traps UNIF, a count above NWARPS
traps QUEUE 8, and one that differs from the phase's traps QUEUE 5. -/
def Obligations.NamedBarriers : Prop :=
  ∀ g (n : Fin 16) b (s : State) (c : Cur) (s1 : State) (a : Nat → Nat),
    let e := envOf s c
    let m := takers s c g
    let bar := barAt (crewAt s1 e.c) n
    let t := barReached s1 e.c n (a 0)
    given s c g [] [(b, 1)] none false s1 a → e.cr.bars.length = 16 →
    (e.x.alive &&& ~~~e.mask = 0 → a 0 ≤ e.cr.warps.length → (∀ k, bar.exp = some k → k = a 0) →
      (unmoved s t c → exec (.barArv g n b) s = .next (stepped t c)) ∧
      ((barAt (crewAt t e.c) n).phase ≠ bar.phase → unmoved s t c → exec (.barSync g n b) s = .next (stepped t c)) ∧
      ((barAt (crewAt t e.c) n).phase = bar.phase → exec (.barSync g n b) s = .next (waiting t c (.bar n bar.phase)))) ∧
    (e.x.alive &&& ~~~e.mask = 0 → exec (.barWait g n) s = .next (waiting s c (.bar n (barAt e.cr n).phase))) ∧
    (e.x.alive &&& ~~~e.mask ≠ 0 → traps (.barWait g n) s c 0 0x0A (e.x.alive &&& ~~~e.mask) e.pc.toNat 0) ∧
    (∀ i ∈ [Instr.barSync g n b, Instr.barArv g n b],
      (e.x.alive &&& ~~~e.mask ≠ 0 → traps i s c 0 0x0A (e.x.alive &&& ~~~e.mask) e.pc.toNat 0) ∧
      (e.x.alive &&& ~~~e.mask = 0 → e.cr.warps.length < a 0 → traps i s c 0 0x0D m e.pc.toNat 8) ∧
      (∀ k, e.x.alive &&& ~~~e.mask = 0 → a 0 ≤ e.cr.warps.length → bar.exp = some k → k ≠ a 0 →
        traps i s c 0 0x0D m e.pc.toNat 5))

/-- The mbar forms on an object at an aligned offset in the window (R150, R151, R167, R168). -/
def Obligations.MbarObjects : Prop :=
  ∀ (h : Hdr) (d a b : Opnd) (p : Pred) (s : State) (c : Cur) (s1 : State) (v : Nat → Nat),
    let e := envOf s c
    let m := takers s c h.g
    let off := v 0
    let o := mbarObj (memNat (crewAt s1 e.c).scr off 16)
    let one := mbarArrival o 0
    let two := mbarArrival o (sx 32 (v 1))
    let bit0 := v 1 % 2 == 1
    off % 16 = 0 → off + 16 ≤ e.cr.scrLen → (∀ q, d ≠ .q q) →
    (∀ t, t = mbarStored s1 e.c off ⟨v 1, v 1, 0, false, true, false, 0⟩ →
      given s c h.g [] [(a, 1), (b, 1)] none false s1 v → 1 ≤ v 1 → v 1 < 2 ^ 16 → unmoved s t c →
      exec (.mbarInit h.g a b) s = .next (stepped t c)) ∧
    (∀ t, t = mbarStored s1 e.c off one → given s c h.g [(d, 1)] [(a, 1)] (some d) (!h.w) s1 v → o.init = true →
      unmoved s t c → exec (.mbarArv h d a) s = .next (wrote t c h d m 1 (fun _ => if o.ph then 1 else 0))) ∧
    (∀ t, t = mbarStored s1 e.c off two → given s c h.g [(d, 1)] [(a, 1), (b, 1)] (some d) (!h.w) s1 v → o.init = true →
      unmoved s t c → exec (.mbarArvtx h d a b) s = .next (wrote t c h d m 1 (fun _ => if o.ph then 1 else 0))) ∧
    (given s c h.g [] [(a, 1), (b, 1)] none false s1 v → o.init = true →
      exec (.mbarTest h p a b) s = .next (stepped (setWarp s1 c.w (writePred (warpAt s1 c.w) h p m
        (fun _ => o.ph != bit0))) c) ∧
      (o.ph ≠ bit0 → exec (.mbarWait h.g a b) s = .next (stepped s1 c)) ∧
      (o.ph = bit0 → exec (.mbarWait h.g a b) s = .next (waiting s1 c (.mbar off bit0)))) ∧
    (given s c h.g [] [(a, 1)] none false s1 v → o.init = true → (∀ w ∈ (crewAt s1 e.c).warps, waitsFor s1 w off = false) →
      exec (.mbarInval h.g a) s = .next (stepped (setCrew s1 e.c { crewAt s1 e.c with
        scr := memPutNat (crewAt s1 e.c).scr off 16 (mbarWord { o with init := false }) }) c)) ∧
    (given s c h.g [(d, 1)] [(a, 1)] (some d) (!h.w) s1 v → o.init = false →
      traps (.mbarArv h d a) s c 0 0x0D m e.pc.toNat 4)

/-- `qctl.qbind` binds a channel to two roles with a depth, or unbinds it, when it is empty and no path waits for it
(R169). `xswap` waits for its partner's, and when that is there gives each side the other's words, and each has exchanged once more (R157). -/
def Obligations.ChannelsAndSwap : Prop :=
  (∀ g (d : Fin 6) a (s : State) (c : Cur) (s1 : State) (v : Nat → Nat),
    let e := envOf s c
    let cr := crewAt s1 e.c
    let bound := fun (x : Chan) => stepped (setCrew s1 e.c { cr with chans := cr.chans.set d.val x }) c
    given s c g [] [(a, 1)] none false s1 v → (chanOf cr d.val).entries = [] →
    (∀ w ∈ cr.warps, parkedOnPort s1 w d.val = false) →
    (bits (v 0) 31 1 = 1 → bits (v 0) 9 22 = 0 → 1 ≤ bits (v 0) 4 5 → bits (v 0) 4 5 ≤ 16 →
      roleDeclared s1 e (bits (v 0) 0 2) = true → roleDeclared s1 e (bits (v 0) 2 2) = true →
      exec (.qctlQbind g d a) s = .next (bound ⟨true, bits (v 0) 0 2, bits (v 0) 2 2, bits (v 0) 4 5, []⟩)) ∧
    (v 0 = 0 → exec (.qctlQbind g d a) s = .next (bound ⟨false, 0, 0, 0, []⟩))) ∧
  (∀ h d a (s : State) (c : Cur) (s1 : State) (v : Nat → List Nat),
    let e := envOf s c
    let m := takers s c h.g
    let own := tab (fun l => BitVec.ofNat 32 ((v l).getD 0 0))
    let s2 := setWarp s1 c.w { warpAt s1 c.w with xsn := (warpAt s1 c.w).xsn + 1 }
    plain s c = true → regsOk [(d, 1), (a, 1)] e = true → (∀ q, d ≠ .q q) → m ≠ 0 → e.x.alive &&& ~~~e.mask = 0 →
    inPairLaunch s e = true → partnerEnded s e = false →
    readSrcs s e m [(a, 1)] (some d) (!h.w) = .ok (s1, v) →
    (partnerPark s1 e = none → exec (.xswap h d a) s = .next (retrying s1 c (.xswap ⟨h, d, m⟩ own (dstPort (some a))))) ∧
    (∀ w k dst theirs, partnerPark s1 e = some (w, k, dst, theirs) → w ≠ c.w → w < s.warps.length → (∀ q, dst.d ≠ .q q) →
      let got := fun (mine other : List Word) (om : Mask) (l : Nat) => ((if om.getLsbD l then other else mine).getD l 0).toNat
      let y := writeDest (warpAt s2 w) dst 1 (got theirs own m)
      let s3 := setWarp s2 w { y with xsn := y.xsn + 1 }
      let sl := slotOf (warpAt s3 w) k
      bits sl.path.pc.toNat 0 42 ≠ 2 ^ 42 - 8 →
      let s4 := resumeSlot (setSlot s3 w k { sl with
        path := { sl.path with pc := nextPc sl.path.pc }, turned := none }) w k
      exec (.xswap h d a) s = .next (wrote s4 c h d m 1 (got own theirs dst.lanes))))

/-- The engine's banks, bands and planes, with no command outstanding: `macal` and `mafree` take and give back banks,
whose words are zero; `mown` sets a band; `mzero` clears rows; `mswap` exchanges the planes; `mwait` goes on (R200,
R210, R211, R213, R216, R217). -/
def Obligations.EngineState : Prop :=
  ∀ g a (s : State) (c : Cur) (s1 : State) (v : Nat → Nat),
    let e := envOf s c
    let cr := crewAt s1 e.c
    let bm : BitVec 16 := BitVec.ofNat 16 (v 0)
    let banks := (List.range 16).filter (fun b => bm.getLsbD b)
    let clear := banks.foldl (fun acc b => rowsZero acc b 0 64) cr.acc
    let size := fun (x : BitVec 16) => ((List.range 16).filter (fun b => x.getLsbD b)).length
    let nothing := plain s c = true ∧ takers s c g ≠ 0 ∧ e.cr.eng = []
    (given s c g [] [(a, 1)] none false s1 v → e.cr.eng = [] →
      (v 0 < 2 ^ 16 → bm &&& cr.abank = 0 → size cr.abank + size bm ≤ cr.accb →
        exec (.macal g a) s = .next (stepped (setCrew s1 e.c { cr with abank := cr.abank ||| bm, acc := clear }) c)) ∧
      (v 0 < 2 ^ 16 → bm &&& ~~~cr.abank = 0 →
        exec (.mafree g a) s = .next (stepped (setCrew s1 e.c { cr with abank := cr.abank &&& ~~~bm, acc := clear }) c)) ∧
      (∀ rows : Fin 64, bankWord (v 0) (rows.val + 1) → inBand e.x (bits (v 0) 0 4) (bits (v 0) 8 6) (rows.val + 1) →
        cr.abank.getLsbD (bits (v 0) 0 4) = true → exec (.mzero g rows a) s = .next (stepped (setCrew s1 e.c { cr with
          acc := rowsZero cr.acc (bits (v 0) 0 4) (bits (v 0) 8 6) (rows.val + 1) }) c))) ∧
    (∀ band : Fin 4, given s c g [] [(a, 1)] none false s1 v → bits (v 0) 4 4 = 0 → bits (v 0) 14 2 = 0 →
      bits (v 0) 23 9 = 0 → bits (v 0) 8 6 + bits (v 0) 16 7 ≤ 64 →
      (bits (v 0) 16 7 = 0 ∨ ∀ w ∈ cr.warps, w = c.w ∨ pathsDone (warpAt s1 w) = true ∨
        ∀ y ∈ (warpAt s1 w).bands, bits y.toNat 0 4 ≠ bits (v 0) 0 4 ∨
          bits y.toNat 8 6 + bits y.toNat 16 7 ≤ bits (v 0) 8 6 ∨ bits (v 0) 8 6 + bits (v 0) 16 7 ≤ bits y.toNat 8 6) →
      exec (.mown g band a) s = .next (stepped (setWarp s1 c.w { warpAt s1 c.w with
        bands := (warpAt s1 c.w).bands.set band.val (if bits (v 0) 16 7 = 0 then 0 else BitVec.ofNat 32 (v 0)) }) c)) ∧
    (nothing → e.cr.matrix = true →
      exec (.mswap g) s = .next (stepped (setCrew s e.c { e.cr with plA := e.cr.plS, plS := e.cr.plA }) c)) ∧
    (nothing → exec (.mwait g) s = .next (stepped s c)) ∧
    (plain s c = true → takers s c g ≠ 0 → e.cr.eng ≠ [] → exec (.mwait g) s = .next (waiting s c (.mwait e.cr.engSeq)))

/-- `mload` and `mstream` with sound operands are taken into the engine order at once, with the slot captured (R198, R207,
R212, R214); when its turn has come a load from the scratchpad or an object fills the shadow plane, and a stream adds the
products of its rows and the active plane to the bank (R199, R203 to R206). -/
def Obligations.EngineCommands : Prop :=
  (∀ g f (obj blk : Bool) (o : BitVec 2) a b cc (s : State) (c : Cur) (s1 : State) (v : Nat → Nat) mb l,
    let e := envOf s c
    let m := takers s c g
    let fw := slotWord e.x f
    let k := bits (v 1) 0 7
    let n := bits (v 1) 8 7
    let p := bits (v 1) 16 16
    let len := if blk then k / 48 * blockLen fw o.toNat else (n * fmW fw + 7) / 8
    given s c g [] [(a, if obj then 2 else 1), (b, 1), (cc, 1)] none false s1 v → lowest m = some l →
    fmIllegal fw = false → e.cr.matrix = true → bits (v 1) 7 1 = 0 → bits (v 1) 15 1 = 0 → 1 ≤ k → k ≤ 96 → 1 ≤ n →
    n ≤ 64 → (blk = true → 2 ≤ fmW fw ∧ fmW fw ≤ 8 ∧ o ≠ 3 ∧ (k = 48 ∨ k = 96)) → mbarAt e cc (v 2) mb →
    (obj = false → (if blk then len ≤ p else n * fmW fw ≤ 8 * p) →
      v 0 + (if blk then (n - 1) * p else (k - 1) * p) + len ≤ e.cr.scrLen →
      exec (.mload g f obj blk o a b cc) s = .next (stepped (engineTakes s1 e m l f true false blk o.toNat (v 0) (v 1) mb) c)) ∧
    (∀ ro, obj = true → mloadObjCheck s1 e m blk fw (v 0) (v 1) = .ok (ro, []) →
      exec (.mload g f obj blk o a b cc) s = .next (stepped (engineTakes s1 e m l f true true blk ro (v 0) (v 1) mb) c))) ∧
  (∀ g f (blk : Bool) (o : BitVec 2) a b cc (s : State) (c : Cur) (s1 : State) (v : Nat → Nat) mb l,
    let e := envOf s c
    let m := takers s c g
    let fw := slotWord e.x f
    let rows := bits (v 1) 0 7
    let q := bits (v 1) 20 12
    let k := e.cr.plA.k
    let len := if blk then k / 48 * blockLen fw o.toNat else (k * fmW fw + 7) / 8
    given s c g [] [(a, 1), (b, 1), (cc, 1)] none false s1 v → lowest m = some l → fmIllegal fw = false →
    e.cr.matrix = true → e.cr.plA.valid = true → bits (v 1) 7 1 = 0 → bits (v 1) 19 1 = 0 → 1 ≤ rows →
    bits (v 1) 12 6 + rows ≤ 64 → (blk = true → 2 ≤ fmW fw ∧ fmW fw ≤ 8 ∧ o ≠ 3) →
    (blk = true ∨ e.cr.plA.blk = true → k = 48 ∨ k = 96) → (if blk then len ≤ q else k * fmW fw ≤ 8 * q) →
    e.cr.abank.getLsbD (bits (v 1) 8 4) = true → mbarAt e cc (v 2) mb → v 0 + (rows - 1) * q + len ≤ e.cr.scrLen →
    exec (.mstream g f blk o a b cc) s = .next (stepped (engineTakes s1 e m l f false false blk o.toNat (v 0) (v 1) mb) c)) ∧
  (∀ (s : State) (k : Nat) (cmd : EngCmd) rest,
    let cr := crewAt s k
    k < s.crews.length → cr.eng = cmd :: rest → engFrozen s cmd.warp = false →
    (cmd.load = true → cmd.obj = false → exec (.mloadComplete k none) s = .next (engineEnds (setCrew s k { cr with
      eng := rest, plS := planeOf8 cmd (scrW (cmdScr cr.scr cmd) cmd) }) k cmd)) ∧
    (∀ s1 r, cmd.load = true → cmd.obj = true → readTile s k cmd = (s1, r) → r.units = [] → r.wait = false → r.fail = none →
      s1.crews = s.crews → exec (.mloadComplete k none) s = .next (engineEnds (setCrew s1 k { cr with
        eng := rest, plS := planeOf8 cmd (tileW cmd r.vals) }) k cmd)) ∧
    (cmd.load = false → cmd.warp < s.warps.length →
      let out := (List.range (bits cmd.cfg.toNat 0 7)).foldl (fun (acc : Memory × List Nat) r =>
        let row := bits cmd.cfg.toNat 12 6 + r
        let at_ := fun n => bits cmd.cfg.toNat 8 4 * 2 ^ 14 + 256 * row + 4 * n
        let sums := (List.range cr.plA.n).map (fun n => (n, exactSum
          (if bits cmd.cfg.toNat 18 1 = 1 then 0 else BitVec.ofNat 32 (memNat acc.1 (at_ n) 4))
          ((List.range cr.plA.k).map (fun i => (streamA (cmdScr cr.scr cmd) cmd r i, planeW cr.plA i n)))))
        (sums.foldl (fun a p => memPutNat a (at_ p.1) 4 p.2.code) acc.1, acc.2 ++ sums.map (fun p => p.2.flags))) (cr.acc, [])
      let t := setCrew s k { cr with eng := rest, acc := out.1 }
      exec (.mstreamComplete k false) s = .next (engineEnds (setWarp t cmd.warp { warpAt t cmd.warp with
        accstat := (warpAt t cmd.warp).accstat ||| BitVec.ofNat 32 (orFlags out.2) }) k cmd)))

/-- `mdrain` rounds rows of a bank into a register range under its slot, zeroes for a bank that is not allocated, and may
clear them; `mfill` puts the elements of a register range into the bank as binary32 (R215, R216). -/
def Obligations.EngineTransfers : Prop :=
  ∀ g f (rows : Fin 64) d a (s : State) (c : Cur) (s1 : State) (v : Nat → Nat),
    let e := envOf s c
    let m := takers s c g
    let fw := slotWord e.x f
    let nr := rows.val + 1
    let total := regsPerRow fw * nr
    let b := bits (v 0) 0 4
    let row0 := bits (v 0) 8 6
    let cr := crewAt s1 e.c
    let x := warpAt s1 c.w
    given s c g [] [(a, 1)] none false s1 v → e.cr.eng = [] → fmIllegal fw = false → rangeOk e.x d total = true →
    bankWord (v 0) nr → inBand e.x b row0 nr →
    (∀ w clr : Bool, (clr = true → cr.abank.getLsbD b = true) →
      let gen := if fmRm fw = 5 then genStep x.srgen else x.srgen
      let cell := drained cr fw b row0 (if fmRm fw = 5 then genOut gen else 0)
      let fl := orFlags ((lanesOf m).flatMap (fun l => (List.range total).map (fun j => (cell l j).flags)))
      let y := { flagged x fl with
        srgen := gen, accstat := if cr.abank.getLsbD b then x.accstat else x.accstat ||| 0x20 }
      let t := setWarp s1 c.w (if w then y else writeRange y d total m (fun l j => (cell l j).code))
      exec (.mdrain g w f clr rows d a) s = .next (stepped
        (if clr then setCrew t e.c { cr with acc := rowsZero cr.acc b row0 nr } else t) c)) ∧
    (cr.abank.getLsbD b = true →
      let ws := filled e.x fw d b row0 total m
      exec (.mfill g f rows a d) s = .next (stepped (setCrew
        (setWarp s1 c.w (flagged x (orFlags (ws.map (fun p => p.2.flags))))) e.c
        { cr with acc := ws.foldl (fun acc p => memPutNat acc p.1 4 p.2.code) cr.acc }) c))

/-- A copy instruction whose descriptor passes its checks, on a channel with room, gives D the command's token and leaves
the command outstanding, with its slot captured (R282, R283, R297, R301, R302); one that fails traps CPYFAULT. -/
def Obligations.CopyIssue : Prop :=
  ∀ i h op (ch : Fin 8) d a b, copyForm i = some (h, op, ch, d, a, b) → ∀ (s : State) (c : Cur) (s1 : State)
    (v : Nat → Nat) (l : Nat),
    let e := envOf s c
    let m := takers s c h.g
    let cr := crewAt s1 e.c
    let bs := memBytes e.cr.scr (v 0) 128
    let ds := descOf bs
    let fw := e.x.fs.getD ds.cslot 0
    let idx := b.map (fun _ => v 1)
    let seq := cr.cseqn.getD ch.val 0
    let cmd : CopyCmd := ⟨cr.tower, cr.phys, ch.val, e.c, c.w, l, seq, op, bs, idx.getD 0, fw, e.pc, e.x.issued,
      BitVec.ofNat 64 ds.seed, 0, 0, [0, 0, 0, 0], [], none, false, []⟩
    given s c h.g [(d, 1)] ((a, 1) :: (b.map (fun o => (o, 1))).toList) (some d) (!h.w) s1 v → lowest m = some l →
    (∀ q, d ≠ .q q) → v 0 % 16 = 0 → v 0 + 128 ≤ e.cr.scrLen → (b.isSome = true → v 1 % 4 = 0) →
    (descFail op ds fw (v 0) e.cr.scrLen idx = none → (channelOf s e.cr ch).length < 16 →
      exec i s = .next (wrote { setCrew s1 e.c { cr with cseqn := cr.cseqn.set ch.val ((seq + 1) % 2 ^ 24) } with
        copies := s1.copies ++ [cmd] } c h d m 1 (fun _ => tokenWord ch seq))) ∧
    (descFail op ds fw (v 0) e.cr.scrLen idx = none → 16 ≤ (channelOf s e.cr ch).length →
      exec i s = .next (retrying s c (.reissue (.channel ch)))) ∧
    (∀ code addr, descFail op ds fw (v 0) e.cr.scrLen idx = some (code, addr) →
      traps i s c 0 0x11 m addr (code + 2 ^ 8 * ch.val + 2 ^ 16 * ds.tag))

/-- `cwait` goes on when its command is not outstanding and waits when it is; `ccan` ends the crew's commands on the named
channels with status 2, and waits for those with accesses on their way to other devices; a command whose elements are all on
this device is performed and ends with status 0, and a plain copy between scratchpad ranges moves each position's bits to the
place that R286 gives, all read before any is written; a record that waits enters its port when there is room (R148, R286 to
R296, R303, R304). That a command is performed at one moment is the model's choice (log entry 9), as are what overlapping
object sides read and how `ccan` ends a command in progress (log entry 26). -/
def Obligations.CopyProgress : Prop :=
  (∀ g a (s : State) (c : Cur) (s1 : State) (v : Nat → Nat),
    let e := envOf s c
    let mine := fun (k : CopyCmd) => k.crew == e.c
    let named := (List.range 8).flatMap (fun ch =>
      s1.copies.filter (fun k => mine k && k.chan == ch && bits (v 0) ch 1 == 1))
    let heads := fun (k : CopyCmd) =>
      named.any (fun j => (chanCmds s1 j.tower j.phys j.chan).head?.any (sameCmd j) && sameCmd k j)
    given s c g [] [(a, 1)] none false s1 v →
    (bits (v 0) 3 5 = 0 → (∀ k ∈ s1.copies, mine k = true → tokenWord k.chan k.seq ≠ v 0) →
      exec (.cwait g a) s = .next (stepped s1 c)) ∧
    (bits (v 0) 3 5 = 0 → (∃ k ∈ s1.copies, mine k = true ∧ tokenWord k.chan k.seq = v 0) →
      exec (.cwait g a) s = .next (waiting s1 c (.cwait (BitVec.ofNat 32 (v 0))))) ∧
    (v 0 < 2 ^ 8 → named = [] → exec (.ccan g a) s = .next (stepped s1 c)) ∧
    (v 0 < 2 ^ 8 → named ≠ [] → (∀ k ∈ named, k.out = []) → exec (.ccan g a) s =
      .next (markedStale (named.foldl (fun t k => copyStop t k 2 none (heads k)) (stepped s1 c)) c)) ∧
    (∀ t, v 0 < 2 ^ 8 → (∃ k ∈ named, k.out ≠ []) →
      t = named.foldl (fun t k => if k.out = [] then copyStop t k 2 none (heads k) else copyDying t k) s1 → unmoved s t c →
      exec (.ccan g a) s = .next (waiting t c (.ccan ((named.filter (fun k => !k.out.isEmpty)).map
        (fun k => BitVec.ofNat 32 (tokenWord k.chan k.seq))))))) ∧
  (∀ spire (ch : Fin 8) (s : State) (cmd : CopyCmd) rest,
    let shaped := { cmd with shape := cmd.shape.or (recordShape s (walkOf s cmd)) }
    let k := walkOf s shaped
    let ps := cpWalk s k
    let done := cpPerform (copySaw (putCopy s shaped) k ps) k ps (fun _ => true) (fun _ => true)
    chanCmds s (spire / 34) (spire % 34) ch = cmd :: rest → engFrozen s cmd.warp = false → cmd.out = [] →
    cmd.dying = false → cmd.next ≤ boxSize k.d →
    (∀ p ∈ ps, posLocal s k p = true ∧ ∀ x ∈ posReads k p, sideLines k x = []) →
    exec (.copyCommandEnd spire ch none) s = .next (copyEnd done.s { shaped with
      flags := done.flags, cnt := done.cnt, gen := done.gen, next := boxSize k.d } 0 none)) ∧
  (∀ spire (ch : Fin 8) (s : State) (cmd : CopyCmd) rest,
    let f := fun lo n => bits (bytesNat cmd.desc) lo n
    let nd := f 135 4
    let ew := f 128 7
    let ext := fun j => f (256 + 40 * j) 16 + 1
    let below := fun j => ((List.range j).map ext).foldl (· * ·) 1
    let place := fun x q => bits x 0 22 + ew * ((List.range nd).map (fun j =>
      q / below j % ext j * f (272 + 40 * j) 24)).sum
    let cr := crewAt s cmd.crew
    let moved := (List.range (below nd)).foldl (fun m q =>
      memPutBits m (place (f 64 64) q) ew (memBits cr.scr (place (f 0 64) q) ew)) cr.scr
    chanCmds s (spire / 34) (spire % 34) ch = cmd :: rest → engFrozen s cmd.warp = false → cmd.op = .plain →
    cmd.out = [] → cmd.dying = false → cmd.next = 0 → cmd.crew < s.crews.length → 1 ≤ nd → nd ≤ 14 →
    f 139 1 = 1 → f 140 1 = 1 →
    exec (.copyCommandEnd spire ch none) s = .next (copyEnd (setCrew s cmd.crew { cr with scr := moved })
      { cmd with next := below nd } 0 none)) ∧
  (∀ w (s : State) r rest,
    let x := warpAt s w
    (x.w6 = r :: rest → x.q6.length + swapTook x 6 < 16 → exec (.completionRecordArrival w false) s =
      .next (setWarp s w { x with w6 := rest, q6 := x.q6 ++ [r] })) ∧
    (x.w7 = r :: rest → x.q7.length + swapTook x 7 < 16 → exec (.completionRecordArrival w true) s =
      .next (setWarp s w { x with w7 := rest, q7 := x.q7 ++ [r] })))


/-- A one-word result whose D is a channel is pushed to it: its value in the lanes that take part, 0 in the others; with
W = 1 or no lane nothing is pushed (R12, R30, R147). Under a mode of the order log the push is an event of its own; that a
push that several warps may make takes a SEQ (R277, R278) in mode 0 too is the model's reading (log entry 14). -/
def Obligations.PushedResults : Prop :=
  ∀ i r (n : Fin 8), wordResult i = some r → r.d = .q n → r.k = 1 → ∀ (s : State) (c : Cur) (s1 : State)
    (v : Nat → List Nat),
    let e := envOf s c
    let m := takers s c r.h.g
    let val := r.val s e m v
    let t := setWarp s1 c.w (writeDest (warpAt s1 c.w) ⟨r.h, r.d, m⟩ 1 val)
    plain s c = true → regsOk r.srcs e = true → readSrcs s e m r.srcs (some r.d) (!r.h.w) = .ok (s1, v) →
    (∀ k, ctxGet s e.cr.ctx = some k → bits (csrN k 0x074) 0 2 = 0) →
    ((r.h.w = true ∨ m = 0) → exec i s = .next (stepped t c)) ∧
    (r.h.w = false → m ≠ 0 → exec i s = .next (stepped (channelTakes t c n.val m val) c))

/-- `hwait`, the four `hstat` forms, `hfree` and `hdup` on a handle that this device can answer for, and `lnch` (R178,
R179, R194, R195, R387). That a `lnch` takes a SEQ (R277, R278) in mode 0 too is the model's reading (log entry 14), and that
a queue that is not enabled follows its fields its choice (log entry 16). -/
def Obligations.HandleInstructions : Prop :=
  (∀ (h : Hdr) d a (s : State) (c : Cur) (s1 : State) (v : Nat → Nat) r,
    let e := envOf s c
    let m := takers s c h.g
    let hd := BitVec.ofNat 64 (v 0)
    let broken := fun (x : Nat) => if r.state = 4 then x else 0
    homeSays s1 e.cr.ctx hd r → (∀ q, d ≠ .q q) →
    (given s c h.g [(d, 1)] [(a, 2)] (some d) (!h.w) s1 v →
      exec (.hstat h d a) s = .next (wrote s1 c h d m 1 (fun _ => statusOfReport r)) ∧
      exec (.hstatOcd h d a) s = .next (wrote s1 c h d m 1 (fun _ => broken (2 ^ 8 * r.ocode + 2 ^ 16 * r.odetail))) ∧
      ((r.state = 3 ∨ r.state = 4) → exec (.hwait h d a) s = .next (wrote s1 c h d m 1 (fun _ => statusOfReport r))) ∧
      (r.state < 3 → exec (.hwait h d a) s = .next (waiting s1 c (.hwait hd ⟨h, d, m⟩))) ∧
      (r.state = 7 → traps (.hwait h d a) s c 0 0x12 m hd.toNat 1)) ∧
    (given s c h.g [(d, 2)] [(a, 2)] (some d) (!h.w) s1 v →
      exec (.hstatOrg h d a) s = .next (wrote s1 c h d m 2 (fun _ => broken r.origin.toNat)) ∧
      exec (.hstatUp h d a) s = .next (wrote s1 c h d m 2 (fun _ => broken r.up.toNat)) ∧
      (r.state ≠ 7 → r.refs < 65535 →
        exec (.hdup h d a) s = .next (wrote (recounted s1 hd (· + 1)) c h d m 2 (fun _ => hd.toNat))) ∧
      (r.state ≠ 7 → 65535 ≤ r.refs → traps (.hdup h d a) s c 0 0x12 m hd.toNat 2)) ∧
    (given s c h.g [(.z, 1)] [(a, 2)] (some .z) false s1 v →
      (r.state ≠ 7 → 1 ≤ r.refs → exec (.hfree h.g a) s = .next (stepped (recounted s1 hd (· - 1)) c)) ∧
      (r.state = 7 → traps (.hfree h.g a) s c 0 0x12 m hd.toNat 1))) ∧
  (∀ (h : Hdr) d a (qn : BitVec 8) (s : State) (c : Cur) (s1 : State) (v : Nat → Nat),
    let e := envOf s c
    let m := takers s c h.g
    let q := s1.queues.getD qn.toNat Queue.zero
    given s c h.g [(d, 2)] [(a, 1)] none (!h.w) s1 v → (∀ q, d ≠ .q q) → v 0 % 16 = 0 → v 0 + 128 ≤ e.cr.scrLen →
    (∀ k, ctxGet s e.cr.ctx = some k → bits (csrN k 0x074) 0 2 = 0) →
    (q.owner ≠ e.cr.ctx → traps (.lnch h d a qn) s c 0 0x12 m qn.toNat 3) ∧
    (q.owner = e.cr.ctx → (q.tail - q.head).toNat = 2 ^ q.log →
      exec (.lnch h d a qn) s = .next (retrying s c (.reissue (.ring qn.toNat)))) ∧
    (q.owner = e.cr.ctx → (q.tail - q.head).toNat ≠ 2 ^ q.log →
      allocHandle s1 0 s1.plat.devnum e.cr.ctx 0 none = none →
      exec (.lnch h d a qn) s = .next (wrote s1 c h d m 2 (fun _ => 0))) ∧
    (∀ hd s2, q.owner = e.cr.ctx → (q.tail - q.head).toNat ≠ 2 ^ q.log →
      allocHandle s1 0 s1.plat.devnum e.cr.ctx 0 none = some (hd, s2) →
      exec (.lnch h d a qn) s = .next (wrote (ringTakes (eventsCounted s2 c) qn.toNat
        ⟨memBytes e.cr.scr (v 0) 128, [], [], hd, none, s1.plat.devnum, e.cr.ctx, qn.toNat, false⟩ .lnch) c h d m 2
        (fun _ => hd.toNat))))

/-- `invk` and `hsend`: with the table full D and p are 0; otherwise they take a handle, send the record with the arguments
and formats that they captured, and give the handle and p = 1 (R379, R381); too many unacknowledged messages park them. -/
def Obligations.RemoteLaunches : Prop :=
  ∀ i f, sendForm i = some f → ∀ (s : State) (c : Cur) (s1 : State) (v : Nat → Nat),
    let e := envOf s c
    let m := takers s c f.h.g
    let rec_ := memBytes e.cr.scr (v 0) 128
    given s c f.h.g [(f.d, 2)] f.srcs none (!f.h.w) s1 v → (∀ q, f.d ≠ .q q) → v 0 % 16 = 0 →
    v 0 + 128 ≤ e.cr.scrLen → f.ok v = true →
    (tableFull s1 = true → exec i s = .next (gaveHandle s1 c f.h f.p f.d m 0)) ∧
    (tableFull s1 = false → 4096 ≤ sentOpen s1 → exec i s = .next (retrying s c (.reissue .messages))) ∧
    (∀ s2 cap hd s3, tableFull s1 = false → sentOpen s1 < 4096 → capture s1 (envAgent s1 e) (.warp c.w) rec_ = (s2, cap) →
      cap.units = [] → cap.wait = false → s2.warps = s1.warps →
      allocHandle s2 0 (f.dev v) e.cr.ctx 0 (if f.ntf then some c.w else none) = some (hd, s3) →
      let msg : LaunchMsg := ⟨rec_, cap.args, cap.fmt, hd, f.comet v, s3.plat.devnum, e.cr.ctx, f.queue v, cap.failed⟩
      exec i s = .next (gaveHandle (send s3 (f.out (f.dev v) msg)) c f.h f.p f.d m hd))

/-- Messages about launches and comets that reach this device (R378 to R386), each taken once (R366): an invocation enters
its ring; a message is held in its PENDING comet's entry, in order, one that the home forwards here is held behind those that
came before, or follows a result that has moved on; the oldest declined one is offered again; a report moves its entry on; a
notice breaks what depends on the comet; a result moves, and its new device acknowledges. One with a bad header is counted,
and one that has been taken before changes nothing. That the acknowledgement of a move clears GO at a device that is not the
home, and that this device subscribes to the comet of a message that it holds, is the model's reading (log entry 21). -/
def Obligations.CometEvents : Prop :=
  ∀ (s : State) (hdr : Vuine),
    (∀ m : LaunchMsg, s.plat.st = .ready →
      (¬ arrived s hdr 7 → exec (.invokeArrival (hdr, m)) s =
        .next { s with fab := { s.fab with discards := s.fab.discards + 1 } }) ∧
      (arrived s hdr 7 → s.fab.filter.any (fun f => f.1 == vuSrc hdr && f.2.1 == vuRseq hdr) = true →
        exec (.invokeArrival (hdr, m)) s = .next s ∧ ∀ b, exec (.messageAccept (hdr, b, m)) s = .next s)) ∧
    (∀ m : LaunchMsg, engineArrives s hdr → (ctxGet s (launchCtx m .sent m.record)).isSome = true →
      ringOpen (s.queues.getD m.queue Queue.zero) →
      exec (.invokeArrival (hdr, m)) s = .next (engineTaken (ringTakes s m.queue m .sent) hdr)) ∧
    (∀ (m : LaunchMsg) h e, engineArrives s hdr → m.comet = some h → ownHome s h = true → entValid s m.ctx h = some e →
      e.state = 0 → e.msgs.length + e.subs.length < 16 → e.ovf = [] → s.disp.refused = [] →
      exec (.messageAccept (hdr, false, m)) s = .next (engineTaken (settleAll (putEnt s e.serial (fun x =>
        { x with msgs := x.msgs ++ [m], aseq := x.aseq + 1 }))) hdr)) ∧
    (∀ (m : LaunchMsg) h, engineArrives s hdr → m.comet = some h → handleState s m.ctx h ≠ 4 → resultWent s h = none →
      exec (.messageAccept (hdr, true, m)) s = .next (engineTaken (settleAll (subscribeTo
        { s with disp := { s.disp with heldMsgs := s.disp.heldMsgs ++ [m] } } m.ctx h)) hdr)) ∧
    (∀ (m : LaunchMsg) h d, engineArrives s hdr → m.comet = some h → handleState s m.ctx h ≠ 4 → resultWent s h = some d →
      exec (.messageAccept (hdr, true, m)) s = .next (engineTaken (settleAll (send s (.forward d m))) hdr)) ∧
    (∀ home (m : LaunchMsg), m ∈ s.disp.offers → m.comet.any (fun h => hHome h == home) = true →
      (∀ o ∈ s.disp.offers, o.comet.any (fun h => hHome h == home) = true → o = m ∨ hSerial m.handle < hSerial o.handle) →
      exec (.messageReoffer home) s = .next (send { s with
        disp := { s.disp with offers := s.disp.offers.filter (fun o => o.handle != m.handle) } } (.message home m))) ∧
    (∀ (r : HandleReport) e, engineArrives s hdr → ownHome s r.handle = true → entFind s r.handle = some e →
      e.state < r.state → e.state < 3 →
      (r.state < 3 → exec (.stateReport (hdr, r)) s = .next (engineTaken (settleAll (forwardHeld (putEnt s e.serial (fun x =>
        { x with state := r.state, dev := r.dev })) r.handle)) hdr)) ∧
      (r.state = 3 → e.subs = [] → e.ovfSubs = [] →
        let y := { e with state := 3, dev := r.dev, result := r.result, arverr := r.arverr }
        exec (.stateReport (hdr, r)) s = .next (engineTaken (settleAll (reclaim (forwardHeld (wakeHwait
          (notify (putEnt s e.serial (fun _ => y)) y r.handle) r.handle (statusWord y)) r.handle))) hdr)) ∧
      (r.state = 4 → exec (.stateReport (hdr, r)) s = .next (engineTaken (settleAll (putEnt (breakHandles s
        [⟨r.handle, r.code, r.detail, r.origin, r.up, r.ocode, r.odetail⟩]) e.serial
        (fun x => { x with dev := r.dev }))) hdr))) ∧
    (∀ n : Notice, engineArrives s hdr → ownHome s n.handle = false → launchOf s n.handle = none →
      s.disp.known.any (fun k => k.rep.handle == n.handle) = true → ∃ b : Brk, b.h = n.handle ∧ b.origin = n.origin ∧
      b.ocode = n.ocode ∧ b.odetail = n.odetail ∧
      exec (.breakNotice (hdr, n)) s = .next (engineTaken (settleAll (breakDependents { s with disp := { s.disp with
        known := s.disp.known.map (fun k => if k.rep.handle == n.handle && k.rep.state != 4 then { k with
          rep := { k.rep with state := 4, code := 0, origin := n.origin, ocode := n.ocode, odetail := n.odetail } }
          else k) } } n.handle b)) hdr)) ∧
    (∀ ctx x h dev, ctxGet s ctx = some x → x.cmMove = some (h, dev) → x.cmAsked = false →
      (stillRuns s h = true → exec (.resultMove ctx) s = .next (clearGo s h)) ∧
      (∀ e, stillRuns s h = false → ownHome s h = true → entValid s ctx h = some e → e.state = 3 →
        e.dev = s.plat.devnum → e.moving = false →
        let t := putEnt s e.serial (fun x => { x with moving := true })
        let t := { t with disp := { t.disp with moved := t.disp.moved.filter (fun k => k.1 != h) } }
        exec (.resultMove ctx) s = .next (send (sendHeld t h dev) (.moveGo dev h dev))) ∧
      (stillRuns s h = false → ownHome s h = false → h ≠ 0 → exec (.resultMove ctx) s =
        .next (send (ctxPut s ctx { x with cmAsked := true }) (.moveAsk (hHome h) ctx h dev)))) ∧
    (∀ h dev, engineArrives s hdr →
      (ownHome s h = false → exec (.resultMoveAck (hdr, h) dev) s = .next (engineTaken (clearGo s h) hdr)) ∧
      (∀ e, ownHome s h = true → entFind s h = some e → e.moving = true →
        let t := clearGo (putEnt s e.serial (fun x => { x with dev := dev, moving := false })) h
        exec (.resultMoveAck (hdr, h) dev) s = .next (engineTaken (settleAll (forwardHeld
          (if e.dev = s.plat.devnum then t else send t (.moveAck e.dev h dev)) h)) hdr)))

/-- `coll` with a sound communicator copy on this device takes CSEQ, adds 1 to it, and gives a handle of kind 1 that RUNS;
contributions, ABANDONs and disagreements that come before it are kept, and a sender's failed check breaks it. At its
completion the elements of DST are those of R392: of a reduction merged by the fixed tree, or in the order of arrival under
UNORD (R393), of a gather and a broadcast the ranks' own (R389 to R398). A collective counts as complete as far as its rank can
know (the model's reading, log entry 18). -/
def Obligations.Collectives : Prop :=
  (∀ (h : Hdr) p ntf d a (s : State) (c : Cur) (s1 : State) (v : Nat → Nat),
    let e := envOf s c
    let m := takers s c h.g
    let desc := memBytes e.cr.scr (v 0) 64
    let obj := bits (collDescOf desc).comm 42 22
    let mine := (s1.coll.cmds.filter (fun k => k.live && k.crew == e.c)).length
    given s c h.g [(d, 2)] [(a, 1)] none (!h.w) s1 v → (∀ q, d ≠ .q q) → v 0 % 16 = 0 → v 0 + 64 ≤ e.cr.scrLen →
    (tableFull s1 = true → exec (.coll h p ntf d a) s = .next (gaveHandle s1 c h p d m 0)) ∧
    (tableFull s1 = false → 16 ≤ mine → exec (.coll h p ntf d a) s = .next (retrying s c (.reissue .colls))) ∧
    (tableFull s1 = false → mine < 16 → 4096 ≤ sentOpen s1 →
      exec (.coll h p ntf d a) s = .next (retrying s c (.reissue .messages))) ∧
    (∀ l rd wr hd s3 at_ l0 word0, mine < 16 → tableFull s1 = false → sentOpen s1 < 4096 →
      commAtIssue s1 (envAgent s1 e) obj = .found l rd wr → soundHere s1 rd = true → soundHere s1 wr = true → wr ≠ [] →
      clSide s1 (envAgent s1 e) (elemAddr obj 0) 0 false = .ok at_ l0 word0 → soundHere s1 word0 = true →
      ownLines s1 →
      let cseq := readPieces s1 [] rd
      let rank := bits (readAll s1 [] word0) 16 13
      let s2 := storeLoc s1 none e.cr.ctx l wr ((readPieces s1 [] (wr.take 1) + 1) % 2 ^ 32)
      allocHandle s2 2 s2.plat.devnum e.cr.ctx 1 (if ntf then some c.w else none) = some (hd, s3) →
      let cmd := newColl s3 e m hd desc obj cseq rank
      cmd.h = hd ∧ cmd.key = ⟨e.cr.ctx, obj, cseq⟩ ∧ cmd.live = true ∧ cmd.phase = 0 ∧
        cmd.gen = BitVec.ofNat 64 (collDescOf desc).seed ^^^ BitVec.ofNat 64 rank ∧
      exec (.coll h p ntf d a) s = .next (gaveHandle { s3 with coll := { s3.coll with
        cmds := s3.coll.cmds.filter (fun k => k.live || k.owes.isSome || k.key != cmd.key) ++ [cmd] } } c h p d m hd))) ∧
  (∀ (s : State),
    (∀ hdr, engineArrives s hdr →
      (∀ m : Contribution, s.coll.cmds.any (fun k => k.key == m.key) = false → (∀ k ∈ s.coll.moved, k.1 ≠ m.key) →
        exec (.collContribution (hdr, m)) s =
          .next (engineTaken { s with coll := { s.coll with parts := s.coll.parts ++ [m] } } hdr)) ∧
      (∀ (m : Contribution) k, collKeyed s m.key = some k → k.shape.nrank ≠ 0 → m.shape = k.shape →
        collAt s k.h = some k → exec (.collContribution (hdr, m)) s =
          .next (engineTaken (collGather s k.h m.rank m.h m.first m.elems) hdr)) ∧
      (∀ x : Abandon, s.coll.cmds.any (fun k => k.key == x.key) = false → (∀ k ∈ s.coll.moved, k.1 ≠ x.key) →
        exec (.collAbandon (hdr, x)) s = .next (engineTaken { s with coll := { s.coll with
          parts := s.coll.parts.filter (fun m => m.key != x.key), gone := s.coll.gone ++ [x] } } hdr)) ∧
      (∀ (x : Abandon) k, collKeyed s x.key = some k → k.phase ≠ 2 → exec (.collAbandon (hdr, x)) s =
        .next (engineTaken (collBreak s k ⟨k.h, 4, 0, x.handle, 0, x.code, x.detail⟩) hdr)) ∧
      (∀ key : CollKey, s.coll.cmds.any (fun k => k.key == key) = false → (∀ k ∈ s.coll.moved, k.1 ≠ key) →
        exec (.collDisagreement (hdr, key)) s =
          .next (engineTaken { s with coll := { s.coll with broken := s.coll.broken ++ [key] } } hdr)) ∧
      (∀ (key : CollKey) k, collKeyed s key = some k → k.phase ≠ 2 → exec (.collDisagreement (hdr, key)) s =
        .next (engineTaken (collBreak s k ⟨k.h, 1, 11, k.h, 0, 1, 11⟩) hdr))) ∧
    (∀ h k, collAt s h = some k → (k.phase = 0 ∨ (k.phase = 1 ∧ collWhole k = false)) →
      exec (.collComplete h) s = .next s) ∧
    (∀ h k, collAt s h = some k → k.phase = 2 → k.wrote = true → (crewAt s k.crew).gone = false →
      (collDescOf k.desc).narrow = false → (collDescOf k.desc).arv = false →
      exec (.collComplete h) s = .next (resolveColl (setColl s h (fun k => { k with phase := 2 })) k.h false)) ∧
    (∀ h k, let d := collDescOf k.desc
      let t := setColl s h (fun k => { k with phase := 2 })
      collAt s h = some k → k.phase = 1 → k.wrote = false → collWhole k = true → collUnacked s k = false →
      (crewAt s k.crew).gone = false → d.narrow = false → d.arv = false → ownLines s →
      (∀ x ∈ dstSides s k, ∃ at_ l ps, x = .ok at_ l ps ∧ soundHere s ps = true) →
      let u := ((dstSides s k).zip (collResult k)).foldl (fun s x => match x.1 with
        | .ok _ l ps => storeLoc s (some (3, k.warp)) k.key.ctx l ps x.2
        | _ => s) t
      exec (.collComplete h) s = .next (resolveColl (setColl u h (fun k => { k with wrote := true })) k.h false)) ∧
    (∀ k : CollCmd, let d := collDescOf k.desc
      let n := k.shape.nrank
      let result := fun j => (collResult k).getD j 0
      collWhole k = true → d.red < 3 →
      (d.op = 0 → d.unord = false → ∀ j < d.count, TreeMerged d.red (fun r => partElem k r j) 0 n (result j)) ∧
      (d.op = 1 → d.unord = false → ∀ j < d.count / n,
        TreeMerged d.red (fun r => partElem k r (k.rank * (d.count / n) + j)) 0 n (result j)) ∧
      (d.op = 0 → d.unord = true → d.narrow = false → ∀ j < d.count,
        FoldMerged d.red (fun r => partElem k r j) (mergedOf k 0) (result j)) ∧
      (d.op = 2 → ∀ r < n, ∀ j < d.count, result (r * d.count + j) = partElem k r j) ∧
      (d.op = 3 → ∀ j < d.count, result j = partElem k d.root j)) ∧
    (∀ h code addr k f, collAt s h = some k → collStill s k = false → k.shape.nrank ≠ 0 → k.phase = 0 → k.begun = true →
      partFormed k = false → code ≠ 0x16 →
      let jn := nextPart k (collDescOf k.desc)
      let ps := ((List.range jn.2).map (· + jn.1)).map (partSides s (collAgent s k) (collDescOf k.desc))
      clStop 0 ps = ([], some f) →
      (∀ p ∈ ps.take f.k, ∀ x ∈ p.take 2, ∃ at_ l qs, x = .ok at_ l qs ∧ soundHere s qs = true) →
      ∃ vs, sameViews s vs ∧ exec (.collfault h code addr) s = .next (collFail { s with views := vs } k f.code f.addr)))

/-- A trap due to a user-mode warp starts its handler at TVEC, with the record current, and FFLAGS and the latches kept
aside (R308); an entry beyond the eighth ends the crew (R310). A warp whose work has ended leaves, its crew ends after it,
and a launch resolves after its last crew (R134, R191); queues age (R184), where that a wait starts at the later of the
launch's and the queue's time is the model's reading (log entry 16); a launch is cancelled (R191), accepted (R174), also from
a queue that is disabled after the acceptance began (R410), and its crews placed (R183). -/
def Obligations.CrewLifecycle : Prop :=
  ∀ (s : State),
    (∀ w t rest k, let x := warpAt s w
      x.mode = .user → x.halt = .no → x.holdSl = none → x.gone = false → pathsDone x = false → x.tq = t :: rest →
      ctxGet s (ctxNumOf s w) = some k →
      let lanes := BitVec.ofNat 32 (bits t.bits.toNat 32 32) &&& x.alive
      exec (.trapDelivery w) s = .next (setWarp s w { x with
        tq := rest, cur := some t, tpc := BitVec.ofNat 64 (bits t.bits.toNat 64 64), tfflags := x.fflags, shadow := x.b
        mode := .supervisor
        hdl := { Slot.free with live := true, path :=
          { pc := BitVec.ofNat 64 (csrN k 0x040 + 2 ^ 32 * csrN k 0x041)
            mask := if lanes = 0 then maskOf (fun l => lowest x.alive == some l) else lanes
            rjpc := noRejoin, depth := 0 } } })) ∧
    (∀ w, (warpAt s w).gone = false → let r := endCrew s (warpAt s w).crew
      exec (.trapQueueOverflow w) s = .next (breakHandles r.1 (r.2 ++ [Brk.own (crewOf s w).launch 2 0x16]))) ∧
    (∀ w, (warpAt s w).gone = false → pathsDone (warpAt s w) = true → warpBusy s w = false →
      exec (.warpRelease w) s = .next (setWarp s w { warpAt s w with gone := true })) ∧
    (∀ k, let x := crewAt s k
      x.gone = false → (∀ w ∈ x.warps, (warpAt s w).gone = true) → x.eng = [] → (∀ j ∈ s.copies, j.crew ≠ k) →
      (∀ j ∈ s.coll.cmds, j.live = true → j.crew ≠ k) →
      let t := releaseFrames s k
      exec (.crewEnd k) s = .next (putLaunch (setCrew t k { crewAt t k with gone := true }) x.launch
        (fun l => { l with ended := l.ended + 1 }))) ∧
    (∀ h l, launchOf s h = some l → l.state = .running → crewsLeft l = false → l.ended = gridSize l.record →
      exec (.launchDone h) s = .next (settleAll (resolveDone s h))) ∧
    (∀ h l, launchOf s h = some l → l.state ≠ .done → l.state ≠ .broken →
      exec (.launchCancel h) s = .next (settleAll (breakLaunch s h 6 0))) ∧
    (∀ h, launchOf s h = none → (∃ q ∈ s.queues, ∃ r ∈ q.ring, r.msg.handle = h) →
      exec (.launchCancel h) s = .next (settleAll (breakLaunch s h 6 0))) ∧
    (∀ q l, let x := s.queues.getD q Queue.zero
      let due := max l.since x.since + x.ageth.toNat
      candidateOf s q = some l → x.ageth ≠ 0 → due ≤ s.now → l.prio + x.raised < 7 →
      exec (.queueAgeing q) s = .next { s with queues := s.queues.set q { x with raised := x.raised + 1, since := due } }) ∧
    (∀ qn (r0 r : RingRec) s0 s1, let q := s.queues.getD qn Queue.zero
      let rec_ := memBytes s1.mem (slotAddr q q.head.toNat) 128
      s.plat.st = .ready → (q.en = true ∨ q.begun = true) → q.head ≠ q.tail → q.wait = [] → ctxRuns s q.owner = true →
      headRecord s qn = some (r0, s0) → ownRecord s0 qn r0 = (r, s1) →
      (recordOver s1 r.msg = true → exec (.launchAccept qn) s = .next (passRecord s1 qn)) ∧
      (recordOver s1 r.msg = false → inOneRange s1.plat (slotAddr q q.head.toNat) 128 = true →
        askDeps s1 (launchCtx r.msg r.kind rec_) (recordDeps rec_) = (true, s1) →
        (r.kind = .sent →
          exec (.launchAccept qn) s = .next (admitLaunch s1 qn r.msg .sent rec_ r.msg.args r.msg.fmt r.msg.capFail)) ∧
        (∀ s2 cap, r.kind ≠ .sent → capture s1 (dispAgent s1 r.msg.ctx q.failed) (acceptOwner qn) rec_ = (s2, cap) →
          cap.units = [] → cap.wait = false → s2.plat = s1.plat →
          exec (.launchAccept qn) s = .next (admitLaunch s2 qn r.msg r.kind rec_ cap.args cap.fmt cap.failed)))) ∧
    (∀ spire k plan s1, s.plat.st = .ready → chooseCand s (candidates s spire) = some k → k.plan = some plan →
      (members k.l).2 = false → placePlan s k.l k.p plan = .ok s1 →
      let t := putLaunch s1 k.l.h (fun l => countPlaced l (plan.map Prod.fst))
      let t := if k.l.state = .placed then setLState t k.l.h .running 2 else t
      exec (.crewPlace spire) s = .next (requestAll (settleAll (forwardHeld (notePlaced t k.q k.p) k.l.h)) spire))

/-- A request is withdrawn before the deadline with the frames that were taken for it. A group whose unended warps all stand
in `pyield` before the deadline is saved without the resources that all of them named dead; past the deadline it is saved in
full. A record holds the crew: reading it gives back the warps, latches, split stack, scratchpad, banks, planes, barriers and
channels that were saved. A saved crew that is next is restored from its record and its region pinned (R190), and one whose
record is damaged breaks its launch with MEMFAULT (R330 to R344). The side copy of what a record has no field for, what
`warpBack` takes from it, the empty dead mask of a group without warps, and the restore that waits for room in its channels
are the model's choice (log entry 17). -/
def Obligations.PreemptionEvents : Prop :=
  ∀ (s : State) (k : Nat),
    let x := crewAt s k
    let g := groupOf s k
    (x.gone = false → x.req ≠ none → (∀ j ∈ g, (crewAt s j).saving = false ∧ overdue s j = false) →
      ∃ t, exec (.preemptWithdraw k) s = .next t ∧
        ∀ j ∈ g, j < s.crews.length → (crewAt t j).req = none ∧ (crewAt t j).frame = none) ∧
    (∀ t0 f, x.gone = false → g = [k] → x.req = some t0 → x.frame = some f → x.saving = false → overdue s k = false →
      let s1 := if x.reserve = some f then s else saveLog s x.ctx 3 f x.launch
      let s2 := setCrew s1 k { crewAt s1 k with req := none, frame := none }
      exec (.preemptWithdraw k) s = .next (dropWanted (wakeWhere s2 x.warps (fun p => match p with
        | .pyield _ => true
        | _ => false)) [k])) ∧
    (x.gone = false → x.req ≠ none → allYield s g = true → (∀ j ∈ g, overdue s j = false ∧ (crewAt s j).eng = []) →
      (∀ c ∈ s.copies, c.crew ∉ g) → (∀ j ∈ g, collsRest s j = true) →
      let s1 := g.foldl (fun s j => setCrew s j { crewAt s j with saving := true }) s
      exec (.cooperativeSave k) s =
        .next (settleAll ((savedOf s1 g).foldl (fun s j => saveOne s j false (deadMask s1 g)) s1))) ∧
    (∀ b < 3, allYield s g = true → (∃ j ∈ g, liveWarps s j ≠ []) → (bits (deadMask s g) b 1 = 1 ↔ ∀ j ∈ g,
      ∀ w ∈ liveWarps s j, ∀ d, yieldMask (warpAt s w) = some d → bits d b 1 = 1)) ∧
    ((∀ j ∈ g, liveWarps s j = []) → deadMask s g = 0) ∧
    (∀ t0, x.gone = false → x.req = some t0 → t0 + deadlineOf s k ≤ s.now → (∀ j ∈ k :: g, (crewAt s j).saving = false) →
      (∀ j ∈ g, atBoundary s j = true ∧ (crewAt s j).eng = []) →
      exec (.forcedSave k) s = .next (settleAll ((savedOf s g).foldl (fun s j => saveOne s j true 0) s))) ∧
    (∀ f forced dead, x.frame = some f → k < s.crews.length →
      (∀ w ∈ x.warps, w < s.warps.length ∧ noSwaps (warpAt s w)) →
      let t := saveOne s k forced dead
      t.mem = (saveLog { s with mem := saveRecord s k f forced dead } x.ctx 1 f x.launch).mem ∧
      (crewAt t k).gone = true ∧ (crewAt t k).req = none ∧ (crewAt t k).frame = none ∧ (crewAt t k).reserve = none ∧
      (∀ w ∈ x.warps, (warpAt t w).gone = true) ∧ t.copies = s.copies.filter (fun c => c.crew != k) ∧
      ∀ l, launchOf s x.launch = some l → ∃ u, launchOf t x.launch = some u ∧
        u.saved = l.saved ++ [⟨x.lin, k, f, x.warps.map (warpAt s), crewCopies s k, (crewColls s k).map (·.h), []⟩]) ∧
    (∀ ctx y kind f h, let wr := csrN y 0x0AB
      let lg := bits (csrN y 0x0AA) 0 5
      ctxGet s ctx = some y → y.slHeld = [] →
      ((wr + 2 ^ 32 - csrN y 0x0AC) % 2 ^ 32 = 2 ^ lg →
        saveLog s ctx kind f h = ctxPut s ctx { y with slHeld := [BitVec.ofNat 128 (f + 2 ^ 56 * kind + 2 ^ 64 * h.toNat)] }) ∧
      ((wr + 2 ^ 32 - csrN y 0x0AC) % 2 ^ 32 ≠ 2 ^ lg →
        let at_ := bits (csrPair y 0x0A8) 0 56 + 16 * (wr % 2 ^ lg)
        saveLog s ctx kind f h = raiseMsix (ctxPut (physPut s at_ 16 ((f + 2 ^ 56 * kind + 2 ^ 64 * h.toNat) % 2 ^ 128)) ctx
          (setCsr y 0x0AB (wr + 1))) (ctxFunc s ctx) 1)) ∧
    (∀ f forced dead, dead < 8 → storesWf s = true → recordFits s k → recordKeeps s k f forced dead) ∧
    (∀ spire cd m, s.plat.st = .ready → chooseCand s (candidates s spire) = some cd → cd.plan = some [m] →
      (members cd.l).2 = true → ∀ j, cd.l.saved.find? (fun j => j.lin == m.1) = some j →
      (recordSound s cd.l j = false → exec (.crewRestore spire) s = .next (breakLaunch s cd.l.h 2 0x16)) ∧
      ((∀ i ∈ cd.l.saved, i.lin = m.1 → recordSound s cd.l i = true) → startsEarly s cd.l = false →
        channelsTake s ((backed s.plat m.2).getD (0, 0)) j = true →
        ((crewAt s j.crew).region = none →
          exec (.crewRestore spire) s = .next (settleAll (notePlaced (restoreOne s cd.l j m.2 cd.p none) cd.q cd.p))) ∧
        (∀ r ts s1, (crewAt s j.crew).region = some r → pinRegion s cd.l r = (ts, some s1) →
          exec (.crewRestore spire) s = .next (settleAll (notePlaced (restoreOne s1 cd.l j m.2 cd.p none) cd.q cd.p))) ∧
        (∀ r ts, (crewAt s j.crew).region = some r → pinRegion s cd.l r = (ts, none) →
          (candidates s spire).all (fun c => c.q == cd.q) = true →
          exec (.crewRestore spire) s = .next (askUnit s s.disp.master ts)))) ∧
    (∀ l (j : SavedCrew) ls p, let old := crewAt s j.crew
      let t := (backed s.plat ls).getD (0, 0)
      j.colls = [] → j.late = [] → memNat s.mem (j.frame + 22) 1 = 0 →
      restoreOne s l j ls p none = recheckParks (saveLog (putLaunch ((old.warps.zip j.warps).foldl
        (fun s w => setWarp s w.1 (warpBack s.mem j.frame w.2))
        (setCrew { s with disp := { s.disp with placed := s.disp.placed + 1 } } j.crew { crewBack s.mem j.frame old with
          tower := t.1, phys := t.2, logical := logicalOf l j.lin ls, prio := p, placed := s.disp.placed,
          reserve := none })) l.h (fun l => { l with saved := l.saved.filter (fun y => y.lin != j.lin) })) l.ctx 2 j.frame l.h)
        j.crew)

/-- The fault unit begins to migrate a sub-tile into a frame of the pool, with MOV set, and at the end its entry names the
frame; a relocation that passes its tests goes through its invalidation, its copy and its end, and one that does not is
logged with the test that it failed (R241 to R245, R318). -/
def Obligations.FaultUnitEvents : Prop :=
  ∀ (s : State) (t : SubTile),
    (∀ tower r e f s2, s.plat.st = .ready → s.plat.fenced.getD tower false = false → (tower, t) ∈ s.fu.asked →
      fuBusy s t = false → mlRoom s t.ctx = true →
      let s1 := { s with fu := { s.fu with asked := s.fu.asked.filter (fun a => a.2 != t) } }
      fuRecord s1 t = some r → fuEntry s1 t = some e → entryMalformed s.plat.devnum e = false → bits e 63 1 = 0 →
      2 ≤ bits e 61 2 → fuFrame s1 t.ctx (recPlace r) = (some f, s2) →
      let s3 := putEntry s2 t (setBits e 59 1 1)
      exec (.faultUnitMigration tower t) s = .next (askFrame { s3 with fu := { s3.fu with jobs := s3.fu.jobs ++
        [⟨tower, t, .migrating, BitVec.ofNat 64 e, BitVec.ofNat 64 (entryHere s2 e f.1 f.2)⟩] } } t e)) ∧
    (∀ j s1, j.phase = .migrating ∨ j.phase = .copying → storesWf s = true → bits j.old.toNat 61 2 ≠ 3 →
      copyFrame s j .ok = .ok s1 →
      let src := bits j.old.toNat 16 40 * 65536
      let dst := bits j.new.toNat 16 40 * 65536
      (∀ a < 65536, memGet s1.mem (dst + a) = memGet s.mem (src + a)) ∧
      (∀ a, a < dst ∨ dst + 65536 ≤ a → memGet s1.mem a = memGet s.mem a)) ∧
    (∀ j s1, jobOf s t .migrating = some j → copyFrame s j .ok = .ok s1 →
      let old := (fuEntry s1 t).getD j.old.toNat
      let new := entryHere s1 old (bits j.new.toNat 16 40) (bits j.new.toNat 61 2)
      exec (.migrationComplete t .ok) s = .next (dropJob (mlWrite (fuDrop (bumpVer (putEntry s1 t new) t) t)
        j.old.toNat new t 1 0) t)) ∧
    (∀ j r d s1, jobOf s t .migrating = some j → copyFrame s j r = .fail d s1 →
      exec (.migrationComplete t r) s = .next (fuCopyFailed s1 j d)) ∧
    (∀ ctx x obj sub lo hi d e, ctxGet s ctx = some x → x.rlCmd = some (obj, sub, lo, hi) → s.plat.st = .ready →
      mlRoom s ctx = true → s.plat.fenced.getD x.rlTower false = false →
      let s1 := ctxPut s ctx (setCsr { x with rlCmd := none } 0x09C 0)
      let t := rlTile s1 ctx x.rlTower obj sub
      let frame := lo % 2 ^ 32 + 2 ^ 32 * (hi % 2 ^ 8)
      let tier := bits hi 8 2
      rlRefusal s1 t frame tier = (d, e) →
      (d ≠ 0 → exec (.relocationCommand ctx) s = .next (mlWrite s1 e e t 4 d)) ∧
      (d = 0 → ∃ u, exec (.relocationCommand ctx) s = .next u ∧
        u.fu.jobs = s1.fu.jobs ++ [⟨x.rlTower, t, .invalidating, BitVec.ofNat 64 e,
          BitVec.ofNat 64 (entryHere s1 e frame tier)⟩] ∧ u.fu.asked = s1.fu.asked ∧ u.ctxs = s1.ctxs ∧
        u.warps = s.warps ∧ u.crews = s.crews ∧ u.outbox = s.outbox)) ∧
    (∀ j, jobOf s t .invalidating = some j → writesLeft s j = false →
      exec (.relocationInvalidated t) s = .next (askFrame (putJob (fuDrop s t) t (fun j => { j with phase := .copying })) t
        j.old.toNat)) ∧
    (∀ j s1, jobOf s t .copying = some j → writesLeft s j = false → copyFrame s j .ok = .ok s1 →
      let old := (fuEntry s1 t).getD j.old.toNat
      let new := entryHere s1 old (bits j.new.toNat 16 40) (bits j.new.toNat 61 2)
      exec (.relocationCopyDone t) s = .next (putJob (putEntry s1 t new) t
        (fun j => { j with phase := .closing, new := BitVec.ofNat 64 new }))) ∧
    (∀ j, jobOf s t .closing = some j → exec (.relocationDone t) s = .next (dropJob (mlWrite
      (fuDrop (fuRecordWord s t 51 (fun v => setBits v 31 1 0)) t) j.old.toNat j.new.toNat t 3 0) t))

/-- Requests that the tables of the holding device pass are served and answered, and remembered for duplicates; malformed
headers are counted; replies, acknowledgements and multicasts take their effect (R324, R366 to R374). That one poisoned word
fails a whole read, and that a multicast with no tier left is an invalidation that has arrived, is the model's reading (log
entry 20). -/
def Obligations.FabricEvents : Prop :=
  ∀ (s : State),
    (∀ (r : FabReq) rc fs, let ps := fabPieces r fs
      served s r 0 → fabLook s r .r 0 = .here rc fs → ps.any (piecePoisoned s) = false →
      exec (.fabricRead r) s = .next (fabAnswer (setDir s (lineOf r.bit)
        (some (addSharer (dirAt s (lineOf r.bit)) (vuSrc r.hdr)))) r false false (readPieces s [] ps))) ∧
    (∀ (r : FabReq) rc fs, served s r 0 → fabLook s r .r 0 = .here rc fs →
      (fabPieces r fs).any (piecePoisoned s) = true → exec (.fabricRead r) s = .next (fabAnswer (setDir s (lineOf r.bit)
        (some (addSharer (dirAt s (lineOf r.bit)) (vuSrc r.hdr)))) r false true 0)) ∧
    (∀ (r : FabReq), served s r 1 → fabLook s r .w 1 = .wait →
      exec (.fabricWrite r) s = .next { s with fab := { s.fab with held := s.fab.held ++ [(r, false)] } }) ∧
    (∀ (r : FabReq) rc fs ln, served s r 1 → fabLook s r .w 1 = .here rc fs →
      (pieceLines r.bit r.nbits).find? (fun ln => !(otherHolders s r ln).isEmpty) = some ln →
      ∃ t, exec (.fabricWrite r) s = .next t ∧ t.mem = s.mem ∧ t.fab.filter = s.fab.filter ∧
        t.fab.waits = [⟨r, ln, otherHolders s r ln, false, rc, fs, s.now⟩]) ∧
    (∀ (r : FabReq), served s r 0 → fabLook s r .r 0 = .refuse →
      exec (.fabricRead r) s = .next (fabAnswer s r true false 0)) ∧
    (∀ (r : FabReq) rc fs, served s r 1 → fabLook s r .w 1 = .here rc fs →
      (∀ ln ∈ pieceLines r.bit r.nbits, otherHolders s r ln = []) →
      exec (.fabricWrite r) s = .next (linesWritten (fabAnswer (framesWritten s r rc fs r.data) r false false 0) r)) ∧
    (∀ (r : FabReq) rc fs, let ps := fabPieces r fs
      let old := readPieces s [] (ps.take 1)
      let new := if r.aop < 16 then (atomNew r.aop r.nbits old r.data r.swap r.slot r.lane r.rnd).code
        else match r.part with
          | none => (combNew (r.aop - 16) r.nbits old r.data r.slot r.rnd).code
          | some (n, lo, rest) => bits (combNew (r.aop - 16) n (rest + 2 ^ lo * old) r.data r.slot r.rnd).code lo r.nbits
      served s r 2 → fabLook s r (if r.aop < 16 then .a else .w) (if r.aop < 16 then 2 else 1) = .here rc fs →
      (∀ ln ∈ pieceLines r.bit r.nbits, otherHolders s r ln = []) → ps.any (piecePoisoned s) = false →
      exec (.fabricAtomic r) s = .next (linesWritten (fabAnswer (framesWritten s r rc fs new) r false false old) r)) ∧
    (∀ (p : FabReply) o, arrived s p.hdr 3 → o.owner ≠ .lost → o.req.part = none →
      s.fab.reqs.find? (fun o => o.rseq == vuRseq p.hdr && vuDst o.req.hdr == vuSrc p.hdr && !reqOver o &&
        decide (s.now < o.sent + 2700000)) = some o →
      ∃ t, exec (.fabricReply p) s = .next t ∧ t.mem = s.mem ∧ t.warps = s.warps ∧ t.outbox = s.outbox ∧
        t.fab.reqs = s.fab.reqs.map (fun x => if x.rseq = o.rseq then
          (if p.refused then { x with dead := some 5 } else if p.soft then { x with dead := some 2 }
           else { x with reply := some p }) else x) ∧
        (p.refused = true → t.fab.peers = s.fab.peers) ∧
        (p.refused = false → p.soft = true → vuKind o.req.hdr ≠ 0 → ∀ ln ∈ pieceLines o.req.bit o.req.nbits,
          ∀ y ∈ t.fab.peers, y.1 = vuDst o.req.hdr → y.2.1 ≠ ln) ∧
        (p.refused = false → p.soft = false → vuKind o.req.hdr = 0 → o.req.nbits = 1024 → t.fab.peers =
          s.fab.peers.filter (fun y => !(y.1 == vuDst o.req.hdr && y.2.1 == lineOf o.req.bit)) ++
            [(vuDst o.req.hdr, lineOf o.req.bit, p.data)])) ∧
    (∀ p : FabReply, arrived s p.hdr 3 →
      (∀ o ∈ s.fab.reqs, o.rseq ≠ vuRseq p.hdr ∨ vuDst o.req.hdr ≠ vuSrc p.hdr ∨ reqOver o = true ∨
        o.sent + 2700000 ≤ s.now) →
      exec (.fabricReply p) s = .next s) ∧
    (∀ (h : Vuine) line, s.plat.st = .ready → arrived s h 4 → exec (.fabricInvalidate h line) s = .next (send { s with
      fab := { s.fab with peers := s.fab.peers.filter (fun p => !(p.1 == vuSrc h && p.2.1 == line)) } }
      (.invalidateAck (vuSrc h) (vuMake 5 (vuSrc h) s.plat.devnum (vuPlane h) (vuCtx h) 0 (vuSubt h) (vuRseq h)) line))) ∧
    (∀ (h : Vuine) line, arrived s h 5 → (∀ w ∈ s.fab.waits, w.line = line → ∃ d ∈ w.devs, d ≠ vuSrc h) →
      (∀ w ∈ s.fab.waits, w.devs ≠ []) → exec (.fabricInvalidateAck h line) s = .next { s with fab := { s.fab with
        waits := s.fab.waits.map (fun w => if w.line = line then { w with devs := w.devs.filter (· ≠ vuSrc h) } else w) } }) ∧
    (∀ (h : Vuine) line w, arrived s h 5 → s.fab.waits = [w] → w.line = line → w.devs = [vuSrc h] →
      vuSrc w.req.hdr ≠ s.plat.devnum →
      let t := dirAfterWrite { s with fab := { s.fab with waits := [] } } line (vuSrc w.req.hdr)
      (∀ ln ∈ pieceLines w.req.bit w.req.nbits, otherHolders t w.req ln = []) →
      exec (.fabricInvalidateAck h line) s =
        .next (linesWritten (fabPerform t w.req w.atom w.rec_ w.frames) w.req)) ∧
    (∀ (h : Vuine) ns count levels rootn line ts, let m : Multicast := ⟨mcWord count levels rootn, ns⟩
      vuBad h = false → vuKind h = 6 → vuDst h = vuSrc h →
      bits m.word.toNat 17 15 = 0 → bits m.word.toNat 0 8 = m.nodes.length → 1 ≤ m.nodes.length →
      1 ≤ bits m.word.toNat 8 2 → 1 ≤ bits m.word.toNat 10 7 → bits m.word.toNat 10 7 ≤ 64 →
      topTrees (bits m.word.toNat 10 7) (bits m.word.toNat 8 2) 0 m.nodes = some ts →
      exec (.fabricMulticast h (some ns) count levels rootn line) s = .next (ts.foldl (fun s t => send s (.multicast t.1 h
        (if bits m.word.toNat 8 2 = 1 then none
         else some ⟨BitVec.ofNat 32 (t.2.2.length % 256 + 2 ^ 8 * (bits m.word.toNat 8 2 - 1) + 2 ^ 10 * t.2.1), t.2.2⟩)
        line)) s)) ∧
    (∀ (h : Vuine) count levels rootn line, s.plat.st = .ready → vuBad h = false → vuKind h = 6 → vuDst h = vuSrc h →
      vuSrc h ≠ s.plat.devnum → exec (.fabricMulticast h none count levels rootn line) s = .next (send { s with
        fab := { s.fab with peers := s.fab.peers.filter (fun p => !(p.1 == vuSrc h && p.2.1 == line)) } }
        (.invalidateAck (vuSrc h) (vuMake 5 (vuSrc h) s.plat.devnum (vuPlane h) (vuCtx h) 0 (vuSubt h) (vuRseq h)) line))) ∧
    (∀ (h : Vuine) tree count levels rootn line, (vuBad h = true ∨ ∃ ns, tree = some ns ∧
        (bits (mcWord count levels rootn).toNat 17 15 ≠ 0 ∨ bits (mcWord count levels rootn).toNat 0 8 ≠ ns.length)) →
      exec (.fabricMulticast h tree count levels rootn line) s = .next { s with
      fab := { s.fab with discards := s.fab.discards + 1 } })

/-- Routes, requests without an answer, failures and retirements, and errors in data (R324, R325, R354, R356, R357,
R359, R361 to R363, R367 to R369); a uniform D keeps the data of the lowest taking lane where that was sound (R10). That
tower 4 in a die link retirement means the dome link is the model's choice (log entry 20), and that a write which ends without
an answer drops the device's own copies of its lines its reading (log entry 10). -/
def Obligations.FailureEvents : Prop :=
  ∀ (s : State),
    (∀ port up, port < 24 → s.fab.reqs = [] → s.fab.noticed = [] → s.fab.portUp.length = 24 → ∃ t, exec (.routeChange port up) s = .next t ∧
      t.fab.portUp = s.fab.portUp.set port up ∧ t.fab.planeUp = s.fab.planeUp.set (port % 8)
        ((List.range 3).any (fun k => (s.fab.portUp.set port up).getD (port % 8 + 8 * k) false)) ∧
      t.fab.barred = (if up then [] else s.fab.barred) ∧
      t.fab.peers = (if routeOf t.fab 0 = none then [] else s.fab.peers) ∧ t.outbox = s.outbox ∧ t.mem = s.mem ∧ t.warps = s.warps) ∧
    (∀ src line plane port, s.plat.st = .ready → exec (.routeChangeNotice src line plane port) s = .next (send { s with
      fab := { s.fab with oldRoute :=
        s.fab.oldRoute.filter (fun o => !(o.1 == src && o.2.1 == line)) ++ [(src, line, plane, port)] } }
      (.routeAck src line))) ∧
    (∀ rseq o, o.owner ≠ .lost →
      s.fab.reqs.find? (fun o => o.rseq == rseq && !reqOver o && (decide (o.sent + 2700000 ≤ s.now) ||
        (routeOf s.fab 0).isNone || s.fab.barred.contains (vuDst o.req.hdr))) = some o →
      ∃ t, exec (.requestTimeout rseq) s = .next t ∧ t.mem = s.mem ∧ t.warps = s.warps ∧
        t.fab.reqs = s.fab.reqs.map (fun x => if x.rseq = o.rseq then { x with dead := some 4 } else x) ∧
        (vuKind o.req.hdr = 0 → t.fab.peers = s.fab.peers) ∧
        (vuKind o.req.hdr ≠ 0 → ∀ ln, lineOf o.req.bit ≤ ln → ln ≤ lineOf (o.req.bit + o.req.nbits - 1) →
          ∀ p ∈ t.fab.peers, p.1 = vuDst o.req.hdr → p.2.1 ≠ ln)) ∧
    (∀ rseq, (∀ o ∈ s.fab.reqs, o.rseq = rseq → reqOver o = true ∨ (s.now < o.sent + 2700000 ∧
        (routeOf s.fab 0).isSome = true ∧ vuDst o.req.hdr ∉ s.fab.barred)) → exec (.requestTimeout rseq) s = .next s) ∧
    (∀ rseq o p port, s.fab.reqs.find? (fun o => o.rseq == rseq && !reqOver o) = some o →
      routeOf s.fab (lineOf o.req.bit) = some (p, port) →
      let h := o.req.hdr
      let r := { o.req with
        port := port
        hdr := vuMake (vuKind h) (vuDst h) (vuSrc h) p (vuCtx h) (vuObj h) (vuSubt h) (vuRseq h) }
      exec (.ackTimeoutReissue rseq) s = .next (send { s with
        fab := { s.fab with reqs := s.fab.reqs.map (fun y =>
          if y.rseq == o.rseq then { y with req := r, plane := p, port := port } else y) } } (.request (vuDst h) r))) ∧
    (∀ port, exec (.linkFailure (.cxl port)) s =
      .next { s with plat := { s.plat with cxlUp := s.plat.cxlUp.set port false } }) ∧
    (∀ t d, exec (.linkFailure (.dieLink t d)) s = .next (linksChanged (setLink s t d 0))) ∧
    (exec (.linkFailure .domeLink) s = .next (linksChanged { s with fab := { s.fab with domeLink := 0 } })) ∧
    (∀ a b, exec (.linkFailure (.ring a b)) s = .next s) ∧
    (∀ p, ∃ t, exec (.linkFailure (.plane p)) s = .next t ∧ t.fab.planeUp = s.fab.planeUp.set p false ∧
      t.fab.portUp = (s.fab.portUp.zipIdx).map (fun u => u.1 && u.2 % 8 != p) ∧ t.mem = s.mem ∧ t.warps = s.warps) ∧
    (∀ t d, t < 4 → exec (.dieLinkModuleRetire t d) s =
      .next (linksChanged (setLink s t d ((s.fab.links.getD t []).getD d 0 - 1)))) ∧
    (∀ t d, 4 ≤ t → exec (.dieLinkModuleRetire t d) s =
      .next (linksChanged { s with fab := { s.fab with domeLink := s.fab.domeLink - 1 } })) ∧
    (∀ t, s.plat.fenced.getD t true = true → exec (.towerFence t) s = .next s) ∧
    (∀ t m, s.plat.fenced.getD t true = false →
      (List.range 4).find? (fun k => !(s.plat.fenced.set t true).getD k true) = some m →
      let s0 := { s with plat := { s.plat with fenced := s.plat.fenced.set t true } }
      let s2 := (s.fu.jobs.filter (fun j => j.tower == t)).foldl (fun s j =>
        if j.phase = .closing then putEntry s j.t (setBits j.old.toNat 59 1 1) else fuDrop s j.t) s0
      let s1 := { s2 with
        disp := { s.disp with master := m }
        fu := { asked := s.fu.asked.map (fun a => (if a.1 == t then m else a.1, a.2))
                jobs := s.fu.jobs.map (fun j => if j.tower = t
                  then { j with tower := m, phase := if j.phase = .migrating then .migrating else .copying } else j) }
        caches := { s2.caches with ilines := s.caches.ilines.filter (fun l => l.tower != t) } }
      exec (.towerFence t) s = .next (loseCrews s1 ((List.range s.crews.length).filter (fun c =>
        (crewAt s c).tower == t && !(crewAt s c).gone)))) ∧
    (∀ spire, spire < 136 → spire ∉ s.plat.retired → exec (.spireRetire spire false) s = .next (loseCrews
      (retireSpire s (spire / 34) (spire % 34)) (spireCrews s (spire / 34, spire % 34)))) ∧
    (∀ spire, spire < 136 → spire ∉ s.plat.retired → spireCrews s (spire / 34, spire % 34) = [] →
      exec (.spireRetire spire true) s = .next (retireSpire (settleAll s) (spire / 34) (spire % 34))) ∧
    (∀ d, ∃ t, exec (.domeFailure d) s = .next t ∧ t.plat.st = .safe ∧ t.fu.jobs = [] ∧ t.fu.asked = [] ∧ t.copies = [] ∧
      t.coll.cmds = [] ∧ t.fab.reqs = [] ∧ t.fab.waits = [] ∧ t.plat.hostWrites = []) ∧
    (∀ w lanes addr pc r, let x := warpAt s w
      let m := lanes &&& r.dst.lanes
      let sound := (∃ n, r.dst.d = .s n) ∧ ∀ l, lowest r.dst.lanes = some l → m.getLsbD l = false
      let lost := fun (dst : Dest) => asyncTrap (setWarp s w { writeDest x { dst with lanes := m } r.words (fun _ => 0) with
        lastLd := none }) w r.issue r.fslot 0x16 m pc addr.toNat 2
      x.lastLd = some r → r.pc = pc → m ≠ 0 → x.gone = false →
      (¬ sound → exec (.memoryDataError w lanes addr pc) s = .next (lost r.dst)) ∧
      (sound → exec (.memoryDataError w lanes addr pc) s =
        .next (lost { r.dst with h := { r.dst.h with w := true } }))) ∧
    (∀ line words, ∃ t, exec (.poisonedWriteback line words) s = .next t ∧ t.mem = s.mem ∧ t.warps = s.warps ∧
      ∀ w, w ∈ t.plat.poison ↔ w ∈ s.plat.poison ∨ ∃ k ∈ words, k < 16 ∧ w = 16 * line + k)

/-- The host's writes by a function that the access table lets reach them: contexts are made, stopped, resumed and
destroyed, the order log's mode is changed, queues enabled, disabled and moved on, and every register of BAR0 written, for
CTXHOST with one command at a time; memory is read and written through BAR2; what the access table denies completes with
Unsupported Request. The debugger sees, changes and resumes a halted warp (R316, R327, R328, R347, R408 to R414). That the
paths that wait are held to what the debugger has changed, and which edits there are, is the model's reading (log entry
22). -/
def Obligations.HostEvents : Prop :=
  (∀ (s : State) fn, hostMay s fn 3 →
    (∀ ctx x, ctxReach s fn ctx = true → ctxGet s ctx = some x →
      (x.stopping = false → x.stopped = false → exec (.contextStop fn ctx) s =
        .next (requestContext (ctxPut s ctx { x with stopping := true }) ctx)) ∧
      (x.stopped = true → exec (.contextResume fn ctx) s = .next (settleAll (ctxPut s ctx { x with stopped := false }))) ∧
      (∀ on, exec (.dirtyTrackingEnable fn ctx on) s = .next (ctxPut s ctx { x with dten := on })) ∧
      (∀ v : Word, let t := ctxPut s ctx (setCsr x 0x044 (v.toNat / 2 ^ 15 * 2 ^ 15))
        exec (.hostOrtbaseWrite fn ctx false v) s = .next (dropContext t ctx)) ∧
      (∀ v : Word, let t := ctxPut s ctx (setCsr x 0x045 (bits v.toNat 0 24))
        exec (.hostOrtbaseWrite fn ctx true v) s = .next (dropContext t ctx)) ∧
      (∀ v : Word, let mode := if bits v.toNat 0 2 = 3 then 0 else bits v.toNat 0 2
        (mode = bits (csrN x 0x074) 0 2 → exec (.olctlModeChange fn ctx v) s =
          .next (ctxPut s ctx (setCsr x 0x074 (mode + 2 ^ 8 * bits v.toNat 8 2)))) ∧
        (mode ≠ bits (csrN x 0x074) 0 2 → exec (.olctlModeChange fn ctx v) s =
          .next (ctxPut s ctx (setCsr (setCsr { x with lseq := [], replayed := [], olEnded := [] } 0x074 mode) 0x073 0)))) ∧
      (∀ v : Word, exec (.dlOverflowClear fn ctx v) s = .next (ctxPut s ctx { x with
        dlOvf := x.dlOvf && bits v.toNat 8 1 == 0
        dl := x.dl.set 2 (if 20 < bits v.toNat 0 5 then x.dl.getD 2 0 else BitVec.ofNat 32 (bits v.toNat 0 5)) })) ∧
      (∀ v : Word, let at_ := 0x1000000 + 0x1000 * ctx
        exec (.registerWrite fn (at_ + 0x010) v) s =
          .next (ctxPut s ctx { x with dl := x.dl.set 0 (BitVec.ofNat 32 (v.toNat / 8 * 8)) }) ∧
        exec (.registerWrite fn (at_ + 0x014) v) s =
          .next (ctxPut s ctx { x with dl := x.dl.set 1 (BitVec.ofNat 32 (bits v.toNat 0 24)) }) ∧
        exec (.registerWrite fn (at_ + 0x018) v) s = exec (.dlOverflowClear fn ctx v) s ∧
        exec (.registerWrite fn (at_ + 0x01C) v) s = .next s ∧
        exec (.registerWrite fn (at_ + 0x020) v) s = .next (ctxPut s ctx { x with dl := x.dl.set 4 v }) ∧
        exec (.registerWrite fn (at_ + 0x800 + 4 * 0x044) v) s = exec (.hostOrtbaseWrite fn ctx false v) s ∧
        exec (.registerWrite fn (at_ + 0x800 + 4 * 0x045) v) s = exec (.hostOrtbaseWrite fn ctx true v) s ∧
        exec (.registerWrite fn (at_ + 0x800 + 4 * 0x074) v) s = exec (.olctlModeChange fn ctx v) s ∧
        (∀ n i, n < 512 → csrInfo n = some i → 0x010 ≤ n → n ∉ [0x044, 0x045, 0x074, 0x09C, 0x0AC, 0x0BA] →
          exec (.registerWrite fn (at_ + 0x800 + 4 * n) v) s = (if i.ro then .next s
            else .next (ctxPut s ctx (setCsr x n (csrStored n (csrN x n) v.toNat))))) ∧
        (∀ n, n ∈ [0x09C, 0x0AC, 0x0BA] → exec (.registerWrite fn (at_ + 0x800 + 4 * n) v) s =
          .next ((contextRegister s ctx x n v.toNat s.disp.master).getD s)) ∧
        (let own := if fn = 0 then funcSet s ctx (bits v.toNat 24 6) else s
          let t := ctxPut own ctx { x with dten := bits v.toNat 2 1 == 1 }
          (fn ≠ 0 ∨ bits v.toNat 4 1 = 0 →
            (bits v.toNat 0 2 = 0 → exec (.registerWrite fn at_ v) s = .next t) ∧
            (bits v.toNat 0 2 = 1 → exec (.registerWrite fn at_ v) s = exec (.contextStop fn ctx) t) ∧
            (bits v.toNat 0 2 = 2 → exec (.registerWrite fn at_ v) s = exec (.contextResume fn ctx) t)) ∧
          (fn = 0 → bits v.toNat 4 1 = 1 → x.stopped = true →
            exec (.registerWrite fn at_ v) s = exec (.contextDestroy fn ctx) own)))) ∧
    (∀ ctx (v : Word), fn = 0 → ctx < 4096 → ctxGet s ctx = none →
      let own := funcSet s ctx (bits v.toNat 24 6)
      (bits v.toNat 3 1 = 0 → exec (.registerWrite fn (0x1000000 + 0x1000 * ctx) v) s = .next own) ∧
      (bits v.toNat 3 1 = 1 →
        exec (.registerWrite fn (0x1000000 + 0x1000 * ctx) v) s = exec (.contextCreate fn ctx) own)) ∧
    (∀ ctx, fn = 0 → ctx < 4096 → ctxGet s ctx = none → exec (.contextCreate fn ctx) s = .next (raiseMsix (dropContext
      { s with ctxs := insertCtx ctx Ctx.fresh s.ctxs } ctx) (ctxFunc s ctx) 3)) ∧
    (∀ ctx x, fn = 0 → ctx < 4096 → ctxGet s ctx = some x → x.stopped = true →
      ∃ t, exec (.contextDestroy fn ctx) s = .next t ∧ ctxGet t ctx = none ∧ (∀ l ∈ t.launches, l.ctx ≠ ctx) ∧
        (∀ e ∈ t.disp.ents, e.ctx ≠ ctx) ∧ (∀ m ∈ t.disp.heldMsgs, m.ctx ≠ ctx) ∧
        (∀ q ∈ t.queues, ∀ r ∈ q.ring, r.msg.ctx = ctx → r.msg.handle = 0) ∧
        (ctxLaunches s ctx = [] → t = ctxRemove (settleAll (breakHandles s [])) ctx)) ∧
    (∀ ctx x, fn = 0 → ctx < 4096 → ctxGet s ctx = some x → x.stopped = false →
      exec (.contextDestroy fn ctx) s = .next s)) ∧
  (∀ (s : State) fn q (v : Word), let x := s.queues.getD q Queue.zero
    let put := fun (y : Queue) => ({ s with queues := s.queues.set q y } : State)
    let reg := fun k => exec (.registerWrite fn (0x10000 + 0x40 * q + k) v) s
    hostMay s fn 2 → queueReach s fn q = true →
    (x.en = true → (v.toNat + 2 ^ 32 - x.head.toNat) % 2 ^ 32 ≤ 2 ^ x.log →
      exec (.qtailWrite fn q v) s = .next (put { x with tail := v })) ∧
    (x.en = true → 2 ^ x.log < (v.toNat + 2 ^ 32 - x.head.toNat) % 2 ^ 32 → exec (.qtailWrite fn q v) s = .next s) ∧
    (x.en = false → exec (.qtailWrite fn q v) s = .next s) ∧
    (x.en = false → bits v.toNat 0 4 ≤ 12 → exec (.queueEnable fn q v) s = .next (put { x with
      log := bits v.toNat 0 4, en := true, head := 0, tail := 0, ring := [], begun := false, failed := [] })) ∧
    (x.en = true → bits v.toNat 0 4 ≤ 12 → exec (.queueDisable fn q v) s = .next (put { x with en := false })) ∧
    (12 < bits v.toNat 0 4 → exec (.queueEnable fn q v) s = .next s ∧ exec (.queueDisable fn q v) s = .next s) ∧
    (bits v.toNat 31 1 = 1 → reg 0x08 = exec (.queueEnable fn q v) s) ∧
    (bits v.toNat 31 1 = 0 → reg 0x08 = exec (.queueDisable fn q v) s) ∧
    reg 0x0C = exec (.qtailWrite fn q v) s ∧ reg 0x10 = .next s ∧
    (x.en = true → reg 0x00 = .next s ∧ reg 0x04 = .next s ∧ reg 0x14 = .next s) ∧
    (x.en = false → reg 0x00 = .next (put { x with
      base := BitVec.ofNat 64 (v.toNat / 128 * 128 + 2 ^ 32 * bits x.base.toNat 32 32) }) ∧
      reg 0x04 = .next (put { x with base := BitVec.ofNat 64 (bits x.base.toNat 0 32 + 2 ^ 32 * v.toNat) }) ∧
      reg 0x14 = .next (put { x with ageth := v })) ∧
    (fn ≠ 0 → reg 0x18 = .next s) ∧
    (fn = 0 → reg 0x18 = .next (put { x with
      owner := bits v.toNat 0 12, qprio := bits v.toNat 16 3, func := bits v.toNat 24 6 }))) ∧
  (∀ (s : State) (v : Word),
    (hostMay s 0 0 → exec (.registerWrite 0 0x0C v) s =
        .next { s with plat := { s.plat with bar2 := s.plat.bar2.set 0 v } } ∧
      exec (.registerWrite 0 0x00 v) s = .next s ∧ exec (.registerWrite 0 0x04 v) s = .next s ∧
      (v = 1 → exec (.registerWrite 0 0x08 v) s = exec .coldStart s) ∧
      (v = 2 → exec (.registerWrite 0 0x08 v) s = exec .warmStart s) ∧
      (v ≠ 1 → v ≠ 2 → exec (.registerWrite 0 0x08 v) s = .next s)) ∧
    (hostMay s 0 1 → ∀ f, 1 ≤ f → f ≤ 63 → exec (.registerWrite 0 (0x1000 + 0x10 * f) v) s =
      .next { s with plat := { s.plat with bar2 := s.plat.bar2.set f v } }) ∧
    (∀ fn off, fn ≠ 0 → off < 0x10000 → hostMay s fn (barBlock off) → exec (.registerWrite fn off v) s = .next s) ∧
    (∀ fn off, fn ≤ 63 → s.plat.hostWrites = [] → barOk s fn (barBlock off) 1 = false →
      exec (.registerWrite fn off v) s = .next (send s (.unsupported fn)))) ∧
  (∀ (s : State) ctx x, ctxGet s ctx = some x → x.stopping = true → ctxBusy s ctx = false →
    exec (.contextStopComplete ctx) s =
      .next (raiseMsix (ctxPut s ctx { x with stopping := false, stopped := true }) (ctxFunc s ctx) 3)) ∧
  (∀ (s : State) fn addr, fn ≤ 63 → s.plat.hostWrites = [] → let at_ := (s.plat.bar2.getD fn 0).toNat * 2 ^ 36 + addr
    (∀ len, bar2Ok s fn addr len 0 = true → (∀ k < len, (at_ + k) / 8 ∉ s.plat.poison) →
      exec (.hostMemoryRead fn addr len) s = .next (send { s with free := s.free + len }
        (.readData fn addr ((List.range len).map (fun k => memGet s.mem (at_ + k)))))) ∧
    (∀ data : List Byte, bar2Ok s fn addr data.length 1 = true → ownLines s →
      ∃ t, exec (.hostMemoryWrite fn addr data) s = .next t ∧ t.mem = memPut s.mem at_ data ∧ t.warps = s.warps ∧
        t.plat.hostWrites = []) ∧
    (∀ len, bar2Ok s fn addr len 0 = false → exec (.hostMemoryRead fn addr len) s = .next (send s (.unsupported fn))) ∧
    (∀ data : List Byte, bar2Ok s fn addr data.length 1 = false →
      exec (.hostMemoryWrite fn addr data) s = .next (send s (.unsupported fn)))) ∧
  (∀ (s : State) w, let x := warpAt s w
    (x.halt = .halted → engFrozen s w = true ∨ (drainLeft s w = false ∧ (crewAt s x.crew).eng = []) →
      exec (.haltPresented w) s = .next (setWarp s w { x with halt := .presented })) ∧
    (x.halt = .presented → exec (.debugResume w) s =
      .next (setWarp s w { x with halt := .no, step := bits (dbgctl s w) 4 1 == 1 })) ∧
    (∀ ed, x.halt = .presented → let t := setWarp s w (editWarp x ed)
      exec (.debugStateWrite w ed) s = .next (recheckParks (setCrew t x.crew (editCrew (crewAt t x.crew) ed)) x.crew)) ∧
    (∀ r l (v : Word), (editWarp x (.vreg r l v)).v = x.v.set r ((x.v.getD r []).set l v)) ∧
    (∀ r (v : Word), (editWarp x (.sreg r v)).s = x.s.set r v) ∧
    (∀ v : Word, (editWarp x (.fflags v)).fflags = v &&& 0x1F) ∧
    (∀ v : DWord, (editWarp x (.pc false v)).sa.path.pc = BitVec.ofNat 64 (v.toNat / 8 * 8)))

/-- Starts end everything that runs and leave STATE 1 or 2; a start that passes leaves STATE 3, the counters 0 and the
signed configuration applied; the second cold failure in a row leaves the safe state; the management interface answers;
the clock steps; the thermal limit leaves the safe state (R415 to R418). What the answers hold beyond the manual's list is
open; the numbers 0 to 6 by which they name their requests are the model's choice (log entry 24). -/
def Obligations.PlatformEvents : Prop :=
  ∀ (s : State),
    let f := s.plat.flash
    (starting s = false → ∃ t, exec .coldStart s = .next t ∧ restarted t .cold ∧
      t.plat.flash.wf = (if f.wf = 3 then 0 else f.wf)) ∧
    (starting s = true → exec .coldStart s = .next s ∧ exec .warmStart s = .next s) ∧
    (starting s = false → s.plat.st ≠ .safe → ∃ t, exec .warmStart s = .next t ∧
      restarted t (if f.wf = 3 then .cold else .warm)) ∧
    (starting s = true → ∃ t, exec (.startComplete true) s = .next t ∧ t.plat.st = .ready ∧ t.plat.started = s.now ∧
      t.plat.flash.wf = 0 ∧
      t.plat.flash.cf = 0 ∧ t.plat.devnum = f.devnum ∧ t.plat.repair = f.repair ∧ t.plat.acl = f.acl ∧ t.disp.ents = [] ∧
      t.disp.master = ((List.range 4).find? (fun k => !s.plat.fenced.getD k true)).getD 0) ∧
    (s.plat.st = .cold → ∃ t, exec (.startComplete false) s = .next t ∧ t.plat.flash.cf = f.cf + 1 ∧
      t.plat.st = (if f.cf = 0 then .reset else .safe)) ∧
    (s.plat.st = .warm → ∃ t, exec (.startComplete false) s = .next t ∧ t.plat.flash.wf = f.wf + 1 ∧ t.plat.st = .reset) ∧
    (∀ i n, (i, n) ∈ [(Instr.getVersion, 0), (Instr.getCapabilities, 1), (Instr.negotiateAlgorithms, 2),
        (Instr.getDigests, 3), (Instr.getCertificate, 4), (Instr.getMeasurements, 6)] →
      ∃ t body, exec i s = .next t ∧ t.outbox = s.outbox ++ [⟨.spdm n body, s.now, none⟩] ∧ t.mem = s.mem ∧ t.warps = s.warps ∧
        (n = 0 → body = [1, 3]) ∧ (n = 6 → body.drop 4 = [f.wf, f.cf])) ∧
    (∀ nonce, ∃ t sig, exec (.challenge nonce) s = .next t ∧
      t.outbox = s.outbox ++ [⟨.spdm 5 [nonce, sig], s.now, none⟩] ∧ t.mem = s.mem ∧ t.warps = s.warps) ∧
    exec .thermalThrottle s = .next { s with plat := { s.plat with clock := s.plat.clock + 1 } } ∧
    exec .thermalRecover s = .next { s with plat := { s.plat with clock := s.plat.clock - 1 } } ∧
    (∃ t, exec .thermalShutdown s = .next t ∧ t.plat.st = .safe)

/-- Words of the specification's examples decode to the instructions that stand beside them (R34 to R47). -/
def Obligations.DecodeExamples : Prop :=
  decode (wordBytes 0x1670020984000005) = .ok (.icmp plainHdr .ge false 1 (.v 4) (.s 2), []) ∧
  decode (wordBytes 0x3070040386000003) = .ok (.lxchXor plainHdr 0 (.v 2) (.v 1) (.s 3), []) ∧
  decode (wordBytes 0x6870080586801006) =
    .ok (.lds32 plainHdr ⟨false, .dev, .rlx, 64, 2, .s 3, .v 2⟩ (.v 4), []) ∧
  decode (wordBytes 0x2570100400060010) = .ok (.fcvt plainHdr 0 3 1 (.v 8) (.v 2), []) ∧
  decode (wordBytes 0x4020000006000400) = .ok (.bra ⟨2, false⟩ false 4 3, []) ∧
  decode (wordBytes 0x60700C05D60A15B0) = .ok (.atomCas plainHdr ⟨.dev, .ar, 0, .z, .v 2⟩ false (.v 6) (.v 5), []) ∧
  decode (wordBytes 0x9170118D8E000010) = .ok (.cpyg plainHdr 1 (.v 8) (.s 6) (.s 7), []) ∧
  decode (wordBytes 0xA2700D8991940030) = .ok (.hsend plainHdr 3 false (.v 6) (.s 4) (.s 8) (.s 10), []) ∧
  decode (wordBytes 0xC470000000000040) = .ok (.tretLaunch always, [])

/-- At a warp's turn, when the bytes at the PC of the path that issues decode to an instruction, the step is that
instruction's meaning in the state in which the path has issued, and then what closes an issue and a turn; bytes that
decode to nothing trap ILL. A PC whose object holds no code traps PERM with detail 3, one without PERM_X PERM with
detail 1, and one at or beyond the element count or past the last offset OOS, with the PC as the address. A turn that
names an event is that event's meaning, but a debugger halt that is due comes before the delivery of a trap (R28, R46,
R308). That turns name what moves next, what follows each of them, and that nothing follows in a machine at rest, is the
model's choice (log entry 5). -/
def Obligations.StepRunsDecoded : Prop :=
  (∀ (s : State) w ts k, let s0 := { s with turns := ts }
    let t := openIssue s0 w k
    let e := envOf t ⟨w, k⟩
    let traps := fun c d => step s = .next (afterIt (issueTrap s0 w k c none d))
    s.turns = .issue w :: ts → issues s0 w k →
    (∀ a, codeAt t ⟨w, k⟩ a →
      (∀ i rest, decode (memBytes t.mem a 8) = .ok (i, rest) → wellFormed i = true ∧
        (∀ u, exec i t = .next u → step s = .next (afterIt (closeIssue (slotOf (warpAt s0 w) k) u w k))) ∧
        (∀ f, exec i t = .fault f → step s = .fault f) ∧ (∀ r, exec i t = .refused r → step s = .refused r)) ∧
      (∀ x, decode (memBytes t.mem a 8) = .error x → traps 1 0)) ∧
    (e.sl.failed.contains lastMark = true → traps 6 0) ∧
    (∀ rc, e.sl.failed.contains lastMark = false →
      recordOf t (envAgent t e) (bits e.pc.toNat 42 22) (bits e.pc.toNat 0 42) = .ok rc →
      (recKind rc ≠ 2 → traps 5 3) ∧
      (recKind rc = 2 → recPerm rc .x = false → traps 5 1) ∧
      (recKind rc = 2 → recPerm rc .x = true → recCount rc ≤ bits e.pc.toNat 0 42 → traps 6 0))) ∧
  (∀ (s : State) e ts u, s.turns = .event e :: ts → (∀ w, e = .trapDelivery w → haltDue { s with turns := ts } w = none) →
    exec e { s with turns := ts } = .next u → step s = .next (afterIt u)) ∧
  (∀ (s : State) w ts t, s.turns = .event (.trapDelivery w) :: ts → haltDue { s with turns := ts } w = some t →
    step s = .next (afterIt t)) ∧
  (∀ u : State, atRest u → afterIt u = u)

/-- The decoder reads every well-formed instruction back from its word, and from its bytes wherever they stand. -/
def Obligations.EncodeDecodeRoundTrip : Prop :=
  ∀ i rest, wellFormed i = true → decodeWord (encode i) = .ok i ∧ decode (encodeBytes i ++ rest) = .ok (i, rest)

/-- At reset STATE is 0, no context exists, no queue is enabled and nothing runs, and memory is in its canonical form; that
every byte of it then reads 0 is the model's choice (log entry 1). -/
def Obligations.ResetState : Prop :=
  State.reset.plat.st = .reset ∧ (∀ c, ctxGet State.reset c = none) ∧ (∀ q, (State.reset.queues.getD q Queue.zero).en = false) ∧
  State.reset.warps = [] ∧ State.reset.crews = [] ∧ State.reset.launches = [] ∧ storesWf State.reset = true ∧
  ∀ a, memGet State.reset.mem a = 0

/-- When the dispatcher starts a crew, its warps hold the start values of R189, on top of those of R8 and R137, and its
scratchpad reads as zero. -/
def Obligations.StartValues : Prop :=
  ∀ (s : State) (l : Launch) lin ls p region reserve, ∃ cr ws, let t := startCrew s l lin ls p region reserve
    t.crews = s.crews ++ [cr] ∧ t.warps = s.warps ++ ws ∧ t.mem = s.mem ∧
    ws.length = (warpRoles l.record).length ∧ cr.warps = (List.range ws.length).map (· + s.warps.length) ∧
    (∀ a, memGet cr.scr a = 0) ∧ (∀ k < 6, (cr.chans.getD k ⟨true, 0, 0, 0, []⟩).bound = false) ∧
    ∀ j < ws.length, startsAs l lin j (warpAt t (s.warps.length + j))

/-- Every step keeps every byte store in its canonical form: strictly rising addresses, and no entry that an unlisted
address would read as. The stores are memory, each crew's scratchpad, accumulators and plane weights, and those of crews
that move with a context. -/
def Obligations.StoresForm : Prop :=
  ∀ s t : State, storesWf s = true → step s = .next t → storesWf t = true
end

