-- ==== Sys2Proof/Laws/Mem.lean ====
section
/-! SUPPORT. The byte store: reading after writing, and every operation keeps the canonical form. -/

namespace Sys2Proof.Machine

/-! ### The canonical form -/

theorem memWfFrom_mono {lo hi : Nat} {m : Memory} (h : lo ≤ hi) (w : memWfFrom hi m = true) :
    memWfFrom lo m = true := by
  cases m with
  | nil => rfl
  | cons c m =>
    simp only [memWfFrom, Bool.and_eq_true, decide_eq_true_eq] at *
    exact ⟨⟨by omega, w.1.2⟩, w.2⟩

theorem memGet_below {lo : Nat} {m : Memory} (w : memWfFrom lo m = true) {a : Nat} (h : a < lo) : memGet m a = 0 := by
  induction m generalizing lo with
  | nil => rfl
  | cons c m ih =>
    obtain ⟨k, x⟩ := c
    simp only [memWfFrom, Bool.and_eq_true, decide_eq_true_eq] at w
    have : k ≠ a := by omega
    simp only [memGet, this, if_false]
    exact ih w.2 (by omega)

theorem memWfFrom_cons {lo k : Nat} {x : Byte} {m : Memory} :
    memWfFrom lo ((k, x) :: m) = true ↔ lo ≤ k ∧ x ≠ 0 ∧ memWfFrom (k + 1) m = true := by
  simp only [memWfFrom, Bool.and_eq_true, decide_eq_true_eq, and_assoc]

theorem memSet_wfFrom {lo : Nat} {m : Memory} (w : memWfFrom lo m = true) {a : Nat} (b : Byte) (h : lo ≤ a) :
    memWfFrom lo (memSet m a b) = true := by
  induction m generalizing lo with
  | nil =>
    unfold memSet
    by_cases hb : b = 0
    · rw [if_pos hb]; rfl
    · rw [if_neg hb]; exact memWfFrom_cons.2 ⟨h, hb, rfl⟩
  | cons c m ih =>
    obtain ⟨k, x⟩ := c
    obtain ⟨w1, w2, w3⟩ := memWfFrom_cons.1 w
    unfold memSet
    by_cases h1 : a < k
    · rw [if_pos h1]
      by_cases hb : b = 0
      · rw [if_pos hb]; exact w
      · rw [if_neg hb]; exact memWfFrom_cons.2 ⟨h, hb, memWfFrom_cons.2 ⟨by omega, w2, w3⟩⟩
    · rw [if_neg h1]
      by_cases h2 : a = k
      · rw [if_pos h2]
        by_cases hb : b = 0
        · rw [if_pos hb]; exact memWfFrom_mono (by omega) w3
        · rw [if_neg hb]; exact memWfFrom_cons.2 ⟨h, hb, h2 ▸ w3⟩
      · rw [if_neg h2]; exact memWfFrom_cons.2 ⟨w1, w2, ih w3 (by omega)⟩

theorem memSet_wf {m : Memory} (w : m.wf = true) (a : Nat) (b : Byte) : (memSet m a b).wf = true :=
  memSet_wfFrom w b (Nat.zero_le a)

theorem memPut_wf {m : Memory} (w : m.wf = true) (a : Nat) (bs : List Byte) : (memPut m a bs).wf = true := by
  induction bs generalizing m a with
  | nil => exact w
  | cons b bs ih => exact ih (memSet_wf w a b) (a + 1)

theorem memPutNat_wf {m : Memory} (w : m.wf = true) (a n x : Nat) : (memPutNat m a n x).wf = true := memPut_wf w a _

theorem memPutBits_wf {m : Memory} (w : m.wf = true) (bit n x : Nat) : (memPutBits m bit n x).wf = true :=
  memPutNat_wf w _ _ _

theorem filter_wfFrom {lo : Nat} {m : Memory} (p : Nat × Byte → Bool) (w : memWfFrom lo m = true) :
    memWfFrom lo (m.filter p) = true := by
  induction m generalizing lo with
  | nil => rfl
  | cons c m ih =>
    obtain ⟨k, x⟩ := c
    simp only [memWfFrom, Bool.and_eq_true, decide_eq_true_eq] at w
    rw [List.filter_cons]
    split
    · simp only [memWfFrom, Bool.and_eq_true, decide_eq_true_eq]
      exact ⟨w.1, ih w.2⟩
    · exact memWfFrom_mono (by omega) (ih w.2)

theorem memClear_wf {m : Memory} (w : m.wf = true) (lo hi : Nat) : (memClear m lo hi).wf = true := filter_wfFrom _ w

theorem foldl_memSet_wf {α : Type} (xs : List α) (f : α → Nat) (g : α → Byte) {m : Memory} (w : m.wf = true) :
    (xs.foldl (fun acc c => memSet acc (f c) (g c)) m).wf = true := by
  induction xs generalizing m with
  | nil => exact w
  | cons x xs ih => exact ih (memSet_wf w _ _)

theorem memCopy_wf {m : Memory} (w : m.wf = true) (dst : Nat) (src : Memory) (lo n : Nat) :
    (memCopy m dst src lo n).wf = true := foldl_memSet_wf _ _ _ (memClear_wf w _ _)

theorem memSlice_wf (m : Memory) (src n : Nat) : (memSlice m src n).wf = true := memCopy_wf rfl _ _ _ _

/-! ### Reading after writing -/

theorem memGet_cons_ne {k a : Nat} {x : Byte} {m : Memory} (h : k ≠ a) : memGet ((k, x) :: m) a = memGet m a := by
  simp only [memGet, h, if_false]

theorem memGet_cons_self {a : Nat} {x : Byte} {m : Memory} : memGet ((a, x) :: m) a = x := by
  simp only [memGet, if_true]

theorem memGet_memSet_wfFrom {lo : Nat} {m : Memory} (w : memWfFrom lo m = true) (a b' : Nat) (b : Byte) :
    memGet (memSet m a b) b' = if b' = a then b else memGet m b' := by
  induction m generalizing lo with
  | nil =>
    unfold memSet
    by_cases hb : b = 0
    · rw [if_pos hb]; split <;> simp [memGet, hb]
    · rw [if_neg hb]
      by_cases h : b' = a
      · rw [if_pos h, h, memGet_cons_self]
      · rw [if_neg h, memGet_cons_ne (fun e => h e.symm)]
  | cons c m ih =>
    obtain ⟨k, x⟩ := c
    obtain ⟨w1, w2, w3⟩ := memWfFrom_cons.1 w
    unfold memSet
    by_cases h1 : a < k
    · rw [if_pos h1]
      by_cases hb : b = 0
      · rw [if_pos hb]
        split
        · subst b'; rw [hb, memGet_cons_ne (by omega), memGet_below w3 (by omega)]
        · rfl
      · rw [if_neg hb]
        by_cases h : b' = a
        · rw [if_pos h, h, memGet_cons_self]
        · rw [if_neg h, memGet_cons_ne (fun e => h e.symm)]
    · rw [if_neg h1]
      by_cases h2 : a = k
      · rw [if_pos h2]
        subst h2
        by_cases hb : b = 0
        · rw [if_pos hb]
          by_cases h : b' = a
          · rw [if_pos h, h, hb, memGet_below w3 (by omega)]
          · rw [if_neg h, memGet_cons_ne (fun e => h e.symm)]
        · rw [if_neg hb]
          by_cases h : b' = a
          · rw [if_pos h, h, memGet_cons_self]
          · rw [if_neg h, memGet_cons_ne (fun e => h e.symm), memGet_cons_ne (fun e => h e.symm)]
      · rw [if_neg h2]
        by_cases h : k = b'
        · subst h; rw [memGet_cons_self, memGet_cons_self, if_neg (fun e => h2 e.symm)]
        · rw [memGet_cons_ne h, memGet_cons_ne h, ih w3]

/-- A byte reads as it was written last. -/
theorem memGet_memSet {m : Memory} (w : m.wf = true) (a b' : Nat) (b : Byte) :
    memGet (memSet m a b) b' = if b' = a then b else memGet m b' := memGet_memSet_wfFrom w a b' b

theorem memGet_memPut {m : Memory} (w : m.wf = true) (a : Nat) (bs : List Byte) (k : Nat) :
    memGet (memPut m a bs) k = if a ≤ k ∧ k < a + bs.length then bs.getD (k - a) 0 else memGet m k := by
  induction bs generalizing m a with
  | nil => simp [memPut]
  | cons b bs ih =>
    rw [memPut, ih (memSet_wf w a b), memGet_memSet w]
    by_cases h : k = a
    · subst h; simp
    · by_cases h2 : a + 1 ≤ k ∧ k < a + 1 + bs.length
      · have : k - a = (k - (a + 1)) + 1 := by omega
        have h3 : a ≤ k ∧ k < a + (b :: bs).length := by simp only [List.length_cons]; omega
        simp only [h2, h3, and_self, if_true, this, List.getD_cons_succ]
      · have h3 : ¬(a ≤ k ∧ k < a + (b :: bs).length) := by simp only [List.length_cons]; omega
        rw [if_neg h2, if_neg h, if_neg h3]

theorem natBytes_length (n x : Nat) : (natBytes n x).length = n := by
  induction n generalizing x with
  | zero => rfl
  | succ n ih => simp [natBytes, ih]

/-- A write of n bytes changes no byte outside them. -/
theorem memGet_memPutNat_outside {m : Memory} (w : m.wf = true) (a n x k : Nat) (h : k < a ∨ a + n ≤ k) :
    memGet (memPutNat m a n x) k = memGet m k := by
  rw [memPutNat, memGet_memPut w, if_neg]
  rw [natBytes_length]; omega

theorem memBytes_congr {m m' : Memory} (a n : Nat) (h : ∀ k, a ≤ k → k < a + n → memGet m k = memGet m' k) :
    memBytes m a n = memBytes m' a n := by
  induction n generalizing a with
  | zero => rfl
  | succ n ih =>
    simp only [memBytes]
    rw [h a (by omega) (by omega), ih (a + 1) (fun k h1 h2 => h k (by omega) (by omega))]

theorem memBytes_memPut {m : Memory} (w : m.wf = true) (a : Nat) (bs : List Byte) :
    memBytes (memPut m a bs) a bs.length = bs := by
  induction bs generalizing m a with
  | nil => rfl
  | cons b bs ih =>
    have h1 : memGet (memPut m a (b :: bs)) a = b := by rw [memGet_memPut w]; simp
    simp only [List.length_cons, memBytes, h1]
    rw [memPut, ih (memSet_wf w a b)]

theorem bytesNat_natBytes (n x : Nat) : bytesNat (natBytes n x) = x % 256 ^ n := by
  induction n generalizing x with
  | zero => simp [natBytes, bytesNat, Nat.mod_one]
  | succ n ih =>
    have h : (BitVec.ofNat 8 x).toNat = x % 256 := by simp
    rw [natBytes, bytesNat, ih, h, pow_succ', Nat.mod_mul]

/-- A number reads back as it was written (R25). -/
theorem memNat_memPutNat {m : Memory} (w : m.wf = true) (a n x : Nat) :
    memNat (memPutNat m a n x) a n = x % 256 ^ n := by
  have h := memBytes_memPut w a (natBytes n x)
  rw [natBytes_length] at h
  rw [memNat, memPutNat, h, bytesNat_natBytes]

/-- A number elsewhere reads as before. -/
theorem memNat_memPutNat_outside {m : Memory} (w : m.wf = true) (a n x b k : Nat) (h : b + k ≤ a ∨ a + n ≤ b) :
    memNat (memPutNat m a n x) b k = memNat m b k := by
  unfold memNat
  rw [memBytes_congr b k (fun j h1 h2 => memGet_memPutNat_outside w a n x j (by omega))]

/-! ### Equal memories are equal data -/

theorem memory_ext_from {lo : Nat} {m m' : Memory} (w : memWfFrom lo m = true) (w' : memWfFrom lo m' = true)
    (h : ∀ a, memGet m a = memGet m' a) : m = m' := by
  induction m generalizing lo m' with
  | nil =>
    cases m' with
    | nil => rfl
    | cons c m' =>
      obtain ⟨k, x⟩ := c
      simp only [memWfFrom, Bool.and_eq_true, decide_eq_true_eq] at w'
      have := h k
      simp only [memGet, if_true] at this
      exact absurd this.symm w'.1.2
  | cons c m ih =>
    obtain ⟨k, x⟩ := c
    simp only [memWfFrom, Bool.and_eq_true, decide_eq_true_eq] at w
    cases m' with
    | nil =>
      have := h k
      simp only [memGet, if_true] at this
      exact absurd this w.1.2
    | cons c' m' =>
      obtain ⟨k', x'⟩ := c'
      simp only [memWfFrom, Bool.and_eq_true, decide_eq_true_eq] at w'
      rcases Nat.lt_trichotomy k k' with hk | hk | hk
      · have := h k
        have hne : k' ≠ k := by omega
        simp only [memGet, if_true, hne, if_false] at this
        rw [memGet_below w'.2 (by omega)] at this
        exact absurd this w.1.2
      · subst hk
        have hx := h k
        simp only [memGet, if_true] at hx
        subst hx
        rw [ih w.2 w'.2]
        intro a
        by_cases ha : a < k + 1
        · rw [memGet_below w.2 ha, memGet_below w'.2 ha]
        · have := h a
          have hne : k ≠ a := by omega
          simpa only [memGet, hne, if_false] using this
      · have := h k'
        have hne : k ≠ k' := by omega
        simp only [memGet, if_true, hne, if_false] at this
        rw [memGet_below w.2 (by omega)] at this
        exact absurd this.symm w'.1.2

/-- Two memories in canonical form that read alike are the same list. -/
theorem memory_ext {m m' : Memory} (w : m.wf = true) (w' : m'.wf = true) (h : ∀ a, memGet m a = memGet m' a) :
    m = m' := memory_ext_from w w' h

end Sys2Proof.Machine
end

