-- ==== Sys2Proof/Laws/State.lean ====
section
/-! SUPPORT. One lemma per field per update of the state: what each of the updates that meanings are written over
leaves as it was. -/

namespace Sys2Proof.Machine

/-! ### setWarp, setCrew, putLaunch, ctxPut, send -/

@[simp] theorem setWarp_now (s : State) (w : Nat) (x : Warp) : (setWarp s w x).now = s.now := rfl
@[simp] theorem setWarp_cur (s : State) (w : Nat) (x : Warp) : (setWarp s w x).cur = s.cur := rfl
@[simp] theorem setWarp_turns (s : State) (w : Nat) (x : Warp) : (setWarp s w x).turns = s.turns := rfl
@[simp] theorem setWarp_free (s : State) (w : Nat) (x : Warp) : (setWarp s w x).free = s.free := rfl
@[simp] theorem setWarp_mem (s : State) (w : Nat) (x : Warp) : (setWarp s w x).mem = s.mem := rfl
@[simp] theorem setWarp_crews (s : State) (w : Nat) (x : Warp) : (setWarp s w x).crews = s.crews := rfl
@[simp] theorem setWarp_launches (s : State) (w : Nat) (x : Warp) : (setWarp s w x).launches = s.launches := rfl
@[simp] theorem setWarp_queues (s : State) (w : Nat) (x : Warp) : (setWarp s w x).queues = s.queues := rfl
@[simp] theorem setWarp_disp (s : State) (w : Nat) (x : Warp) : (setWarp s w x).disp = s.disp := rfl
@[simp] theorem setWarp_ctxs (s : State) (w : Nat) (x : Warp) : (setWarp s w x).ctxs = s.ctxs := rfl
@[simp] theorem setWarp_copies (s : State) (w : Nat) (x : Warp) : (setWarp s w x).copies = s.copies := rfl
@[simp] theorem setWarp_coll (s : State) (w : Nat) (x : Warp) : (setWarp s w x).coll = s.coll := rfl
@[simp] theorem setWarp_fu (s : State) (w : Nat) (x : Warp) : (setWarp s w x).fu = s.fu := rfl
@[simp] theorem setWarp_caches (s : State) (w : Nat) (x : Warp) : (setWarp s w x).caches = s.caches := rfl
@[simp] theorem setWarp_views (s : State) (w : Nat) (x : Warp) : (setWarp s w x).views = s.views := rfl
@[simp] theorem setWarp_promo (s : State) (w : Nat) (x : Warp) : (setWarp s w x).promo = s.promo := rfl
@[simp] theorem setWarp_fab (s : State) (w : Nat) (x : Warp) : (setWarp s w x).fab = s.fab := rfl
@[simp] theorem setWarp_outbox (s : State) (w : Nat) (x : Warp) : (setWarp s w x).outbox = s.outbox := rfl
@[simp] theorem setWarp_plat (s : State) (w : Nat) (x : Warp) : (setWarp s w x).plat = s.plat := rfl

@[simp] theorem setCrew_now (s : State) (c : Nat) (x : Crew) : (setCrew s c x).now = s.now := rfl
@[simp] theorem setCrew_cur (s : State) (c : Nat) (x : Crew) : (setCrew s c x).cur = s.cur := rfl
@[simp] theorem setCrew_turns (s : State) (c : Nat) (x : Crew) : (setCrew s c x).turns = s.turns := rfl
@[simp] theorem setCrew_free (s : State) (c : Nat) (x : Crew) : (setCrew s c x).free = s.free := rfl
@[simp] theorem setCrew_mem (s : State) (c : Nat) (x : Crew) : (setCrew s c x).mem = s.mem := rfl
@[simp] theorem setCrew_warps (s : State) (c : Nat) (x : Crew) : (setCrew s c x).warps = s.warps := rfl
@[simp] theorem setCrew_launches (s : State) (c : Nat) (x : Crew) : (setCrew s c x).launches = s.launches := rfl
@[simp] theorem setCrew_queues (s : State) (c : Nat) (x : Crew) : (setCrew s c x).queues = s.queues := rfl
@[simp] theorem setCrew_disp (s : State) (c : Nat) (x : Crew) : (setCrew s c x).disp = s.disp := rfl
@[simp] theorem setCrew_ctxs (s : State) (c : Nat) (x : Crew) : (setCrew s c x).ctxs = s.ctxs := rfl
@[simp] theorem setCrew_copies (s : State) (c : Nat) (x : Crew) : (setCrew s c x).copies = s.copies := rfl
@[simp] theorem setCrew_coll (s : State) (c : Nat) (x : Crew) : (setCrew s c x).coll = s.coll := rfl
@[simp] theorem setCrew_fu (s : State) (c : Nat) (x : Crew) : (setCrew s c x).fu = s.fu := rfl
@[simp] theorem setCrew_caches (s : State) (c : Nat) (x : Crew) : (setCrew s c x).caches = s.caches := rfl
@[simp] theorem setCrew_views (s : State) (c : Nat) (x : Crew) : (setCrew s c x).views = s.views := rfl
@[simp] theorem setCrew_promo (s : State) (c : Nat) (x : Crew) : (setCrew s c x).promo = s.promo := rfl
@[simp] theorem setCrew_fab (s : State) (c : Nat) (x : Crew) : (setCrew s c x).fab = s.fab := rfl
@[simp] theorem setCrew_outbox (s : State) (c : Nat) (x : Crew) : (setCrew s c x).outbox = s.outbox := rfl
@[simp] theorem setCrew_plat (s : State) (c : Nat) (x : Crew) : (setCrew s c x).plat = s.plat := rfl

@[simp] theorem putLaunch_now (s : State) (h : DWord) (f : Launch → Launch) : (putLaunch s h f).now = s.now := rfl
@[simp] theorem putLaunch_cur (s : State) (h : DWord) (f : Launch → Launch) : (putLaunch s h f).cur = s.cur := rfl
@[simp] theorem putLaunch_turns (s : State) (h : DWord) (f : Launch → Launch) : (putLaunch s h f).turns = s.turns := rfl
@[simp] theorem putLaunch_free (s : State) (h : DWord) (f : Launch → Launch) : (putLaunch s h f).free = s.free := rfl
@[simp] theorem putLaunch_mem (s : State) (h : DWord) (f : Launch → Launch) : (putLaunch s h f).mem = s.mem := rfl
@[simp] theorem putLaunch_warps (s : State) (h : DWord) (f : Launch → Launch) : (putLaunch s h f).warps = s.warps := rfl
@[simp] theorem putLaunch_crews (s : State) (h : DWord) (f : Launch → Launch) : (putLaunch s h f).crews = s.crews := rfl
@[simp] theorem putLaunch_queues (s : State) (h : DWord) (f : Launch → Launch) : (putLaunch s h f).queues = s.queues := rfl
@[simp] theorem putLaunch_disp (s : State) (h : DWord) (f : Launch → Launch) : (putLaunch s h f).disp = s.disp := rfl
@[simp] theorem putLaunch_ctxs (s : State) (h : DWord) (f : Launch → Launch) : (putLaunch s h f).ctxs = s.ctxs := rfl
@[simp] theorem putLaunch_copies (s : State) (h : DWord) (f : Launch → Launch) : (putLaunch s h f).copies = s.copies := rfl
@[simp] theorem putLaunch_coll (s : State) (h : DWord) (f : Launch → Launch) : (putLaunch s h f).coll = s.coll := rfl
@[simp] theorem putLaunch_fu (s : State) (h : DWord) (f : Launch → Launch) : (putLaunch s h f).fu = s.fu := rfl
@[simp] theorem putLaunch_caches (s : State) (h : DWord) (f : Launch → Launch) : (putLaunch s h f).caches = s.caches := rfl
@[simp] theorem putLaunch_views (s : State) (h : DWord) (f : Launch → Launch) : (putLaunch s h f).views = s.views := rfl
@[simp] theorem putLaunch_promo (s : State) (h : DWord) (f : Launch → Launch) : (putLaunch s h f).promo = s.promo := rfl
@[simp] theorem putLaunch_fab (s : State) (h : DWord) (f : Launch → Launch) : (putLaunch s h f).fab = s.fab := rfl
@[simp] theorem putLaunch_outbox (s : State) (h : DWord) (f : Launch → Launch) : (putLaunch s h f).outbox = s.outbox := rfl
@[simp] theorem putLaunch_plat (s : State) (h : DWord) (f : Launch → Launch) : (putLaunch s h f).plat = s.plat := rfl

@[simp] theorem ctxPut_now (s : State) (c : Nat) (x : Ctx) : (ctxPut s c x).now = s.now := rfl
@[simp] theorem ctxPut_cur (s : State) (c : Nat) (x : Ctx) : (ctxPut s c x).cur = s.cur := rfl
@[simp] theorem ctxPut_turns (s : State) (c : Nat) (x : Ctx) : (ctxPut s c x).turns = s.turns := rfl
@[simp] theorem ctxPut_free (s : State) (c : Nat) (x : Ctx) : (ctxPut s c x).free = s.free := rfl
@[simp] theorem ctxPut_mem (s : State) (c : Nat) (x : Ctx) : (ctxPut s c x).mem = s.mem := rfl
@[simp] theorem ctxPut_warps (s : State) (c : Nat) (x : Ctx) : (ctxPut s c x).warps = s.warps := rfl
@[simp] theorem ctxPut_crews (s : State) (c : Nat) (x : Ctx) : (ctxPut s c x).crews = s.crews := rfl
@[simp] theorem ctxPut_launches (s : State) (c : Nat) (x : Ctx) : (ctxPut s c x).launches = s.launches := rfl
@[simp] theorem ctxPut_queues (s : State) (c : Nat) (x : Ctx) : (ctxPut s c x).queues = s.queues := rfl
@[simp] theorem ctxPut_disp (s : State) (c : Nat) (x : Ctx) : (ctxPut s c x).disp = s.disp := rfl
@[simp] theorem ctxPut_copies (s : State) (c : Nat) (x : Ctx) : (ctxPut s c x).copies = s.copies := rfl
@[simp] theorem ctxPut_coll (s : State) (c : Nat) (x : Ctx) : (ctxPut s c x).coll = s.coll := rfl
@[simp] theorem ctxPut_fu (s : State) (c : Nat) (x : Ctx) : (ctxPut s c x).fu = s.fu := rfl
@[simp] theorem ctxPut_caches (s : State) (c : Nat) (x : Ctx) : (ctxPut s c x).caches = s.caches := rfl
@[simp] theorem ctxPut_views (s : State) (c : Nat) (x : Ctx) : (ctxPut s c x).views = s.views := rfl
@[simp] theorem ctxPut_promo (s : State) (c : Nat) (x : Ctx) : (ctxPut s c x).promo = s.promo := rfl
@[simp] theorem ctxPut_fab (s : State) (c : Nat) (x : Ctx) : (ctxPut s c x).fab = s.fab := rfl
@[simp] theorem ctxPut_outbox (s : State) (c : Nat) (x : Ctx) : (ctxPut s c x).outbox = s.outbox := rfl
@[simp] theorem ctxPut_plat (s : State) (c : Nat) (x : Ctx) : (ctxPut s c x).plat = s.plat := rfl

@[simp] theorem send_now (s : State) (o : Out) : (send s o).now = s.now := rfl
@[simp] theorem send_cur (s : State) (o : Out) : (send s o).cur = s.cur := rfl
@[simp] theorem send_turns (s : State) (o : Out) : (send s o).turns = s.turns := rfl
@[simp] theorem send_free (s : State) (o : Out) : (send s o).free = s.free := rfl
@[simp] theorem send_mem (s : State) (o : Out) : (send s o).mem = s.mem := rfl
@[simp] theorem send_warps (s : State) (o : Out) : (send s o).warps = s.warps := rfl
@[simp] theorem send_crews (s : State) (o : Out) : (send s o).crews = s.crews := rfl
@[simp] theorem send_launches (s : State) (o : Out) : (send s o).launches = s.launches := rfl
@[simp] theorem send_queues (s : State) (o : Out) : (send s o).queues = s.queues := rfl
@[simp] theorem send_disp (s : State) (o : Out) : (send s o).disp = s.disp := rfl
@[simp] theorem send_ctxs (s : State) (o : Out) : (send s o).ctxs = s.ctxs := rfl
@[simp] theorem send_copies (s : State) (o : Out) : (send s o).copies = s.copies := rfl
@[simp] theorem send_coll (s : State) (o : Out) : (send s o).coll = s.coll := rfl
@[simp] theorem send_fu (s : State) (o : Out) : (send s o).fu = s.fu := rfl
@[simp] theorem send_caches (s : State) (o : Out) : (send s o).caches = s.caches := rfl
@[simp] theorem send_views (s : State) (o : Out) : (send s o).views = s.views := rfl
@[simp] theorem send_promo (s : State) (o : Out) : (send s o).promo = s.promo := rfl
@[simp] theorem send_fab (s : State) (o : Out) : (send s o).fab =
    { s.fab with rseq := s.fab.rseq + (if o.engineDst.isSome then 1 else 0) } := rfl
@[simp] theorem send_plat (s : State) (o : Out) : (send s o).plat = s.plat := rfl

theorem warpAt_setWarp (s : State) (w : Nat) (x : Warp) (h : w < s.warps.length) : warpAt (setWarp s w x) w = x := by
  simp [warpAt, setWarp, List.getD_eq_getElem?_getD, h]

@[simp] theorem warpAt_setWarp_ne (s : State) {w v : Nat} (x : Warp) (h : w ≠ v) :
    warpAt (setWarp s w x) v = warpAt s v := by
  simp [warpAt, setWarp, List.getD_eq_getElem?_getD, List.getElem?_set_ne h]

theorem crewAt_setCrew (s : State) (c : Nat) (x : Crew) (h : c < s.crews.length) : crewAt (setCrew s c x) c = x := by
  simp [crewAt, setCrew, List.getD_eq_getElem?_getD, h]

@[simp] theorem crewAt_setCrew_ne (s : State) {c d : Nat} (x : Crew) (h : c ≠ d) :
    crewAt (setCrew s c x) d = crewAt s d := by
  simp [crewAt, setCrew, List.getD_eq_getElem?_getD, List.getElem?_set_ne h]

@[simp] theorem warpAt_setCrew (s : State) (c w : Nat) (x : Crew) : warpAt (setCrew s c x) w = warpAt s w := rfl
@[simp] theorem crewAt_setWarp (s : State) (w c : Nat) (x : Warp) : crewAt (setWarp s w x) c = crewAt s c := rfl
@[simp] theorem setWarp_length (s : State) (w : Nat) (x : Warp) : (setWarp s w x).warps.length = s.warps.length := by
  simp [setWarp]
@[simp] theorem setCrew_length (s : State) (c : Nat) (x : Crew) : (setCrew s c x).crews.length = s.crews.length := by
  simp [setCrew]
@[simp] theorem setWarp_setWarp (s : State) (w : Nat) (x y : Warp) : setWarp (setWarp s w x) w y = setWarp s w y := by
  simp [setWarp]
@[simp] theorem setCrew_setCrew (s : State) (c : Nat) (x y : Crew) : setCrew (setCrew s c x) c y = setCrew s c y := by
  simp [setCrew]
theorem setWarp_self (s : State) (w : Nat) : setWarp s w (warpAt s w) = s := by
  have : s.warps.set w (s.warps.getD w Warp.zero) = s.warps := by
    apply List.ext_getElem?
    intro i
    by_cases h : w = i
    · subst h
      by_cases hl : w < s.warps.length <;> simp [List.getD_eq_getElem?_getD, hl]
    · simp [List.getElem?_set_ne h]
  simp only [setWarp, warpAt, this]
theorem setCrew_self (s : State) (c : Nat) : setCrew s c (crewAt s c) = s := by
  have : s.crews.set c (s.crews.getD c Crew.zero) = s.crews := by
    apply List.ext_getElem?
    intro i
    by_cases h : c = i
    · subst h
      by_cases hl : c < s.crews.length <;> simp [List.getD_eq_getElem?_getD, hl]
    · simp [List.getElem?_set_ne h]
  simp only [setCrew, crewAt, this]

/-! ### The slots of a warp -/

@[simp] theorem withSlot_crew (x : Warp) (k : Which) (sl : Slot) : (withSlot x k sl).crew = x.crew := by cases k <;> rfl
@[simp] theorem withSlot_wid (x : Warp) (k : Which) (sl : Slot) : (withSlot x k sl).wid = x.wid := by cases k <;> rfl
@[simp] theorem withSlot_role (x : Warp) (k : Which) (sl : Slot) : (withSlot x k sl).role = x.role := by cases k <;> rfl
@[simp] theorem withSlot_roleIx (x : Warp) (k : Which) (sl : Slot) : (withSlot x k sl).roleIx = x.roleIx := by cases k <;> rfl
@[simp] theorem withSlot_regs (x : Warp) (k : Which) (sl : Slot) : (withSlot x k sl).regs = x.regs := by cases k <;> rfl
@[simp] theorem withSlot_v (x : Warp) (k : Which) (sl : Slot) : (withSlot x k sl).v = x.v := by cases k <;> rfl
@[simp] theorem withSlot_s (x : Warp) (k : Which) (sl : Slot) : (withSlot x k sl).s = x.s := by cases k <;> rfl
@[simp] theorem withSlot_p (x : Warp) (k : Which) (sl : Slot) : (withSlot x k sl).p = x.p := by cases k <;> rfl
@[simp] theorem withSlot_b (x : Warp) (k : Which) (sl : Slot) : (withSlot x k sl).b = x.b := by cases k <;> rfl
@[simp] theorem withSlot_fs (x : Warp) (k : Which) (sl : Slot) : (withSlot x k sl).fs = x.fs := by cases k <;> rfl
@[simp] theorem withSlot_srgen (x : Warp) (k : Which) (sl : Slot) : (withSlot x k sl).srgen = x.srgen := by cases k <;> rfl
@[simp] theorem withSlot_fflags (x : Warp) (k : Which) (sl : Slot) : (withSlot x k sl).fflags = x.fflags := by cases k <;> rfl
@[simp] theorem withSlot_qstat (x : Warp) (k : Which) (sl : Slot) : (withSlot x k sl).qstat = x.qstat := by cases k <;> rfl
@[simp] theorem withSlot_accstat (x : Warp) (k : Which) (sl : Slot) : (withSlot x k sl).accstat = x.accstat := by cases k <;> rfl
@[simp] theorem withSlot_mode (x : Warp) (k : Which) (sl : Slot) : (withSlot x k sl).mode = x.mode := by cases k <;> rfl
@[simp] theorem withSlot_last (x : Warp) (k : Which) (sl : Slot) : (withSlot x k sl).last = x.last := by cases k <;> rfl
@[simp] theorem withSlot_ssn (x : Warp) (k : Which) (sl : Slot) : (withSlot x k sl).ssn = x.ssn := by cases k <;> rfl
@[simp] theorem withSlot_ents (x : Warp) (k : Which) (sl : Slot) : (withSlot x k sl).ents = x.ents := by cases k <;> rfl
@[simp] theorem withSlot_alive (x : Warp) (k : Which) (sl : Slot) : (withSlot x k sl).alive = x.alive := by cases k <;> rfl
@[simp] theorem withSlot_shadow (x : Warp) (k : Which) (sl : Slot) : (withSlot x k sl).shadow = x.shadow := by cases k <;> rfl
@[simp] theorem withSlot_cur (x : Warp) (k : Which) (sl : Slot) : (withSlot x k sl).cur = x.cur := by cases k <;> rfl
@[simp] theorem withSlot_tq (x : Warp) (k : Which) (sl : Slot) : (withSlot x k sl).tq = x.tq := by cases k <;> rfl
@[simp] theorem withSlot_tpc (x : Warp) (k : Which) (sl : Slot) : (withSlot x k sl).tpc = x.tpc := by cases k <;> rfl
@[simp] theorem withSlot_tfflags (x : Warp) (k : Which) (sl : Slot) : (withSlot x k sl).tfflags = x.tfflags := by cases k <;> rfl
@[simp] theorem withSlot_tscr (x : Warp) (k : Which) (sl : Slot) : (withSlot x k sl).tscr = x.tscr := by cases k <;> rfl
@[simp] theorem withSlot_q6 (x : Warp) (k : Which) (sl : Slot) : (withSlot x k sl).q6 = x.q6 := by cases k <;> rfl
@[simp] theorem withSlot_q7 (x : Warp) (k : Which) (sl : Slot) : (withSlot x k sl).q7 = x.q7 := by cases k <;> rfl
@[simp] theorem withSlot_w6 (x : Warp) (k : Which) (sl : Slot) : (withSlot x k sl).w6 = x.w6 := by cases k <;> rfl
@[simp] theorem withSlot_w7 (x : Warp) (k : Which) (sl : Slot) : (withSlot x k sl).w7 = x.w7 := by cases k <;> rfl
@[simp] theorem withSlot_bands (x : Warp) (k : Which) (sl : Slot) : (withSlot x k sl).bands = x.bands := by cases k <;> rfl
@[simp] theorem withSlot_xsn (x : Warp) (k : Which) (sl : Slot) : (withSlot x k sl).xsn = x.xsn := by cases k <;> rfl
@[simp] theorem withSlot_olseq (x : Warp) (k : Which) (sl : Slot) : (withSlot x k sl).olseq = x.olseq := by cases k <;> rfl
@[simp] theorem withSlot_issued (x : Warp) (k : Which) (sl : Slot) : (withSlot x k sl).issued = x.issued := by cases k <;> rfl
@[simp] theorem withSlot_lastLd (x : Warp) (k : Which) (sl : Slot) : (withSlot x k sl).lastLd = x.lastLd := by cases k <;> rfl
@[simp] theorem withSlot_halt (x : Warp) (k : Which) (sl : Slot) : (withSlot x k sl).halt = x.halt := by cases k <;> rfl
@[simp] theorem withSlot_step (x : Warp) (k : Which) (sl : Slot) : (withSlot x k sl).step = x.step := by cases k <;> rfl
@[simp] theorem withSlot_holdSl (x : Warp) (k : Which) (sl : Slot) : (withSlot x k sl).holdSl = x.holdSl := by cases k <;> rfl
@[simp] theorem withSlot_gone (x : Warp) (k : Which) (sl : Slot) : (withSlot x k sl).gone = x.gone := by cases k <;> rfl
@[simp] theorem slotOf_withSlot (x : Warp) (k : Which) (sl : Slot) : slotOf (withSlot x k sl) k = sl := by cases k <;> rfl
@[simp] theorem withSlot_withSlot (x : Warp) (k : Which) (a b : Slot) : withSlot (withSlot x k a) k b = withSlot x k b := by
  cases k <;> rfl
theorem slotOf_withSlot_ne (x : Warp) {j k : Which} (sl : Slot) (h : j ≠ k) : slotOf (withSlot x j sl) k = slotOf x k := by
  cases j <;> cases k <;> first | rfl | exact absurd rfl h
theorem slotOf_setSlot (s : State) (w : Nat) (k : Which) (sl : Slot) (h : w < s.warps.length) :
    slotOf (warpAt (setSlot s w k sl) w) k = sl := by rw [setSlot, warpAt_setWarp _ _ _ h, slotOf_withSlot]

/-! ### Register writes: every other field of the warp stays -/

@[simp] theorem writeReg_crew (x : Warp) (o : Opnd) (m : Mask) (k : Nat) (val : Nat → Nat) : (writeReg x o m k val).crew = x.crew := by
  unfold writeReg; split <;> first | rfl | (split <;> rfl)
@[simp] theorem writeReg_wid (x : Warp) (o : Opnd) (m : Mask) (k : Nat) (val : Nat → Nat) : (writeReg x o m k val).wid = x.wid := by
  unfold writeReg; split <;> first | rfl | (split <;> rfl)
@[simp] theorem writeReg_role (x : Warp) (o : Opnd) (m : Mask) (k : Nat) (val : Nat → Nat) : (writeReg x o m k val).role = x.role := by
  unfold writeReg; split <;> first | rfl | (split <;> rfl)
@[simp] theorem writeReg_roleIx (x : Warp) (o : Opnd) (m : Mask) (k : Nat) (val : Nat → Nat) : (writeReg x o m k val).roleIx = x.roleIx := by
  unfold writeReg; split <;> first | rfl | (split <;> rfl)
@[simp] theorem writeReg_regs (x : Warp) (o : Opnd) (m : Mask) (k : Nat) (val : Nat → Nat) : (writeReg x o m k val).regs = x.regs := by
  unfold writeReg; split <;> first | rfl | (split <;> rfl)
@[simp] theorem writeReg_p (x : Warp) (o : Opnd) (m : Mask) (k : Nat) (val : Nat → Nat) : (writeReg x o m k val).p = x.p := by
  unfold writeReg; split <;> first | rfl | (split <;> rfl)
@[simp] theorem writeReg_fs (x : Warp) (o : Opnd) (m : Mask) (k : Nat) (val : Nat → Nat) : (writeReg x o m k val).fs = x.fs := by
  unfold writeReg; split <;> first | rfl | (split <;> rfl)
@[simp] theorem writeReg_srgen (x : Warp) (o : Opnd) (m : Mask) (k : Nat) (val : Nat → Nat) : (writeReg x o m k val).srgen = x.srgen := by
  unfold writeReg; split <;> first | rfl | (split <;> rfl)
@[simp] theorem writeReg_fflags (x : Warp) (o : Opnd) (m : Mask) (k : Nat) (val : Nat → Nat) : (writeReg x o m k val).fflags = x.fflags := by
  unfold writeReg; split <;> first | rfl | (split <;> rfl)
@[simp] theorem writeReg_qstat (x : Warp) (o : Opnd) (m : Mask) (k : Nat) (val : Nat → Nat) : (writeReg x o m k val).qstat = x.qstat := by
  unfold writeReg; split <;> first | rfl | (split <;> rfl)
@[simp] theorem writeReg_accstat (x : Warp) (o : Opnd) (m : Mask) (k : Nat) (val : Nat → Nat) : (writeReg x o m k val).accstat = x.accstat := by
  unfold writeReg; split <;> first | rfl | (split <;> rfl)
@[simp] theorem writeReg_mode (x : Warp) (o : Opnd) (m : Mask) (k : Nat) (val : Nat → Nat) : (writeReg x o m k val).mode = x.mode := by
  unfold writeReg; split <;> first | rfl | (split <;> rfl)
@[simp] theorem writeReg_sa (x : Warp) (o : Opnd) (m : Mask) (k : Nat) (val : Nat → Nat) : (writeReg x o m k val).sa = x.sa := by
  unfold writeReg; split <;> first | rfl | (split <;> rfl)
@[simp] theorem writeReg_sb (x : Warp) (o : Opnd) (m : Mask) (k : Nat) (val : Nat → Nat) : (writeReg x o m k val).sb = x.sb := by
  unfold writeReg; split <;> first | rfl | (split <;> rfl)
@[simp] theorem writeReg_last (x : Warp) (o : Opnd) (m : Mask) (k : Nat) (val : Nat → Nat) : (writeReg x o m k val).last = x.last := by
  unfold writeReg; split <;> first | rfl | (split <;> rfl)
@[simp] theorem writeReg_ssn (x : Warp) (o : Opnd) (m : Mask) (k : Nat) (val : Nat → Nat) : (writeReg x o m k val).ssn = x.ssn := by
  unfold writeReg; split <;> first | rfl | (split <;> rfl)
@[simp] theorem writeReg_ents (x : Warp) (o : Opnd) (m : Mask) (k : Nat) (val : Nat → Nat) : (writeReg x o m k val).ents = x.ents := by
  unfold writeReg; split <;> first | rfl | (split <;> rfl)
@[simp] theorem writeReg_alive (x : Warp) (o : Opnd) (m : Mask) (k : Nat) (val : Nat → Nat) : (writeReg x o m k val).alive = x.alive := by
  unfold writeReg; split <;> first | rfl | (split <;> rfl)
@[simp] theorem writeReg_hdl (x : Warp) (o : Opnd) (m : Mask) (k : Nat) (val : Nat → Nat) : (writeReg x o m k val).hdl = x.hdl := by
  unfold writeReg; split <;> first | rfl | (split <;> rfl)
@[simp] theorem writeReg_shadow (x : Warp) (o : Opnd) (m : Mask) (k : Nat) (val : Nat → Nat) : (writeReg x o m k val).shadow = x.shadow := by
  unfold writeReg; split <;> first | rfl | (split <;> rfl)
@[simp] theorem writeReg_cur (x : Warp) (o : Opnd) (m : Mask) (k : Nat) (val : Nat → Nat) : (writeReg x o m k val).cur = x.cur := by
  unfold writeReg; split <;> first | rfl | (split <;> rfl)
@[simp] theorem writeReg_tq (x : Warp) (o : Opnd) (m : Mask) (k : Nat) (val : Nat → Nat) : (writeReg x o m k val).tq = x.tq := by
  unfold writeReg; split <;> first | rfl | (split <;> rfl)
@[simp] theorem writeReg_tpc (x : Warp) (o : Opnd) (m : Mask) (k : Nat) (val : Nat → Nat) : (writeReg x o m k val).tpc = x.tpc := by
  unfold writeReg; split <;> first | rfl | (split <;> rfl)
@[simp] theorem writeReg_tfflags (x : Warp) (o : Opnd) (m : Mask) (k : Nat) (val : Nat → Nat) : (writeReg x o m k val).tfflags = x.tfflags := by
  unfold writeReg; split <;> first | rfl | (split <;> rfl)
@[simp] theorem writeReg_tscr (x : Warp) (o : Opnd) (m : Mask) (k : Nat) (val : Nat → Nat) : (writeReg x o m k val).tscr = x.tscr := by
  unfold writeReg; split <;> first | rfl | (split <;> rfl)
@[simp] theorem writeReg_q6 (x : Warp) (o : Opnd) (m : Mask) (k : Nat) (val : Nat → Nat) : (writeReg x o m k val).q6 = x.q6 := by
  unfold writeReg; split <;> first | rfl | (split <;> rfl)
@[simp] theorem writeReg_q7 (x : Warp) (o : Opnd) (m : Mask) (k : Nat) (val : Nat → Nat) : (writeReg x o m k val).q7 = x.q7 := by
  unfold writeReg; split <;> first | rfl | (split <;> rfl)
@[simp] theorem writeReg_w6 (x : Warp) (o : Opnd) (m : Mask) (k : Nat) (val : Nat → Nat) : (writeReg x o m k val).w6 = x.w6 := by
  unfold writeReg; split <;> first | rfl | (split <;> rfl)
@[simp] theorem writeReg_w7 (x : Warp) (o : Opnd) (m : Mask) (k : Nat) (val : Nat → Nat) : (writeReg x o m k val).w7 = x.w7 := by
  unfold writeReg; split <;> first | rfl | (split <;> rfl)
@[simp] theorem writeReg_bands (x : Warp) (o : Opnd) (m : Mask) (k : Nat) (val : Nat → Nat) : (writeReg x o m k val).bands = x.bands := by
  unfold writeReg; split <;> first | rfl | (split <;> rfl)
@[simp] theorem writeReg_xsn (x : Warp) (o : Opnd) (m : Mask) (k : Nat) (val : Nat → Nat) : (writeReg x o m k val).xsn = x.xsn := by
  unfold writeReg; split <;> first | rfl | (split <;> rfl)
@[simp] theorem writeReg_olseq (x : Warp) (o : Opnd) (m : Mask) (k : Nat) (val : Nat → Nat) : (writeReg x o m k val).olseq = x.olseq := by
  unfold writeReg; split <;> first | rfl | (split <;> rfl)
@[simp] theorem writeReg_issued (x : Warp) (o : Opnd) (m : Mask) (k : Nat) (val : Nat → Nat) : (writeReg x o m k val).issued = x.issued := by
  unfold writeReg; split <;> first | rfl | (split <;> rfl)
@[simp] theorem writeReg_lastLd (x : Warp) (o : Opnd) (m : Mask) (k : Nat) (val : Nat → Nat) : (writeReg x o m k val).lastLd = x.lastLd := by
  unfold writeReg; split <;> first | rfl | (split <;> rfl)
@[simp] theorem writeReg_halt (x : Warp) (o : Opnd) (m : Mask) (k : Nat) (val : Nat → Nat) : (writeReg x o m k val).halt = x.halt := by
  unfold writeReg; split <;> first | rfl | (split <;> rfl)
@[simp] theorem writeReg_step (x : Warp) (o : Opnd) (m : Mask) (k : Nat) (val : Nat → Nat) : (writeReg x o m k val).step = x.step := by
  unfold writeReg; split <;> first | rfl | (split <;> rfl)
@[simp] theorem writeReg_holdSl (x : Warp) (o : Opnd) (m : Mask) (k : Nat) (val : Nat → Nat) : (writeReg x o m k val).holdSl = x.holdSl := by
  unfold writeReg; split <;> first | rfl | (split <;> rfl)
@[simp] theorem writeReg_gone (x : Warp) (o : Opnd) (m : Mask) (k : Nat) (val : Nat → Nat) : (writeReg x o m k val).gone = x.gone := by
  unfold writeReg; split <;> first | rfl | (split <;> rfl)
@[simp] theorem writeLatch_crew (x : Warp) (lt : Option (Fin 3)) (m : Mask) (k : Nat) (val : Nat → Nat) : (writeLatch x lt m k val).crew = x.crew := by
  unfold writeLatch; split <;> simp
@[simp] theorem writeLatch_wid (x : Warp) (lt : Option (Fin 3)) (m : Mask) (k : Nat) (val : Nat → Nat) : (writeLatch x lt m k val).wid = x.wid := by
  unfold writeLatch; split <;> simp
@[simp] theorem writeLatch_role (x : Warp) (lt : Option (Fin 3)) (m : Mask) (k : Nat) (val : Nat → Nat) : (writeLatch x lt m k val).role = x.role := by
  unfold writeLatch; split <;> simp
@[simp] theorem writeLatch_roleIx (x : Warp) (lt : Option (Fin 3)) (m : Mask) (k : Nat) (val : Nat → Nat) : (writeLatch x lt m k val).roleIx = x.roleIx := by
  unfold writeLatch; split <;> simp
@[simp] theorem writeLatch_regs (x : Warp) (lt : Option (Fin 3)) (m : Mask) (k : Nat) (val : Nat → Nat) : (writeLatch x lt m k val).regs = x.regs := by
  unfold writeLatch; split <;> simp
@[simp] theorem writeLatch_p (x : Warp) (lt : Option (Fin 3)) (m : Mask) (k : Nat) (val : Nat → Nat) : (writeLatch x lt m k val).p = x.p := by
  unfold writeLatch; split <;> simp
@[simp] theorem writeLatch_fs (x : Warp) (lt : Option (Fin 3)) (m : Mask) (k : Nat) (val : Nat → Nat) : (writeLatch x lt m k val).fs = x.fs := by
  unfold writeLatch; split <;> simp
@[simp] theorem writeLatch_srgen (x : Warp) (lt : Option (Fin 3)) (m : Mask) (k : Nat) (val : Nat → Nat) : (writeLatch x lt m k val).srgen = x.srgen := by
  unfold writeLatch; split <;> simp
@[simp] theorem writeLatch_fflags (x : Warp) (lt : Option (Fin 3)) (m : Mask) (k : Nat) (val : Nat → Nat) : (writeLatch x lt m k val).fflags = x.fflags := by
  unfold writeLatch; split <;> simp
@[simp] theorem writeLatch_qstat (x : Warp) (lt : Option (Fin 3)) (m : Mask) (k : Nat) (val : Nat → Nat) : (writeLatch x lt m k val).qstat = x.qstat := by
  unfold writeLatch; split <;> simp
@[simp] theorem writeLatch_accstat (x : Warp) (lt : Option (Fin 3)) (m : Mask) (k : Nat) (val : Nat → Nat) : (writeLatch x lt m k val).accstat = x.accstat := by
  unfold writeLatch; split <;> simp
@[simp] theorem writeLatch_mode (x : Warp) (lt : Option (Fin 3)) (m : Mask) (k : Nat) (val : Nat → Nat) : (writeLatch x lt m k val).mode = x.mode := by
  unfold writeLatch; split <;> simp
@[simp] theorem writeLatch_sa (x : Warp) (lt : Option (Fin 3)) (m : Mask) (k : Nat) (val : Nat → Nat) : (writeLatch x lt m k val).sa = x.sa := by
  unfold writeLatch; split <;> simp
@[simp] theorem writeLatch_sb (x : Warp) (lt : Option (Fin 3)) (m : Mask) (k : Nat) (val : Nat → Nat) : (writeLatch x lt m k val).sb = x.sb := by
  unfold writeLatch; split <;> simp
@[simp] theorem writeLatch_last (x : Warp) (lt : Option (Fin 3)) (m : Mask) (k : Nat) (val : Nat → Nat) : (writeLatch x lt m k val).last = x.last := by
  unfold writeLatch; split <;> simp
@[simp] theorem writeLatch_ssn (x : Warp) (lt : Option (Fin 3)) (m : Mask) (k : Nat) (val : Nat → Nat) : (writeLatch x lt m k val).ssn = x.ssn := by
  unfold writeLatch; split <;> simp
@[simp] theorem writeLatch_ents (x : Warp) (lt : Option (Fin 3)) (m : Mask) (k : Nat) (val : Nat → Nat) : (writeLatch x lt m k val).ents = x.ents := by
  unfold writeLatch; split <;> simp
@[simp] theorem writeLatch_alive (x : Warp) (lt : Option (Fin 3)) (m : Mask) (k : Nat) (val : Nat → Nat) : (writeLatch x lt m k val).alive = x.alive := by
  unfold writeLatch; split <;> simp
@[simp] theorem writeLatch_hdl (x : Warp) (lt : Option (Fin 3)) (m : Mask) (k : Nat) (val : Nat → Nat) : (writeLatch x lt m k val).hdl = x.hdl := by
  unfold writeLatch; split <;> simp
@[simp] theorem writeLatch_shadow (x : Warp) (lt : Option (Fin 3)) (m : Mask) (k : Nat) (val : Nat → Nat) : (writeLatch x lt m k val).shadow = x.shadow := by
  unfold writeLatch; split <;> simp
@[simp] theorem writeLatch_cur (x : Warp) (lt : Option (Fin 3)) (m : Mask) (k : Nat) (val : Nat → Nat) : (writeLatch x lt m k val).cur = x.cur := by
  unfold writeLatch; split <;> simp
@[simp] theorem writeLatch_tq (x : Warp) (lt : Option (Fin 3)) (m : Mask) (k : Nat) (val : Nat → Nat) : (writeLatch x lt m k val).tq = x.tq := by
  unfold writeLatch; split <;> simp
@[simp] theorem writeLatch_tpc (x : Warp) (lt : Option (Fin 3)) (m : Mask) (k : Nat) (val : Nat → Nat) : (writeLatch x lt m k val).tpc = x.tpc := by
  unfold writeLatch; split <;> simp
@[simp] theorem writeLatch_tfflags (x : Warp) (lt : Option (Fin 3)) (m : Mask) (k : Nat) (val : Nat → Nat) : (writeLatch x lt m k val).tfflags = x.tfflags := by
  unfold writeLatch; split <;> simp
@[simp] theorem writeLatch_tscr (x : Warp) (lt : Option (Fin 3)) (m : Mask) (k : Nat) (val : Nat → Nat) : (writeLatch x lt m k val).tscr = x.tscr := by
  unfold writeLatch; split <;> simp
@[simp] theorem writeLatch_q6 (x : Warp) (lt : Option (Fin 3)) (m : Mask) (k : Nat) (val : Nat → Nat) : (writeLatch x lt m k val).q6 = x.q6 := by
  unfold writeLatch; split <;> simp
@[simp] theorem writeLatch_q7 (x : Warp) (lt : Option (Fin 3)) (m : Mask) (k : Nat) (val : Nat → Nat) : (writeLatch x lt m k val).q7 = x.q7 := by
  unfold writeLatch; split <;> simp
@[simp] theorem writeLatch_w6 (x : Warp) (lt : Option (Fin 3)) (m : Mask) (k : Nat) (val : Nat → Nat) : (writeLatch x lt m k val).w6 = x.w6 := by
  unfold writeLatch; split <;> simp
@[simp] theorem writeLatch_w7 (x : Warp) (lt : Option (Fin 3)) (m : Mask) (k : Nat) (val : Nat → Nat) : (writeLatch x lt m k val).w7 = x.w7 := by
  unfold writeLatch; split <;> simp
@[simp] theorem writeLatch_bands (x : Warp) (lt : Option (Fin 3)) (m : Mask) (k : Nat) (val : Nat → Nat) : (writeLatch x lt m k val).bands = x.bands := by
  unfold writeLatch; split <;> simp
@[simp] theorem writeLatch_xsn (x : Warp) (lt : Option (Fin 3)) (m : Mask) (k : Nat) (val : Nat → Nat) : (writeLatch x lt m k val).xsn = x.xsn := by
  unfold writeLatch; split <;> simp
@[simp] theorem writeLatch_olseq (x : Warp) (lt : Option (Fin 3)) (m : Mask) (k : Nat) (val : Nat → Nat) : (writeLatch x lt m k val).olseq = x.olseq := by
  unfold writeLatch; split <;> simp
@[simp] theorem writeLatch_issued (x : Warp) (lt : Option (Fin 3)) (m : Mask) (k : Nat) (val : Nat → Nat) : (writeLatch x lt m k val).issued = x.issued := by
  unfold writeLatch; split <;> simp
@[simp] theorem writeLatch_lastLd (x : Warp) (lt : Option (Fin 3)) (m : Mask) (k : Nat) (val : Nat → Nat) : (writeLatch x lt m k val).lastLd = x.lastLd := by
  unfold writeLatch; split <;> simp
@[simp] theorem writeLatch_halt (x : Warp) (lt : Option (Fin 3)) (m : Mask) (k : Nat) (val : Nat → Nat) : (writeLatch x lt m k val).halt = x.halt := by
  unfold writeLatch; split <;> simp
@[simp] theorem writeLatch_step (x : Warp) (lt : Option (Fin 3)) (m : Mask) (k : Nat) (val : Nat → Nat) : (writeLatch x lt m k val).step = x.step := by
  unfold writeLatch; split <;> simp
@[simp] theorem writeLatch_holdSl (x : Warp) (lt : Option (Fin 3)) (m : Mask) (k : Nat) (val : Nat → Nat) : (writeLatch x lt m k val).holdSl = x.holdSl := by
  unfold writeLatch; split <;> simp
@[simp] theorem writeLatch_gone (x : Warp) (lt : Option (Fin 3)) (m : Mask) (k : Nat) (val : Nat → Nat) : (writeLatch x lt m k val).gone = x.gone := by
  unfold writeLatch; split <;> simp
@[simp] theorem writeDest_crew (x : Warp) (d : Dest) (k : Nat) (val : Nat → Nat) : (writeDest x d k val).crew = x.crew := by
  unfold writeDest; split <;> simp
@[simp] theorem writeDest_wid (x : Warp) (d : Dest) (k : Nat) (val : Nat → Nat) : (writeDest x d k val).wid = x.wid := by
  unfold writeDest; split <;> simp
@[simp] theorem writeDest_role (x : Warp) (d : Dest) (k : Nat) (val : Nat → Nat) : (writeDest x d k val).role = x.role := by
  unfold writeDest; split <;> simp
@[simp] theorem writeDest_roleIx (x : Warp) (d : Dest) (k : Nat) (val : Nat → Nat) : (writeDest x d k val).roleIx = x.roleIx := by
  unfold writeDest; split <;> simp
@[simp] theorem writeDest_regs (x : Warp) (d : Dest) (k : Nat) (val : Nat → Nat) : (writeDest x d k val).regs = x.regs := by
  unfold writeDest; split <;> simp
@[simp] theorem writeDest_p (x : Warp) (d : Dest) (k : Nat) (val : Nat → Nat) : (writeDest x d k val).p = x.p := by
  unfold writeDest; split <;> simp
@[simp] theorem writeDest_fs (x : Warp) (d : Dest) (k : Nat) (val : Nat → Nat) : (writeDest x d k val).fs = x.fs := by
  unfold writeDest; split <;> simp
@[simp] theorem writeDest_srgen (x : Warp) (d : Dest) (k : Nat) (val : Nat → Nat) : (writeDest x d k val).srgen = x.srgen := by
  unfold writeDest; split <;> simp
@[simp] theorem writeDest_fflags (x : Warp) (d : Dest) (k : Nat) (val : Nat → Nat) : (writeDest x d k val).fflags = x.fflags := by
  unfold writeDest; split <;> simp
@[simp] theorem writeDest_qstat (x : Warp) (d : Dest) (k : Nat) (val : Nat → Nat) : (writeDest x d k val).qstat = x.qstat := by
  unfold writeDest; split <;> simp
@[simp] theorem writeDest_accstat (x : Warp) (d : Dest) (k : Nat) (val : Nat → Nat) : (writeDest x d k val).accstat = x.accstat := by
  unfold writeDest; split <;> simp
@[simp] theorem writeDest_mode (x : Warp) (d : Dest) (k : Nat) (val : Nat → Nat) : (writeDest x d k val).mode = x.mode := by
  unfold writeDest; split <;> simp
@[simp] theorem writeDest_sa (x : Warp) (d : Dest) (k : Nat) (val : Nat → Nat) : (writeDest x d k val).sa = x.sa := by
  unfold writeDest; split <;> simp
@[simp] theorem writeDest_sb (x : Warp) (d : Dest) (k : Nat) (val : Nat → Nat) : (writeDest x d k val).sb = x.sb := by
  unfold writeDest; split <;> simp
@[simp] theorem writeDest_last (x : Warp) (d : Dest) (k : Nat) (val : Nat → Nat) : (writeDest x d k val).last = x.last := by
  unfold writeDest; split <;> simp
@[simp] theorem writeDest_ssn (x : Warp) (d : Dest) (k : Nat) (val : Nat → Nat) : (writeDest x d k val).ssn = x.ssn := by
  unfold writeDest; split <;> simp
@[simp] theorem writeDest_ents (x : Warp) (d : Dest) (k : Nat) (val : Nat → Nat) : (writeDest x d k val).ents = x.ents := by
  unfold writeDest; split <;> simp
@[simp] theorem writeDest_alive (x : Warp) (d : Dest) (k : Nat) (val : Nat → Nat) : (writeDest x d k val).alive = x.alive := by
  unfold writeDest; split <;> simp
@[simp] theorem writeDest_hdl (x : Warp) (d : Dest) (k : Nat) (val : Nat → Nat) : (writeDest x d k val).hdl = x.hdl := by
  unfold writeDest; split <;> simp
@[simp] theorem writeDest_shadow (x : Warp) (d : Dest) (k : Nat) (val : Nat → Nat) : (writeDest x d k val).shadow = x.shadow := by
  unfold writeDest; split <;> simp
@[simp] theorem writeDest_cur (x : Warp) (d : Dest) (k : Nat) (val : Nat → Nat) : (writeDest x d k val).cur = x.cur := by
  unfold writeDest; split <;> simp
@[simp] theorem writeDest_tq (x : Warp) (d : Dest) (k : Nat) (val : Nat → Nat) : (writeDest x d k val).tq = x.tq := by
  unfold writeDest; split <;> simp
@[simp] theorem writeDest_tpc (x : Warp) (d : Dest) (k : Nat) (val : Nat → Nat) : (writeDest x d k val).tpc = x.tpc := by
  unfold writeDest; split <;> simp
@[simp] theorem writeDest_tfflags (x : Warp) (d : Dest) (k : Nat) (val : Nat → Nat) : (writeDest x d k val).tfflags = x.tfflags := by
  unfold writeDest; split <;> simp
@[simp] theorem writeDest_tscr (x : Warp) (d : Dest) (k : Nat) (val : Nat → Nat) : (writeDest x d k val).tscr = x.tscr := by
  unfold writeDest; split <;> simp
@[simp] theorem writeDest_q6 (x : Warp) (d : Dest) (k : Nat) (val : Nat → Nat) : (writeDest x d k val).q6 = x.q6 := by
  unfold writeDest; split <;> simp
@[simp] theorem writeDest_q7 (x : Warp) (d : Dest) (k : Nat) (val : Nat → Nat) : (writeDest x d k val).q7 = x.q7 := by
  unfold writeDest; split <;> simp
@[simp] theorem writeDest_w6 (x : Warp) (d : Dest) (k : Nat) (val : Nat → Nat) : (writeDest x d k val).w6 = x.w6 := by
  unfold writeDest; split <;> simp
@[simp] theorem writeDest_w7 (x : Warp) (d : Dest) (k : Nat) (val : Nat → Nat) : (writeDest x d k val).w7 = x.w7 := by
  unfold writeDest; split <;> simp
@[simp] theorem writeDest_bands (x : Warp) (d : Dest) (k : Nat) (val : Nat → Nat) : (writeDest x d k val).bands = x.bands := by
  unfold writeDest; split <;> simp
@[simp] theorem writeDest_xsn (x : Warp) (d : Dest) (k : Nat) (val : Nat → Nat) : (writeDest x d k val).xsn = x.xsn := by
  unfold writeDest; split <;> simp
@[simp] theorem writeDest_olseq (x : Warp) (d : Dest) (k : Nat) (val : Nat → Nat) : (writeDest x d k val).olseq = x.olseq := by
  unfold writeDest; split <;> simp
@[simp] theorem writeDest_issued (x : Warp) (d : Dest) (k : Nat) (val : Nat → Nat) : (writeDest x d k val).issued = x.issued := by
  unfold writeDest; split <;> simp
@[simp] theorem writeDest_lastLd (x : Warp) (d : Dest) (k : Nat) (val : Nat → Nat) : (writeDest x d k val).lastLd = x.lastLd := by
  unfold writeDest; split <;> simp
@[simp] theorem writeDest_halt (x : Warp) (d : Dest) (k : Nat) (val : Nat → Nat) : (writeDest x d k val).halt = x.halt := by
  unfold writeDest; split <;> simp
@[simp] theorem writeDest_step (x : Warp) (d : Dest) (k : Nat) (val : Nat → Nat) : (writeDest x d k val).step = x.step := by
  unfold writeDest; split <;> simp
@[simp] theorem writeDest_holdSl (x : Warp) (d : Dest) (k : Nat) (val : Nat → Nat) : (writeDest x d k val).holdSl = x.holdSl := by
  unfold writeDest; split <;> simp
@[simp] theorem writeDest_gone (x : Warp) (d : Dest) (k : Nat) (val : Nat → Nat) : (writeDest x d k val).gone = x.gone := by
  unfold writeDest; split <;> simp
@[simp] theorem writePredReg_crew (x : Warp) (p : Pred) (m : Mask) (val : Nat → Bool) : (writePredReg x p m val).crew = x.crew := by
  unfold writePredReg; split <;> rfl
@[simp] theorem writePredReg_wid (x : Warp) (p : Pred) (m : Mask) (val : Nat → Bool) : (writePredReg x p m val).wid = x.wid := by
  unfold writePredReg; split <;> rfl
@[simp] theorem writePredReg_role (x : Warp) (p : Pred) (m : Mask) (val : Nat → Bool) : (writePredReg x p m val).role = x.role := by
  unfold writePredReg; split <;> rfl
@[simp] theorem writePredReg_roleIx (x : Warp) (p : Pred) (m : Mask) (val : Nat → Bool) : (writePredReg x p m val).roleIx = x.roleIx := by
  unfold writePredReg; split <;> rfl
@[simp] theorem writePredReg_regs (x : Warp) (p : Pred) (m : Mask) (val : Nat → Bool) : (writePredReg x p m val).regs = x.regs := by
  unfold writePredReg; split <;> rfl
@[simp] theorem writePredReg_fs (x : Warp) (p : Pred) (m : Mask) (val : Nat → Bool) : (writePredReg x p m val).fs = x.fs := by
  unfold writePredReg; split <;> rfl
@[simp] theorem writePredReg_srgen (x : Warp) (p : Pred) (m : Mask) (val : Nat → Bool) : (writePredReg x p m val).srgen = x.srgen := by
  unfold writePredReg; split <;> rfl
@[simp] theorem writePredReg_fflags (x : Warp) (p : Pred) (m : Mask) (val : Nat → Bool) : (writePredReg x p m val).fflags = x.fflags := by
  unfold writePredReg; split <;> rfl
@[simp] theorem writePredReg_qstat (x : Warp) (p : Pred) (m : Mask) (val : Nat → Bool) : (writePredReg x p m val).qstat = x.qstat := by
  unfold writePredReg; split <;> rfl
@[simp] theorem writePredReg_accstat (x : Warp) (p : Pred) (m : Mask) (val : Nat → Bool) : (writePredReg x p m val).accstat = x.accstat := by
  unfold writePredReg; split <;> rfl
@[simp] theorem writePredReg_mode (x : Warp) (p : Pred) (m : Mask) (val : Nat → Bool) : (writePredReg x p m val).mode = x.mode := by
  unfold writePredReg; split <;> rfl
@[simp] theorem writePredReg_sa (x : Warp) (p : Pred) (m : Mask) (val : Nat → Bool) : (writePredReg x p m val).sa = x.sa := by
  unfold writePredReg; split <;> rfl
@[simp] theorem writePredReg_sb (x : Warp) (p : Pred) (m : Mask) (val : Nat → Bool) : (writePredReg x p m val).sb = x.sb := by
  unfold writePredReg; split <;> rfl
@[simp] theorem writePredReg_last (x : Warp) (p : Pred) (m : Mask) (val : Nat → Bool) : (writePredReg x p m val).last = x.last := by
  unfold writePredReg; split <;> rfl
@[simp] theorem writePredReg_ssn (x : Warp) (p : Pred) (m : Mask) (val : Nat → Bool) : (writePredReg x p m val).ssn = x.ssn := by
  unfold writePredReg; split <;> rfl
@[simp] theorem writePredReg_ents (x : Warp) (p : Pred) (m : Mask) (val : Nat → Bool) : (writePredReg x p m val).ents = x.ents := by
  unfold writePredReg; split <;> rfl
@[simp] theorem writePredReg_alive (x : Warp) (p : Pred) (m : Mask) (val : Nat → Bool) : (writePredReg x p m val).alive = x.alive := by
  unfold writePredReg; split <;> rfl
@[simp] theorem writePredReg_hdl (x : Warp) (p : Pred) (m : Mask) (val : Nat → Bool) : (writePredReg x p m val).hdl = x.hdl := by
  unfold writePredReg; split <;> rfl
@[simp] theorem writePredReg_shadow (x : Warp) (p : Pred) (m : Mask) (val : Nat → Bool) : (writePredReg x p m val).shadow = x.shadow := by
  unfold writePredReg; split <;> rfl
@[simp] theorem writePredReg_cur (x : Warp) (p : Pred) (m : Mask) (val : Nat → Bool) : (writePredReg x p m val).cur = x.cur := by
  unfold writePredReg; split <;> rfl
@[simp] theorem writePredReg_tq (x : Warp) (p : Pred) (m : Mask) (val : Nat → Bool) : (writePredReg x p m val).tq = x.tq := by
  unfold writePredReg; split <;> rfl
@[simp] theorem writePredReg_tpc (x : Warp) (p : Pred) (m : Mask) (val : Nat → Bool) : (writePredReg x p m val).tpc = x.tpc := by
  unfold writePredReg; split <;> rfl
@[simp] theorem writePredReg_tfflags (x : Warp) (p : Pred) (m : Mask) (val : Nat → Bool) : (writePredReg x p m val).tfflags = x.tfflags := by
  unfold writePredReg; split <;> rfl
@[simp] theorem writePredReg_tscr (x : Warp) (p : Pred) (m : Mask) (val : Nat → Bool) : (writePredReg x p m val).tscr = x.tscr := by
  unfold writePredReg; split <;> rfl
@[simp] theorem writePredReg_q6 (x : Warp) (p : Pred) (m : Mask) (val : Nat → Bool) : (writePredReg x p m val).q6 = x.q6 := by
  unfold writePredReg; split <;> rfl
@[simp] theorem writePredReg_q7 (x : Warp) (p : Pred) (m : Mask) (val : Nat → Bool) : (writePredReg x p m val).q7 = x.q7 := by
  unfold writePredReg; split <;> rfl
@[simp] theorem writePredReg_w6 (x : Warp) (p : Pred) (m : Mask) (val : Nat → Bool) : (writePredReg x p m val).w6 = x.w6 := by
  unfold writePredReg; split <;> rfl
@[simp] theorem writePredReg_w7 (x : Warp) (p : Pred) (m : Mask) (val : Nat → Bool) : (writePredReg x p m val).w7 = x.w7 := by
  unfold writePredReg; split <;> rfl
@[simp] theorem writePredReg_bands (x : Warp) (p : Pred) (m : Mask) (val : Nat → Bool) : (writePredReg x p m val).bands = x.bands := by
  unfold writePredReg; split <;> rfl
@[simp] theorem writePredReg_xsn (x : Warp) (p : Pred) (m : Mask) (val : Nat → Bool) : (writePredReg x p m val).xsn = x.xsn := by
  unfold writePredReg; split <;> rfl
@[simp] theorem writePredReg_olseq (x : Warp) (p : Pred) (m : Mask) (val : Nat → Bool) : (writePredReg x p m val).olseq = x.olseq := by
  unfold writePredReg; split <;> rfl
@[simp] theorem writePredReg_issued (x : Warp) (p : Pred) (m : Mask) (val : Nat → Bool) : (writePredReg x p m val).issued = x.issued := by
  unfold writePredReg; split <;> rfl
@[simp] theorem writePredReg_lastLd (x : Warp) (p : Pred) (m : Mask) (val : Nat → Bool) : (writePredReg x p m val).lastLd = x.lastLd := by
  unfold writePredReg; split <;> rfl
@[simp] theorem writePredReg_halt (x : Warp) (p : Pred) (m : Mask) (val : Nat → Bool) : (writePredReg x p m val).halt = x.halt := by
  unfold writePredReg; split <;> rfl
@[simp] theorem writePredReg_step (x : Warp) (p : Pred) (m : Mask) (val : Nat → Bool) : (writePredReg x p m val).step = x.step := by
  unfold writePredReg; split <;> rfl
@[simp] theorem writePredReg_holdSl (x : Warp) (p : Pred) (m : Mask) (val : Nat → Bool) : (writePredReg x p m val).holdSl = x.holdSl := by
  unfold writePredReg; split <;> rfl
@[simp] theorem writePredReg_gone (x : Warp) (p : Pred) (m : Mask) (val : Nat → Bool) : (writePredReg x p m val).gone = x.gone := by
  unfold writePredReg; split <;> rfl
@[simp] theorem writePred_crew (x : Warp) (h : Hdr) (p : Pred) (m : Mask) (val : Nat → Bool) : (writePred x h p m val).crew = x.crew := by
  unfold writePred; split <;> simp
@[simp] theorem writePred_wid (x : Warp) (h : Hdr) (p : Pred) (m : Mask) (val : Nat → Bool) : (writePred x h p m val).wid = x.wid := by
  unfold writePred; split <;> simp
@[simp] theorem writePred_role (x : Warp) (h : Hdr) (p : Pred) (m : Mask) (val : Nat → Bool) : (writePred x h p m val).role = x.role := by
  unfold writePred; split <;> simp
@[simp] theorem writePred_roleIx (x : Warp) (h : Hdr) (p : Pred) (m : Mask) (val : Nat → Bool) : (writePred x h p m val).roleIx = x.roleIx := by
  unfold writePred; split <;> simp
@[simp] theorem writePred_regs (x : Warp) (h : Hdr) (p : Pred) (m : Mask) (val : Nat → Bool) : (writePred x h p m val).regs = x.regs := by
  unfold writePred; split <;> simp
@[simp] theorem writePred_fs (x : Warp) (h : Hdr) (p : Pred) (m : Mask) (val : Nat → Bool) : (writePred x h p m val).fs = x.fs := by
  unfold writePred; split <;> simp
@[simp] theorem writePred_srgen (x : Warp) (h : Hdr) (p : Pred) (m : Mask) (val : Nat → Bool) : (writePred x h p m val).srgen = x.srgen := by
  unfold writePred; split <;> simp
@[simp] theorem writePred_fflags (x : Warp) (h : Hdr) (p : Pred) (m : Mask) (val : Nat → Bool) : (writePred x h p m val).fflags = x.fflags := by
  unfold writePred; split <;> simp
@[simp] theorem writePred_qstat (x : Warp) (h : Hdr) (p : Pred) (m : Mask) (val : Nat → Bool) : (writePred x h p m val).qstat = x.qstat := by
  unfold writePred; split <;> simp
@[simp] theorem writePred_accstat (x : Warp) (h : Hdr) (p : Pred) (m : Mask) (val : Nat → Bool) : (writePred x h p m val).accstat = x.accstat := by
  unfold writePred; split <;> simp
@[simp] theorem writePred_mode (x : Warp) (h : Hdr) (p : Pred) (m : Mask) (val : Nat → Bool) : (writePred x h p m val).mode = x.mode := by
  unfold writePred; split <;> simp
@[simp] theorem writePred_sa (x : Warp) (h : Hdr) (p : Pred) (m : Mask) (val : Nat → Bool) : (writePred x h p m val).sa = x.sa := by
  unfold writePred; split <;> simp
@[simp] theorem writePred_sb (x : Warp) (h : Hdr) (p : Pred) (m : Mask) (val : Nat → Bool) : (writePred x h p m val).sb = x.sb := by
  unfold writePred; split <;> simp
@[simp] theorem writePred_last (x : Warp) (h : Hdr) (p : Pred) (m : Mask) (val : Nat → Bool) : (writePred x h p m val).last = x.last := by
  unfold writePred; split <;> simp
@[simp] theorem writePred_ssn (x : Warp) (h : Hdr) (p : Pred) (m : Mask) (val : Nat → Bool) : (writePred x h p m val).ssn = x.ssn := by
  unfold writePred; split <;> simp
@[simp] theorem writePred_ents (x : Warp) (h : Hdr) (p : Pred) (m : Mask) (val : Nat → Bool) : (writePred x h p m val).ents = x.ents := by
  unfold writePred; split <;> simp
@[simp] theorem writePred_alive (x : Warp) (h : Hdr) (p : Pred) (m : Mask) (val : Nat → Bool) : (writePred x h p m val).alive = x.alive := by
  unfold writePred; split <;> simp
@[simp] theorem writePred_hdl (x : Warp) (h : Hdr) (p : Pred) (m : Mask) (val : Nat → Bool) : (writePred x h p m val).hdl = x.hdl := by
  unfold writePred; split <;> simp
@[simp] theorem writePred_shadow (x : Warp) (h : Hdr) (p : Pred) (m : Mask) (val : Nat → Bool) : (writePred x h p m val).shadow = x.shadow := by
  unfold writePred; split <;> simp
@[simp] theorem writePred_cur (x : Warp) (h : Hdr) (p : Pred) (m : Mask) (val : Nat → Bool) : (writePred x h p m val).cur = x.cur := by
  unfold writePred; split <;> simp
@[simp] theorem writePred_tq (x : Warp) (h : Hdr) (p : Pred) (m : Mask) (val : Nat → Bool) : (writePred x h p m val).tq = x.tq := by
  unfold writePred; split <;> simp
@[simp] theorem writePred_tpc (x : Warp) (h : Hdr) (p : Pred) (m : Mask) (val : Nat → Bool) : (writePred x h p m val).tpc = x.tpc := by
  unfold writePred; split <;> simp
@[simp] theorem writePred_tfflags (x : Warp) (h : Hdr) (p : Pred) (m : Mask) (val : Nat → Bool) : (writePred x h p m val).tfflags = x.tfflags := by
  unfold writePred; split <;> simp
@[simp] theorem writePred_tscr (x : Warp) (h : Hdr) (p : Pred) (m : Mask) (val : Nat → Bool) : (writePred x h p m val).tscr = x.tscr := by
  unfold writePred; split <;> simp
@[simp] theorem writePred_q6 (x : Warp) (h : Hdr) (p : Pred) (m : Mask) (val : Nat → Bool) : (writePred x h p m val).q6 = x.q6 := by
  unfold writePred; split <;> simp
@[simp] theorem writePred_q7 (x : Warp) (h : Hdr) (p : Pred) (m : Mask) (val : Nat → Bool) : (writePred x h p m val).q7 = x.q7 := by
  unfold writePred; split <;> simp
@[simp] theorem writePred_w6 (x : Warp) (h : Hdr) (p : Pred) (m : Mask) (val : Nat → Bool) : (writePred x h p m val).w6 = x.w6 := by
  unfold writePred; split <;> simp
@[simp] theorem writePred_w7 (x : Warp) (h : Hdr) (p : Pred) (m : Mask) (val : Nat → Bool) : (writePred x h p m val).w7 = x.w7 := by
  unfold writePred; split <;> simp
@[simp] theorem writePred_bands (x : Warp) (h : Hdr) (p : Pred) (m : Mask) (val : Nat → Bool) : (writePred x h p m val).bands = x.bands := by
  unfold writePred; split <;> simp
@[simp] theorem writePred_xsn (x : Warp) (h : Hdr) (p : Pred) (m : Mask) (val : Nat → Bool) : (writePred x h p m val).xsn = x.xsn := by
  unfold writePred; split <;> simp
@[simp] theorem writePred_olseq (x : Warp) (h : Hdr) (p : Pred) (m : Mask) (val : Nat → Bool) : (writePred x h p m val).olseq = x.olseq := by
  unfold writePred; split <;> simp
@[simp] theorem writePred_issued (x : Warp) (h : Hdr) (p : Pred) (m : Mask) (val : Nat → Bool) : (writePred x h p m val).issued = x.issued := by
  unfold writePred; split <;> simp
@[simp] theorem writePred_lastLd (x : Warp) (h : Hdr) (p : Pred) (m : Mask) (val : Nat → Bool) : (writePred x h p m val).lastLd = x.lastLd := by
  unfold writePred; split <;> simp
@[simp] theorem writePred_halt (x : Warp) (h : Hdr) (p : Pred) (m : Mask) (val : Nat → Bool) : (writePred x h p m val).halt = x.halt := by
  unfold writePred; split <;> simp
@[simp] theorem writePred_step (x : Warp) (h : Hdr) (p : Pred) (m : Mask) (val : Nat → Bool) : (writePred x h p m val).step = x.step := by
  unfold writePred; split <;> simp
@[simp] theorem writePred_holdSl (x : Warp) (h : Hdr) (p : Pred) (m : Mask) (val : Nat → Bool) : (writePred x h p m val).holdSl = x.holdSl := by
  unfold writePred; split <;> simp
@[simp] theorem writePred_gone (x : Warp) (h : Hdr) (p : Pred) (m : Mask) (val : Nat → Bool) : (writePred x h p m val).gone = x.gone := by
  unfold writePred; split <;> simp

theorem slotOf_writeReg (x : Warp) (o : Opnd) (m : Mask) (k : Nat) (val : Nat → Nat) (j : Which) :
    slotOf (writeReg x o m k val) j = slotOf x j := by cases j <;> simp [slotOf]
theorem slotOf_writeDest (x : Warp) (d : Dest) (k : Nat) (val : Nat → Nat) (j : Which) :
    slotOf (writeDest x d k val) j = slotOf x j := by cases j <;> simp [slotOf]
theorem slotOf_writePred (x : Warp) (h : Hdr) (p : Pred) (m : Mask) (val : Nat → Bool) (j : Which) :
    slotOf (writePred x h p m val) j = slotOf x j := by cases j <;> simp [slotOf]

end Sys2Proof.Machine
end

