-- ==== Sys2Proof/Laws/Ops.lean ====
section
/-! SUPPORT. What the operations that every meaning is written over do: going straight on, running a meaning, reading
registers, and writing a result. -/

namespace Sys2Proof.Machine

/-! ### Going straight on (R28, R141) -/

theorem settle_stays (s : State) (w : Nat) (k : Which) (hk : k ≠ .handler)
    (h : goesTo (warpAt s w) k (slotOf (warpAt s w) k).path.pc = true) : settle s w k = .ok s := by
  have key : ∀ n fl, settlePaths (n + 1) s fl w k = .ok s := by
    intro n fl
    unfold settlePaths
    have hg : goesTo (warpAt s w) k (slotOf (warpAt s w) k).path.pc = true := h
    have hlive : (slotOf (warpAt s w) k).live = true ∧ arrives (slotOf (warpAt s w) k) = false ∧
        arrives (slotOf (warpAt s w) (otherSlot k)) = false ∧
        ((slotOf (warpAt s w) (otherSlot k)).live = true ∨ (warpAt s w).ssn = 0 ∨
          ((warpAt s w).ssn ≤ 4 ∧ entKind ((warpAt s w).ents.getD ((warpAt s w).ssn - 1) 0) ≠ 1)) := by
      cases k with
      | handler => exact absurd rfl hk
      | a =>
        simp only [goesTo, Bool.and_eq_true, Bool.or_eq_true, Bool.not_eq_true', bne_iff_ne, beq_iff_eq,
          decide_eq_true_eq] at hg
        obtain ⟨⟨⟨⟨⟨h1, h2⟩, h3⟩, h4⟩, h5⟩, h6⟩ := hg
        refine ⟨h1, ?_, h5, by tauto⟩
        simp only [arrives, h1, h2, Bool.true_and, Bool.or_eq_false_iff, beq_eq_false_iff_ne, Bool.and_eq_false_iff,
          bne_eq_false_iff_eq]
        exact ⟨h3, h4⟩
      | b =>
        simp only [goesTo, Bool.and_eq_true, Bool.or_eq_true, Bool.not_eq_true', bne_iff_ne, beq_iff_eq,
          decide_eq_true_eq] at hg
        obtain ⟨⟨⟨⟨⟨h1, h2⟩, h3⟩, h4⟩, h5⟩, h6⟩ := hg
        refine ⟨h1, ?_, h5, by tauto⟩
        simp only [arrives, h1, h2, Bool.true_and, Bool.or_eq_false_iff, beq_eq_false_iff_ne, Bool.and_eq_false_iff,
          bne_eq_false_iff_eq]
        exact ⟨h3, h4⟩
    obtain ⟨l1, l2, l3, l4⟩ := hlive
    simp only [l1, l2, l3, Bool.not_true, Bool.false_eq_true, if_false]
    rcases l4 with l4 | l4 | ⟨l4, l5⟩
    · simp [l4]
    · simp [l4, popInto]
    · have hp : popInto s fl w (otherSlot k) = .ok none := by
        by_cases h0 : (warpAt s w).ssn = 0
        · simp [popInto, h0]
        · have hlt : (warpAt s w).ssn - 1 < 4 := by omega
          have hge : ¬ 4 ≤ (warpAt s w).ssn - 1 := by omega
          simp only [popInto, h0, if_false, entRead, hlt, if_true, entTraps, hge, decide_false, Bool.false_and,
            Bool.false_eq_true]
          rw [if_neg l5]
          split <;> rfl
      rw [hp, ite_self]
  exact key _ _

theorem goesTo_movedSlot (x : Warp) (k : Which) (pc : DWord) :
    goesTo (withSlot x k { slotOf x k with path := { (slotOf x k).path with pc := pc }, turned := none }) k pc = goesTo x k pc := by
  cases k <;> rfl

theorem not_pathsDone_of_goesTo (x : Warp) (k : Which) (pc : DWord) (hk : k ≠ .handler) (h : goesTo x k pc = true) :
    pathsDone x = false := by
  cases k with
  | handler => exact absurd rfl hk
  | a => simp only [goesTo, slotOf, Bool.and_eq_true] at h; simp [pathsDone, h.1.1.1.1.1]
  | b => simp only [goesTo, slotOf, Bool.and_eq_true] at h; simp [pathsDone, h.1.1.1.1.1]

/-- A transfer to a place where the path arrives nowhere sets the PC and nothing else. -/
theorem jump_goesTo (s : State) (e : Env) (pc : DWord) (hw : e.w < s.warps.length)
    (h : goesTo (warpAt s e.w) e.which pc = true) : jump s e pc = .ok (movedTo s ⟨e.w, e.which⟩ pc) := by
  unfold jump land
  have hm : warpAt (movedTo s ⟨e.w, e.which⟩ pc) e.w = withSlot (warpAt s e.w) e.which
      { slotOf (warpAt s e.w) e.which with
        path := { (slotOf (warpAt s e.w) e.which).path with pc := pc }, turned := none } := by
    simp only [movedTo, setSlot, warpAt_setWarp _ _ _ hw]
  have hg : goesTo (warpAt (movedTo s ⟨e.w, e.which⟩ pc) e.w) e.which pc = true := by
    rw [hm, goesTo_movedSlot]; exact h
  have hpc : (slotOf (warpAt (movedTo s ⟨e.w, e.which⟩ pc) e.w) e.which).path.pc = pc := by
    rw [hm, slotOf_withSlot]
  cases hk : e.which with
  | handler => simp only [movedTo]
  | a =>
    have hs := settle_stays (movedTo s ⟨e.w, e.which⟩ pc) e.w e.which (by simp [hk]) (by rw [hpc]; exact hg)
    have hd := not_pathsDone_of_goesTo _ _ _ (by simp [hk]) hg
    simp only [movedTo, hk] at hs hd ⊢
    simp only [hs, hd, Bool.false_eq_true, if_false]
  | b =>
    have hs := settle_stays (movedTo s ⟨e.w, e.which⟩ pc) e.w e.which (by simp [hk]) (by rw [hpc]; exact hg)
    have hd := not_pathsDone_of_goesTo _ _ _ (by simp [hk]) hg
    simp only [movedTo, hk] at hs hd ⊢
    simp only [hs, hd, Bool.false_eq_true, if_false]

/-- `goesTo` looks at the slots and the split stack of the warp only. -/
theorem goesTo_congr (x y : Warp) (k : Which) (pc : DWord) (ha : y.sa = x.sa) (hb : y.sb = x.sb)
    (hn : y.ssn = x.ssn) (he : y.ents = x.ents) : goesTo y k pc = goesTo x k pc := by
  cases k <;> simp only [goesTo, slotOf, otherSlot, ha, hb, hn, he]

/-- The instruction completes without a transfer: the PC goes on by 8, and nothing else changes. -/
theorem advance_plain (s t : State) (c : Cur) (h : plain s c = true) (hl : t.warps.length = s.warps.length)
    (ha : (warpAt t c.w).sa = (warpAt s c.w).sa) (hb : (warpAt t c.w).sb = (warpAt s c.w).sb)
    (hh : (warpAt t c.w).hdl = (warpAt s c.w).hdl)
    (hn : (warpAt t c.w).ssn = (warpAt s c.w).ssn) (he : (warpAt t c.w).ents = (warpAt s c.w).ents) :
    advance t (envOf s c) = .ok (stepped t c) := by
  simp only [plain, issuing, Bool.and_eq_true, decide_eq_true_eq, bne_iff_ne, beq_iff_eq] at h
  obtain ⟨⟨⟨⟨⟨h1, h2⟩, h3⟩, h4⟩, h5⟩, h6⟩ := h
  have hpc' : pcOf t c = pcOf s c := by
    unfold pcOf
    cases c.which <;> simp only [slotOf, ha, hb, hh]
  have hstep : stepOn (slotOf (warpAt t (envOf s c).w) (envOf s c).which) =
      { slotOf (warpAt t (envOf s c).w) (envOf s c).which with
        path := { (slotOf (warpAt t (envOf s c).w) (envOf s c).which).path with pc := nextPc (pcOf t c) }
        turned := none } := by
    have hl : pcLast (slotOf (warpAt t c.w) c.which).path.pc = false := by
      show pcLast (pcOf t c) = false
      rw [hpc']; simpa [pcLast] using h6
    show stepOn (slotOf (warpAt t c.w) c.which) = _
    simp only [stepOn, hl, Bool.false_eq_true, if_false]; rfl
  unfold advance
  rw [hstep, hpc']
  show jump t (envOf s c) (nextPc (pcOf s c)) = _
  rw [jump_goesTo]
  · simp only [stepped, hpc']; rfl
  · show c.w < t.warps.length
    omega
  · show goesTo (warpAt t c.w) c.which _ = true
    rw [goesTo_congr _ _ _ _ ha hb hn he]; exact h5

/-! ### Running a meaning (R46) -/

/-- A meaning whose checks pass and whose body completes answers the body's state. -/
theorem runInstr_ok (s t : State) (c : Cur) (fs : Nat) (ill priv : Env → Bool) (g : Guard)
    (body : Env → Except Stop State) (h : issuing s c = true) (hi : ill (envOf s c) = true)
    (hp : priv (envOf s c) = false) (hb : body (envOf s c) = .ok t) : runInstr s fs ill priv g body = .next t := by
  simp only [issuing, Bool.and_eq_true, decide_eq_true_eq, beq_iff_eq] at h
  obtain ⟨⟨⟨h1, h2⟩, h3⟩, h4⟩ := h
  have hf : dueMark (envOf s c).sl = none := Option.isNone_iff_eq_none.1 h4
  unfold runInstr
  simp only [h1, hi, hp, hf, hb, Bool.not_true, Bool.false_eq_true, if_false]

/-- A meaning whose body traps queues the trap, or breaks the launch in supervisor mode (R32, R309). -/
theorem runInstr_trap (s : State) (c : Cur) (fs : Nat) (ill priv : Env → Bool) (g : Guard)
    (body : Env → Except Stop State) (r : Raise) (h : issuing s c = true) (hi : ill (envOf s c) = true)
    (hp : priv (envOf s c) = false) (hb : body (envOf s c) = .error (.trap r)) :
    runInstr s fs ill priv g body = .next (takeTrap s (envOf s c) fs r) := by
  simp only [issuing, Bool.and_eq_true, decide_eq_true_eq, beq_iff_eq] at h
  obtain ⟨⟨⟨h1, h2⟩, h3⟩, h4⟩ := h
  have hf : dueMark (envOf s c).sl = none := Option.isNone_iff_eq_none.1 h4
  unfold runInstr
  simp only [h1, hi, hp, hf, hb, Bool.not_true, Bool.false_eq_true, if_false]

/-- A warp instruction always answers a next state while a path issues. -/
theorem runInstr_next (s : State) (c : Cur) (fs : Nat) (ill priv : Env → Bool) (g : Guard)
    (body : Env → Except Stop State) (h : s.cur = some c) : ∃ t, runInstr s fs ill priv g body = .next t := by
  unfold runInstr
  rw [h]
  simp only
  split
  · exact ⟨_, rfl⟩
  · split
    · exact ⟨_, rfl⟩
    · split
      · exact ⟨_, rfl⟩
      · split <;> exact ⟨_, rfl⟩

theorem issuing_of_plain {s : State} {c : Cur} (h : plain s c = true) : issuing s c = true := by
  simp only [plain, Bool.and_eq_true] at h; exact h.1.1

theorem warp_lt_of_plain {s : State} {c : Cur} (h : plain s c = true) : c.w < s.warps.length := by
  simp only [plain, issuing, Bool.and_eq_true, decide_eq_true_eq] at h; exact h.1.1.1.1.2

theorem crew_lt_of_plain {s : State} {c : Cur} (h : plain s c = true) : (warpAt s c.w).crew < s.crews.length := by
  simp only [plain, issuing, Bool.and_eq_true, decide_eq_true_eq] at h; exact h.1.1.1.2

/-! ### Reading sources and writing a result (R12, R30, R31) -/

/-- Sources that name no port are read where they stand. -/
theorem readSrcs_registers (s : State) (e : Env) (m : Mask) (srcs : List Src) (dst : Option Opnd) (push : Bool)
    (hp : portsOf srcs = []) (hd : ∀ n, dst ≠ some (.q n)) :
    readSrcs s e m srcs dst push = .ok (s, fun l => srcVals e.x srcs [] l) := by
  have h2 : dstPort dst = none := by
    unfold dstPort
    split
    · exact absurd rfl (hd _)
    · rfl
  unfold readSrcs
  simp only [hp, h2, List.map_nil, List.findSome?_nil, Option.bind_none, popEach, List.isEmpty_nil, if_true, portFull,
    Bool.false_eq_true, if_false, ite_self]

/-- The slots and the split stack of the issuing warp stay when sources are read. -/
theorem popEach_keeps (x : Warp) (cr : Crew) (ns : List Nat) (hs : List (List Word)) (y : Warp) (cr' : Crew)
    (h : popEach x cr ns = some (hs, y, cr')) : ∃ a b, y = { x with q6 := a, q7 := b } := by
  induction ns generalizing x cr hs y cr' with
  | nil => simp only [popEach, Option.some.injEq, Prod.mk.injEq] at h; exact ⟨x.q6, x.q7, by rw [← h.2.1]⟩
  | cons n ns ih =>
    simp only [popEach] at h
    split at h
    · exact absurd h (by simp)
    · rename_i r hd x1 cr1 heq
      split at h
      · exact absurd h (by simp)
      · rename_i hs2 x2 cr2 h2
        simp only [Option.some.injEq, Prod.mk.injEq] at h
        obtain ⟨_, h3, _⟩ := h
        subst h3
        obtain ⟨a, b, hab⟩ := ih _ _ _ _ _ h2
        split at heq
        · split at heq
          · exact absurd heq (by simp)
          · simp only [Option.some.injEq, Prod.mk.injEq] at heq
            exact ⟨a, b, by rw [hab, ← heq.2.1]⟩
        · split at heq
          · exact absurd heq (by simp)
          · simp only [Option.some.injEq, Prod.mk.injEq] at heq
            refine ⟨a, b, ?_⟩
            rw [hab, ← heq.2.1]
            split <;> rfl

/-- What reading sources can do: nothing, or pops from the warp's own ports and the crew's channels. -/
theorem readSrcs_ok (s : State) (e : Env) (m : Mask) (srcs : List Src) (dst : Option Opnd) (push : Bool)
    (s1 : State) (vals : Nat → List Nat) (h : readSrcs s e m srcs dst push = .ok (s1, vals)) :
    s1 = s ∨ ∃ a b cr, s1 = setCrew (setWarp s e.w { e.x with q6 := a, q7 := b }) e.c cr := by
  unfold readSrcs at h
  simp only at h
  by_cases h0 : m = 0
  · rw [if_pos h0] at h
    simp only [Except.ok.injEq, Prod.mk.injEq] at h
    exact .inl h.1.symm
  · rw [if_neg h0] at h
    split at h
    · exact absurd h (by simp)
    · split at h
      · exact absurd h (by simp)
      · split at h
        · exact absurd h (by simp)
        · rename_i hs x cr hpop
          by_cases hf : portFull s cr push (dstPort dst) = true
          · rw [if_pos hf] at h; exact absurd h (by simp)
          · rw [if_neg hf] at h
            simp only [Except.ok.injEq, Prod.mk.injEq] at h
            by_cases hp : (portsOf srcs).isEmpty = true
            · rw [if_pos hp] at h; exact .inl h.1.symm
            · rw [if_neg hp] at h
              obtain ⟨a, b, hab⟩ := popEach_keeps _ _ _ _ _ _ hpop
              exact .inr ⟨a, b, cr, by rw [← h.1, hab]⟩

/-- What reading sources leaves of the issuing warp: everything but the records of its own ports. -/
theorem readSrcs_keeps (s s1 : State) (c : Cur) (m : Mask) (srcs : List Src) (dst : Option Opnd) (push : Bool)
    (vals : Nat → List Nat) (hw : c.w < s.warps.length)
    (h : readSrcs s (envOf s c) m srcs dst push = .ok (s1, vals)) :
    s1.warps.length = s.warps.length ∧ ∃ a b, warpAt s1 c.w = { warpAt s c.w with q6 := a, q7 := b } := by
  rcases readSrcs_ok _ _ _ _ _ _ _ _ h with h | ⟨a, b, cr, h⟩
  · subst h; exact ⟨rfl, _, _, rfl⟩
  · subst h
    refine ⟨by simp, a, b, ?_⟩
    rw [warpAt_setCrew]
    exact warpAt_setWarp _ _ _ hw

/-- A result for a register or latch: it is written and the path goes on. -/
theorem finish_register (s t : State) (c : Cur) (h : plain s c = true) (hd : Hdr) (d : Opnd) (m : Mask) (k : Nat)
    (val : Nat → Nat) (hq : ∀ n, d ≠ .q n) (hl : t.warps.length = s.warps.length)
    (ha : (warpAt t c.w).sa = (warpAt s c.w).sa) (hb : (warpAt t c.w).sb = (warpAt s c.w).sb)
    (hh : (warpAt t c.w).hdl = (warpAt s c.w).hdl)
    (hn : (warpAt t c.w).ssn = (warpAt s c.w).ssn) (he : (warpAt t c.w).ents = (warpAt s c.w).ents) :
    finish t (envOf s c) hd d m k val =
      .ok (stepped (setWarp t c.w (writeDest (warpAt t c.w) ⟨hd, d, m⟩ k val)) c) := by
  have hw : c.w < t.warps.length := by rw [hl]; exact warp_lt_of_plain h
  have key : advance (setWarp t c.w (writeDest (warpAt t c.w) ⟨hd, d, m⟩ k val)) (envOf s c) =
      .ok (stepped (setWarp t c.w (writeDest (warpAt t c.w) ⟨hd, d, m⟩ k val)) c) := by
    apply advance_plain s _ c h
    · rw [setWarp_length, hl]
    all_goals rw [warpAt_setWarp _ _ _ hw]; simp only [writeDest_sa, writeDest_sb, writeDest_hdl, writeDest_ssn, writeDest_ents, ha, hb, hh, hn, he]
  cases d with
  | q n => exact absurd rfl (hq n)
  | v _ => exact key
  | s _ => exact key
  | b _ => exact key
  | z => exact key
  | lid => exact key

/-- A predicate result: it is written and the path goes on. -/
theorem finishPred_plain (s t : State) (c : Cur) (h : plain s c = true) (hd : Hdr) (p : Pred) (m : Mask)
    (val : Nat → Bool) (hl : t.warps.length = s.warps.length)
    (ha : (warpAt t c.w).sa = (warpAt s c.w).sa) (hb : (warpAt t c.w).sb = (warpAt s c.w).sb)
    (hh : (warpAt t c.w).hdl = (warpAt s c.w).hdl)
    (hn : (warpAt t c.w).ssn = (warpAt s c.w).ssn) (he : (warpAt t c.w).ents = (warpAt s c.w).ents) :
    finishPred t (envOf s c) hd p m val =
      .ok (stepped (setWarp t c.w (writePred (warpAt t c.w) hd p m val)) c) := by
  have hw : c.w < t.warps.length := by rw [hl]; exact warp_lt_of_plain h
  apply advance_plain s _ c h
  · rw [setWarp_length, hl]
  all_goals
    simp only [envOf, warpAt_setWarp _ _ _ hw]
    simp only [writePred_sa, writePred_sb, writePred_hdl, writePred_ssn, writePred_ents, ha, hb, hh, hn, he]

/-- An instruction that computes its result lane by lane, with a register or latch as its destination (R12, R86). -/
theorem laneOp_plain (s s1 : State) (c : Cur) (h : Hdr) (d : Opnd) (dk : Nat) (srcs : List Src) (f : List Nat → Nat)
    (vals : Nat → List Nat) (hp : plain s c = true) (hr : regsOk ((d, dk) :: srcs) (envOf s c) = true)
    (hq : ∀ n, d ≠ .q n) (hs : readSrcs s (envOf s c) (takers s c h.g) srcs (some d) (!h.w) = .ok (s1, vals)) :
    laneOp s h d dk srcs f = .next (stepped (setWarp s1 c.w
      (writeDest (warpAt s1 c.w) ⟨h, d, takers s c h.g⟩ dk (fun l => f (vals l)))) c) := by
  obtain ⟨hl, a, b, hx⟩ := readSrcs_keeps _ _ _ _ _ _ _ _ (warp_lt_of_plain hp) hs
  refine runInstr_ok s _ c _ _ _ _ _ (issuing_of_plain hp) hr rfl ?_
  simp only
  rw [show taking (envOf s c) h.g = takers s c h.g from rfl, hs]
  exact finish_register s s1 c hp h d _ dk _ hq hl (by rw [hx]) (by rw [hx]) (by rw [hx]) (by rw [hx]) (by rw [hx])

/-- An instruction that computes a predicate lane by lane (R30, R43). -/
theorem lanePred_plain (s s1 : State) (c : Cur) (h : Hdr) (p : Pred) (srcs : List Src) (f : List Nat → Bool)
    (vals : Nat → List Nat) (hp : plain s c = true) (hr : regsOk srcs (envOf s c) = true)
    (hs : readSrcs s (envOf s c) (takers s c h.g) srcs none false = .ok (s1, vals)) :
    lanePred s h p srcs f = .next (stepped (setWarp s1 c.w
      (writePred (warpAt s1 c.w) h p (takers s c h.g) (fun l => f (vals l)))) c) := by
  obtain ⟨hl, a, b, hx⟩ := readSrcs_keeps _ _ _ _ _ _ _ _ (warp_lt_of_plain hp) hs
  refine runInstr_ok s _ c _ _ _ _ _ (issuing_of_plain hp) hr rfl ?_
  simp only
  rw [show taking (envOf s c) h.g = takers s c h.g from rfl, hs]
  exact finishPred_plain s s1 c hp h p _ _ hl (by rw [hx]) (by rw [hx]) (by rw [hx]) (by rw [hx]) (by rw [hx])

/-! ### The same paths, and results that agree where lanes take part -/

/-- Two warps with the same slots and split stack. -/
def samePaths (x y : Warp) : Prop :=
  y.sa = x.sa ∧ y.sb = x.sb ∧ y.hdl = x.hdl ∧ y.ssn = x.ssn ∧ y.ents = x.ents

theorem advance_same (s t : State) (c : Cur) (h : plain s c = true) (hl : t.warps.length = s.warps.length)
    (hx : samePaths (warpAt s c.w) (warpAt t c.w)) : advance t (envOf s c) = .ok (stepped t c) :=
  advance_plain s t c h hl hx.1 hx.2.1 hx.2.2.1 hx.2.2.2.1 hx.2.2.2.2

theorem samePaths_refl (x : Warp) : samePaths x x := ⟨rfl, rfl, rfl, rfl, rfl⟩
theorem samePaths_trans {x y z : Warp} (h : samePaths x y) (k : samePaths y z) : samePaths x z := by
  obtain ⟨a, b, c, d, e⟩ := h
  obtain ⟨a', b', c', d', e'⟩ := k
  exact ⟨a'.trans a, b'.trans b, c'.trans c, d'.trans d, e'.trans e⟩

theorem readSrcs_same (s s1 : State) (c : Cur) (m : Mask) (srcs : List Src) (dst : Option Opnd) (push : Bool)
    (vals : Nat → List Nat) (hp : plain s c = true) (h : readSrcs s (envOf s c) m srcs dst push = .ok (s1, vals)) :
    s1.warps.length = s.warps.length ∧ samePaths (warpAt s c.w) (warpAt s1 c.w) ∧
    (warpAt s1 c.w).srgen = (warpAt s c.w).srgen ∧ (warpAt s1 c.w).fflags = (warpAt s c.w).fflags := by
  obtain ⟨hl, a, b, hx⟩ := readSrcs_keeps _ _ _ _ _ _ _ _ (warp_lt_of_plain hp) h
  rw [hx]
  exact ⟨hl, ⟨rfl, rfl, rfl, rfl, rfl⟩, rfl, rfl⟩

theorem stepGen_eq (s : State) (w : Nat) (r : Bool) (m : Mask) :
    stepGen s w r m = (if r && m != 0 then genOut (genStep (warpAt s w).srgen) else 0,
      setWarp s w { warpAt s w with
        srgen := if r && m != 0 then genStep (warpAt s w).srgen else (warpAt s w).srgen }) := by
  unfold stepGen
  by_cases h : (r && m != 0) = true
  · simp only [h, if_true]
  · simp only [h, if_false, Bool.false_eq_true]
    exact Prod.ext rfl (setWarp_self s w).symm

theorem foldl_or_tab (f : Nat → Rnd) (m : Mask) :
    (tab (fun l => if m.getLsbD l then f l else ⟨0, 0⟩)).foldl (fun a x => a ||| x.flags) 0 =
    ((lanesOf m).map (fun l => (f l).flags)).foldl (fun a b => a ||| b) 0 := by
  have key : ∀ (ls : List Nat) (z : Nat),
      (ls.map (fun l => if m.getLsbD l then f l else (⟨0, 0⟩ : Rnd))).foldl (fun a x => a ||| x.flags) z =
      ((ls.filter (fun l => m.getLsbD l)).map (fun l => (f l).flags)).foldl (fun a b => a ||| b) z := by
    intro ls
    induction ls with
    | nil => intro z; rfl
    | cons l ls ih =>
      intro z
      by_cases hl : m.getLsbD l = true
      · simp [hl, ih]
      · simp [hl, ih]
  exact key _ _

theorem lane_tab {α : Type} (d : α) (f : Nat → α) (l : Nat) (h : l < 32) : lane d (tab f) l = f l := by
  simp [lane, tab, h]

theorem putLanes_congr {α : Type} (d : α) (m : Mask) (old : List α) (f g : Nat → α)
    (h : ∀ l, l < 32 → m.getLsbD l = true → f l = g l) : putLanes d m old f = putLanes d m old g := by
  unfold putLanes tab
  apply List.map_congr_left
  intro l hl
  have := List.mem_range.1 hl
  by_cases hm : m.getLsbD l = true
  · simp [hm, h l this hm]
  · simp [hm]

theorem lowest_spec (m : Mask) (l : Nat) (h : lowest m = some l) : l < 32 ∧ m.getLsbD l = true := by
  unfold lowest at h
  have := List.mem_of_head? h
  simpa [lanesOf] using this

theorem writeReg_congr (x : Warp) (o : Opnd) (m : Mask) (k : Nat) (f g : Nat → Nat)
    (h : ∀ l, l < 32 → m.getLsbD l = true → f l = g l) : writeReg x o m k f = writeReg x o m k g := by
  unfold writeReg
  cases o with
  | v n =>
    simp only
    congr 1
    congr 1
    funext vs j
    congr 1
    apply putLanes_congr
    intro l h1 h2
    rw [h l h1 h2]
  | s n =>
    simp only
    split
    · rfl
    · rename_i l hl
      obtain ⟨h1, h2⟩ := lowest_spec m l hl
      rw [h l h1 h2]
  | b n =>
    simp only
    congr 2
    apply putLanes_congr
    intro l h1 h2
    rw [h l h1 h2]
  | _ => rfl

theorem writeDest_congr (x : Warp) (d : Dest) (k : Nat) (f g : Nat → Nat)
    (h : ∀ l, l < 32 → d.lanes.getLsbD l = true → f l = g l) : writeDest x d k f = writeDest x d k g := by
  unfold writeDest writeLatch
  rw [writeReg_congr x d.d d.lanes k f g h]
  split
  · rfl
  · exact writeReg_congr _ _ _ _ _ _ h

theorem finish_same (s t : State) (c : Cur) (hd : Hdr) (d : Opnd) (m : Mask) (k : Nat) (val : Nat → Nat)
    (h : plain s c = true) (hl : t.warps.length = s.warps.length)
    (hx : samePaths (warpAt s c.w) (warpAt t c.w)) (hq : ∀ n, d ≠ .q n) :
    finish t (envOf s c) hd d m k val = .ok (stepped (setWarp t c.w (writeDest (warpAt t c.w) ⟨hd, d, m⟩ k val)) c) :=
  finish_register s t c h hd d m k val hq hl hx.1 hx.2.1 hx.2.2.1 hx.2.2.2.1 hx.2.2.2.2

end Sys2Proof.Machine
end

