-- ==== Sys2Proof/Laws/Slots.lean ====
section
/-! SUPPORT. What the operations under a format slot, the status writes and the block instructions do. -/

namespace Sys2Proof.Machine

/-- An instruction under a slot (R115). -/
theorem slotLanes_plain (s s1 : State) (c : Cur) (h : Hdr) (f : FSlot) (d : Opnd) (srcs : List Src)
    (extra : Env → Bool) (rounds : Word → Bool) (fn : Word → List Nat → Nat → Word → Rnd) (vals : Nat → List Nat)
    (hp : plain s c = true) (hr : regsOk ((d, 1) :: srcs) (envOf s c) = true)
    (hf : fmIllegal (slotWord (envOf s c).x f) = false) (he : extra (envOf s c) = true) (hq : ∀ n, d ≠ .q n)
    (hs : readSrcs s (envOf s c) (takers s c h.g) srcs (some d) (!h.w) = .ok (s1, vals)) :
    let fw := slotWord (envOf s c).x f
    let m := takers s c h.g
    let x := warpAt s1 c.w
    let draws := rounds fw && m != 0
    let gen := if draws then genStep x.srgen else x.srgen
    let out := fun l => fn fw (vals l) l (if draws then genOut gen else 0)
    let flags := ((lanesOf m).map (fun l => (out l).flags)).foldl (fun a b => a ||| b) 0
    slotLanes s h f d srcs extra rounds fn = .next (stepped (setWarp s1 c.w (writeDest
      { x with srgen := gen, fflags := x.fflags ||| BitVec.ofNat 32 flags } ⟨h, d, m⟩ 1 (fun l => (out l).code))) c) := by
  intro fw m x draws gen out flags
  obtain ⟨hl, hx, -, -⟩ := readSrcs_same _ _ _ _ _ _ _ _ hp hs
  have hw : c.w < s1.warps.length := by rw [hl]; exact warp_lt_of_plain hp
  refine runInstr_ok s _ c _ _ _ _ _ (issuing_of_plain hp) (by simp [hr, hf, he]) rfl ?_
  simp only
  rw [show taking (envOf s c) h.g = takers s c h.g from rfl, hs]
  simp only [stepGen_eq, raiseFlags]
  have hg : (if draws then genOut (genStep x.srgen) else 0) = (if draws then genOut gen else 0) := by
    by_cases hd : draws = true <;> simp [hd, gen]
  have e1 : (envOf s c).w = c.w := rfl
  rw [e1]
  rw [finish_same s _ c h d _ _ _ hp (by simp [hl]) (by
    simp only [setWarp_setWarp, warpAt_setWarp _ _ _ hw]
    exact hx) hq]
  simp only [setWarp_setWarp, warpAt_setWarp _ _ _ hw]
  congr 3
  rw [foldl_or_tab]
  show writeDest { x with srgen := gen, fflags := x.fflags ||| BitVec.ofNat 32 (((lanesOf m).map (fun l => (fn fw (vals l) l
    (if draws then genOut (genStep x.srgen) else 0)).flags)).foldl (fun a b => a ||| b) 0) } _ _ _ = _
  rw [hg]
  apply writeDest_congr
  intro l h1 h2
  rw [lane_tab _ _ _ h1, if_pos h2]

end Sys2Proof.Machine
end

