-- ==== Sys2Proof/Laws/Word.lean ====
section
/-! SUPPORT. Masks and lane lists: which lanes a mask that `maskOf` builds holds, and which `lanesOf` lists. -/

namespace Sys2Proof

theorem maskSum_testBit (f : Nat → Bool) (n : Nat) :
    (List.range n).foldl (fun acc l => acc + (if f l then 2 ^ l else 0)) 0 < 2 ^ n ∧
    ∀ l, Nat.testBit ((List.range n).foldl (fun acc l => acc + (if f l then 2 ^ l else 0)) 0) l =
      (decide (l < n) && f l) := by
  induction n with
  | zero => simp
  | succ n ih =>
    obtain ⟨h1, h2⟩ := ih
    rw [List.range_succ, List.foldl_append]
    generalize (List.range n).foldl (fun acc l => acc + (if f l then 2 ^ l else 0)) 0 = z at h1 h2
    simp only [List.foldl_cons, List.foldl_nil]
    by_cases hf : f n = true
    · simp only [hf, if_true]
      refine ⟨by rw [pow_succ]; omega, ?_⟩
      intro l
      rw [Nat.add_comm]
      by_cases hl : l = n
      · subst hl
        rw [Nat.testBit_two_pow_add_eq, h2]
        simp [hf]
      · by_cases hlt : l < n
        · rw [Nat.testBit_two_pow_add_gt hlt, h2]
          simp [hlt, Nat.lt_succ_of_lt hlt]
        · have : 2 ^ n + z < 2 ^ l := by
            calc 2 ^ n + z < 2 ^ n + 2 ^ n := by omega
              _ = 2 ^ (n + 1) := by rw [pow_succ]; omega
              _ ≤ 2 ^ l := Nat.pow_le_pow_right (by omega) (by omega)
          rw [Nat.testBit_lt_two_pow this]
          have : ¬ l < n + 1 := by omega
          simp [this]
    · simp only [hf]
      refine ⟨by rw [pow_succ]; simp; omega, ?_⟩
      intro l
      simp only [Bool.false_eq_true, if_false, Nat.add_zero]
      rw [h2]
      by_cases hl : l = n
      · subst hl; simp [hf]
      · have : (l < n + 1) = (l < n) := by apply propext; omega
        simp [this]

/-- The lanes of the mask that a predicate gives. -/
theorem maskOf_getLsbD (f : Nat → Bool) (l : Nat) : (maskOf f).getLsbD l = (decide (l < 32) && f l) := by
  unfold maskOf
  rw [BitVec.getLsbD_ofNat, (maskSum_testBit f 32).2]
  by_cases h : l < 32 <;> simp [h]

/-- The lanes that a mask lists. -/
theorem mem_lanesOf (m : Mask) (l : Nat) : l ∈ lanesOf m ↔ m.getLsbD l = true := by
  unfold lanesOf
  simp only [List.mem_filter, List.mem_range, and_iff_right_iff_imp]
  intro h
  by_contra hc
  rw [BitVec.getLsbD_of_ge _ _ (by omega)] at h
  exact absurd h (by simp)

theorem maskOf_eq_zero (f : Nat → Bool) : maskOf f = 0 ↔ ∀ l, l < 32 → f l = false := by
  constructor
  · intro h l hl
    have := maskOf_getLsbD f l
    rw [h] at this
    simpa [hl] using this.symm
  · intro h
    apply BitVec.eq_of_getLsbD_eq
    intro l hl
    rw [maskOf_getLsbD, h l hl]
    simp

theorem lowest_mem (m : Mask) (l : Nat) (h : lowest m = some l) : m.getLsbD l = true :=
  (mem_lanesOf m l).1 (List.mem_of_head? h)

theorem lowest_eq_none (m : Mask) : lowest m = none ↔ m = 0 := by
  unfold lowest
  rw [List.head?_eq_none_iff]
  constructor
  · intro h
    apply BitVec.eq_of_getLsbD_eq
    intro l hl
    by_contra hc
    have : l ∈ lanesOf m := (mem_lanesOf m l).2 (by simpa using hc)
    rw [h] at this
    exact absurd this (by simp)
  · intro h; subst h; rfl

end Sys2Proof
end

