-- ==== Sys2Proof/Tests/Slice0.lean ====
section
/-! SUPPORT. The model's own tests: ill-formed terms, words of the manual's examples, results of its tables, and a witness
for the hypotheses of every statement. -/

namespace Sys2Proof.Tests

open Sys2Proof Sys2Proof.Machine

-- One evaluation at a time: each takes a deep stack of its own.
set_option Elab.async false

/-! ### A small machine -/

def g7 : Guard := ⟨7, false⟩
def gNo : Guard := ⟨7, true⟩
def h7 : Hdr := ⟨g7, false, none⟩
def hW : Hdr := ⟨g7, true, none⟩
def c0 : Cur := ⟨0, .a⟩
def v0 : Opnd := .v 0
def v2 : Opnd := .v 2
def v4 : Opnd := .v 4
def s0 : Opnd := .s 0
def s2 : Opnd := .s 2
def s4 : Opnd := .s 4
def words (f : Nat → Nat) : List Word := (List.range 32).map (fun l => BitVec.ofNat 32 (f l))

/-- A warp of eight registers on object 5, past index 80, with lane 11 ended when `hole`. -/
def warp0 : Warp :=
  { Warp.zero with
    crew := 0, regs := 8, v := (List.range 8).map (fun n => words (fun l => n + l))
    s := (List.range 32).map (BitVec.ofNat 32), alive := BitVec.allOnes 32, gone := false, fs := fmDefault
    srgen := 0x123456789ABCDEF
    sa := Slot.ofPath { pc := BitVec.ofNat 64 (5 * 2 ^ 42 + 80), mask := BitVec.allOnes 32, rjpc := noRejoin, depth := 0 } }

def launch0 : Launch :=
  { h := 0, ctx := 0, queue := 0, record := List.replicate 128 0, args := [], fmt := [], prio := 0, lseq := 0, order := 0
    state := .running, next := 1, redo := [], saved := [], ended := 0, comet := none, result := 0, since := 0, late := false }

/-- A ready device with one context, one launch, one crew of one warp, whose slot A issues. -/
def base : State :=
  { State.reset with
    warps := [warp0], crews := [{ Crew.zero with warps := [0], gone := false, scrLen := 4096 }], cur := some c0
    ctxs := [(0, { Ctx.fresh with stopped := false })], launches := [launch0]
    plat := { State.reset.plat with st := .ready } }

def onWarp (s : State) (f : Warp → Warp) : State := setWarp s 0 (f (warpAt s 0))
def onCrew (s : State) (f : Crew → Crew) : State := setCrew s 0 (f (crewAt s 0))
def onCtx (s : State) (f : Ctx → Ctx) : State := { s with ctxs := s.ctxs.map (fun c => (c.1, f c.2)) }
def withS (s : State) (n v : Nat) : State := onWarp s (fun x => { x with s := x.s.set n (BitVec.ofNat 32 v) })
def withV (s : State) (n : Nat) (f : Nat → Nat) : State := onWarp s (fun x => { x with v := x.v.set n (words f) })
def supervisor (s : State) : State :=
  { onWarp s (fun x => { x with mode := .supervisor, hdl := x.sa }) with cur := some ⟨0, .handler⟩ }
def hc : Cur := ⟨0, .handler⟩

/-- Lane l of register n after an instruction. -/
def laneAfter (i : Instr) (s : State) (n l : Nat) : Option Nat :=
  match exec i s with
  | .next t => some (((warpAt t 0).v.getD n []).getD l 0).toNat
  | _ => none
def sourcesRead (x : Except Stop (State × (Nat → List Nat))) : Bool := match x with | .ok _ => true | .error _ => false

/-- The hypotheses of a statement about one issue: the path goes straight on, the registers exist, and P holds of the state
and the warp values after the sources are read. -/
def ready (s : State) (c : Cur) (g : Guard) (ds srcs : List Src) (dst : Option Opnd) (push : Bool)
    (P : State → (Nat → Nat) → Bool) : Bool :=
  plain s c && regsOk (ds ++ srcs) (envOf s c) &&
  (match lowest (takers s c g), readSrcs s (envOf s c) (takers s c g) srcs dst push with
    | some l, .ok (s1, v) => P s1 (fun k => (v l).getD k 0)
    | _, _ => false)
def notPort (d : Opnd) : Bool := !d.isPort

/-! ### Ill-formed terms (R42 to R45) -/

theorem test_ill_formed_operands :
    ([.iadd h7 .lid v0 v0, .iadd2 h7 (.v 1) v0 v0, .iadd2 h7 v0 (.v 3) v0, .iadd2 h7 v0 v0 (.q 0), .imulw h7 (.s 3) v0 v0,
      .icmp h7 .eq true 0 (.v 1) v0, .call g7 false 0 1 .lid, .ret g7 (.v 5), .fcvt h7 0 0 0 v0 .z, .mov2 h7 v0 (.s 1),
      .trapDelivery 0] : List Instr).all (fun i => !wellFormed i) = true := by decide
theorem test_ill_formed_memory :
    ([.ld32 h7 ⟨false, .dev, .rlx, 0, 0, .z, v0⟩ (.q 1), .ld32 h7 ⟨false, .dev, .rel, 0, 0, .z, v0⟩ v2,
      .ld32 h7 ⟨false, .dev, .rlx, 0, 2, .z, v0⟩ v2, .ld32 h7 ⟨false, .dev, .rlx, 0, 2, .s 3, v0⟩ v2,
      .ld64 h7 ⟨false, .dev, .rlx, 0, 0, .z, v0⟩ (.v 3), .ld128 h7 ⟨false, .dev, .rlx, 0, 0, .z, v0⟩ v2,
      .st32 g7 ⟨false, .dev, .acq, 0, 0, .z, v0⟩ v2, .lds32 h7 ⟨true, .dev, .rlx, 0, 0, .s 1, v0⟩ v2,
      .lds32 h7 ⟨false, .dev, .rlx, 0, 0, .v 1, v0⟩ v2, .sts64 g7 ⟨false, .dev, .rlx, 0, 0, .s 1, v0⟩ (.v 1),
      .atomAdd h7 ⟨.dev, .rlx, 0, .z, v0⟩ true (.v 3) v0, .atomAdd h7 ⟨.dev, .rlx, 0, .z, v0⟩ false v2 (.q 0),
      .atomsAdd h7 ⟨.dev, .rlx, 0, .z, v0⟩ true v2 (.v 1), .pref g7 ⟨false, .dev, .acq, 0, 0, .z, v0⟩] :
      List Instr).all (fun i => !wellFormed i) = true := by decide
theorem test_ill_formed_fields :
    ([.fence g7 .dev .rlx false, .fence g7 .dev .acq true, .fencex g7 .dev 0 1, .fencex g7 .dev 1 0,
      .cinv g7 false false v0 s0, .mload g7 0 false false 1 s0 s0 .z, .mload g7 0 true true 1 s0 s0 .z,
      .mload g7 0 true false 0 (.s 1) s0 .z, .mstream g7 0 false 2 s0 s0 .z] : List Instr).all (fun i => !wellFormed i) =
      true := by decide

/-! ### Words of the manual's examples (R34 to R54, and the entries) -/

def reads (w : Nat) (i : Instr) : Bool := decide (decodeWord w = .ok i) && decide (encode i = w)

theorem test_words_integer_lanes :
    reads 0x1670020984000005 (.icmp h7 .ge false 1 v4 s2) && reads 0x3070040386000003 (.lxchXor h7 0 v2 (.v 1) (.s 3)) &&
    reads 0x4970060000000000 (.pchk h7 3) && reads 0x4A70000000000050 (.pyield g7 5) && reads 0x0170000000000000 (.nop g7) &&
    reads 0x4020000006000400 (.bra ⟨2, false⟩ false 4 3) = true := by decide
theorem test_words_memory :
    reads 0x6870080586801006 (.lds32 h7 ⟨false, .dev, .rlx, 64, 2, .s 3, v2⟩ v4) &&
    reads 0x5F70079194000000 (.prom h7 (.v 3) (.s 8) (.s 10)) && reads 0x6170080400000010 (.objqRes h7 v4 v2) &&
    reads 0x6370000000000033 (.fence g7 .dev .ar false) && reads 0x6370000000000074 (.fence g7 .dom .ar true) &&
    reads 0x6470000000000143 (.fencex g7 .dev 4 1) &&
    reads 0x6070060590088030 (.atomAdd h7 ⟨.dev, .rlx, 2, .s 8, v2⟩ false (.v 3) v4) &&
    reads 0x60700C05D60A15B0 (.atomCas h7 ⟨.dev, .ar, 0, .z, v2⟩ false (.v 6) (.v 5)) = true := by decide
theorem test_words_slots_engine :
    reads 0x2570100400060010 (.fcvt h7 0 3 1 (.v 8) v2) && reads 0x277001880000A000 (.setfs g7 5 s4) &&
    reads 0x8070019000000000 (.macal g7 (.s 8)) && reads 0x8470000000000000 (.mswap g7) &&
    reads 0x8570019193D62000 (.mstream g7 1 false 0 (.s 8) (.s 9) .z) &&
    reads 0x8670159400000020 (.mdrain g7 false 0 false 1 (.v 10) (.s 10)) &&
    reads 0x9070098C00000020 (.cpy h7 2 v4 (.s 6)) && reads 0x9170118D8E000010 (.cpyg h7 1 (.v 8) (.s 6) (.s 7)) &&
    reads 0x9470018A00000000 (.cwait g7 (.s 5)) = true := by decide
theorem test_words_launches_control :
    reads 0xA0700588000000C0 (.lnch h7 v2 s4 12) && reads 0xA17005898A000020 (.invk h7 2 false v2 s4 (.s 5)) &&
    reads 0xA2700D8991940030 (.hsend h7 3 false (.v 6) s4 (.s 8) (.s 10)) && reads 0xA470080400000010 (.hstatOrg h7 v4 v2) &&
    reads 0xC070080000000400 (.csrr h7 v4 0x040) && reads 0xC1700180000000C0 (.csrw g7 0x00C s0) &&
    reads 0xC570060000000000 (.tqpop g7 (.v 3)) && reads 0xC470000000000000 (.tretRes g7) &&
    reads 0xC470000000000010 (.tretLanes g7) && reads 0xC470000000000020 (.tretWarp g7) &&
    reads 0xC470000000000030 (.tretCrew g7) && reads 0xC470000000000040 (.tretLaunch g7) &&
    reads 0xC670000000000020 (.orinvAll g7) = true := by decide
theorem test_words_refused :
    decide (decodeWord 0x1070000000001000 = .error .reserved) && decide (decodeWord 0x0270000000000000 = .error (.major 2)) &&
    decide (decode [1, 2, 3] = .error .truncated) && decide (decodeWord 0 = .ok .ill) = true := by decide

/-! ### Results that the manual's tables give -/

/-- D of an integer instruction for given values of A, B and C in lane 0. -/
def onValues (i : Instr) (a b c : Nat) : Option Nat :=
  laneAfter i (withV (withV (withV base 1 (fun _ => a)) 2 (fun _ => b)) 3 (fun _ => c)) 0 0

theorem test_division_table :
    [onValues (.idiv h7 v0 (.v 1) v2) 7 0xFFFFFFFE 0, onValues (.irem h7 v0 (.v 1) v2) 7 0xFFFFFFFE 0,
      onValues (.idiv h7 v0 (.v 1) v2) 0xFFFFFFF9 2 0, onValues (.irem h7 v0 (.v 1) v2) 0xFFFFFFF9 2 0,
      onValues (.idiv h7 v0 (.v 1) v2) 0x80000000 0xFFFFFFFF 0, onValues (.irem h7 v0 (.v 1) v2) 0x80000000 0xFFFFFFFF 0,
      onValues (.idiv h7 v0 (.v 1) v2) 12 0 0, onValues (.irem h7 v0 (.v 1) v2) 0xFFFFFFFB 0 0,
      onValues (.idivu h7 v0 (.v 1) v2) 0xFFFFFFF9 2 0] =
    [some 0xFFFFFFFD, some 1, some 0xFFFFFFFD, some 0xFFFFFFFF, some 0x80000000, some 0, some 0xFFFFFFFF, some 0xFFFFFFFB,
      some 0x7FFFFFFC] := by decide +kernel
theorem test_bit_table :
    [onValues (.bgat h7 v0 (.v 1) v2 (.v 3)) 0x44332211 0x88776655 0x0F040700,
      onValues (.bgat h7 v0 (.v 1) v2 (.v 3)) 0x44332211 0x88776655 0x18001603,
      onValues (.ltab h7 v0 (.v 1) v2 (.v 3) 0xCA) 0xF0 0x0F 0xFF] = [some 0xFF558811, some 0xFF110044, some 0x0F] := by
  decide +kernel

/-- Lane exchanges of 10 times the lane number, with lane 11 out, read in lane `at_`. -/
def exchanges (i : Opnd → Opnd → Instr) (m at_ : Nat) : Option Nat :=
  laneAfter (i (.v 1) v2) (onWarp (withV (withV base 1 (fun l => 10 * l)) 2 (fun _ => m)) (fun x =>
    { x with sa := { x.sa with path := { x.sa.path with mask := 0xFFFFF7FF } } })) 0 at_

theorem test_exchange_table :
    [exchanges (fun a b => .lxchRup h7 2 true v0 a b) 2 0, exchanges (fun a b => .lxchRup h7 2 true v0 a b) 2 9,
      exchanges (fun a b => .lxchRup h7 2 false v0 a b) 2 9, exchanges (fun a b => .lxchXor h7 0 v0 a b) 1 5,
      exchanges (fun a b => .lxchSel h7 2 v0 a b) 3 10, exchanges (fun a b => .lxchSel h7 2 v0 a b) 3 12,
      exchanges (fun a b => .lxchRdn h7 0 true v0 a b) 1 31, exchanges (fun a b => .lxchRdn h7 0 false v0 a b) 1 31,
      exchanges (fun a _ => .lxchRev h7 3 v0 a) 0 5] =
    [some 0, some 90, some 150, some 40, some 100, some 120, some 310, some 0, some 60] := by decide +kernel

/-- The transaction count of R151's sequence: PEND, TX and PH after the engine's arrival and after `mbar.arvtx`. -/
theorem test_mbar_table :
    (let e1 := mbDone (mbAddTx (1 + 2 ^ 16 + 2 ^ 65) (-4096))
     let e2 := mbDone (mbArr (mbAddTx e1 4096))
     [(mbPend e1, mbTx e1, mbPh e1), (mbPend e2, mbTx e2, mbPh e2)]) = [(1, -4096, false), (1, 0, true)] := by decide +kernel

/-! ### Witnesses: states and operands that meet the hypotheses of the statements -/

/-- The hypotheses of `completesWith`, `completesWithPred` and `completesUnderSlot`. -/
def meets (r : Option Result) (s : State) : Bool :=
  match r with
  | some r => plain s c0 && regsOk ((r.d, r.k) :: r.srcs) (envOf s c0) && notPort r.d &&
      sourcesRead (readSrcs s (envOf s c0) (takers s c0 r.h.g) r.srcs (some r.d) (!r.h.w))
  | none => false
def meetsPred (r : Option PredResult) (s : State) : Bool :=
  match r with
  | some r => plain s c0 && regsOk r.srcs (envOf s c0) &&
      sourcesRead (readSrcs s (envOf s c0) (takers s c0 r.h.g) r.srcs none false)
  | none => false
def meetsSlot (r : Option SlotResult) (s : State) : Bool :=
  match r with
  | some r => plain s c0 && regsOk ((r.d, 1) :: r.srcs) (envOf s c0) && !fmIllegal (slotWord (envOf s c0).x r.f) &&
      r.legal (envOf s c0) && notPort r.d &&
      sourcesRead (readSrcs s (envOf s c0) (takers s c0 r.h.g) r.srcs (some r.d) (!r.h.w))
  | none => false

theorem witness_IntegerArithmetic :
    [Instr.iadd h7 v0 v2 s0, .isub h7 v0 v2 s0, .imin h7 .z v2 s0, .imax h7 v0 .lid s0, .iminu h7 v0 v2 s0,
      .imaxu h7 v0 v2 s0, .iabs h7 v0 v2, .ineg h7 v0 v2, .iaddsat h7 v0 v2 s0, .isubsat h7 v0 v2 s0, .imul h7 v0 v2 s0,
      .imulh hW v0 v2 s0, .imulhu ⟨gNo, false, none⟩ v0 v2 s0, .imad h7 (.v 7) v2 s0 v4, .imulw h7 (.v 6) v2 s0,
      .imulwu h7 .z v2 s0].all (fun i => meets (arithResult i) base) = true := by decide +kernel
theorem witness_Division :
    [Instr.idiv h7 v0 v2 .z, .idivu h7 .z v2 s0, .irem hW v0 v2 s0, .iremu h7 (.s 30) v2 (.b 0)].all
      (fun i => meets (divisionResult i) base) = true := by decide +kernel
theorem witness_LogicAndBitFields :
    [Instr.and h7 v0 v2 s0, .or h7 v0 v2 s0, .xor h7 v0 v2 s0, .andn h7 v0 v2 s0, .orn h7 v0 v2 s0, .not h7 v0 v2,
      .ltab h7 v0 v2 s0 v4 0, .shl h7 v0 v2 (.s 31), .shr h7 v0 v2 .z, .sar h7 v0 v2 (.s 31), .rotl h7 v0 v2 .z,
      .rotr h7 v0 v2 (.s 31), .popc h7 v0 v2, .clz h7 v0 .z, .ctz h7 v0 .z, .brev h7 v0 v2].all
      (fun i => meets (logicResult i) base) &&
    [Instr.bfe h7 v0 v2 .z, .bfes h7 v0 v2 (.s 31), .bfi h7 v0 v2 .z v4, .bgat h7 v0 v2 s0 v4].all
      (fun i => meets (fieldResult i) base) = true := by decide +kernel
theorem witness_WideMovesImmediates :
    [Instr.iadd2 h7 v0 v2 s0, .isub2 h7 v0 v2 s0, .shl2 h7 v0 v2 (.s 31), .shr2 h7 v0 v2 .z, .sar2 h7 v0 v2 s0,
      .padd h7 (.v 6) v2 (.s 30), .mov h7 v0 .lid, .mov2 h7 .z v2, .sel h7 v0 v2 s0 6, .movp h7 v0 7, .movi h7 v0 0,
      .iaddi h7 v0 v2 (BitVec.allOnes 32), .andi h7 v0 v2 0, .ori h7 v0 v2 0, .xori h7 v0 v2 0, .movi2 h7 true v0 0,
      .movi2 h7 false v0 (BitVec.allOnes 32)].all (fun i => meets (wideResult i) base) = true := by decide +kernel
theorem witness_LaneExchange :
    [Instr.lxchSel h7 0 v0 v2 s0, .lxchRdn h7 3 true v0 v2 (.s 31), .lxchRup h7 3 false v0 v2 .z, .lxchXor h7 2 v0 v2 s0,
      .lxchRev h7 1 v0 v2, .lmaskMask h7 v0 7, .lmaskCount h7 v0 0, .lredAdd h7 v0 v2, .lredMin ⟨gNo, false, none⟩ v0 v2,
      .lredMax h7 v0 v2, .lredMinu h7 v0 v2, .lredMaxu h7 v0 v2, .lredAnd ⟨gNo, false, none⟩ v0 v2, .lredOr h7 v0 v2,
      .lredXor h7 v0 v2].all (fun i => meets (laneResult i) base) = true := by decide +kernel
theorem witness_Predicates :
    [Instr.icmp h7 .eq false 0 v2 s0, .icmp h7 .geu true 6 v2 s0, .setp h7 7 v2, .pand h7 0 1 7, .por h7 0 1 7,
      .pxor h7 0 1 7, .pnot h7 0 1, .pandn h7 0 1 7, .lmaskSome h7 0 7, .lmaskEvery ⟨gNo, false, none⟩ 0 1,
      .lmaskSame h7 0 v2, .pchk h7 6].all (fun i => meetsPred (predResult i) base) = true := by decide +kernel
theorem witness_StateReads :
    (List.finRange 24).all (fun n => meets (stateResult (.rdsr h7 v0 n)) base) &&
    [Instr.getfs h7 7 v0, .getsr h7 (.v 6), .rdflag h7 .ff v0, .rdflag h7 .as v0, .qctlQstat h7 v0 0,
      .qctlQstat h7 v0 7].all (fun i => meets (stateResult i) base) = true := by decide +kernel
theorem witness_SlotArithmetic :
    [Instr.fadd h7 0 v0 v2 s0, .fsub h7 1 v0 v2 s0, .fmul h7 2 v0 v2 s0, .fmin h7 3 v0 v2 s0, .fmax h7 4 v0 v2 s0,
      .fabs h7 5 v0 v2, .fneg h7 6 v0 v2, .fsgn h7 7 v0 v2 s0, .ffma h7 0 v0 v2 s0 v4, .ffms h7 1 v0 v2 s0 v4,
      .fnma h7 2 v0 v2 s0 v4, .fnms h7 3 v0 v2 s0 v4, .fdiv h7 0 v0 v2 .z, .fsqrt h7 0 v0 v2, .frcp h7 0 v0 .z,
      .frsq h7 0 v0 .z, .fex2 h7 0 v0 v2, .flg2 h7 0 v0 v2, .fsin h7 0 v0 v2, .fcos h7 0 v0 v2, .ftanh h7 0 v0 v2,
      .fsigm h7 0 v0 v2, .fcvt h7 0 3 3 v0 v2, .fcvt h7 3 0 0 v0 v4, .fcvti h7 0 0 false false v0 v2, .fcvti h7 0 0 true true v0 v2,
      .ficvt h7 0 0 true v0 v2 v4, .fdot h7 0 v0 v2 s0 v4, .fsum h7 0 v0 v2 v4].all
      (fun i => meetsSlot (slotResult i) base) = true := by decide +kernel
theorem witness_SlotPredicates :
    [Instr.fcmp h7 0 .eq 0 0 v2 s0, .fcmp h7 3 .ord 1 6 v2 s0, .fclass h7 0 0 7 v2 .z].all (fun i =>
      match slotPredValue i with
      | some (h, f, k, _, a, b, _) =>
          plain base c0 && regsOk [(a, 1), (b, 1)] (envOf base c0) && !fmIllegal (slotWord (envOf base c0).x f) &&
          decide (k.val < fmN (slotWord (envOf base c0).x f)) &&
          sourcesRead (readSrcs base (envOf base c0) (takers base c0 h.g) [(a, 1), (b, 1)] none false)
      | none => false) = true := by decide +kernel

/-- A warp of 256 registers. -/
def wide : State := onWarp base (fun x => { x with regs := 256, v := (List.range 256).map (fun n => words (fun l => n + l)) })

theorem witness_Blocks :
    [Instr.qnt g7 false 3 0 (.v 208) v0 s0, .qntr g7 false 3 1 (.v 0) (.v 48) .z (.v 96), .qntr g7 true 3 2 (.v 0) (.v 0) .z (.v 0),
      .rqnt g7 false 3 0 (.v 0) (.v 8) s0, .dqnt g7 false 3 0 (.v 208) (.v 0)].all (fun i =>
      match blockForm i with
      | some r => plain wide c0 && blockLegal r (envOf wide c0) &&
          sourcesRead (readSrcs wide (envOf wide c0) (takers wide c0 r.g)
            (match r.b with | some b => [(b, 1)] | none => []) none false)
      | none => false) = true := by decide +kernel

/-- Predicate p0 of the low sixteen lanes, and its guard; a code address per lane in v0:v1. -/
def half : Guard := ⟨0, false⟩
def withP0 (s : State) : State := onWarp s (fun x => { x with p := x.p.set 0 0xFFFF })
def codePtr (i : Nat) : Nat := 5 * 2 ^ 42 + i
def withPtr (s : State) (f : Nat → Nat) : State :=
  withV (withV s 0 (fun l => f l % 2 ^ 32)) 1 (fun l => f l / 2 ^ 32)
def onSlotA (s : State) (f : Slot → Slot) : State := onWarp s (fun x => { x with sa := f x.sa })
def withPath (s : State) (f : Path → Path) : State := onSlotA s (fun sl => { sl with path := f sl.path })
def withPc (s : State) (pc : Nat) : State := withPath s (fun p => { p with pc := BitVec.ofNat 64 pc })
/-- A control register of the context. -/
def withCsr (s : State) (n v : Nat) : State := onCtx s (fun x => setCsr x n v)

theorem witness_StatusWrites :
    [Instr.setfs g7 7 s0, .srseed g7 (.s 30), .clrflag g7 .ff s0, .clrflag g7 .qs s0, .clrflag g7 .as s0].all (fun i =>
      match statusUpdate i with
      | some (g, a, k, u) => ready (withS base 0 (fmDefault.getD 5 0).toNat) c0 g [] [(a, k)] none false
          (fun _ v => (u (v 0)).isSome)
      | none => false) &&
    ready (withS base 0 (2 ^ 32 - 1)) c0 g7 [] [(s0, 1)] none false (fun _ v => fmIllegal (BitVec.ofNat 32 (v 0))) = true := by
  decide +kernel

theorem witness_HintsAndProfiling :
    [Instr.nop g7, .pref g7 ⟨false, .dev, .rlx, 0, 0, .z, v0⟩, .fence g7 .dev .ar false].all (fun i =>
      match hintForm i with
      | some (_, srcs) => plain base c0 && regsOk srcs (envOf base c0)
      | none => false) &&
    plain base c0 && takers base c0 gNo == 0 && takers base c0 g7 != 0 &&
    ready base c0 g7 [] [(s0, 1)] none false (fun s _ => bits (csrN ((ctxGet s 0).getD Ctx.fresh) 0x062) 8 1 == 0) &&
    !sourcesRead (readSrcs base (envOf base c0) (takers base c0 g7) [(.q 0, 1)] none false) &&
    [(0, 0), (2 ^ 32 - 1, 2 ^ 32 - 4)].all (fun w => ready (withCsr (withCsr (withCsr base 0x062 0x102) 0x063 w.1) 0x064 w.2)
      c0 g7 [] [(s0, 1)] none false (fun s _ => match ctxGet s 0 with
        | some x => bits (csrN x 0x062) 8 1 == 1 && (csrN x 0x063 + 2 ^ 32 - csrN x 0x064) % 2 ^ 32 != 2 ^ bits (csrN x 0x062) 0 5
        | none => false)) &&
    ready (withCsr (withCsr base 0x062 0x102) 0x063 4) c0 g7 [] [(s0, 1)] none false (fun s _ => match ctxGet s 0 with
        | some x => bits (csrN x 0x062) 8 1 == 1 && (csrN x 0x063 + 2 ^ 32 - csrN x 0x064) % 2 ^ 32 == 2 ^ bits (csrN x 0x062) 0 5
        | none => false) = true := by decide +kernel

/-- The four clauses about a direct branch by `tgt` instructions. -/
def branches (s : State) (i : Instr) : List Bool :=
  match branchForm i with
  | none => []
  | some (g, u, _, tgt, k) =>
    let e := envOf s c0
    let m := takers s c0 g
    let ix := indexFrom e.pc (sx 24 tgt.toNat)
    let ok := decide (0 ≤ ix ∧ ix < 2 ^ 42)
    let all := issuing s c0 && regsOk (linkSrc k) e
    [all && m == 0 && plain s c0, all && m != 0 && !ok, all && m == e.mask && ok && goesTo (warpAt s 0) .a (placeOf e.pc ix),
      all && m != 0 && m != e.mask && ok && u && (lowest e.mask).isSome]

theorem witness_Branches :
    decide ([branches base (.bra gNo false 0 4), branches base (.bra g7 false 0 (BitVec.ofInt 24 (-11))),
      branches base (.call g7 true 0 (BitVec.ofInt 24 (-10)) (.v 6)), branches (withP0 base) (.bra half true 0 4),
      branches (withPc base (codePtr (2 ^ 42 - 16))) (.bra g7 false 0 2),
      branches (withPc base (codePtr (2 ^ 42 - 16))) (.bra g7 false 0 1)] =
    [[true, false, false, false], [false, true, false, false], [false, false, true, false], [false, false, false, true],
      [false, true, false, false], [false, false, true, false]]) &&
    -- Lanes of a handler that differ.
    (let s := withP0 (supervisor base)
     let m := takers s hc half
     issuing s hc && regsOk (linkSrc none) (envOf s hc) && m != 0 && m != (envOf s hc).mask &&
     decide (0 ≤ indexFrom (envOf s hc).pc 32 ∧ indexFrom (envOf s hc).pc 32 < 2 ^ 42)) = true := by decide +kernel

/-- A split under a guard, with a spilled path's JOIN entry at depth `d` where d is not 0. -/
def splits (s : State) (i : Instr) : Bool :=
  match branchForm i with
  | none => false
  | some (g, u, rj, tgt, k) =>
    let e := envOf s c0
    let m := takers s c0 g
    let n := e.mask &&& ~~~m
    let ix := indexFrom e.pc (sx 24 tgt.toNat)
    let rx := indexFrom e.pc (sx 17 rj.toNat)
    let y := splitOnto (warpAt (linked s c0 k m) 0) .a m n (placeOf e.pc ix) (if rj = 0 then none else some (placeOf e.pc rx))
    issuing s c0 && !u && regsOk (linkSrc k) e && m != 0 && n != 0 && decide (0 ≤ ix ∧ ix < 2 ^ 42) &&
    (rj == 0 || decide (0 ≤ rx ∧ rx < 2 ^ 42)) && e.sl.live && decide (e.sl.path.depth ≤ 4) && decide (y.ssn ≤ 4) &&
    !arrives y.sa && !arrives y.sb

/-- `base` with one JOIN entry of `n` children under path A, which rejoins at the next instruction. -/
def joining (n : Nat) (at_ : Nat) : State :=
  onWarp (withPath (withP0 base) (fun p => { p with rjpc := BitVec.ofNat 64 (codePtr at_), depth := 1 })) (fun x =>
    { x with ssn := 1, ents := x.ents.set 0 (entMake 2 n ⟨BitVec.ofNat 64 (codePtr at_), 0xFFFFFFFF, noRejoin, 0⟩) })

/-- `base` with lanes 16 and up in slot B, 800 bytes on. -/
def both : State :=
  onWarp (withPath base (fun p => { p with mask := 0xFFFF })) (fun x =>
    { x with sb := Slot.ofPath { pc := BitVec.ofNat 64 (codePtr 880), mask := 0xFFFF0000, rjpc := noRejoin, depth := 0 } })

/-- `base` with lanes 0, 1 and 31 only. -/
def few : State := withPath base (fun p => { p with mask := 0x80000003 })

/-- `few` with object 2 of 3,000 32-bit elements in frame 5 of this device, its record cached, and lane l of v0:v1
pointing at element `f l`; and the same with elements of `ew` bits. -/
def objOf (ew : Nat) : State :=
  { few with
    mem := memPutNat [] bootTable 8 (2 ^ 16 * 5 + 2 ^ 61 + 2 ^ 63)
    caches := { orc := [⟨0, 2, ([1 + 2 ^ 3 * 0x7F, ew + 2 ^ 7 + 2 ^ 11 * 3, 3000, 0, 3000] ++ List.replicate 41 0 ++
      [bootTable, 0, 0, 0] ++ List.replicate 14 0).map (BitVec.ofNat 32)⟩], res := [], ilines := [] } }
def dataPtr (i : Nat) : Nat := 2 * 2 ^ 42 + i
/-- `objOf` with lanes 0 and 1 under p0, n entries on its split stack, path A at depth `d`; entry 4, in the private object
2 at byte 0, is `en`. -/
def deep (en : BitVec 256) (n d : Nat) : State :=
  let s := withP0 (objOf 32)
  { onCrew (onWarp (withPath s (fun p => { p with depth := d, rjpc := BitVec.ofNat 64 (codePtr 88) }))
      (fun x => { x with ssn := n })) (fun cr => { cr with region := some 0 }) with
    mem := memPutNat s.mem (5 * 65536) 32 en.toNat
    launches := [{ launch0 with record := (launch0.record.set 50 32).set 69 8 }] }
def far (n : Nat) : BitVec 256 := entMake 2 n ⟨BitVec.ofNat 64 (codePtr 160), 0x80000003, noRejoin, 0⟩
def okB {α β : Type} (x : Except α β) : Bool := match x with | .ok _ => true | .error _ => false
def entIs (x : Except Unsettled (BitVec 256)) (p : BitVec 256 → Bool) : Bool := match x with | .ok e => p e | .error _ => false

/-- What the clauses about a split that traps, or that lies in memory, have in common. -/
def splitting (s : State) (rj : BitVec 17) : Bool :=
  let e := envOf s c0
  let m := takers s c0 half
  issuing s c0 && m != 0 && (e.mask &&& ~~~m) != 0 && decide (indexFrom e.pc 32 < 2 ^ 42) &&
  (rj == 0 || decide (0 ≤ indexFrom e.pc (sx 17 rj.toNat) ∧ indexFrom e.pc (sx 17 rj.toNat) < 2 ^ 42))

theorem witness_Divergence :
    splits (withP0 base) (.bra half false 0 4) && splits (withP0 base) (.bra half false (BitVec.ofInt 17 (-10)) 4) &&
    splits (withP0 base) (.call half false 4 (BitVec.ofInt 24 (-10)) v2) && splits (joining 2 160) (.bra half false 0 4) &&
    splits (withP0 (onWarp both (fun x => { x with sa := { x.sa with path := { x.sa.path with mask := 0xFFFFFF } } })))
      (.bra half false 9 4) &&
    -- A rejoin address outside the object; a stack without room, then a spilled entry: malformed, and taken.
    (let s := withP0 (withPc base (codePtr (2 ^ 42 - 16)))
     issuing s c0 && takers s c0 half != 0 && !decide (indexFrom (envOf s c0).pc 40 < 2 ^ 42)) &&
    (let s := onWarp (withP0 base) (fun x => { x with ssn := 4 }); splitting s 1 && !(warpAt s 0).sb.live) &&
    (let s := deep 0 5 5
     splitting s 0 && decide ((envOf s c0).x.ssn + 0 ≤ 5) && entIs (entRead s [] 0 4) entMalformed) &&
    (let s := deep 0 4 0
     splitting s 9 && !(warpAt s 0).sb.live && (envOf s c0).sl.live && okB (entPut s [] 0 4 (far 2))) &&
    (let s := deep (far 2) 5 5
     let ag := entAgent s 0 []
     match recordOf s ag 2 0 with
     | .error _ => false
     | .ok r => decide (256 ≤ storageBound r) && (crewOf s 0).region == some 0 &&
       [false, true].all (fun wr => match findAll s ag ⟨r, 2, 0, 0, 256⟩ wr with
        | ⟨none, [], ps⟩ => soundHere s ps
        | _ => false)) = true := by decide +kernel

/-- The clauses about an indirect transfer. -/
def indirect (s : State) (i : Instr) : List Bool :=
  match indirectForm i with
  | none => []
  | some (g, a, d) =>
    let e := envOf s c0
    let m := takers s c0 g
    let same := (lanesOf e.mask).all (fun l => laneTarget s c0 m a l == laneTarget s c0 m a 0)
    let t := laneTarget s c0 m a 0
    let all := issuing s c0 && regsOk ((a, 2) :: linkSrc (d.map Prod.snd)) e && lowest e.mask == some 0
    [all && m == 0 && plain s c0, all && m != 0 && same && t.toNat % 8 == 0 && goesTo (warpAt s 0) .a t,
      all && m != 0 && same && t.toNat % 8 != 0, all && !same]

theorem witness_IndirectTransfers :
    [indirect base (.brx gNo v0), indirect (withPtr base (fun _ => codePtr 0)) (.brx g7 v0),
      indirect (withPtr base (fun _ => codePtr (2 ^ 42 - 8))) (.callx h7 (.v 6) v0),
      indirect (withPtr base (fun _ => codePtr 87)) (.ret g7 v0), indirect (withPtr base (fun l => codePtr (8 * l))) (.brx g7 v0)] =
    [[true, false, false, false], [false, true, false, false], [false, true, false, false], [false, false, true, false],
      [false, false, false, true]] := by decide +kernel

theorem witness_Exit :
    (issuing (supervisor base) hc && hc.which == .handler) &&
    (issuing base c0 && takers base c0 gNo == 0 && plain base c0) &&
    (let s := withP0 base; issuing s c0 && takers s c0 half != 0 && takers s c0 half != (envOf s c0).mask && plain s c0) &&
    (let e := envOf base c0
     issuing base c0 && takers base c0 g7 == e.mask && e.mask != 0 && e.sl.live && e.sl.park.isNone && e.sl.path.depth == 0 &&
     !(warpAt base 0).sb.live && (warpAt base 0).ssn == 0 && bits e.pc.toNat 0 42 != 2 ^ 42 - 8) = true := by decide +kernel

/-- The clauses about a path that reaches its rejoin address. -/
def joins (s : State) : List Bool :=
  let e := envOf s c0
  let x := warpAt s 0
  let d := e.sl.path.depth
  let en := x.ents.getD (d - 1) 0
  let all := issuing s c0 && e.sl.live && e.sl.park.isNone && nextPc e.pc == e.sl.path.rjpc && e.sl.path.rjpc != noRejoin &&
    bits e.pc.toNat 0 42 != 2 ^ 42 - 8 && decide (1 ≤ d) && decide (d ≤ 4) && d == x.ssn && entKind en == 2 && !arrives x.sb
  [all && decide (1 < entCnt en), all && decide (entCnt en ≤ 1) &&
    !arrives (Slot.ofPath { entPath en with mask := entMask en &&& x.alive }) && (x.sb.live || d == 1)]

theorem witness_Reconvergence :
    [joins (joining 2 88), joins (joining 1 88)] = [[true, false], [false, true]] := by decide +kernel
/-- The same arrivals by a branch to instruction 20, and by the resumption of a path parked at its rejoin address. -/
theorem witness_Reconvergence_otherwise :
    [2, 1].all (fun n =>
      let s := joining n 160
      let ix := indexFrom (pcOf s c0) (sx 24 (10 : BitVec 24).toNat)
      let x := warpAt s 0
      let sl := { x.sa with park := some (.bar 0 false), path := { x.sa.path with pc := x.sa.path.rjpc } }
      takers s c0 g7 == (envOf s c0).mask && takers s c0 g7 != 0 && decide (0 ≤ ix ∧ ix < 2 ^ 42) &&
      placeOf (pcOf s c0) ix == x.sa.path.rjpc && x.sa.path.rjpc != noRejoin && x.sa.path.depth == x.ssn && x.ssn == 1 &&
      entKind (x.ents.getD 0 0) == 2 && entCnt (x.ents.getD 0 0) == n && !arrives x.sb &&
      sl.live && sl.path.pc == sl.path.rjpc &&
      !arrives (Slot.ofPath { entPath (x.ents.getD 0 0) with mask := entMask (x.ents.getD 0 0) &&& x.alive })) = true := by
  decide +kernel
/-- Entry 4 of the stack, in memory: malformed, with two children, and with one beside a path in slot B. -/
theorem witness_Reconvergence_far :
    [(0, 0), (2, 1), (1, 2)].all (fun q => let s := deep (if q.1 = 0 then 0 else far q.1) 5 5
     let s := if q.2 = 2 then onWarp s (fun x => { x with sb := Slot.ofPath ⟨BitVec.ofNat 64 (codePtr 880), 4, noRejoin, 0⟩ }) else s
     let e := envOf s c0
     issuing s c0 && e.sl.live && e.sl.park.isNone && nextPc e.pc == e.sl.path.rjpc && e.sl.path.rjpc != noRejoin &&
     e.sl.path.depth == 5 && (warpAt s 0).ssn == 5 && !arrives (warpAt s 0).sb && entIs (entRead s [] 0 4) (fun en => match q.2 with
      | 0 => entMalformed en
      | 1 => !entMalformed en && decide (1 < entCnt en) &&
          (match entPut (setSlot s 0 .a Slot.free) [] 0 4 (entMake 2 (entCnt en - 1) (entPath en)) with
          | .ok t => entIs (entRead t [] 0 4) (fun left => entKind left == 2)
          | .error _ => false)
      | _ => !entMalformed en && decide (entCnt en ≤ 1) && (warpAt s 0).sb.live &&
          !arrives (Slot.ofPath { entPath en with mask := entMask en &&& (warpAt s 0).alive }))) = true := by decide +kernel
theorem witness_SoftwareTraps :
    issuing base c0 && takers base c0 g7 != 0 && bits (dbgctl base 0) 0 1 == 0 && takers base c0 gNo == 0 && plain base c0 &&
    (let s := withCsr base 0x050 1
     issuing s c0 && takers s c0 g7 != 0 && bits (dbgctl s 0) 0 1 == 1 && bits (dbgctl s 0) 2 2 == 0 && plain s c0) = true := by
  decide +kernel
theorem witness_TrapRecords :
    (warpAt (supervisor base) 0).mode = .supervisor ∧ (warpAt base 0).mode = .user ∧ (warpAt base 0).gone = false ∧
    pathsDone (warpAt base 0) = false ∧
    (warpAt (onWarp base (fun x => { x with tq := List.replicate 7 ⟨0, 0⟩ })) 0).tq.length < 8 := by decide +kernel
theorem witness_PrivilegedInstructions :
    [Instr.csrr h7 v0 0x040, .csrw g7 0x040 s0, .csrs h7 v0 0x00C s0, .csrc h7 v0 0x00C s0, .tretRes gNo, .tretLanes g7,
      .tretWarp g7, .tretCrew g7, .tretLaunch g7, .tqpop g7 v0, .orinvObj g7 v0, .orinvSub g7 v0, .orinvAll g7,
      .promPin h7 v0 v2 s0].all (fun i => match privileged base i with
      | some ok => issuing base c0 && decide ((envOf base c0).x.mode = .user) && ok (envOf base c0)
      | none => false) = true := by decide +kernel

/-- The clauses about a trap return, for a current record `t` and a path k that it names. -/
def returns (s : State) (k : Which) : List Bool :=
  let x := warpAt s 0
  let pc : DWord := BitVec.ofNat 64 (x.tpc.toNat / 8 * 8)
  let all := issuing s hc && decide (x.mode = .supervisor) && takers s hc g7 != 0
  match x.cur with
  | none => [all, false, false, false]
  | some t =>
    let h := x.hdl.path.mask
    let y := { x with alive := x.alive &&& ~~~h, sa := cutSlot x.sa h, sb := cutSlot x.sb h }
    let z := withSlot y k (resumedSlot (slotOf y k) pc (trCause t.bits))
    let named := decide (k = (if trSlotB t.bits then Which.b else Which.a))
    [all, all && trAsync t.bits, all && !trAsync t.bits && named && goesTo x k pc,
      all && !trAsync t.bits && named && x.ssn == 0 && !arrives z.sa && !arrives z.sb]

/-- A handler on the record of a trap in slot A or B; `asy` makes the record asynchronous. -/
def handling (s : State) (b asy : Bool) : State :=
  onWarp (supervisor s) (fun x => { x with
    cur := some ⟨trapRecord 0x14 b asy 0 1 (BitVec.ofNat 64 (codePtr 80)) 0 0, 0⟩, tpc := BitVec.ofNat 64 (codePtr 95)
    hdl := { x.hdl with path := { x.hdl.path with mask := 1 } } })

theorem witness_TrapReturns :
    [returns (supervisor base) .a, returns (handling base false true) .a, returns (handling base false false) .a,
      returns (handling both true false) .b] =
    [[true, false, false, false], [true, true, false, false], [true, false, true, true], [true, false, true, true]] := by
  decide +kernel
theorem witness_TrapQueuePop :
    [(0, false), (1, true), (8, true)].all (fun n =>
      let s := onWarp (supervisor base) (fun x => { x with tq := List.replicate n.1 ⟨trapRecord 0x0D false n.2 0 1 0 0 0, 0⟩ })
      ready s hc g7 [(v0, 1)] [] (some v0) true (fun s _ => decide ((warpAt s 0).mode = .supervisor) && notPort v0)) &&
    ready (supervisor base) hc g7 [(v0, 1)] [] (some v0) true (fun s _ => (warpAt s 0).tq == []) = true := by decide +kernel

theorem witness_ControlRegisters :
    [(0x001 : BitVec 9), 0x008, 0x040, 0x0BA].all (fun n => csrOk n.toNat &&
      ready (supervisor base) hc g7 [(v0, 1)] [] (some v0) true (fun s _ => decide ((envOf s hc).x.mode = .supervisor))) &&
    [(0x046 : BitVec 9), 0x074].all (fun n => csrOk n.toNat &&
      ready base c0 g7 [(v0, 1)] [] (some v0) true (fun _ _ => (csrInfo n.toNat).elim false (·.user))) &&
    [Instr.csrw g7 0x008 s0, .csrw g7 0x009 s0, .csrs h7 v0 0x00A s0, .csrc hW .z 0x00F s0].all (fun i => match csrForm i with
      | some (g, d, n, a, f) => csrOk n.toNat && !csrReadOnly n.toNat &&
          ready (supervisor base) hc g (csrDst d) [(a, 1)] (d.map Prod.snd) (csrPush d) (fun s v =>
            (ownRegister (warpAt s 0) n.toNat (f (csrRead s 0 n.toNat) (v 0))).isSome)
      | none => false) &&
    [Instr.csrw g7 0x040 s0, .csrs h7 v0 0x074 (.s 1), .csrw g7 0x09C (.s 1), .csrw g7 0x0BA (.s 31), .csrw g7 0x0AC s0].all
      (fun i => match csrForm i with
      | some (g, d, n, a, f) => csrOk n.toNat && !csrReadOnly n.toNat &&
          ready (supervisor base) hc g (csrDst d) [(a, 1)] (d.map Prod.snd) (csrPush d) (fun s v => match ctxGet s 0 with
            | some x => decide (0x040 ≤ n.toNat) &&
                (contextRegister s 0 x n.toNat (f (csrRead s 0 n.toNat) (v 0)) 0).isSome
            | none => false)
      | none => false) &&
    (let s := supervisor (onCtx base (fun x => { x with rlCmd := some (0, 0, 0, 0) }))
     csrOk 0x09C && !csrReadOnly 0x09C && ready s hc g7 [] [(.s 1, 1)] none false (fun s v =>
       csrStored 0x09C 0 (v 0) == 1 && (ctxGet s 0).any (fun x => x.rlCmd.isSome))) &&
    [0x001, 0x073].all (fun n => csrOk n && csrReadOnly n) = true := by decide +kernel

/-- Lane 11 ended in another path; a pre-emption request on the crew. -/
def asked : State := onCrew base (fun cr => { cr with req := some 0 })

theorem witness_Yields :
    plain base c0 && takers base c0 gNo == 0 && takers base c0 g7 != 0 && (warpAt base 0).ssn == 0 &&
    (let s := onWarp base (fun x => { x with ssn := 1 })
     plain s c0 && takers s c0 g7 != 0 && entIs (entRead s [] 0 0) entMalformed) &&
    (let s := joining 2 160; plain s c0 && takers s c0 g7 != 0 && (warpAt s 0).ssn == 1 && entKind ((warpAt s 0).ents.getD 0 0) != 1) &&
    (let s := onWarp both (fun x => { x with ssn := 1, ents := x.ents.set 0 (entMake 1 0 x.sb.path), sb := x.sb })
     plain s c0 && takers s c0 g7 != 0 && (warpAt s 0).ssn == 1 && entKind ((warpAt s 0).ents.getD 0 0) == 1 &&
     !arrives (Slot.ofPath (entPath ((warpAt s 0).ents.getD 0 0)))) &&
    [(base, true, true), (asked, false, true), (both, true, false)].all (fun k =>
      let e := envOf k.1 c0
      plain k.1 c0 && takers k.1 c0 g7 != 0 && decide (e.x.mode = .user) && (e.cr.req == none) == k.2.1 &&
      (e.x.alive &&& ~~~e.mask == 0) == k.2.2) &&
    (let s := supervisor base; plain s hc && decide ((envOf s hc).x.mode = .supervisor)) = true := by decide +kernel

def obj32 : State := withPtr (objOf 32) (fun l => dataPtr (16 * l))
def mop : MemOp := ⟨false, .dev, .rlx, 0, 0, .z, v0⟩
def aop : AtomOp := ⟨.dev, .rlx, 0, .z, v0⟩
def lanesAll (m : Mask) (f : Nat → Bool) : Bool := (lanesOf m).all f

def loads (s : State) (i : Instr) : Bool :=
  match loadShape i with
  | none => false
  | some r => plain s c0 && regsOk ((r.d, r.k) :: globalSrcs r.m.b r.m.a) (envOf s c0) && notPort r.d &&
      lanesAll (takers s c0 r.h.g) (fun l => match located s c0 r.m r.n ⟨some .r, false, r.n.isSome⟩ true false l with
        | some fs => allHere fs && !anyPoison s fs
        | none => false)
def stores (s : State) (i : Instr) : Bool :=
  match storeShape i with
  | none => false
  | some (g, mo, d, k, n) => plain s c0 && regsOk ((d, k) :: globalSrcs mo.b mo.a) (envOf s c0) && s.fab.dir == [] &&
      s.fab.waits.isEmpty && lanesAll (takers s c0 g) (fun l =>
        match located s c0 mo n ⟨some .w, true, n.isSome⟩ false true l with
        | some fs => allHere fs && fs.all (fun p => !inEntry p.1 100 && p.2.pieces.all (fun q => !inPiece q 100))
        | none => false) && !inDirtyRing s 0 100

def allLoads : List Instr :=
  [.ld8 h7 mop v4, .ld8s h7 mop v4, .ld16 h7 mop v4, .ld16s h7 mop v4, .ld32 h7 mop v4, .ld64 h7 mop v4, .ld128 h7 mop v4,
    .ldp h7 mop v4]
def allStores : List Instr :=
  [.st8 g7 mop v4, .st16 g7 mop v4, .st32 g7 mop v4, .st64 g7 mop v4, .st128 g7 mop v4, .stp g7 mop v4]

theorem witness_GlobalLoads :
    allLoads.all (loads obj32) && loads (withPtr (objOf 32) (fun l => dataPtr (2968 + l))) (.ld32 h7 mop .z) = true := by
  decide +kernel
theorem witness_GlobalStores_StoreFrame :
    allStores.all (stores obj32) && stores (withPtr (objOf 32) (fun l => dataPtr (2968 + l))) (.st32 g7 mop (.s 31)) &&
    (match exec (.st32 g7 mop v4) obj32 with | .next _ => true | _ => false) = true := by decide +kernel
/-- Lane 1 fails a check; lane 0 passes. -/
theorem witness_AccessTraps :
    (allLoads ++ allStores).all (fun i =>
      let q : Option (Guard × MemOp × Opnd × Nat × Option Nat × Bool) := match loadShape i, storeShape i with
        | some r, _ => some (r.h.g, r.m, r.d, r.k, r.n, true)
        | none, some (g, mo, d, k, n) => some (g, mo, d, k, n, false)
        | none, none => none
      match q with
      | none => false
      | some (g, mo, d, k, n, rd) =>
        let s := withPtr (objOf 32) (fun l => dataPtr (if l = 1 then 3000 else 0))
        let e := envOf s c0
        let nd : Need := ⟨some (if rd then .r else .w), !rd, n.isSome⟩
        let idx := globalIndex e.x mo.b mo.a mo.sc.toNat (sx 16 mo.off.toNat)
        let steps := fun l => laneSteps s e (idx l).1 rd (!rd) (match n with
          | some w => planFixed s e idx w nd l
          | none => planPacked s e idx nd l)
        issuing s c0 && regsOk ((d, k) :: globalSrcs mo.b mo.a) e && (takers s c0 g).getLsbD 1 &&
        (match steps 1, steps 0 with | .error (f, _), .ok _ => f.cause != 0x15 | _, _ => false)) = true := by decide +kernel

/-- A base and an offset of scratchpad address. -/
def smop : MemOp := ⟨false, .dev, .rlx, 0, 0, .z, v0⟩
def fits (s : State) (m : Mask) (at_ : Nat → Int) (k : Nat) : Bool :=
  lanesAll m (fun l => decide (0 ≤ at_ l ∧ at_ l + (4 * k : Nat) ≤ ((crewOf s 0).scrLen : Nat) ∧ at_ l % (4 * k : Int) = 0))

theorem witness_ScratchpadAccesses :
    [0, 4096 - 32 * 16].all (fun b =>
      let s := withV few 0 (fun l => b + 16 * l)
      [Instr.lds32 h7 smop v4, .lds64 h7 smop v4, .lds128 h7 smop v4].all (fun i => match ldsShape i with
        | some (h, mo, d, k) => plain s c0 && regsOk ((d, k) :: scratchSrcs mo.b mo.a) (envOf s c0) && notPort d &&
            fits s (takers s c0 h.g) (scratchAt s c0 mo.b mo.a mo.sc (sx 16 mo.off.toNat)) k
        | none => false) &&
      [Instr.sts32 g7 smop v4, .sts64 g7 smop v4, .sts128 g7 smop v4].all (fun i => match stsShape i with
        | some (g, mo, d, k) => plain s c0 && regsOk ((d, k) :: scratchSrcs mo.b mo.a) (envOf s c0) &&
            fits s (takers s c0 g) (scratchAt s c0 mo.b mo.a mo.sc (sx 16 mo.off.toNat)) k
        | none => false)) = true := by decide +kernel
theorem witness_ScratchpadAtomics :
    (let s := withV few 0 (fun l => 4096 - 32 * 8 + 8 * l)
     [Instr.atomsAdd h7 aop true v4 v2, .atomsSub h7 aop false v4 v2, .atomsMin h7 aop false v4 v2, .atomsMax h7 aop true v4 v2,
       .atomsMinu h7 aop false v4 v2, .atomsMaxu h7 aop false v4 v2, .atomsAnd h7 aop false v4 v2, .atomsOr h7 aop false v4 v2,
       .atomsXor h7 aop true v4 v2, .atomsXchg h7 aop false v4 v2, .atomsCas h7 aop true v4 v2, .atomsFadd h7 aop 0 v4 v2,
       .atomsFmin h7 aop 3 v4 v2, .atomsFmax h7 aop 5 v4 v2].all (fun i => match atomsShape i with
      | none => false
      | some r =>
        let e := envOf s c0
        let m := takers s c0 r.h.g
        plain s c0 && regsOk ((r.d, r.k) :: (r.c, r.k) :: scratchSrcs r.m.b r.m.a) e && r.legal e.x && notPort r.d &&
        fits s m (scratchAt s c0 r.m.b r.m.a r.m.sc 0) r.k &&
        sourcesRead (readSrcs s e m (if r.swap then [(r.c, r.k), (r.d, r.k)] else [(r.c, r.k)]) (some r.d) (!r.h.w)))) =
      true := by decide +kernel
theorem witness_GlobalAtomics :
    [Instr.atomAdd h7 aop true v4 v2, .atomSub h7 aop false v4 v2, .atomMin h7 aop false v4 v2, .atomMax h7 aop true v4 v2,
      .atomMinu h7 aop false v4 v2, .atomMaxu h7 aop false v4 v2, .atomAnd h7 aop false v4 v2, .atomOr h7 aop false v4 v2,
      .atomXor h7 aop true v4 v2, .atomXchg h7 aop false v4 v2, .atomCas h7 aop true v4 v2, .atomFadd h7 aop 0 v4 v2,
      .atomFmin h7 aop 3 v4 v2, .atomFmax h7 aop 5 v4 v2].all (fun i => match atomShape i with
      | none => false
      | some r =>
        let s := obj32
        let e := envOf s c0
        plain s c0 && regsOk ((r.d, r.k) :: (r.c, r.k) :: globalSrcs r.m.b r.m.a) e && r.legal e.x && notPort r.d &&
        s.fab.dir == [] && s.fab.waits.isEmpty &&
        (match ctxGet s 0 with | some k => bits (csrN k 0x074) 0 2 == 0 | none => true) &&
        lanesAll (takers s c0 r.h.g) (fun l => match atomLocated s c0 r l with
          | some p => allHere [p] && !anyPoison s [p] && p.2.pieces.all (fun q => match q.place with
            | .phys b => aclOk s.plat (envAgent s e).master (b / 8) 2
            | _ => true)
          | none => false)) = true := by decide +kernel

/-- The warp value of v0:v1 is an address of object 2, and s6 a count of elements. -/
def counted (n : Nat) : State := withS (withPtr (objOf 32) (fun _ => dataPtr 0)) 6 n

theorem witness_RowPromotion :
    [0, 3000].all (fun n => [Instr.prom h7 v4 v0 (.s 6), .dem h7 v4 v0 (.s 6)].all (fun i => match rowForm i with
      | some (h, d, a, b, _) => ready (counted n) c0 h.g [(d, 1)] [(a, 2), (b, 1)] (some d) true (fun s v =>
          match checkRange s (envOf (counted n) c0) (takers (counted n) c0 h.g) (v 0) (v 1) with
          | .ok _ => true
          | .error _ => false)
      | none => false)) &&
    (let s0 := withCsr (counted 1) 0x046 1
     ready s0 c0 g7 [(v4, 1)] [(v0, 2), (.s 6, 1)] (some v4) true (fun s v =>
       (match ctxGet s 0 with | some x => bits (csrN x 0x046) 0 1 == 1 | none => false) &&
       (match checkRange s (envOf s0 c0) (takers s0 c0 g7) (v 0) (v 1) with | .ok _ => true | .error _ => false))) &&
    ready (supervisor (counted 3000)) hc g7 [(v4, 1)] [(v0, 2), (.s 6, 1)] (some v4) true (fun s v =>
      decide ((warpAt s 0).mode = .supervisor) && (match checkRange s (envOf (supervisor (counted 3000)) hc)
        (takers (supervisor (counted 3000)) hc g7) (v 0) (v 1) with | .ok _ => true | .error _ => false)) = true := by
  decide +kernel
theorem witness_ObjectQueries :
    [0, 63].all (fun n => ready (counted n) c0 g7 [(v4, 1)] [(v0, 2), (.s 6, 1)] (some v4) true (fun s v =>
      recV (objqWords s (envOf (counted n) c0) (bits (v 0) 42 22)) && decide (v 1 ≤ 63) &&
      !recordSoft s 0 (bits (v 0) 42 22))) &&
    ready (counted 0) c0 g7 [(v4, 2)] [(v0, 2)] (some v4) true (fun s v =>
      let ag := warpAgent s 0
      let obj := bits (v 0) 42 22
      match recordOf s ag obj (bits (v 0) 0 42) with
      | .error _ => false
      | .ok r => match checkShape s ag obj (bits (v 0) 0 42 : Nat) (recEW r) ⟨none, false, false⟩ with
        | .error _ => false
        | .ok loc => obj != Config.argObject && recRtab r != 0 &&
            !entrySoft s 0 obj r (loc.a / 2 ^ 19) (replicaOf r (some 0)) &&
            (entryOf s 0 obj r (loc.a / 2 ^ 19) (replicaOf r (some 0))).isSome) &&
    (let s0 := withPtr (objOf 32) (fun _ => Config.argObject * 2 ^ 42)
     let s1 := { s0 with launches := [{ launch0 with args := List.replicate 64 0 }] }
     ready s1 c0 g7 [(v4, 2)] [(v0, 2)] (some v4) true (fun s v => match recordOf s (warpAgent s 0) (bits (v 0) 42 22) 0 with
       | .error _ => false
       | .ok r => match checkShape s (warpAgent s 0) (bits (v 0) 42 22) 0 (recEW r) ⟨none, false, false⟩ with
         | .error _ => false
         | .ok _ => bits (v 0) 42 22 == Config.argObject)) = true := by decide +kernel
theorem witness_CacheMaintenance :
    [0, 3000].all (fun n => ready (counted n) c0 g7 [] [(v0, 2), (.s 6, 1)] none false (fun s v =>
      match checkRange s (envOf (counted n) c0) (takers (counted n) c0 g7) (v 0) (v 1) with
      | .ok _ => true
      | .error _ => false)) &&
    (let s := supervisor (counted 0)
     let addr := regNat (warpAt s 0) v0 2 0
     plain s hc && regsOk [(v0, 2)] (envOf s hc) && lowest (takers s hc g7) == some 0 && (ctxGet s 0).isSome &&
     (match recordOf s (warpAgent s 0) (bits addr 42 22) (bits addr 0 42) with
      | .error _ => false
      | .ok r => match checkShape s (warpAgent s 0) (bits addr 42 22) (bits addr 0 42 : Nat) (recEW r) ⟨none, false, false⟩ with
        | .error _ => false
        | .ok _ => true)) = true := by decide +kernel

/-- Two warps of lanes 0, 1 and 31, the second waiting at barrier 0 for phase 0; an mbar object per 16 bytes, object k
expecting k; three banks, a band, two planes; the counters of the copy channels. -/
def duo : State :=
  let x := { warp0 with
    alive := 0x80000003, bands := [0x00100001, 0, 0, 0], sa := { warp0.sa with path := { warp0.sa.path with mask := 0x80000003 } } }
  let pl : Plane := { valid := true, k := 48, n := 2, fw := fmDefault.getD 0 0, blk := false, nf := false, wt := [] }
  { base with
    warps := [x, { x with wid := 1, bands := [0x00100002, 0, 0, 0], sa := { x.sa with park := some (.bar 0 false) } }]
    crews := [{ Crew.zero with
      warps := [0, 1], gone := false, scrLen := 4096, bars := List.replicate 16 ⟨0, none, false⟩, abank := 3, accb := 3
      matrix := true, plA := pl, plS := pl, chans := List.replicate 6 ⟨false, 0, 0, 0, []⟩
      cseqn := [0, 0, 0, 0, 0, 0, 0, 2 ^ 24 - 1]
      scr := (List.range 4).foldl (fun m k => memPutNat m (16 * k) 16 (k + 2 ^ 16 * k + 2 ^ 65)) [] }] }
def still (s t : State) : Bool := plain t c0 && pcOf t c0 == pcOf s c0 && t.warps.length == s.warps.length
def sole (s : State) : Bool := (envOf s c0).x.alive &&& ~~~(envOf s c0).mask == 0

/-- The clauses about barrier 0 with a count: going on after `bar.arv`, after `bar.sync`, waiting, and the traps. -/
def barriers (s0 : State) (cnt : Nat) : List Bool :=
  let s := withS s0 0 cnt
  let e := envOf s c0
  let bar := barAt (crewAt s 0) 0
  let t := barReached s 0 0 cnt
  let all := ready s c0 g7 [] [(.s 0, 1)] none false (fun _ a => a 0 == cnt) && e.cr.bars.length == 16
  let ok := all && sole s && decide (cnt ≤ e.cr.warps.length) && bar.exp.all (· == cnt)
  [ok && still s t, ok && still s t && (barAt (crewAt t 0) 0).phase != bar.phase, ok && (barAt (crewAt t 0) 0).phase == bar.phase,
    all && !sole s, all && sole s && decide (e.cr.warps.length < cnt),
    all && sole s && decide (cnt ≤ e.cr.warps.length) && bar.exp.any (· != cnt)]
def arrived1 (cnt : Nat) : State :=
  onCrew duo (fun cr => { cr with bars := cr.bars.set 0 ⟨1, some cnt, false⟩ })

theorem witness_NamedBarriers :
    [barriers duo 2, barriers (arrived1 2) 2, barriers (arrived1 0) 0, barriers duo 3, barriers (arrived1 2) 1,
      barriers (onWarp duo (fun x => { x with alive := 0xFFFFFFFF })) 2] =
    [[true, false, true, false, false, false], [true, true, false, false, false, false],
      [true, true, false, false, false, false], [false, false, false, false, true, false],
      [false, false, false, false, false, true], [false, false, false, true, false, false]] := by decide +kernel

/-- The mbar object at `off`, with v2's value. -/
def mbarCheck (off v1 : Nat) : List Bool :=
  let s := withS (withS duo 0 off) 1 v1
  let o := mbarObj (memNat (crewAt s 0).scr off 16)
  let at1 := decide (off % 16 = 0 ∧ off + 16 ≤ 4096)
  let get := fun (ds srcs : List Src) (dst : Option Opnd) (push : Bool) =>
    at1 && ready s c0 g7 ds srcs dst push (fun _ v => v 0 == off && (srcs.length == 1 || v 1 == v1))
  [get [] [(.s 0, 1), (.s 1, 1)] none false && decide (1 ≤ v1 ∧ v1 < 2 ^ 16) &&
      still s (mbarStored s 0 off ⟨v1, v1, 0, false, true, false, 0⟩),
    get [(v4, 1)] [(.s 0, 1)] (some v4) true && o.init && still s (mbarStored s 0 off (mbarArrival o 0)),
    get [(v4, 1)] [(.s 0, 1), (.s 1, 1)] (some v4) true && o.init && still s (mbarStored s 0 off (mbarArrival o (sx 32 v1))),
    get [] [(.s 0, 1), (.s 1, 1)] none false && o.init && o.ph != (v1 % 2 == 1),
    get [] [(.s 0, 1), (.s 1, 1)] none false && o.init && o.ph == (v1 % 2 == 1),
    get [] [(.s 0, 1)] none false && o.init && (crewAt s 0).warps.all (fun w => !waitsFor s w off),
    get [(v4, 1)] [(.s 0, 1)] (some v4) true && !o.init]

theorem witness_MbarObjects :
    [mbarCheck 0 1, mbarCheck 16 (2 ^ 16 - 1), mbarCheck 48 0, mbarCheck 4080 2] =
    [[true, true, true, true, false, true, false], [true, true, true, true, false, true, false],
      [false, true, true, false, true, true, false], [true, false, false, false, false, false, true]] := by decide +kernel

/-- Crews 6 and 7 of a PAIR launch whose first role has warps; the second crew's warp waits in `xswap` when `k`. -/
def pair (k : Bool) : State :=
  let x := { warpAt duo 0 with crew := 1 }
  { duo with
    warps := [warpAt duo 0, { x with sa := { x.sa with park := if k then some (.xswap ⟨h7, v2, 3⟩ (words id) none) else none } }]
    crews := [{ crewAt duo 0 with warps := [0], lin := 6 }, { crewAt duo 0 with warps := [1], lin := 7 }]
    launches := [{ launch0 with record := (launch0.record.set 31 0x40).set 20 1 }] }
def bindReady (v : Nat) : Bool :=
  ready (withS (pair false) 0 v) c0 g7 [] [(.s 0, 1)] none false (fun s a => a 0 == v &&
    (chanOf (crewAt s 0) 5).entries == [] && (crewAt s 0).warps.all (fun w => !parkedOnPort s w 5) &&
    (v == 0 || bits v 31 1 == 1 && bits v 9 22 == 0 && decide (1 ≤ bits v 4 5 ∧ bits v 4 5 ≤ 16) &&
      roleDeclared s (envOf s c0) (bits v 0 2) && roleDeclared s (envOf s c0) (bits v 2 2)))
def swapReady (s : State) : List Bool :=
  let e := envOf s c0
  let m := takers s c0 g7
  let all := plain s c0 && regsOk [(v4, 1), (v2, 1)] e && m != 0 && sole s && inPairLaunch s e && !partnerEnded s e &&
    sourcesRead (readSrcs s e m [(v2, 1)] (some v4) true)
  [all && (partnerPark s e).isNone, all && (match partnerPark s e with
    | some (w, _, dst, _) => w != 0 && decide (w < s.warps.length) && notPort dst.d
    | none => false)]

theorem witness_ChannelsAndSwap :
    bindReady 0 && bindReady (2 ^ 31 + 16) && bindReady (2 ^ 31 + 256) &&
    decide ([swapReady (pair false), swapReady (pair true)] = [[true, false], [false, true]]) = true := by decide +kernel

def bankWordB (v n : Nat) : Bool := bits v 4 4 == 0 && bits v 14 18 == 0 && decide (bits v 8 6 + n ≤ 64)
def inBandB (x : Warp) (b row n : Nat) : Bool :=
  x.bands.any (fun y => bits y.toNat 16 7 != 0 && bits y.toNat 0 4 == b && decide (bits y.toNat 8 6 ≤ row) &&
    decide (row + n ≤ bits y.toNat 8 6 + bits y.toNat 16 7))

theorem witness_EngineState :
    [(0, 0), (4, 0), (4, 1), (3, 2), (0, 2), (1, 3), (2 ^ 8 * 15 + 1, 4), (2 ^ 16 * 64 + 3, 5), (2, 5)].all (fun q =>
      ready (withS duo 0 q.1) c0 g7 [] [(.s 0, 1)] none false (fun s a =>
        let e := envOf s c0
        let bm : BitVec 16 := BitVec.ofNat 16 (a 0)
        let size := fun (x : BitVec 16) => ((List.range 16).filter (fun b => x.getLsbD b)).length
        e.cr.eng.isEmpty && (match q.2 with
          | 0 | 1 => decide (a 0 < 2 ^ 16) && bm &&& e.cr.abank == 0 && decide (size e.cr.abank + size bm ≤ e.cr.accb)
          | 2 => decide (a 0 < 2 ^ 16) && bm &&& ~~~e.cr.abank == 0
          | 3 => bankWordB (a 0) 16 && inBandB e.x (bits (a 0) 0 4) (bits (a 0) 8 6) 16 && e.cr.abank.getLsbD (bits (a 0) 0 4)
          | 4 => bankWordB (a 0) 1 && inBandB e.x (bits (a 0) 0 4) (bits (a 0) 8 6) 1 && e.cr.abank.getLsbD (bits (a 0) 0 4)
          | _ => bits (a 0) 4 4 == 0 && bits (a 0) 14 2 == 0 && bits (a 0) 23 9 == 0 &&
              decide (bits (a 0) 8 6 + bits (a 0) 16 7 ≤ 64) &&
              (bits (a 0) 16 7 == 0 || (warpAt s 1).bands.all (fun y => bits y.toNat 0 4 != bits (a 0) 0 4 ||
                decide (bits y.toNat 8 6 + bits y.toNat 16 7 ≤ bits (a 0) 8 6)))))) &&
    plain duo c0 && takers duo c0 g7 != 0 && (envOf duo c0).cr.eng.isEmpty && (envOf duo c0).cr.matrix &&
    (let s := onCrew duo (fun cr => { cr with eng := [⟨true, 0, false, false, 0, 0, 0x101, 0, none, 0, 0, 3, 0, 0, 0, [], []⟩] })
     plain s c0 && takers s c0 g7 != 0 && !(envOf s c0).cr.eng.isEmpty) = true := by decide +kernel

/-- Sources of an engine command: the value of A (a pair for an object), B and C. -/
def engArgs (a b c : Nat) : State := withS (withS (withS (withS duo 0 (a % 2 ^ 32)) 1 (a / 2 ^ 32)) 2 b) 3 c
def loadReady (f : FSlot) (obj blk : Bool) (o : BitVec 2) (cc : Opnd) (s : State) : Bool :=
  ready s c0 g7 [] [(.s 0, if obj then 2 else 1), (.s 2, 1), (cc, 1)] none false (fun s1 v =>
    let e := envOf s c0
    let fw := slotWord e.x f
    let k := bits (v 1) 0 7
    let n := bits (v 1) 8 7
    let p := bits (v 1) 16 16
    let len := if blk then k / 48 * blockLen fw o.toNat else (n * fmW fw + 7) / 8
    !fmIllegal fw && e.cr.matrix && bits (v 1) 7 1 == 0 && bits (v 1) 15 1 == 0 && decide (1 ≤ k ∧ k ≤ 96 ∧ 1 ≤ n ∧ n ≤ 64) &&
    (!blk || decide (2 ≤ fmW fw ∧ fmW fw ≤ 8 ∧ o ≠ 3 ∧ (k = 48 ∨ k = 96))) &&
    (cc == .z || decide (v 2 % 16 = 0 ∧ v 2 + 16 ≤ e.cr.scrLen)) &&
    (if obj then (match mloadObjCheck s1 e (takers s c0 g7) blk fw (v 0) (v 1) with | .ok (_, []) => true | _ => false)
     else decide (if blk then len ≤ p else n * fmW fw ≤ 8 * p) &&
       decide (v 0 + (if blk then (n - 1) * p else (k - 1) * p) + len ≤ e.cr.scrLen)))
def streamReady (f : FSlot) (blk : Bool) (o : BitVec 2) (cc : Opnd) (s : State) : Bool :=
  ready s c0 g7 [] [(.s 0, 1), (.s 2, 1), (cc, 1)] none false (fun _ v =>
    let e := envOf s c0
    let fw := slotWord e.x f
    let rows := bits (v 1) 0 7
    let q := bits (v 1) 20 12
    let k := e.cr.plA.k
    let len := if blk then k / 48 * blockLen fw o.toNat else (k * fmW fw + 7) / 8
    !fmIllegal fw && e.cr.matrix && e.cr.plA.valid && bits (v 1) 7 1 == 0 && bits (v 1) 19 1 == 0 && decide (1 ≤ rows) &&
    decide (bits (v 1) 12 6 + rows ≤ 64) && (!blk || decide (2 ≤ fmW fw ∧ fmW fw ≤ 8 ∧ o ≠ 3)) &&
    (!(blk || e.cr.plA.blk) || k == 48 || k == 96) && decide (if blk then len ≤ q else k * fmW fw ≤ 8 * q) &&
    e.cr.abank.getLsbD (bits (v 1) 8 4) && (cc == .z || decide (v 2 % 16 = 0 ∧ v 2 + 16 ≤ e.cr.scrLen)) &&
    decide (v 0 + (rows - 1) * q + len ≤ e.cr.scrLen))
/-- An outstanding command of warp 0. -/
def engCmd (load obj : Bool) (a cfg : Nat) : EngCmd :=
  ⟨load, 0, obj, false, 0, BitVec.ofNat 64 a, BitVec.ofNat 32 cfg, fmDefault.getD 0 0, none, 0, 0, 3, 0, 0, 0, [], []⟩
def withObj (s : State) : State := { s with mem := (objOf 32).mem, caches := (objOf 32).caches }

theorem witness_EngineCommands :
    loadReady 0 false false 0 .z (engArgs 0 (96 + 2 ^ 8 * 1 + 2 ^ 16 * 4) 0) &&
    loadReady 3 false true 2 (.s 3) (engArgs 3000 (48 + 2 ^ 8 * 1 + 2 ^ 16 * 100) 4080) &&
    loadReady 0 true false 0 (.s 3) (withObj (engArgs (dataPtr 2996) (2 + 2 ^ 8 * 2 + 2 ^ 16 * 2) 0)) &&
    streamReady 0 false 0 .z (engArgs 0 (1 + 2 ^ 12 * 63 + 2 ^ 20 * 192) 0) &&
    streamReady 3 true 1 (.s 3) (engArgs 64 (64 + 2 ^ 8 + 2 ^ 20 * 60) 64) &&
    (let s := onCrew duo (fun cr => { cr with eng := [engCmd true false 0 0x4010101] })
     decide (0 < s.crews.length) && !engFrozen s 0 && (crewAt s 0).eng.head?.any (fun k => k.load && !k.obj)) &&
    (let cmd := engCmd true true (dataPtr 2999) 0x4010101
     let s := withObj (onCrew duo (fun cr => { cr with eng := [cmd] }))
     let r := readTile s 0 cmd
     !engFrozen s 0 && r.2.units.isEmpty && !r.2.wait && r.2.fail.isNone && decide (r.1.crews = s.crews)) &&
    (let s := onCrew duo (fun cr => { cr with eng := [engCmd false false 0 (1 + 2 ^ 20 * 192)] })
     !engFrozen s 0 && (crewAt s 0).eng.head?.any (fun k => !k.load) && decide (0 < s.warps.length)) = true := by decide +kernel

theorem witness_EngineTransfers :
    [(0, (0 : Fin 64), (1 : Nat), false), (3, 15, 1, true), (0, 3, 2 ^ 8 * 12 + 1, true), (0, 0, 2, false)].all
      (fun q : FSlot × Fin 64 × Nat × Bool =>
      let s := withS (onWarp wide (fun x => { (warpAt duo 0) with regs := 256, v := x.v, bands := [0x00100001, 0x00400002, 0, 0] })) 0 q.2.2.1
      let s := { s with crews := duo.crews }
      ready s c0 g7 [] [(.s 0, 1)] none false (fun _ v =>
        let e := envOf s c0
        let fw := slotWord e.x q.1
        let nr := q.2.1.val + 1
        e.cr.eng.isEmpty && !fmIllegal fw && rangeOk e.x (.v 8) (regsPerRow fw * nr) && bankWordB (v 0) nr &&
        inBandB e.x (bits (v 0) 0 4) (bits (v 0) 8 6) nr && (!q.2.2.2 || e.cr.abank.getLsbD (bits (v 0) 0 4)))) = true := by
  decide +kernel

/-- `duo` with a descriptor at 256 of `n` elements of `ew` bits from `src` to `dst`, with flags and slot `fl`. -/
def copying (src dst n ew fl : Nat) : State :=
  let put := fun (m : Memory) (a k v : Nat) => memPutNat m (256 + a) k v
  onCrew (withS (withS duo 0 256) 1 64) (fun cr => { cr with
    scr := put (put (put (put (put [] 0 8 src) 8 8 dst) 16 4 (ew + 2 ^ 7 + fl)) 32 2 (n - 1)) 34 2 1 })
/-- `n` bytes from one scratchpad byte to another. -/
def copier (src dst n : Nat) : State := copying (8 * src) (8 * dst) n 8 (2 ^ 11 + 2 ^ 12)
def copyCmd (chan seq : Nat) (desc : List Byte) : CopyCmd :=
  ⟨0, 0, chan, 0, 0, 0, seq, .plain, desc, 0, 0, 0, 0, 0, 0, 0, [], [], none, false, []⟩
/-- The clauses about a copy instruction: taken, waiting for its channel, refused. -/
def copies (s : State) (i : Instr) : List Bool :=
  match copyForm i with
  | none => []
  | some (h, op, ch, d, a, b) =>
    let P := fun (f : Desc → Option (Nat × Nat) → Bool) =>
      ready s c0 h.g [(d, 1)] ((a, 1) :: (b.map (fun o => (o, 1))).toList) (some d) (!h.w) (fun _ v =>
        let e := envOf s c0
        let ds := descOf (memBytes e.cr.scr (v 0) 128)
        v 0 % 16 == 0 && decide (v 0 + 128 ≤ e.cr.scrLen) && (b.isNone || v 1 % 4 == 0) && notPort d &&
        f ds (descFail op ds (e.x.fs.getD ds.cslot 0) (v 0) e.cr.scrLen (b.map (fun _ => v 1))))
    let room := decide ((channelOf s (envOf s c0).cr ch).length < 16)
    [P (fun _ f => f.isNone && room), P (fun _ f => f.isNone && !room), P (fun _ f => f.isSome)]

theorem witness_CopyIssue :
    [copies (copier 0 4095 1) (.cpy h7 7 v4 (.s 0)), copies (copier 0 4095 2) (.cpy h7 7 v4 (.s 0)),
      copies { copier 0 8 1 with copies := (List.range 16).map (fun n => copyCmd 2 n []) } (.cpy h7 2 .z (.s 0)),
      copies (copying (dataPtr 0) 0 4 32 (2 ^ 12)) (.cpyg h7 0 v4 (.s 0) (.s 1)),
      copies (copying 0 (dataPtr 0) 4 32 (2 ^ 11)) (.cpys h7 0 v4 (.s 0) (.s 1)),
      copies (copying 0 (dataPtr 0) 48 32 (2 ^ 11 + 2 ^ 20 * 3)) (.cpyq h7 0 v4 (.s 0)),
      copies (copying 0 (dataPtr 0) 47 32 (2 ^ 11 + 2 ^ 20 * 3)) (.cpyq h7 0 v4 (.s 0))] =
    [[true, false, false], [false, false, true], [false, true, false], [true, false, false], [true, false, false],
      [true, false, false], [false, false, true]] := by decide +kernel

theorem witness_CopyProgress :
    (let s := { withS duo 0 (5 + 2 ^ 8 * 3) with copies := [copyCmd 5 3 []] }
     ready s c0 g7 [] [(.s 0, 1)] none false (fun s v => bits (v 0) 3 5 == 0 &&
       s.copies.any (fun k => tokenWord k.chan k.seq == v 0))) &&
    (let s := { withS duo 0 7 with copies := [copyCmd 5 3 []] }
     ready s c0 g7 [] [(.s 0, 1)] none false (fun s v => bits (v 0) 3 5 == 0 &&
       s.copies.all (fun k => tokenWord k.chan k.seq != v 0))) &&
    [0, 255].all (fun m => ready { withS duo 0 m with copies := [copyCmd 7 3 []] } c0 g7 [] [(.s 0, 1)] none false (fun _ v =>
      v 0 == m && decide (v 0 < 2 ^ 8))) &&
    (let s0 := copier 0 512 3
     let cmd := copyCmd 7 0 (memBytes (crewAt s0 0).scr 256 128)
     let s := { s0 with copies := [cmd] }
     let k := walkOf s cmd
     let ps := cpWalk s k
     let f := fun lo n => bits (bytesNat cmd.desc) lo n
     chanCmds s 0 0 7 == [cmd] && !engFrozen s 0 && ps.length == 3 && decide (cmd.next ≤ boxSize k.d ∧ cmd.op = .plain) &&
     f 135 4 == 1 && f 139 1 == 1 && f 140 1 == 1 && ps.all (posLocal s k) &&
     ps.all (fun p => (posReads k p).all (fun x => (sideLines k x).isEmpty)) && s.fab.dir == [] && s.fab.waits.isEmpty) &&
    -- A command of channel 7 with a write on its way.
    (let busy := { copyCmd 7 3 [] with out := [⟨{ mkReq duo 1 7 0 2 0 0 8 0 with data := 1 }, 0, 0, false, []⟩] }
     let s := { withS duo 0 0x80 with copies := [busy] }
     let t := copyDying s busy
     ready s c0 g7 [] [(.s 0, 1)] none false (fun _ v => decide (v 0 < 2 ^ 8) && bits (v 0) 7 1 == 1) && still s t) &&
    (let x := warpAt (onWarp duo (fun x => { x with w6 := [0], q6 := List.replicate 15 0, w7 := [0] })) 0
     x.w6.length == 1 && decide (x.q6.length + swapTook x 6 < 16) && x.w7.length == 1 &&
     decide (x.q7.length + swapTook x 7 < 16)) = true := by decide +kernel

theorem witness_PushedResults :
    [Instr.iadd h7 (.q 0) v2 s0, .idiv h7 (.q 5) v2 s0, .iadd hW (.q 0) v2 s0, .iadd ⟨gNo, false, none⟩ (.q 7) v2 s0].all
      (fun i => match wordResult i with
      | none => false
      | some r =>
        let s := onCrew duo (fun cr => { cr with chans := List.replicate 6 ⟨true, 0, 0, 16, []⟩ })
        let m := takers s c0 r.h.g
        plain s c0 && regsOk r.srcs (envOf s c0) && r.k == 1 && r.d.isPort && (match ctxGet s 0 with
          | some k => bits (csrN k 0x074) 0 2 == 0
          | none => true) && sourcesRead (readSrcs s (envOf s c0) m r.srcs (some r.d) (!r.h.w))) = true := by decide +kernel

/-- Handles of this home, of each kind of answer: entry k is in STATE k; a full count; INVALID. -/
def handled (serial : Nat) : State :=
  let hd := handleMake serial 0 0
  let s := { duo with disp := { duo.disp with
    serial := 20, ents := (List.range 5).map (fun k => { newEnt (10 + k) k 0 0 0 with refs := if k = 4 then 65535 else 1 }) } }
  withS (withS s 0 (hd.toNat % 2 ^ 32)) 1 (hd.toNat / 2 ^ 32)
/-- What the home homeReport of the handle in s0:s1 of `handled`. -/
def homeReport (s : State) (v : Nat) : HandleReport :=
  match entValid s 0 (BitVec.ofNat 64 v) with
  | some e => entReport e (BitVec.ofNat 64 v)
  | none => invalidReport (BitVec.ofNat 64 v)

theorem witness_HandleInstructions :
    [(10, 0), (11, 1), (12, 2), (13, 3), (14, 4), (15, 7)].all (fun q =>
      let P := fun (s : State) (v : Nat → Nat) => v 0 == (handleMake q.1 0 0).toNat && (homeReport s (v 0)).state == q.2 &&
        decide (BitVec.ofNat 64 (v 0) ≠ 0 ∧ hKind (BitVec.ofNat 64 (v 0)) < 2) && ownHome s (BitVec.ofNat 64 (v 0))
      ready (handled q.1) c0 g7 [(v4, 1)] [(.s 0, 2)] (some v4) true P &&
      ready (handled q.1) c0 g7 [(v4, 2)] [(.s 0, 2)] (some v4) true P &&
      ready (handled q.1) c0 g7 [(.z, 1)] [(.s 0, 2)] (some .z) false P) &&
    decide ((homeReport (handled 14) (handleMake 14 0 0).toNat).refs = 65535) &&
    decide ((homeReport (handled 13) (handleMake 13 0 0).toNat).refs = 1) &&
    [(0, 0, 0), (2, 0, 0), (0, 0, 4)].all (fun q =>
      let ring : Queue := { Queue.zero with
        owner := q.1, en := true, log := 2, head := 0xFFFFFFFF, tail := BitVec.ofNat 32 (2 ^ 32 - 1 + q.2.2) }
      let s := { withS duo 0 3968 with queues := duo.queues.set 3 ring }
      ready s c0 g7 [(v4, 2)] [(.s 0, 1)] none true (fun s v =>
        v 0 % 16 == 0 && decide (v 0 + 128 ≤ (envOf s c0).cr.scrLen) &&
        (ctxGet s 0).all (fun k => bits (csrN k 0x074) 0 2 == 0) && (allocHandle s 0 s.plat.devnum 0 0 none).isSome)) = true := by
  decide +kernel

/-- Sources of `invk` and `hsend`: a record at 1,024, the target in s2, the comet in s4:s5, the queue in s6. -/
def sending : State :=
  let hd := handleMake 9 8191 1
  [(0, 1024), (2, 8191 + 2 ^ 16 * 255), (4, hd.toNat % 2 ^ 32), (5, hd.toNat / 2 ^ 32), (6, 255)].foldl
    (fun s p => withS s p.1 p.2) duo

theorem witness_RemoteLaunches :
    [Instr.invk h7 2 true v4 (.s 0) (.s 2), .hsend h7 0 false v4 (.s 0) (.s 4) (.s 6)].all (fun i => match sendForm i with
      | none => false
      | some f => ready sending c0 f.h.g [(f.d, 2)] f.srcs none (!f.h.w) (fun s v =>
          v 0 % 16 == 0 && decide (v 0 + 128 ≤ (envOf s c0).cr.scrLen) && f.ok v && notPort f.d && !tableFull s &&
          decide (sentOpen s < 4096) &&
          (let r := capture s (envAgent s (envOf s c0)) (.warp 0) (memBytes (envOf s c0).cr.scr (v 0) 128)
           r.2.units.isEmpty && !r.2.wait && decide (r.1.warps = s.warps) &&
           (allocHandle r.1 0 (f.dev v) 0 0 none).isSome))) = true := by decide +kernel
/-- A table with no free entry, and 4,096 messages without an acknowledgement. -/
theorem witness_RemoteLaunches_limits :
    tableFull { sending with disp := { sending.disp with ents := List.replicate Config.handleEntries (newEnt 1 0 0 0 0) } } =
      true ∧
    sentOpen { sending with outbox := List.replicate 4096 ⟨.invoke 3 ⟨[], [], [], 0, none, 0, 0, 0, false⟩, 0, none⟩ } = 4096 := by
  constructor
  · simp only [tableFull, List.length_replicate]; decide
  · have h : sending.disp.offers.length = 0 := by decide +kernel
    simp only [sentOpen, List.filter_replicate, if_true, List.length_replicate, h]

def msg0 : LaunchMsg := ⟨List.replicate 128 0, [], [], handleMake 3 7 0, some (handleMake 10 0 0), 7, 0, 3, false⟩
def comets : State := handled 10

/-- Sound headers of engine messages and of a multicast for this device, from device 7. -/
def hdr7 : Vuine := vuMake 7 0 7 0 0 0 0 9
def arrivedB (s : State) (h : Vuine) (kind : Nat) : Bool := !vuBad h && vuKind h == kind && vuDst h == s.plat.devnum
def engineB (s : State) (h : Vuine) : Bool :=
  decide (s.plat.st = .ready) && arrivedB s h 7 && !s.fab.filter.any (fun f => f.1 == vuSrc h && f.2.1 == vuRseq h)
/-- `s` in which `hdr7` has been taken before. -/
def repeated (s : State) : State := { s with fab := { s.fab with filter := [(7, 9, ⟨hdr7, false, false, 0⟩)] } }
/-- `comets` with GO set for a result. -/
def going (h : DWord) : State :=
  onCtx comets (fun x => { x with cmMove := some (h, 9) })

theorem witness_CometEvents :
    engineB comets hdr7 && (ctxGet comets 0).isSome && !arrivedB comets (vuMake 6 0 7 0 0 0 0 9) 7 &&
    (repeated comets).fab.filter.any (fun f => f.1 == vuSrc hdr7 && f.2.1 == vuRseq hdr7) &&
    (let q : Queue := { Queue.zero with en := true, log := 2, head := 5, tail := 8 }
     q.en && (q.tail - q.head).toNat != 2 ^ q.log && q.wait.isEmpty) &&
    ownHome comets (handleMake 10 0 0) && comets.disp.refused.isEmpty &&
    (entValid comets 0 (handleMake 10 0 0)).any (fun e => e.state == 0 && decide (e.msgs.length + e.subs.length < 16) &&
      e.ovf.isEmpty) &&
    (let m := { msg0 with comet := some (handleMake 4 9 0) }
     let s := { comets with disp := { comets.disp with offers := [m] } }
     s.disp.offers.all (fun o => o == m) && m.comet.any (fun h => hHome h == 9)) &&
    [(10, 2), (12, 3), (12, 4)].all (fun q => (entFind comets (handleMake q.1 0 0)).any (fun e =>
      decide (e.state < q.2 ∧ e.state < 3) && e.subs.isEmpty && e.ovfSubs.isEmpty)) &&
    (let h := handleMake 4 9 0
     let s := { comets with disp := { comets.disp with known := [⟨0, invalidReport h, []⟩] } }
     !ownHome s h && (launchOf s h).isNone && s.disp.known.any (fun k => k.rep.handle == h)) &&
    [handleMake 13 0 0, handleMake 4 9 0, 0].all (fun h => (ctxGet (going h) 0).any (fun x =>
      x.cmMove == some (h, 9) && !x.cmAsked)) && stillRuns (going 0) 0 &&
    (let h := handleMake 13 0 0
     !stillRuns (going h) h && ownHome (going h) h &&
     (entValid (going h) 0 h).any (fun e => e.state == 3 && e.dev == (going h).plat.devnum && !e.moving)) &&
    (let h := handleMake 4 9 0; !stillRuns (going h) h && !ownHome (going h) h && h != 0) &&
    (let h := handleMake 13 0 0
     (entFind (putEnt (going h) 13 (fun e => { e with moving := true })) h).any (fun e => e.moving)) = true := by decide +kernel

/-- A collective's descriptor at 1,024 whose communicator is object 2 and whose source, object 3, does not exist. -/
def colling : State :=
  withObj (onCrew (withS duo 0 1024) (fun cr => { cr with
    scr := memPutNat (memPutNat (memPutNat cr.scr 1024 8 (dataPtr 0)) 1032 8 (3 * 2 ^ 42)) 1056 4 4 }))
def shape0 : CollShape :=
  { nrank := 2, devr := [0, 1], op := 0, red := 0, count := 4, unord := false, narrow := false, wslot := 0, o := 0, root := 0 }
def coll0 (s : State) (phase : Nat) : CollCmd :=
  { newColl s (envOf s c0) 3 (handleMake 1 0 1) (memBytes (crewAt s 0).scr 1024 64) 2 5 0 with shape := shape0, phase := phase }
def withColl (phase : Nat) (f : CollCmd → CollCmd) : State :=
  { colling with coll := { colling.coll with cmds := [f (coll0 colling phase)] } }

theorem witness_Collectives_issue :
    ready colling c0 g7 [(v4, 2)] [(.s 0, 1)] none true (fun s v =>
      v 0 % 16 == 0 && decide (v 0 + 64 ≤ (envOf s c0).cr.scrLen) && !tableFull s && decide (sentOpen s < 4096) &&
      s.fab.dir.isEmpty && s.fab.waits.isEmpty && (match commAtIssue s (envAgent s (envOf s c0)) 2 with
        | .found l rd wr => soundHere s rd && soundHere s wr && !wr.isEmpty && (allocHandle s 2 s.plat.devnum 0 1 none).isSome &&
            bits (collDescOf (memBytes (envOf s c0).cr.scr (v 0) 64)).comm 42 22 == l.obj
        | _ => false) && (match clSide s (envAgent s (envOf s c0)) (elemAddr 2 0) 0 false with
        | .ok _ _ ps => soundHere s ps
        | _ => false)) &&
    (let s := { colling with coll := { colling.coll with cmds := List.replicate 16 (coll0 colling 0) } }
     ready s c0 g7 [(v4, 2)] [(.s 0, 1)] none true (fun s _ =>
       decide (16 ≤ (s.coll.cmds.filter (fun k => k.live && k.crew == (envOf s c0).c)).length))) = true := by decide +kernel

theorem witness_Collectives_events :
    (let s := withColl 0 id
     let other : CollKey := ⟨0, 2, 6⟩
     let key : CollKey := ⟨0, 2, 5⟩
     let m : Contribution := ⟨key, 1, handleMake 2 7 1, shape0, 0, [7, 7, 7, 7]⟩
     engineB s hdr7 && !s.coll.cmds.any (fun k => k.key == other) && (collKeyed s key).any (fun k => k.shape.nrank != 0 && m.shape == k.shape &&
       k.phase != 2 && collAt s k.h == some k) && (collAt s (handleMake 1 0 1)).any (fun k => k.phase == 0)) &&
    (collAt (withColl 1 id) (handleMake 1 0 1)).any (fun k => k.phase == 1 && !collWhole k) &&
    (let s := withColl 2 (fun k => { k with wrote := true })
     (collAt s (handleMake 1 0 1)).any (fun k => k.phase == 2 && k.wrote && !(crewAt s k.crew).gone &&
       !(collDescOf k.desc).narrow && !(collDescOf k.desc).arv)) &&
    -- The last part has come; its destination is object 2.
    (let s := withColl 1 (fun k => { k with
       desc := natBytes 64 (dataPtr 0 + 2 ^ 64 * (dataPtr 0) + 2 ^ 128 * dataPtr 400 + 2 ^ 256 * 4)
       got := [⟨0, handleMake 1 0 1, List.replicate 4 1⟩, ⟨1, handleMake 2 7 1, List.replicate 4 2⟩] })
     (collAt s (handleMake 1 0 1)).any (fun k => k.phase == 1 && !k.wrote && collWhole k && !collUnacked s k &&
       !(crewAt s k.crew).gone && !(collDescOf k.desc).narrow && !(collDescOf k.desc).arv && decide ((collDescOf k.desc).red < 3) &&
       (dstSides s k).length == 4 && (dstSides s k).all (fun x => match x with
         | .ok _ _ ps => soundHere s ps
         | _ => false))) &&
    (let s := withColl 0 (fun k => { k with begun := true })
     (collAt s (handleMake 1 0 1)).any (fun k => !collStill s k && k.shape.nrank != 0 && k.phase == 0 && k.begun &&
       !partFormed k && (let jn := nextPart k (collDescOf k.desc)
        let r := clStop 0 (((List.range jn.2).map (· + jn.1)).map (partSides s (collAgent s k) (collDescOf k.desc)))
        r.1.isEmpty && r.2.isSome))) = true := by decide +kernel

/-- A record of one crew of one warp of eight registers. -/
def record1 : List Byte :=
  (natBytes 8 (codePtr 0) ++ natBytes 4 1 ++ natBytes 4 1 ++ natBytes 4 1 ++ natBytes 2 (1 + 2 ^ 6) ++ List.replicate 106 0)
/-- Queue 3 with a launch of that record, placed; an unended warp, an ended one and their crew. -/
def launching : State :=
  let q : Queue := { Queue.zero with
    owner := 0, en := true, log := 2, base := 0x100000, head := 5, tail := 6, ring := [⟨5, { msg0 with record := record1, ctx := 0 }, .sent⟩]
    ageth := 100 }
  { duo with
    mem := memPut [] (0x100000 + 128) record1
    cur := none, now := 100, queues := duo.queues.set 3 q
    launches := [{ launch0 with h := handleMake 3 7 0, queue := 3, record := record1, state := .placed, next := 0 }] }
/-- `launching` with warp 0 on a trap, and with warp 0 ended. -/
def trapped : State := onWarp launching (fun x => { x with tq := [⟨trapRecord 9 false false 0 1 0 0 0, 0⟩] })
def ended : State := onWarp launching (fun x => { x with alive := 0, sa := Slot.free })

/-- The record of queue 3, of a kind and with a handle; a host record has none yet. -/
def accepting (k : RingKind) (h : DWord) : State :=
  let q := launching.queues.getD 3 Queue.zero
  { launching with queues := launching.queues.set 3 { q with
      ring := if k = .host then [] else q.ring.map (fun r => { r with kind := k, msg := { r.msg with handle := h } }) } }

theorem witness_CrewLifecycle :
    (let x := warpAt trapped 0
     decide (x.mode = .user ∧ x.halt = .no ∧ x.holdSl = none ∧ x.gone = false ∧ pathsDone x = false) && x.tq.length == 1 &&
     (ctxGet trapped (ctxNumOf trapped 0)).isSome) &&
    !(warpAt ended 0).gone && pathsDone (warpAt ended 0) && !warpBusy ended 0 &&
    (let s := { launching with warps := launching.warps.map (fun x => { x with gone := true }) }
     !(crewAt s 0).gone && (crewAt s 0).warps.all (fun w => (warpAt s w).gone) && (crewAt s 0).eng.isEmpty &&
     s.copies.isEmpty && s.coll.cmds.isEmpty) &&
    (let h := handleMake 3 7 0
     (launchOf launching h).any (fun l => l.state != .done && l.state != .broken) &&
     (launchOf { launching with launches := launching.launches.map (fun l => { l with state := .running, next := 1, ended := 1 }) } h).any
       (fun l => l.state == .running && !crewsLeft l && l.ended == gridSize l.record)) &&
    (candidateOf launching 3).any (fun l =>
      let x := launching.queues.getD 3 Queue.zero
      x.ageth != 0 && decide (max l.since x.since + x.ageth.toNat ≤ launching.now) && decide (l.prio + x.raised < 7)) &&
    (launchOf launching 77).isNone && (accepting .sent 77).queues.any (fun q => q.ring.any (fun r => r.msg.handle == 77)) &&
    [(RingKind.sent, handleMake 3 7 0, false), (.lnch, handleMake 3 7 0, false), (.host, 0, false), (.sent, 0, true)].all (fun k =>
      let s := accepting k.1 k.2.1
      let q := s.queues.getD 3 Queue.zero
      decide (s.plat.st = .ready) && q.en && q.head != q.tail && q.wait.isEmpty && ctxRuns s q.owner &&
      (match headRecord s 3 with
        | none => false
        | some (r0, s0) =>
          let (r, s1) := ownRecord s0 3 r0
          let rec_ := memBytes s1.mem (slotAddr q q.head.toNat) 128
          let c := capture s1 (dispAgent s1 r.msg.ctx q.failed) (acceptOwner 3) rec_
          decide (c.1.plat = s1.plat) &&
          r.kind == k.1 && recordOver s1 r.msg == k.2.2 && inOneRange s1.plat (slotAddr q q.head.toNat) 128 && decide (askDeps s1 r.msg.ctx (recordDeps rec_) = (true, s1)) &&
          c.2.units.isEmpty && !c.2.wait)) &&
    (match chooseCand launching (candidates launching 5) with
      | none => false
      | some k => match k.plan with
        | none => false
        | some plan => !(members k.l).2 && okB (placePlan launching k.l k.p plan)) = true := by decide +kernel

/-- `launching`'s crew under a request since 0, with a frame. -/
def requested (f : Crew → Crew) : State := withCsr (
  onCrew { launching with now := 2 ^ 40, warps := launching.warps.map (fun x => { x with
    sa := { x.sa with park := some (.pyield 5) } }) } (fun cr => f { cr with
    launch := handleMake 3 7 0, req := some 0, frame := some 0x200000 })) 0x0AA 4
/-- The crew can be saved, at moment `now`. -/
def saveable (now : Nat) (late : Bool) : Bool :=
  let s := { requested id with now := now }
  let x := crewAt s 0
  !x.gone && groupOf s 0 == [0] && x.req == some 0 && x.frame == some 0x200000 && x.reserve.isNone && !x.saving && x.eng.isEmpty &&
  s.copies.isEmpty && (crewColls s 0).isEmpty && allYield s [0] && decide (0 < s.crews.length) &&
  x.warps.all (fun w => decide (w < s.warps.length)) && overdue s 0 == late && decide (0 + deadlineOf s 0 ≤ s.now) == late &&
  atBoundary s 0

theorem witness_PreemptionEvents :
    saveable 100 false && saveable (2 ^ 40) true &&
    (ctxGet (requested id) 0).any (fun y => y.slHeld.isEmpty && (csrN y 0x0AB + 2 ^ 32 - csrN y 0x0AC) % 2 ^ 32 != 2 ^ bits (csrN y 0x0AA) 0 5) &&
    (ctxGet (withCsr (requested id) 0x0AB 16) 0).any (fun y =>
      y.slHeld.isEmpty && (csrN y 0x0AB + 2 ^ 32 - csrN y 0x0AC) % 2 ^ 32 == 2 ^ bits (csrN y 0x0AA) 0 5) &&
    storesWf (requested id) = true := by decide +kernel
theorem witness_PreemptionEvents_record : recordFits (requested id) 0 := by
  refine ⟨?_, ?_, ?_, ?_, ?_, ?_, ?_, ?_, ?_, ?_, ?_, ?_, ?_, ?_, ?_, ?_⟩ <;> decide +kernel

/-- A saved crew of one warp whose record is zero but for its header, which is sound when `version` is 1. -/
def savedState (version : Nat) : State :=
  let h := handleMake 3 7 0
  let x := { warpAt launching 0 with gone := true }
  { launching with
    warps := [x], crews := [{ crewAt launching 0 with gone := true, launch := h, warps := [0] }]
    mem := memPutNat [] 0x200000 16 (version + 2 ^ 8 * 1 + 2 ^ 15 * 7 + 2 ^ 32 * 4096 + 2 ^ 64 * h.toNat)
    launches := launching.launches.map (fun l => { l with next := 1, saved := [⟨0, 0, 0x200000, [x], [], [], []⟩] }) }
def restoreReady (s : State) : Option Bool :=
  match chooseCand s (candidates s 5) with
  | none => none
  | some cd => match cd.plan with
    | some [m] =>
      if (members cd.l).2 then
        match cd.l.saved.find? (fun j => j.lin == m.1) with
        | some j => if !recordSound s cd.l j then some false
            else if cd.l.saved.all (recordSound s cd.l) && !startsEarly s cd.l && channelsTake s ((backed s.plat m.2).getD (0, 0)) j &&
              (crewColls s j.crew).isEmpty && memNat s.mem (j.frame + 22) 1 == 0 then some true else none
        | none => none
      else none
    | _ => none

theorem witness_PreemptionEvents_restore :
    (restoreReady (savedState 1) == some true && restoreReady (savedState 2) == some false) = true := by decide +kernel

def tile0 : SubTile := ⟨0, 2, 0, 0⟩
/-- Object 2's first sub-tile under migration from capacity memory, with a pool of one frame and a log of 16 records;
or under a relocation in a phase. -/
def moving (e : Nat) (ph : Option FuPhase) : State :=
  let s := withCsr (withCsr (withCsr (withCsr (withCsr obj32 0x092 4) 0x080 0x300000) 0x082 2) 0x084 1) 0x090 0x400000
  { s with
    mem := memPutNat (memPutNat [] bootTable 8 e) 0x300000 8 9
    fu := ⟨[(0, tile0)], match ph with
      | some ph => [⟨0, tile0, ph, BitVec.ofNat 64 e, BitVec.ofNat 64 (2 ^ 16 * 9 + 2 ^ 61 + 2 ^ 63)⟩]
      | none => []⟩
    plat := { s.plat with cxl := [2 ^ 30] } }
def far0 : Nat := 2 ^ 16 * 0x10000000 + 2 ^ 62
def near0 : Nat := 2 ^ 16 * 5 + 2 ^ 61 + 2 ^ 63
def copied (s : State) (ph : FuPhase) (r : MigResult) : Option Bool :=
  match jobOf s tile0 ph with
  | none => none
  | some j => match copyFrame s j r with
    | .ok _ => some true
    | .fail _ _ => some false
    | .wait _ => none
def relocating (frame tier : Nat) : State :=
  onCtx (moving near0 none) (fun x => { x with rlTower := 0, rlCmd := some (2, 0, frame, tier * 2 ^ 8) })
def refusal (s : State) (frame tier : Nat) : Option Nat :=
  match ctxGet s 0 with
  | none => none
  | some x =>
    let s1 := ctxPut s 0 (setCsr { x with rlCmd := none } 0x09C 0)
    if x.rlCmd = some (2, 0, frame, tier * 2 ^ 8) ∧ s.plat.st = .ready ∧ mlRoom s 0 = true ∧
        s.plat.fenced.getD x.rlTower false = false then some (rlRefusal s1 (rlTile s1 0 0 2 0) frame tier).1 else none

theorem witness_FaultUnitEvents :
    (let s := moving far0 none
     let s1 := { s with fu := { s.fu with asked := s.fu.asked.filter (fun a => a.2 != tile0) } }
     decide (s.plat.st = .ready) && !s.plat.fenced.getD 0 false && s.fu.asked.contains (0, tile0) && !fuBusy s tile0 &&
     mlRoom s 0 && (match fuRecord s1 tile0, fuEntry s1 tile0 with
       | some r, some e => !entryMalformed s.plat.devnum e && bits e 63 1 == 0 && decide (2 ≤ bits e 61 2) &&
           (fuFrame s1 0 (recPlace r)).1.isSome
       | _, _ => false)) &&
    copied (moving far0 (some .migrating)) .migrating .ok == some true &&
    copied (moving far0 (some .migrating)) .migrating .sourceError == some false &&
    [FuPhase.invalidating, .copying].all (fun ph =>
      (jobOf (moving near0 (some ph)) tile0 ph).any (fun j => !writesLeft (moving near0 (some ph)) j)) &&
    storesWf (moving near0 (some .copying)) && bits near0 61 2 != 3 &&
    copied (moving near0 (some .copying)) .copying .ok == some true && (jobOf (moving near0 (some .closing)) tile0 .closing).isSome &&
    refusal (relocating 9 1) 9 1 == some 0 && (refusal (relocating 9 0) 9 0).any (fun d => d != 0) = true := by decide +kernel

/-- A device that holds object 2 with permission G, and a request of device 7 about its first line. -/
def home : State :=
  let s := objOf 32
  { s with caches := { s.caches with orc := s.caches.orc.map (fun e => { e with words := e.words.set 0 (1 + 2 ^ 3 * 0x7F) }) } }
def request (kind obj : Nat) : FabReq :=
  { mkReq home kind home.plat.devnum 0 obj 0 (5 * 2 ^ 19) 1024 0 with hdr := vuMake kind home.plat.devnum 7 0 0 obj 0 9 }
def servedB (s : State) (r : FabReq) (kind : Nat) : Bool :=
  decide (s.plat.st = .ready) && !vuBad r.hdr && vuKind r.hdr == kind && vuDst r.hdr == s.plat.devnum &&
  (s.fab.filter.find? (fun f => f.1 == vuSrc r.hdr && f.2.1 == vuRseq r.hdr)).isNone && s.fab.waits.isEmpty &&
  !s.fab.held.any (fun h => vuSrc h.1.hdr == vuSrc r.hdr && vuRseq h.1.hdr == vuRseq r.hdr) &&
  s.fab.oldRoute.all (fun o => o.1 != vuSrc r.hdr || o.2.1 != lineOf r.bit || o.2.2 == (vuPlane r.hdr, r.port)) &&
  (pieceLines r.bit r.nbits).all (fun ln => !lineWaits s ln)
/-- `home` while object 2's sub-tile is relocated; with device 8 as a holder of its first line; with that line poisoned. -/
def homeMoved : State :=
  { home with mem := memPutNat home.mem bootTable 8 (2 ^ 16 * 5 + 2 ^ 59 + 2 ^ 61 + 2 ^ 63)
              fu := { home.fu with jobs := [⟨0, ⟨0, 2, 0, 0⟩, .copying, 0, 0⟩] } }
def homeShared : State := { home with fab := { home.fab with dir := [(lineOf (5 * 2 ^ 19), .shared [8])] } }
def homePoisoned : State := { home with plat := { home.plat with poison := [5 * 2 ^ 13] } }
/-- A write that waits for the acknowledgements of some devices. -/
def homeWaits (devs : List Nat) : State :=
  { home with fab := { home.fab with waits := [⟨request 1 2, lineOf (5 * 2 ^ 19), devs, false, [], [], 0⟩] } }
/-- A request that waits for its answer since moment 0. -/
def asking : State :=
  { home with fab := { home.fab with
    planeUp := List.replicate 8 true, portUp := List.replicate 24 true
    reqs := [⟨9, { request 0 2 with hdr := vuMake 0 7 0 0 0 2 0 9 }, 0, 0, 0, none, none, .warp 0⟩] } }
def isHere (x : FabLook) (p : List (Nat × Nat) → Bool) : Bool := match x with | .here _ fs => p fs | _ => false

theorem witness_FabricEvents :
    [(0, Perm.r, 0), (1, .w, 1), (2, .a, 2)].all (fun q =>
      let r := request q.1 2
      servedB home r q.1 && (pieceLines r.bit r.nbits).all (fun ln => (otherHolders home r ln).isEmpty) &&
      isHere (fabLook home r q.2.1 q.2.2) (fun fs => !(fabPieces r fs).any (piecePoisoned home))) &&
    servedB homePoisoned (request 0 2) 0 &&
    isHere (fabLook homePoisoned (request 0 2) .r 0) (fun fs => (fabPieces (request 0 2) fs).any (piecePoisoned homePoisoned)) &&
    servedB homeMoved (request 1 2) 1 && decide (fabLook homeMoved (request 1 2) .w 1 = .wait) &&
    servedB homeShared (request 1 2) 1 && (pieceLines (5 * 2 ^ 19) 1024).find? (fun ln =>
      !(otherHolders homeShared (request 1 2) ln).isEmpty) == some (lineOf (5 * 2 ^ 19)) &&
    isHere (fabLook homeShared (request 1 2) .w 1) (fun _ => true) &&
    servedB home (request 0 3) 0 && decide (fabLook home (request 0 3) .r 0 = .refuse) &&
    (let p : FabReply := ⟨vuMake 3 0 7 0 0 2 0 9, false, false, 0⟩
     arrivedB asking p.hdr 3 && home.fab.reqs.isEmpty && (asking.fab.reqs.find? (fun o =>
       o.rseq == vuRseq p.hdr && vuDst o.req.hdr == vuSrc p.hdr && !reqOver o &&
       decide (asking.now < o.sent + 2700000))).any (fun o => decide (o.owner ≠ .lost) && o.req.part.isNone)) &&
    [4, 5].all (fun k => arrivedB home (vuMake k home.plat.devnum 7 0 0 0 0 9) k) &&
    (homeWaits [7, 8]).fab.waits.all (fun w => w.devs.any (· != 7)) &&
    (homeWaits [7]).fab.waits.all (fun w => w.devs == [7] && vuSrc w.req.hdr != home.plat.devnum &&
      (pieceLines w.req.bit w.req.nbits).all (fun ln => (otherHolders home w.req ln).isEmpty)) &&
    (let h := vuMake 6 7 7 0 0 0 0 9
     let m : Multicast := ⟨mcWord 2 2 1, [3 + 2 ^ 6 * 1, 5]⟩
     !vuBad h && vuKind h == 6 && vuDst h == vuSrc h && vuSrc h != home.plat.devnum && bits m.word.toNat 0 8 == m.nodes.length &&
     (topTrees (bits m.word.toNat 10 7) (bits m.word.toNat 8 2) 0 m.nodes).isSome) &&
    vuBad (vuMake 6 0 0 0 0 0 0 9 + 1) && (bits (mcWord 2 2 (2 ^ 21 + 1)).toNat 17 15 != 0) = true := by decide +kernel

theorem witness_FailureEvents :
    home.fab.reqs.isEmpty && home.fab.noticed.isEmpty && home.fab.portUp.length == 24 && decide (home.plat.st = .ready) &&
    (asking.fab.reqs.find? (fun o => o.rseq == 9 && !reqOver o)).any (fun o => (routeOf asking.fab (lineOf o.req.bit)).isSome) &&
    [(2699999, [], false), (2700000, [], true), (0, [7], true)].all (fun q =>
      let s := { asking with now := q.1, fab := { asking.fab with barred := q.2.1 } }
      (s.fab.reqs.any (fun o => o.rseq == 9 && !reqOver o && (decide (o.sent + 2700000 ≤ s.now) ||
        (routeOf s.fab 0).isNone || s.fab.barred.contains (vuDst o.req.hdr)))) == q.2.2) &&
    !home.plat.fenced.getD 3 true && home.plat.fenced.getD 4 true &&
    ((List.range 4).find? (fun k => !(home.plat.fenced.set 0 true).getD k true)).isSome && !home.plat.retired.contains 135 &&
    (spireCrews home (135 / 34, 135 % 34)).isEmpty &&
    (let x := warpAt (onWarp home (fun x => { x with lastLd := some ⟨x.sa.path.pc, ⟨h7, v4, 3⟩, 1, 0, 0⟩ })) 0
     x.lastLd.any (fun r => r.pc == x.sa.path.pc && (1 &&& r.dst.lanes) != (0 : Mask)) && !x.gone) &&
    -- A uniform D whose lowest taking lane is sound, and one whose is not.
    [(1 : Mask), 2].all (fun lanes =>
      let m := lanes &&& (3 : Mask)
      m != 0 && (lowest (3 : Mask)).any (fun l => m.getLsbD l == (lanes == 1))) = true := by decide +kernel

def halted (h : Halt) : State := onWarp duo (fun x => { x with halt := h })

theorem witness_HostEvents :
    [0, 1, 63].all (fun fn => decide (fn ≤ 63) && duo.plat.hostWrites.isEmpty && decide (duo.plat.st ≠ .safe) &&
      [0, 1, 2, 3].all (fun block => barOk duo fn block 1)) && ctxReach duo 0 0 &&
    !barOk { duo with plat := { duo.plat with acl := [(116, 147, 0)] } } 3 0 1 &&
    (ctxGet duo 0).any (fun x => !x.stopping && !x.stopped && [0, 3, 2 ^ 8].all (fun v =>
      (if bits v 0 2 = 3 then 0 else bits v 0 2) == bits (csrN x 0x074) 0 2) && [1, 2].all (fun v => v != bits (csrN x 0x074) 0 2)) &&
    (csrInfo 0x046).any (fun i => !i.ro) && (csrInfo 0x073).any (fun i => i.ro) &&
    (ctxGet (onCtx duo (fun x => { x with stopped := true })) 0).any (fun x => x.stopped) && (ctxGet duo 4095).isNone &&
    (ctxLaunches { duo with launches := [] } 0).isEmpty &&
    [0, 255].all (fun q => queueReach duo 0 q) &&
    (let x : Queue := { Queue.zero with en := true, log := 12, head := 0xFFFFFFFF }
     x.en && decide ((0xFFF + 2 ^ 32 - x.head.toNat) % 2 ^ 32 ≤ 2 ^ x.log)) && !(duo.queues.getD 0 Queue.zero).en &&
    (let s := onCtx { duo with launches := [] , crews := [], warps := [] } (fun x => { x with stopping := true })
     (ctxGet s 0).any (fun x => x.stopping) && !ctxBusy s 0) &&
    bar2Ok duo 0 0 16 0 && bar2Ok duo 0 (2 ^ 35 - 8) 8 1 && !bar2Ok duo 0 (2 ^ 36 - 8) 9 0 && duo.plat.poison.isEmpty &&
    duo.fab.dir.isEmpty && duo.fab.waits.isEmpty && duo.copies.isEmpty &&
    (let s := halted .halted
     decide ((warpAt s 0).halt = .halted) && !drainLeft s 0 && (crewAt s (warpAt s 0).crew).eng.isEmpty) &&
    decide ((warpAt (halted .presented) 0).halt = .presented) = true := by decide +kernel

theorem witness_PlatformEvents :
    starting duo = false ∧ duo.plat.st ≠ .safe ∧
    [RunState.cold, .warm].all (fun st => starting { duo with plat := { duo.plat with st := st } }) = true ∧
    ({ duo with plat := { duo.plat with st := .cold } } : State).plat.st = .cold := by decide +kernel

/-- `duo` at a turn of warp 0 whose code, object 5, holds one instruction word at the path's PC. -/
def turning (w : Nat) : State :=
  { duo with
    cur := none, turns := [.issue 0, .wait 3]
    mem := memPutNat (memPutNat [] bootTable 8 (2 ^ 16 * 5 + 2 ^ 61 + 2 ^ 63)) (5 * 65536 + 80) 8 w
    caches := { orc := [⟨0, 5, ([1 + 2 ^ 1 * 2 + 2 ^ 6, 8 + 2 ^ 7 + 2 ^ 11 * 3, 3000, 0, 3000] ++ List.replicate 41 0 ++
      [bootTable, 0, 0, 0] ++ List.replicate 14 0).map (BitVec.ofNat 32)⟩], res := [], ilines := [] } }
/-- Path A of warp 0 issues at the turn. -/
def turns (s : State) : Bool :=
  let s0 := { s with turns := s.turns.drop 1 }
  mayIssue s0 0 && decide ((warpAt s0 0).halt = .no) && !trapDue (warpAt s0 0) && choosePath s0 0 == some .a &&
  [Which.a, .b, .handler].all (fun j => match (slotOf (warpAt s0 0) j).park with
    | some (.handed _ _ _) => false
    | _ => true) && arbiterLets s0 0 .a && !rejoins (slotOf (warpAt s0 0) .a) && (bpMatch s0 0 .a).isNone
/-- The path issues, and its word lies at byte `a`. -/
def fetches (s : State) (a : Nat) : Bool :=
  let t := openIssue { s with turns := s.turns.drop 1 } 0 .a
  let e := envOf t c0
  turns s && !e.sl.failed.contains lastMark && t.caches.ilines.isEmpty &&
  (match checkShape t (envAgent t e) (bits e.pc.toNat 42 22) (bits e.pc.toNat 0 42 : Nat) 64 ⟨some .x, false, true⟩ with
    | .error _ => false
    | .ok l => match findAll t (envAgent t e) l false with
      | ⟨none, [], [p]⟩ => decide (p.place = .phys (8 * a)) && !piecePoisoned t p
      | _ => false)
/-- `turning` with words 0 and 2 of object 5's record. -/
def turningOn (w0 count : Nat) : State :=
  let s := turning 0
  { s with caches := { s.caches with orc := s.caches.orc.map (fun e => { e with
      words := ((e.words.set 0 (BitVec.ofNat 32 w0)).set 2 (BitVec.ofNat 32 count)).set 4 (BitVec.ofNat 32 count) }) } }
/-- The three clauses about a PC that fails a check: the kind, PERM_X, the count. -/
def refusedAt (s : State) : List Bool :=
  let t := openIssue { s with turns := s.turns.drop 1 } 0 .a
  let e := envOf t c0
  match recordOf t (envAgent t e) (bits e.pc.toNat 42 22) (bits e.pc.toNat 0 42) with
  | .error _ => []
  | .ok r => [turns s && recKind r != 2, turns s && recKind r == 2 && !recPerm r .x,
      turns s && recKind r == 2 && recPerm r .x && decide (recCount r ≤ bits e.pc.toNat 0 42)]
theorem witness_StepRunsDecoded :
    [refusedAt (turningOn (1 + 2 ^ 6) 3000), refusedAt (turningOn (1 + 2 ^ 1 * 2) 3000), refusedAt (turningOn (1 + 2 ^ 1 * 2 + 2 ^ 6) 80)] ==
      [[true, false, false], [false, true, false], [false, false, true]] &&
    (let s := onSlotA (turning 0) (fun sl => { sl with failed := [lastMark] })
     turns s && (envOf (openIssue { s with turns := [] } 0 .a) c0).sl.failed.contains lastMark) &&
    (let u := turning 0
     let u := { u with launches := [] }
     u.fab.held.isEmpty && u.fab.reqs.isEmpty && u.fab.waits.isEmpty && u.fab.cut.isNone && u.plat.hostWrites.isEmpty &&
     (List.range u.crews.length).all (fun c => (crewAt u c).req.isNone) &&
     u.ctxs.all (fun e => e.2.olEnded.isEmpty && bits (csrN e.2 0x074) 0 2 != 2)) &&
    (let u := onWarp { turning 0 with turns := [] } (fun x => { x with halt := .pending }); (haltDue u 0).isSome) &&
    (haltDue { trapped with turns := [] } 0).isNone &&
    fetches (turning 0x1670020984000005) (5 * 65536 + 80) && fetches (turning 0x1070000000001000) (5 * 65536 + 80) &&
    decide (decode (memBytes (turning 0x1670020984000005).mem (5 * 65536 + 80) 8) = .ok (.icmp h7 .ge false 1 v4 s2, [])) &&
    decide (decode (memBytes (turning 0x1070000000001000).mem (5 * 65536 + 80) 8) = .error .reserved) &&
    (match step (turning 0x1670020984000005) with | .next t => (warpAt t 0).sa.path.pc == BitVec.ofNat 64 (codePtr 88) | _ => false) &&
    (match step { turning 0 with turns := [.event (.thermalThrottle)] } with | .next t => t.plat.clock == duo.plat.clock + 1 | _ => false) = true := by
  decide +kernel
/-- A word of an instruction that completes, and the delivery of a trap at a turn. -/
theorem witness_StatusRegisters :
    decide (decodeWord 0x0170000000000000 = .ok (.nop g7)) && base.cur == some c0 && decide (0 < base.warps.length) &&
    (match exec (.nop g7) base with | .next _ => true | _ => false) && decide ((warpAt base 0).mode = .user) &&
    decide ((warpAt (supervisor base) 0).mode = .supervisor) &&
    (match takeIssue trapped 0 with | .next t => decide ((warpAt t 0).mode = .supervisor) | _ => false) &&
    decide ((warpAt trapped 0).mode = .user) = true := by decide +kernel

/-- A slot of four bits (S 1, E 2, M 1, BIAS 1), the same with results flushed, and unsigned integers of eight bits. -/
def f4 : Word := 0x90402040
def f4z : Word := 0x90402840
def u8 : Word := 0x02000000
def has (f : Word) (w : Nat) (p : ℚ → Bool) : Bool := (slotValue f w).any p

/-- 5/2 lies between 2 and 3; 1/8 is flushed; 13/2 lies beyond 6; -7/2 is no value of an unsigned slot. -/
theorem witness_Rounding :
    (!fmIllegal f4 && !fmIllegal f4z && !fmIllegal u8) &&
    (has f4 0 (· == 0) && has f4 1 (· == 1 / 2) && has f4 15 (· == -6) && has fmB32 0 (· == 0)) &&
    decide (exQ ⟨false, 5, 2, 0⟩ = 5 / 2) && has f4 4 (fun u => decide (u ≤ 5 / 2)) && has f4 5 (fun u => decide (5 / 2 ≤ u)) &&
    decide (slotNormal f4 ≤ 5 / 2) && decide (2 * |exQ ⟨false, 1, 8, 0⟩| < slotNormal f4z) && fmSub f4z == 1 && fmE f4z != 0 &&
    fmS u8 == 0 && fmE u8 == 0 && decide (exQ ⟨true, 7, 2, 0⟩ < 0) && decide ((2 : ℚ) ^ (-fmBias u8) ≤ |exQ ⟨true, 7, 2, 0⟩|) = true := by
  decide +kernel
theorem witness_Rounding_beyond : beyond f4 (exQ ⟨false, 13, 2, 0⟩) 7 6 := by
  refine ⟨by decide +kernel, by decide +kernel, by decide +kernel, fun w u hw hu => ?_⟩
  have all : ∀ k < 16, ∀ x, slotValue f4 k = some x → 0 < x * exQ ⟨false, 13, 2, 0⟩ → |x| ≤ |(6 : ℚ)| := by
    have h : (List.range 16).all (fun k => match slotValue f4 k with
        | some x => decide (0 < x * exQ ⟨false, 13, 2, 0⟩ → |x| ≤ |(6 : ℚ)|)
        | none => true) = true := by decide +kernel
    intro k hk x hx
    have hk := List.all_eq_true.mp h k (List.mem_range.mpr hk)
    simpa only [hx, decide_eq_true_eq] using hk
  by_cases h : w < 16
  · exact all w h u hw hu
  · have h4 : fmW f4 = 4 := by decide
    simp [slotValue, h4, Nat.not_lt.mp h] at hw

theorem witness_EncodeDecodeRoundTrip :
    [Instr.nop g7, .coll h7 6 true v4 (.s 31), .movi2 h7 true (.v 254) (BitVec.allOnes 32), .tretLaunch gNo].all
      (fun i => wellFormed i && decide (decodeWord (encode i) = .ok i)) = true := by decide +kernel
theorem witness_StoresForm :
    storesWf (turning 0x1670020984000005) = true ∧
    (match step (turning 0x1670020984000005) with | .next t => storesWf t | _ => false) = true := by decide +kernel

end Sys2Proof.Tests
end

namespace Sys2Proof.Machine

/-! ## What leaves the warps as they are -/

/-- A fold of steps that keep a part of what they change keeps that part. -/
theorem foldl_same {α σ β : Type} (p : σ → β) (f : σ → α → σ) (h : ∀ s a, p (f s a) = p s) (xs : List α) (s : σ) :
    p (xs.foldl f s) = p s := by
  induction xs generalizing s with
  | nil => rfl
  | cons x xs ih => rw [List.foldl_cons, ih, h]

theorem warps_of_snd {α : Type} {r : α × State} {a : α} {t : State} (h : r = (a, t)) : t.warps = r.2.warps := by rw [h]

@[simp] theorem hideWrite_warps (s : State) (by_ : Option (ℕ × ℕ)) (rs : List (ℕ × ℕ)) :
    (hideWrite s by_ rs).warps = s.warps := by
  unfold hideWrite; split <;> rfl

@[simp] theorem physPut_warps (s : State) (pa n x : ℕ) :
    (physPut s pa n x).warps = s.warps := by
  unfold physPut; split <;> simp

@[simp] theorem sawBytes_warps (s : State) (path w : ℕ) (rs : List (ℕ × ℕ)) :
    (sawBytes s path w rs).warps = s.warps := by
  unfold sawBytes; split <;> rfl

@[simp] theorem fenceViews_warps (s : State) (src dst : PathSet) (inScope : ℕ → Bool) (w : ℕ) :
    (fenceViews s src dst inScope w).warps = s.warps := rfl

@[simp] theorem raiseMsix_warps (s : State) (fn vec : ℕ) :
    (raiseMsix s fn vec).warps = s.warps := by
  unfold raiseMsix; split <;> rfl

@[simp] theorem dirtyLog_warps (s : State) (t : SubTile) :
    (dirtyLog s t).warps = s.warps := by
  unfold dirtyLog
  split
  · rfl
  · split
    · rfl
    · simp +zeta only [apply_ite State.warps, raiseMsix_warps, ctxPut_warps, physPut_warps, ite_self]

@[simp] theorem markDirty_warps (s : State) (ctx obj : ℕ) (r : Rec) (sub rep : ℕ) :
    (markDirty s ctx obj r sub rep).warps = s.warps := by
  unfold markDirty; (repeat' split) <;> simp

@[simp] theorem markDirtyLoc_warps (s : State) (ctx : ℕ) (l : Loc) :
    (markDirtyLoc s ctx l).warps = s.warps := by
  unfold markDirtyLoc
  split
  · rfl
  · exact foldl_same State.warps _ (fun s _ => foldl_same State.warps _ (fun s _ => markDirty_warps s _ _ _ _ _) _ s) _ s

@[simp] theorem storeLoc_warps (s : State) (by_ : Option (ℕ × ℕ)) (ctx : ℕ) (l : Loc) (ps : List Piece) (x : ℕ) :
    (storeLoc s by_ ctx l ps x).warps = s.warps := by
  unfold storeLoc; simp

@[simp] theorem askUnit_warps (s : State) (tower : ℕ) (ts : List SubTile) :
    (askUnit s tower ts).warps = s.warps := rfl

@[simp] theorem sendReq_warps (s : State) (w : Owner) (r : FabReq) :
    (sendReq s w r).warps = s.warps := by
  unfold sendReq
  dsimp only
  split <;> simp

@[simp] theorem sendMissing_warps (s : State) (w : Owner) (rs : List FabReq) :
    (sendMissing s w rs).warps = s.warps := by
  refine foldl_same State.warps _ (fun s r => ?_) rs s
  split <;> simp

@[simp] theorem exchange_warps (s : State) (w : Owner) (rs : List FabReq) :
    (exchange s w rs).2.warps = s.warps := by
  unfold exchange
  dsimp only
  split <;> simp

@[simp] theorem setDir_warps (s : State) (line : ℕ) (d : Option Dir) :
    (setDir s line d).warps = s.warps := rfl

@[simp] theorem sendNext_warps (s : State) (o : Vuine → Out) (kind dst plane ctx obj sub : ℕ) :
    (sendNext s o kind dst plane ctx obj sub).warps = s.warps := rfl

@[simp] theorem askInvalidate_warps (s : State) (line : ℕ) (ds : List ℕ) (req : FabReq) (atom : Bool) (r : Rec)
    (frames : List (ℕ × ℕ)) :
    (askInvalidate s line ds req atom r frames).warps = s.warps := by
  unfold askInvalidate
  dsimp only
  split
  · refine foldl_same State.warps _ (fun s leaf => ?_) _ s
    split <;> simp
  · exact foldl_same State.warps _ (fun s d => by simp) ds s

@[simp] theorem clearPeers_warps (s : State) (ls : List LineRef) :
    (clearPeers s ls).2.warps = s.warps := by
  unfold clearPeers
  split
  · rfl
  · refine foldl_same (fun r : Bool × State => r.2.warps) _ (fun r q => ?_) ls (true, s)
    dsimp only
    (repeat' split) <;> simp

@[simp] theorem installPeer_warps (s : State) (dev line data : ℕ) :
    (installPeer s dev line data).warps = s.warps := rfl

@[simp] theorem fetchSet_warps (s : State) (w : Owner) (ls : List LineRef) :
    (fetchSet s w ls).2.warps = s.warps := by
  unfold fetchSet
  dsimp only
  split <;> simp

@[simp] theorem fetchLines_warps (s : State) (w : Owner) (ctx obj : ℕ) (ps : List Piece) :
    (fetchLines s w ctx obj ps).2.warps = s.warps := by
  unfold fetchLines; simp

@[simp] theorem saveLog_warps (s : State) (c kind frame : ℕ) (h : DWord) :
    (saveLog s c kind frame h).warps = s.warps := by
  unfold saveLog
  split
  · rfl
  · dsimp only
    split <;> simp

@[simp] theorem saveLogFlush_warps (s : State) (c : ℕ) :
    (saveLogFlush s c).warps = s.warps := by
  unfold saveLogFlush
  split
  · rfl
  · exact (foldl_same State.warps _ (fun s e => saveLog_warps s _ _ _ _) _ _).trans (ctxPut_warps _ _ _)

@[simp] theorem setEnts_warps (s : State) (es : List HEnt) :
    (setEnts s es).warps = s.warps := rfl

@[simp] theorem putEnt_warps (s : State) (serial : ℕ) (f : HEnt → HEnt) :
    (putEnt s serial f).warps = s.warps := rfl

@[simp] theorem reclaim_warps (s : State) :
    (reclaim s).warps = s.warps := rfl

@[simp] theorem savedRecord_warps (s : State) (x : Warp) (q7 : Bool) (r : BitVec 128) :
    (savedRecord s x q7 r).warps = s.warps := rfl

@[simp] theorem releaseFrames_warps (s : State) (c : ℕ) :
    (releaseFrames s c).warps = s.warps := by
  unfold releaseFrames
  dsimp only
  (repeat' split) <;> simp

@[simp] theorem tellAbandon_warps (s : State) (c : CollCmd) (code detail : ℕ) (ds : List ℕ) :
    (tellAbandon s c code detail ds).warps = s.warps := by
  exact foldl_same State.warps _ (fun s d => send_warps s _) _ s

@[simp] theorem sendAbandon_warps (s : State) (c : CollCmd) (code detail : ℕ) :
    (sendAbandon s c code detail).warps = s.warps := by
  unfold sendAbandon; split <;> simp

@[simp] theorem abandonColls_warps (s : State) (cs : List ℕ) :
    (abandonColls s cs).1.warps = s.warps := by
  exact foldl_same State.warps _ (fun s k => sendAbandon_warps s k 4 0) _ s

@[simp] theorem dropOwners_warps (s : State) (p : Owner → Bool) :
    (dropOwners s p).warps = s.warps := rfl

@[simp] theorem mismEnd_warps (s : State) (h : DWord) :
    (mismEnd s h).warps = s.warps := by
  unfold mismEnd; (repeat' split) <;> simp

@[simp] theorem putKnown_warps (s : State) (k : Remote) :
    (putKnown s k).warps = s.warps := rfl

@[simp] theorem knowReport_warps (s : State) (ctx : ℕ) (r : HandleReport) :
    (knowReport s ctx r).warps = s.warps := rfl

@[simp] theorem reportHome_warps (s : State) (b : Brk) (state : ℕ) (result : DWord) :
    (reportHome s b state result).warps = s.warps := by
  unfold reportHome; split <;> rfl

@[simp] theorem setLState_warps (s : State) (h : DWord) (st : LState) (code : ℕ) :
    (setLState s h st code).warps = s.warps := by
  unfold setLState
  dsimp only
  (repeat' split) <;> simp

@[simp] theorem forwardHeld_warps (s : State) (h : DWord) :
    (forwardHeld s h).warps = s.warps := by
  unfold forwardHeld
  split
  · rfl
  · split
    · rfl
    · dsimp only
      split
      · exact (foldl_same State.warps _ (fun s o => saveLog_warps s _ _ _ _) _ _).trans (putEnt_warps _ _ _)
      · exact (foldl_same State.warps _ (fun s m => send_warps s _) _ _).trans
          ((foldl_same State.warps _ (fun s o => saveLog_warps s _ _ _ _) _ _).trans (putEnt_warps _ _ _))

@[simp] theorem haltSaved_warps (s : State) (h : DWord) :
    (haltSaved s h).warps = s.warps := rfl

@[simp] theorem fetchLanes_warps (s : State) (w ctx : ℕ) (accs : List LaneAcc) :
    (fetchLanes s w ctx accs).2.warps = s.warps := by
  unfold fetchLanes; simp

@[simp] theorem storeLane_warps (s : State) (w ctx : ℕ) (a : LaneAcc) (x : ℕ) :
    (storeLane s w ctx a x).warps = s.warps := by
  exact foldl_same (fun r : State × Nat => r.1.warps) _ (fun r p => storeLoc_warps r.1 _ _ _ _ _) _ (s, 0)

@[simp] theorem readTile_warps (s : State) (c : ℕ) (cmd : EngCmd) :
    (readTile s c cmd).1.warps = s.warps := by
  unfold readTile
  dsimp only
  split
  · rfl
  · split <;> rename_i heq <;> simp [warps_of_snd heq]

@[simp] theorem engPop_warps (s : State) (c : ℕ) :
    (engPop s c).warps = s.warps := rfl

@[simp] theorem engPush_warps (s : State) (e : Env) (m : Mask) (f : FSlot) (load obj blk : Bool) (o a cfg : ℕ)
    (mb : Option ℕ) :
    (engPush s e m f load obj blk o a cfg mb).warps = s.warps := rfl

@[simp] theorem cpStore_warps (s : State) (k : Walk) (l : Loc) (wr : List Piece) (v : ℕ) :
    (cpStore s k l wr v).warps = s.warps := by
  unfold cpStore; simp

@[simp] theorem copySaw_warps (s : State) (k : Walk) (ps : List CpPos) :
    (copySaw s k ps).warps = s.warps := by
  unfold copySaw; simp

@[simp] theorem copyDying_warps (s : State) (cmd : CopyCmd) :
    (copyDying s cmd).warps = s.warps := rfl

@[simp] theorem captureRead_warps (s : State) (ag : Agent) (w : Owner) (addr n : ℕ) :
    (captureRead s ag w addr n).1.warps = s.warps := by
  unfold captureRead
  dsimp only
  split
  · rfl
  · split
    · rfl
    · split
      · rfl
      · split <;> rename_i heq <;> [skip; skip; split] <;> exact (warps_of_snd heq).trans (fetchLines_warps ..)

@[simp] theorem capture_warps (s : State) (ag : Agent) (w : Owner) (record : List Byte) :
    (capture s ag w record).1.warps = s.warps := by
  unfold capture
  dsimp only
  (repeat' split) <;> simp

@[simp] theorem enterRing_warps (s : State) (qn : ℕ) (m : LaunchMsg) (kind : RingKind) :
    (enterRing s qn m kind).warps = s.warps := by
  unfold enterRing; simp

@[simp] theorem askHome_warps (s : State) (ctx : ℕ) (h : DWord) (w : ℕ) :
    (askHome s ctx h w).2.warps = s.warps := by
  unfold askHome
  dsimp only
  (repeat' split) <;> simp

@[simp] theorem changeRefs_warps (s : State) (h : DWord) (up : Bool) :
    (changeRefs s h up).warps = s.warps := by
  unfold changeRefs; split <;> simp

@[simp] theorem releaseReserves_warps (s : State) :
    (releaseReserves s).warps = s.warps := by
  refine foldl_same State.warps _ (fun s c => ?_) _ s
  dsimp only
  (repeat' split) <;> simp

@[simp] theorem dropContext_warps (s : State) (c : ℕ) :
    (dropContext s c).warps = s.warps := by
  unfold dropContext
  dsimp only
  split <;> simp

@[simp] theorem atomLane_warps (s : State) (w ctx aop n v sw : ℕ) (fw g : Word) (a : LaneAcc)
    (ans : Option (ℕ × Option ℕ)) :
    (atomLane s w ctx aop n v sw fw g a ans).1.warps = s.warps := by
  unfold atomLane
  split
  · rfl
  · split
    · rfl
    · rfl
    · dsimp only
      rw [storeLoc_warps]
      split <;> rfl

@[simp] theorem setBank_warps (s : State) (k : ℕ) (xs : List PSlot) :
    (setBank s k xs).warps = s.warps := rfl

@[simp] theorem overRows_warps (s : State) (rows : List (ℕ × ℕ)) (f : List PSlot → ℕ → List PSlot × Bool) :
    (overRows s rows f).1.warps = s.warps := by
  exact foldl_same (fun r : State × Nat => r.1.warps)
    (fun acc kf => (setBank acc.1 kf.1 (f (bankSlots acc.1 kf.1) kf.2).1,
      acc.2 + if (f (bankSlots acc.1 kf.1) kf.2).2 then 1 else 0)) (fun r kf => rfl) rows (s, 0)

/-- The definition is unfolded as a constant: with its arguments the kernel would evaluate the side that it matches
on. -/
@[simp] theorem wordAtIssue_warps (s : State) (e : Env) (obj k : Nat) : (wordAtIssue s e obj k).2.warps = s.warps := by
  generalize hr : wordAtIssue s e obj k = r
  generalize hf : wordAtIssue = f at hr
  delta wordAtIssue at hf
  subst hf
  beta_reduce at hr
  split at hr
  · split at hr <;> rename_i heq <;> subst hr <;> exact (warps_of_snd heq).trans (fetchLines_warps ..)
  · subst hr; rfl

theorem rankAtIssue_eq (s : State) (e : Env) (obj : Nat) : rankAtIssue s e obj =
    ((wordAtIssue s e obj 0).1.map (fun w => bits (w.getD 0) 16 13), (wordAtIssue s e obj 0).2) := rfl

@[simp] theorem rankAtIssue_warps (s : State) (e : Env) (obj : Nat) : (rankAtIssue s e obj).2.warps = s.warps :=
  (warps_of_snd (rankAtIssue_eq s e obj)).symm.trans (wordAtIssue_warps ..)

@[simp] theorem takeCseq_warps (s : State) (e : Env) (obj : Nat) (l : Loc) (rd wr : List Piece) :
    (takeCseq s e obj l rd wr).2.warps = s.warps := by
  unfold takeCseq
  split
  · rename_i hc
    exact (warps_of_snd hc).trans (clearPeers_warps ..)
  · rename_i hc
    have hs := (warps_of_snd hc).trans (clearPeers_warps ..)
    split
    · rename_i hx
      exact ((warps_of_snd hx).trans (exchange_warps ..)).trans hs
    · rename_i hx
      have ht := ((warps_of_snd hx).trans (exchange_warps ..)).trans hs
      split
      · exact ht
      · dsimp only
        split <;> simp [ht]

theorem allocHandle_warps {s t : State} {state dev ctx kind : Nat} {ntf : Option Nat} {h : DWord}
    (a : allocHandle s state dev ctx kind ntf = some (h, t)) : t.warps = s.warps := by
  unfold allocHandle at a
  split at a
  · cases a
  · split at a
    · cases a
    · cases a; rfl

theorem ctxCsrWrite_warps {s t : State} {c n v tower : Nat} (h : ctxCsrWrite s c n v tower = .ok t) :
    t.warps = s.warps := by
  unfold ctxCsrWrite at h
  dsimp only at h
  (repeat' split at h) <;> cases h <;> simp

/-! ### The order log -/

theorem olAppend_warps {s t : State} {ag : Agent} {r : Nat} (h : olAppend s ag r = .done t) : t.warps = s.warps := by
  unfold olAppend at h
  have sent : ∀ (ctx : Nat) (l : Loc) (ps : List Piece), ((writeReqs s ctx l.obj r ps).foldl
      (fun s q => sendReq s .lost q) (storeLoc s none ctx l ps r)).warps = s.warps := fun ctx l ps =>
    (foldl_same State.warps _ (fun s q => sendReq_warps s _ q) _ _).trans (storeLoc_warps ..)
  dsimp only at h
  (repeat' split at h) <;> cases h <;> simp [sent]

theorem olReplay_warps {s t : State} {ag : Agent} {r : Nat} (h : olReplay s ag r = .done t) : t.warps = s.warps := by
  unfold olReplay at h
  dsimp only at h
  (repeat' split at h) <;> cases h <;> rfl

theorem olOne_warps {s t : State} {ag : Agent} {r : Nat} (h : olOne s ag r = .done t) : t.warps = s.warps := by
  unfold olOne at h
  split at h
  · cases h; rfl
  · split at h
    · exact olAppend_warps h
    · exact olReplay_warps h
    · cases h; rfl

theorem olFold_warps {s t : State} {e : Env} {evs : List OlEvent} (h : olFold s e evs = .done t) :
    t.warps = s.warps := by
  unfold olFold at h
  induction evs generalizing s with
  | nil => cases h; rfl
  | cons ev evs ih =>
    change List.foldl _ (olOne s (olAgent e.cr.ctx e.sl.failed) (olRecord s e.w e.seq ev)) evs = _ at h
    cases hs : olOne s (olAgent e.cr.ctx e.sl.failed) (olRecord s e.w e.seq ev) with
    | done u => rw [hs] at h; exact (ih h).trans (olOne_warps hs)
    | _ =>
      rw [hs] at h
      exfalso
      clear ih hs
      induction evs with
      | nil => cases h
      | cons _ _ ih => exact ih h

@[simp] theorem atomLog_warps (s : State) (e : Env) (logged : Bool) (accs : List LaneAcc) :
    (atomLog s e logged accs).warps = s.warps := by
  refine foldl_same State.warps _ (fun s a => ?_) accs s
  split
  · rename_i h; exact olFold_warps h
  · rfl

end Sys2Proof.Machine

namespace Sys2Proof.Machine

/-! ### What instructions do to flags and modes (R13, R15) -/

/-- What an instruction may do besides: clear bits of FFLAGS, and let one warp leave supervisor mode. -/
structure Allowed where
  clears : Bool
  leaves : Option Nat

variable {K : Allowed} {xs : List Warp}

/-- Warp w has lost no bit of FFLAGS, and its mode has changed only to user mode, as the warp that may leave supervisor
mode or as a warp that has ended. -/
def StatusKept (K : Allowed) (w : Nat) (a b : Warp) : Prop :=
  (K.clears = false → b.fflags &&& a.fflags = a.fflags) ∧
  (b.mode = a.mode ∨ (b.mode = .user ∧ (K.leaves = some w ∨ b.alive = 0))) ∧
  (a.alive = 0 → b.alive = 0)

/-- The warps `ys` have come from the warps `xs` with their status kept. -/
def Keeps (K : Allowed) (xs ys : List Warp) : Prop :=
  ys.length = xs.length ∧ ∀ w, StatusKept K w (xs.getD w Warp.zero) (ys.getD w Warp.zero)

theorem statusKept_of_eq {w : Nat} {a b : Warp} (hf : b.fflags = a.fflags) (hm : b.mode = a.mode)
    (ha : a.alive = 0 → b.alive = 0) : StatusKept K w a b := ⟨fun _ => by simp [hf], .inl hm, ha⟩

theorem statusKept_trans {w : Nat} {a b c : Warp} (h : StatusKept K w a b) (k : StatusKept K w b c) :
    StatusKept K w a c := by
  obtain ⟨f, m, l⟩ := h
  obtain ⟨f', m', l'⟩ := k
  refine ⟨fun hc => ?_, ?_, fun h => l' (l h)⟩
  · rw [← f hc, ← BitVec.and_assoc, f' hc]
  · rcases m' with m' | m'
    · rcases m with m | ⟨m, d⟩
      · exact .inl (m'.trans m)
      · exact .inr ⟨m'.trans m, d.imp id l'⟩
    · exact .inr m'

@[simp] theorem keeps_refl : Keeps K xs xs := ⟨rfl, fun _ => statusKept_of_eq rfl rfl id⟩

theorem keeps_trans {ys zs : List Warp} (h : Keeps K xs ys) (k : Keeps K ys zs) : Keeps K xs zs :=
  ⟨k.1.trans h.1, fun w => statusKept_trans (h.2 w) (k.2 w)⟩

/-- One warp is replaced by a warp that has kept its status. -/
theorem keeps_setWarp {s : State} {w : Nat} {x : Warp} (h : Keeps K xs s.warps) (hx : StatusKept K w (warpAt s w) x) :
    Keeps K xs (setWarp s w x).warps := by
  refine keeps_trans h ⟨setWarp_length s w x, fun v => ?_⟩
  show StatusKept K v (warpAt s v) (warpAt (setWarp s w x) v)
  by_cases hv : w = v
  · subst hv
    by_cases hl : w < s.warps.length
    · rwa [warpAt_setWarp _ _ _ hl]
    · have : s.warps.set w x = s.warps := List.set_eq_of_length_le (Nat.not_lt.mp hl)
      show StatusKept K w (warpAt s w) ((s.warps.set w x).getD w Warp.zero)
      rw [this]
      exact keeps_refl.2 w
  · rw [warpAt_setWarp_ne _ _ hv]
    exact keeps_refl.2 v

/-- One warp is replaced by one with the same flags, mode and lanes. -/
@[simp] theorem keeps_setWarp_same {s : State} {w : Nat} {x : Warp} (h : Keeps K xs s.warps)
    (hf : x.fflags = (warpAt s w).fflags) (hm : x.mode = (warpAt s w).mode) (ha : x.alive = (warpAt s w).alive) :
    Keeps K xs (setWarp s w x).warps := keeps_setWarp h (statusKept_of_eq hf hm (fun h => ha.trans h))

@[simp] theorem keeps_setSlot {s : State} (h : Keeps K xs s.warps) (w : Nat) (k : Which) (sl : Slot) :
    Keeps K xs (setSlot s w k sl).warps := by simp [setSlot, h]

@[simp] theorem keeps_setSsn {s : State} (h : Keeps K xs s.warps) (w n : Nat) : Keeps K xs (setSsn s w n).warps :=
  keeps_setWarp_same h rfl rfl rfl

theorem keeps_ite {c : Prop} [Decidable c] {a b : State} (ha : Keeps K xs a.warps) (hb : Keeps K xs b.warps) :
    Keeps K xs (if c then a else b).warps := by
  split
  · exact ha
  · exact hb

theorem keeps_ite_fst {α : Type} {c : Prop} [Decidable c] {a b : State × α} (ha : Keeps K xs a.1.warps)
    (hb : Keeps K xs b.1.warps) : Keeps K xs (if c then a else b).1.warps := by
  split
  · exact ha
  · exact hb

/-- A fold of steps that keep the status keeps it. -/
theorem keeps_foldl {α : Type} {f : State → α → State} (hf : ∀ s a, Keeps K xs s.warps → Keeps K xs (f s a).warps)
    {s : State} (h : Keeps K xs s.warps) (as : List α) : Keeps K xs (as.foldl f s).warps := by
  induction as generalizing s with
  | nil => exact h
  | cons a as ih => exact ih (hf s a h)

/-! ### Arrivals and resumed paths -/

theorem keeps_entPut {s t : State} {fl : List (SubTile × Nat × Nat)} {w k : Nat} {e : BitVec 256}
    (h : Keeps K xs s.warps) (ht : entPut s fl w k e = .ok t) : Keeps K xs t.warps := by
  unfold entPut at ht
  split at ht
  · cases ht
    exact keeps_setWarp_same h rfl rfl rfl
  · dsimp only at ht
    split at ht
    · cases ht
    · split at ht
      · cases ht
      · cases ht
        rw [foldl_same State.warps _ (fun s r => sendReq_warps s _ r), storeLoc_warps]
        exact h

theorem keeps_arriveAt {s t : State} {fl : List (SubTile × Nat × Nat)} {w : Nat} {k : Which}
    (h : Keeps K xs s.warps) (ht : arriveAt s fl w k = .ok t) : Keeps K xs t.warps := by
  unfold arriveAt at ht
  dsimp only at ht
  split at ht
  · cases ht
    exact keeps_setSlot h _ _ _
  · split at ht
    · cases ht
    · split at ht
      · cases ht
      · split at ht
        · cases ht
          exact keeps_setSlot (keeps_setSsn (keeps_setSlot h _ _ _) _ _) _ _ _
        · exact keeps_entPut (keeps_setSlot h _ _ _) ht

theorem keeps_popInto {s t : State} {fl : List (SubTile × Nat × Nat)} {w : Nat} {k : Which}
    (h : Keeps K xs s.warps) (ht : popInto s fl w k = .ok (some t)) : Keeps K xs t.warps := by
  unfold popInto at ht
  dsimp only at ht
  (repeat' split at ht) <;> cases ht
  simp [h]

theorem keeps_settlePaths {s t : State} {fl : List (SubTile × Nat × Nat)} {w f : Nat} {k : Which}
    (h : Keeps K xs s.warps) (ht : settlePaths f s fl w k = .ok t) : Keeps K xs t.warps := by
  have arrived : ∀ {f : Nat} {s : State} {j : Which}, (∀ {u : State}, Keeps K xs u.warps →
      settlePaths f u fl w k = .ok t → Keeps K xs t.warps) → Keeps K xs s.warps →
      (arriveAt s fl w j).bind (fun s => settlePaths f s fl w k) = .ok t → Keeps K xs t.warps := by
    intro f s j ih h ht
    cases hu : arriveAt s fl w j with
    | error x => rw [hu] at ht; cases ht
    | ok u => rw [hu] at ht; exact ih (keeps_arriveAt h hu) ht
  induction f generalizing s with
  | zero => cases ht; exact h
  | succ f ih =>
    unfold settlePaths at ht
    dsimp only at ht
    split at ht
    · exact arrived ih h ht
    · split at ht
      · exact arrived ih h ht
      · split at ht
        · cases ht
        · cases ht; exact h
        · rename_i u hu
          refine ih ?_ ht
          split at hu
          · exact keeps_popInto h hu
          · split at hu
            · exact keeps_popInto h hu
            · cases hu

theorem keeps_settle {s t : State} {w : Nat} {k : Which} (h : Keeps K xs s.warps) (ht : settle s w k = .ok t) :
    Keeps K xs t.warps := keeps_settlePaths h ht

@[simp] theorem keeps_waitSlot {s : State} (h : Keeps K xs s.warps) (w : Nat) (k : Which) (ts : List SubTile) :
    Keeps K xs (waitSlot s w k ts).warps := by simp [waitSlot, h]
@[simp] theorem keeps_trapBack {s : State} (h : Keeps K xs s.warps) (w : Nat) (k : Which) (c d : Nat) :
    Keeps K xs (resumeSlot.trapBack w k s c d).warps := by simp [resumeSlot.trapBack, h]
@[simp] theorem keeps_trapParked {s : State} (h : Keeps K xs s.warps) (w : Nat) (k : Which) (c d : Nat) (b : Bool) :
    Keeps K xs (trapParked s w k c d b).warps := by simp [trapParked, h]

@[simp] theorem keeps_resumeSlot {s : State} (h : Keeps K xs s.warps) (w : Nat) (k : Which) :
    Keeps K xs (resumeSlot s w k).warps := by
  unfold resumeSlot
  dsimp only
  split
  · simp [h]
  · split
    · rename_i ht
      exact keeps_settle (keeps_setSlot h _ _ _) ht
    · simp [h]
    · simp [h]
    · split <;> rename_i hf <;> have hw := (warps_of_snd hf).trans (fetchSet_warps ..) <;> simp [hw, h]
    · simp [h]

theorem keeps_forParked {s : State} (h : Keeps K xs s.warps) (ws : List Nat) {f : State → Nat → Which → Park → State}
    (hf : ∀ s w k p, Keeps K xs s.warps → Keeps K xs (f s w k p).warps) : Keeps K xs (forParked s ws f).warps := by
  refine keeps_foldl (fun s w h => keeps_foldl (fun s k h => ?_) h _) h ws
  split
  · exact hf _ _ _ _ h
  · exact h

@[simp] theorem keeps_wakeWhere {s : State} (h : Keeps K xs s.warps) (ws : List Nat) (p : Park → Bool) :
    Keeps K xs (wakeWhere s ws p).warps :=
  keeps_forParked h ws (fun s w k pk h => keeps_ite (keeps_resumeSlot h w k) h)

/-! ### Barriers, ports and handles -/

@[simp] theorem keeps_barTest {s : State} (h : Keeps K xs s.warps) (c n : Nat) : Keeps K xs (barTest s c n).warps := by
  unfold barTest
  dsimp only
  split
  · exact h
  · exact keeps_ite h (keeps_wakeWhere (by exact h) _ _)

@[simp] theorem keeps_barArrive {s : State} (h : Keeps K xs s.warps) (c n e : Nat) :
    Keeps K xs (barArrive s c n e).warps := keeps_barTest (by exact h) _ _

@[simp] theorem keeps_mbStore {s : State} (h : Keeps K xs s.warps) (c off e : Nat) :
    Keeps K xs (mbStore s c off e).warps := keeps_wakeWhere (by exact h) _ _

@[simp] theorem keeps_mbEngine {s : State} (h : Keeps K xs s.warps) (c off bytes : Nat) (arrive : Bool) :
    Keeps K xs (mbEngine s c off bytes arrive).2.warps := by
  unfold mbEngine
  dsimp only
  split
  · exact h
  · exact keeps_mbStore h _ _ _

@[simp] theorem keeps_portRecord {s : State} (h : Keeps K xs s.warps) (w : Nat) (q7 : Bool) (r : BitVec 128) :
    Keeps K xs (portRecord s w q7 r).warps := by
  unfold portRecord
  dsimp only
  (repeat' split) <;> simp [h]

@[simp] theorem keeps_tellWarp {s : State} (h : Keeps K xs s.warps) (w : Nat) (g : DWord) (status : Nat) :
    Keeps K xs (tellWarp s w g status).warps := keeps_portRecord h _ _ _

@[simp] theorem keeps_notify {s : State} (h : Keeps K xs s.warps) (e : HEnt) (g : DWord) :
    Keeps K xs (notify s e g).warps := by
  unfold notify; split <;> simp [h]

@[simp] theorem keeps_giveStatus {s : State} (h : Keeps K xs s.warps) (w : Nat) (k : Which) (g : DWord) (dst : Dest)
    (status : Nat) : Keeps K xs (giveStatus s w k g dst status).warps := by
  unfold giveStatus; split <;> simp [h]

@[simp] theorem keeps_wakeHwait {s : State} (h : Keeps K xs s.warps) (g : DWord) (status : Nat) :
    Keeps K xs (wakeHwait s g status).warps := by
  refine keeps_forParked h _ (fun s w k pk h => ?_)
  split
  · exact keeps_ite (keeps_giveStatus h _ _ _ _ _) h
  · exact h

@[simp] theorem keeps_giveBack {s : State} (h : Keeps K xs s.warps) (w : Nat) (k : Which) :
    Keeps K xs (giveBack s w k).warps := by
  unfold giveBack
  dsimp only
  split
  · split
    · simp [h]
    · split <;> simp [h]
  · exact h

/-! ### The ends of warps, crews and launches -/

@[simp] theorem keeps_xswapEnded {s : State} (h : Keeps K xs s.warps) (w : Nat) :
    Keeps K xs (xswapEnded s w).warps := by
  refine keeps_forParked h _ (fun s v k pk h => ?_)
  split
  · exact keeps_ite (keeps_trapParked (keeps_giveBack h _ _) _ _ _ _ _) h
  · exact h

@[simp] theorem keeps_warpEnded {s : State} (h : Keeps K xs s.warps) (w : Nat) : Keeps K xs (warpEnded s w).warps := by
  refine keeps_xswapEnded (keeps_foldl (fun s n h => ?_) ?_ _) w
  · split
    · exact keeps_barTest h _ _
    · exact h
  · exact keeps_setWarp h (statusKept_of_eq rfl rfl (fun _ => rfl))

/-- A warp of a crew that ends is in user mode, and has no lanes. -/
theorem statusKept_deadWarp (w : Nat) (x : Warp) : StatusKept K w x { deadWarp x with gone := true } :=
  ⟨fun _ => by simp [deadWarp], .inr ⟨rfl, .inr rfl⟩, fun _ => rfl⟩

@[simp] theorem keeps_endCrew {s : State} (h : Keeps K xs s.warps) (c : Nat) : Keeps K xs (endCrew s c).1.warps := by
  unfold endCrew
  dsimp only
  split
  · exact h
  · rw [setCrew_warps]
    refine keeps_foldl (fun s w h => keeps_xswapEnded (keeps_setWarp h (statusKept_deadWarp w _)) w) ?_ _
    simp [h]

@[simp] theorem keeps_stopLaunch {s : State} (h : Keeps K xs s.warps) (g : DWord) :
    Keeps K xs (stopLaunch s g).1.warps := by
  unfold stopLaunch
  split
  · exact h
  · dsimp only
    refine List.foldlRecOn (motive := fun (r : State × List Brk) => Keeps K xs r.1.warps) _ _ ?_ ?_
    · rw [putLaunch_warps, abandonColls_warps, mismEnd_warps, foldl_same State.warps _ (fun s k => saveLog_warps s _ _ _ _)]
      exact h
    · intro r hr c _
      split
      · exact keeps_endCrew hr c
      · exact hr

@[simp] theorem keeps_breakOne {s : State} (h : Keeps K xs s.warps) (b : Brk) : Keeps K xs (breakOne s b).1.warps := by
  unfold breakOne
  refine keeps_ite_fst h ?_
  · refine keeps_stopLaunch ?_ b.h
    dsimp only
    split
    · simp [h]
    · refine keeps_wakeHwait (keeps_notify ?_ _ _) _ _
      rw [foldl_same State.warps _ (fun s a => saveLog_warps s _ _ _ _),
        foldl_same State.warps _ (fun s d => (send_warps _ _).trans (send_warps s _))]
      refine keeps_ite h h

@[simp] theorem keeps_breakAll {s : State} (h : Keeps K xs s.warps) (f : Nat) (bs : List Brk) :
    Keeps K xs (breakAll f bs s).warps := by
  induction f generalizing s bs with
  | zero => exact h
  | succ f ih =>
    cases bs with
    | nil => exact h
    | cons b bs => exact ih (keeps_breakOne h b) _

@[simp] theorem keeps_breakHandles {s : State} (h : Keeps K xs s.warps) (bs : List Brk) :
    Keeps K xs (breakHandles s bs).warps := keeps_breakAll h _ bs

@[simp] theorem keeps_breakLaunch {s : State} (h : Keeps K xs s.warps) (g : DWord) (code detail : Nat) :
    Keeps K xs (breakLaunch s g code detail).warps := keeps_breakHandles h _

@[simp] theorem keeps_enterMessages {s : State} (h : Keeps K xs s.warps) : Keeps K xs (enterMessages s).warps := by
  refine keeps_foldl (fun s m h => ?_) ?_ _
  · exact keeps_ite (keeps_breakLaunch h _ _ _) h
  · exact h

@[simp] theorem keeps_advanceOnce {s : State} (h : Keeps K xs s.warps) : Keeps K xs (advanceOnce s).warps := by
  refine keeps_foldl (fun s l h => ?_) h _
  split
  · exact h
  · split
    · exact h
    · split
      · exact keeps_breakHandles h _
      · split <;> simp [h]

@[simp] theorem keeps_advanceLaunches {s : State} (h : Keeps K xs s.warps) (f : Nat) :
    Keeps K xs (advanceLaunches f s).warps := by
  induction f generalizing s with
  | zero => exact h
  | succ f ih => exact ih (keeps_advanceOnce h)

@[simp] theorem keeps_settleAll {s : State} (h : Keeps K xs s.warps) : Keeps K xs (settleAll s).warps := by
  rw [settleAll, releaseReserves_warps]
  exact keeps_advanceLaunches (keeps_enterMessages h) _

end Sys2Proof.Machine

namespace Sys2Proof.Machine

variable {K : Allowed} {xs : List Warp}

/-! ### Traps and parks -/

@[simp] theorem keeps_trapOverflow {s : State} (h : Keeps K xs s.warps) (w : Nat) :
    Keeps K xs (trapOverflow s w).warps := keeps_breakHandles (keeps_endCrew h _) _

@[simp] theorem keeps_queueSaved {s : State} (h : Keeps K xs s.warps) (x : Warp) (t : TrapEntry) :
    Keeps K xs (queueSaved s x t).warps := by
  unfold queueSaved
  split
  · exact h
  · exact keeps_ite (keeps_breakLaunch h _ _ _) h

@[simp] theorem keeps_queueTrap {s : State} (h : Keeps K xs s.warps) (w : Nat) (t : TrapEntry) :
    Keeps K xs (queueTrap s w t).warps := by
  unfold queueTrap
  exact keeps_ite (keeps_queueSaved h _ _) (keeps_ite (keeps_breakLaunch h _ _ _)
    (keeps_ite (keeps_trapOverflow h w) (keeps_setWarp_same h rfl rfl rfl)))

@[simp] theorem keeps_takeTrap {s : State} (h : Keeps K xs s.warps) (e : Env) (fslot : Nat) (r : Raise) :
    Keeps K xs (takeTrap s e fslot r).warps :=
  keeps_ite (keeps_breakLaunch h _ _ _) (keeps_queueTrap h _ _)

@[simp] theorem keeps_asyncTrap {s : State} (h : Keeps K xs s.warps) (w issue fslot cause : Nat) (lanes : Mask)
    (pc : DWord) (addr detail : Nat) : Keeps K xs (asyncTrap s w issue fslot cause lanes pc addr detail).warps :=
  keeps_queueTrap h _ _

@[simp] theorem keeps_finishWarp {s : State} (h : Keeps K xs s.warps) (w : Nat) : Keeps K xs (finishWarp s w).warps := by
  unfold finishWarp
  have ht := keeps_warpEnded h w
  generalize warpEnded s w = t at ht ⊢
  dsimp only
  split
  · exact ht
  · refine keeps_breakLaunch ?_ _ _ _
    exact keeps_setWarp_same ht rfl rfl rfl

@[simp] theorem keeps_parkPath {s : State} (h : Keeps K xs s.warps) (w : Nat) (k : Which) (p : Park) :
    Keeps K xs (parkPath s w k p).warps := keeps_setSlot h _ _ _

@[simp] theorem keeps_olCount {s : State} (h : Keeps K xs s.warps) (e : Env) : Keeps K xs (olCount s e).warps :=
  keeps_ite h (keeps_setWarp_same h rfl rfl rfl)

@[simp] theorem keeps_keepTurn {s : State} (h : Keeps K xs s.warps) (e : Env) (gen : Option Word)
    (done : List (Nat × Nat × Nat)) : Keeps K xs (keepTurn s e gen done).warps := keeps_setSlot (keeps_olCount h e) _ _ _

@[simp] theorem keeps_holdPath {s : State} (h : Keeps K xs s.warps) (e : Env) : Keeps K xs (holdPath s e).warps :=
  keeps_setWarp_same h rfl rfl rfl

@[simp] theorem keeps_markStale {s : State} (h : Keeps K xs s.warps) (e : Env) : Keeps K xs (markStale s e).warps :=
  keeps_setSlot h _ _ _

@[simp] theorem keeps_fetchHeld {s : State} (h : Keeps K xs s.warps) (e : Env) (fslot : Nat) (ls : List LineRef) :
    Keeps K xs (fetchHeld s e fslot (fun s => holdPath s e) ls).warps := by
  unfold fetchHeld
  split <;> rename_i hf <;> have hs := (warps_of_snd hf).trans (fetchSet_warps ..)
  · exact keeps_takeTrap (by rw [hs]; exact h) _ _ _
  · exact keeps_holdPath (by rw [hs]; exact h) _

@[simp] theorem keeps_haltWarp {s : State} (h : Keeps K xs s.warps) (w : Nat) : Keeps K xs (haltWarp s w).warps := by
  refine keeps_setWarp_same (keeps_ite h (keeps_foldl (fun s v h => ?_) ?_ _)) rfl rfl rfl
  · exact keeps_ite (keeps_setWarp_same h rfl rfl rfl) h
  · exact keeps_ite h (by rw [haltSaved_warps]; exact h)

/-! ### Meanings that answer a state, or why they stop -/

/-- The state that a stopped instruction leaves has kept the status of the warps. -/
def StopSound (K : Allowed) (xs : List Warp) : Stop → Prop
  | .park _ t => Keeps K xs t.warps
  | .partly t => Keeps K xs t.warps
  | .hold t => Keeps K xs t.warps
  | .trap _ => True
  | .again _ => True
  | .fetch _ => True
  | .clear _ => True

/-- A part of a meaning that keeps the status of the warps, in the state that it answers and in that in which it stops. -/
def Sound {α : Type} (K : Allowed) (xs : List Warp) (f : α → State) : Except Stop α → Prop
  | .ok a => Keeps K xs (f a).warps
  | .error x => StopSound K xs x

/-- The outcome of an instruction whose warps have kept their status. -/
def OutSound (K : Allowed) (xs : List Warp) : Host.Outcome State Fault Refusal → Prop
  | .next t => Keeps K xs t.warps
  | .fault _ => True
  | .refused _ => True

section Sound
variable {α β γ : Type} {f : α → State} {g : β → State}

theorem sound_ite {c : Prop} [Decidable c] {a b : Except Stop α} (ha : Sound K xs f a) (hb : Sound K xs f b) :
    Sound K xs f (if c then a else b) := by
  split
  · exact ha
  · exact hb

/-- Where a part that keeps the status stops, all of it stops. -/
theorem sound_error {r : Except Stop α} {x : Stop} (hr : r = .error x) (h : Sound K xs f r) :
    Sound K xs g (.error x) := by
  subst hr; exact h

/-- Where a part that keeps the status goes on, the state that it answers has kept it. -/
theorem sound_ok {r : Except Stop α} {a : α} (hr : r = .ok a) (h : Sound K xs f r) : Keeps K xs (f a).warps := by
  subst hr; exact h

/-- A part that answers a state of kept status. -/
theorem sound_next {t : State} (h : Keeps K xs t.warps) : Sound K xs id (.ok t) := h

end Sound

theorem sound_unsettled {α : Type} {f : α → State} (e : Env) (x : Unsettled) :
    Sound K xs f (.error (unsettled e x)) := by cases x <;> trivial

theorem sound_land {s : State} (h : Keeps K xs s.warps) (e : Env) (sl : Slot) : Sound K xs id (land s e sl) := by
  unfold land
  dsimp only
  split
  · exact keeps_setSlot h _ _ _
  · split
    · exact sound_unsettled _ _
    · rename_i ht
      have hs := keeps_settle (keeps_setSlot h _ _ _) ht
      exact keeps_ite (keeps_finishWarp hs _) hs

theorem sound_jump {s : State} (h : Keeps K xs s.warps) (e : Env) (pc : DWord) : Sound K xs id (jump s e pc) :=
  sound_land h _ _

theorem sound_advance {s : State} (h : Keeps K xs s.warps) (e : Env) : Sound K xs id (advance s e) := sound_land h _ _

/-- Every instruction word runs so: its meaning keeps the status of the warps where its body does. -/
theorem outSound_runInstr {s : State} {fslot : Nat} {ill priv : Env → Bool} {g : Guard}
    {body : Env → Except Stop State} (hb : ∀ c, s.cur = some c → priv (envOf s c) = false →
      Sound K s.warps id (body (envOf s c))) : OutSound K s.warps (runInstr s fslot ill priv g body) := by
  have trapped : ∀ e r, OutSound K s.warps (.next (takeTrap s e fslot r)) := fun e r => keeps_takeTrap keeps_refl e fslot r
  unfold runInstr
  split
  · trivial
  · rename_i c hc
    dsimp only
    split
    · exact trapped _ _
    · split
      · exact trapped _ _
      · rename_i hp
        have h := hb c hc (by simpa using hp)
        split
        · exact trapped _ _
        · split <;> rename_i hr <;> rw [hr] at h
          · exact h
          · exact trapped _ _
          · exact keeps_parkPath (keeps_ite keeps_refl (keeps_keepTurn keeps_refl _ _ _)) _ _ _
          · exact keeps_parkPath h _ _ _
          · exact keeps_parkPath (by rw [askUnit_warps]; exact keeps_refl) _ _ _
          · exact keeps_fetchHeld keeps_refl _ _ _
          · exact keeps_holdPath (by rw [clearPeers_warps]; exact keeps_refl) _
          · exact keeps_parkPath h _ _ _
          · exact h

theorem sound_olEvents {s : State} (h : Keeps K xs s.warps) (e : Env) (evs : List OlEvent) :
    Sound K xs id (olEvents s e evs) := by
  unfold olEvents
  split
  · exact h
  · split
    · exact h
    · trivial
    · trivial
    · trivial
    · rename_i ht
      exact keeps_olCount (by rw [olFold_warps ht]; exact h) e

/-! ### Reading sources and writing results -/

/-- Whether the warp of an environment is the issuing warp as it stands, but for what keeps its status. -/
def EnvKept (K : Allowed) (s : State) (e : Env) : Prop := StatusKept K e.w (warpAt s e.w) e.x

theorem envKept_envOf (s : State) (c : Cur) : EnvKept K s (envOf s c) := statusKept_of_eq rfl rfl id

theorem sound_readSrcs {s : State} {e : Env} (h : Keeps K xs s.warps) (he : EnvKept K s e) (m : Mask) (srcs : List Src)
    (dst : Option Opnd) (push : Bool) : Sound K xs Prod.fst (readSrcs s e m srcs dst push) := by
  unfold readSrcs
  dsimp only
  refine sound_ite h ?_
  split
  · trivial
  · split
    · trivial
    · split
      · exact h
      · rename_i hpop
        refine sound_ite h (keeps_ite h ?_)
        obtain ⟨a, b, hx⟩ := popEach_keeps _ _ _ _ _ _ hpop
        subst hx
        exact keeps_setWarp h he

theorem sound_pushChan {s : State} (h : Keeps K xs s.warps) (e : Env) (n : Nat) (m : Mask) (val : Nat → Nat) :
    Sound K xs id (pushChan s e n m val) := by
  have he := fun evs => sound_olEvents h e evs
  unfold pushChan
  dsimp only
  split <;> rename_i hr
  · exact sound_error hr (he _)
  · have ht := sound_ok hr (he _)
    exact ht

theorem keeps_writeDest {s : State} (h : Keeps K xs s.warps) (w : Nat) (d : Dest) (k : Nat) (val : Nat → Nat) :
    Keeps K xs (setWarp s w (writeDest (warpAt s w) d k val)).warps := keeps_setWarp_same h (by simp) (by simp) (by simp)

theorem sound_finish {s : State} (h : Keeps K xs s.warps) (e : Env) (hd : Hdr) (d : Opnd) (m : Mask) (k : Nat)
    (val : Nat → Nat) : Sound K xs id (finish s e hd d m k val) := by
  have hw := keeps_writeDest h e.w ⟨hd, d, m⟩ k val
  unfold finish
  dsimp only
  split
  · refine sound_ite (sound_advance hw e) ?_
    split <;> rename_i hr
    · exact sound_error hr (sound_pushChan hw e _ m val)
    · exact sound_advance (sound_ok hr (sound_pushChan hw e _ m val)) e
  · exact sound_advance hw e

theorem sound_finishPred {s : State} (h : Keeps K xs s.warps) (e : Env) (hd : Hdr) (p : Pred) (m : Mask)
    (val : Nat → Bool) : Sound K xs id (finishPred s e hd p m val) :=
  sound_advance (keeps_setWarp_same h (by simp) (by simp) (by simp)) e

theorem outSound_laneOp (s : State) (h : Hdr) (d : Opnd) (dk : Nat) (srcs : List Src) (f : List Nat → Nat) :
    OutSound K s.warps (laneOp s h d dk srcs f) :=
  outSound_runInstr fun c _ _ => by
    have hs := fun m dst push => sound_readSrcs keeps_refl (envKept_envOf (K := K) s c) m srcs dst push
    dsimp only
    split <;> rename_i hr
    · exact sound_error hr (hs ..)
    · exact sound_finish (sound_ok hr (hs ..)) _ _ _ _ _ _

theorem outSound_lanePred (s : State) (h : Hdr) (p : Pred) (srcs : List Src) (f : List Nat → Bool) :
    OutSound K s.warps (lanePred s h p srcs f) :=
  outSound_runInstr fun c _ _ => by
    have hs := fun m dst push => sound_readSrcs keeps_refl (envKept_envOf (K := K) s c) m srcs dst push
    dsimp only
    split <;> rename_i hr
    · exact sound_error hr (hs ..)
    · exact sound_finishPred (sound_ok hr (hs ..)) _ _ _ _ _

/-! ### Accesses -/

theorem sound_checkLanes {s : State} (h : Keeps K xs s.warps) (e : Env) (m : Mask) (rd wr : Bool) (obj : Nat → Nat)
    (plan : Nat → Except Fail (List Loc)) : Sound K xs (fun _ => s) (checkLanes s e m rd wr obj plan) := by
  unfold checkLanes
  split
  · exact sound_ite (keeps_haltWarp (keeps_setSlot h _ _ _) _) trivial
  · dsimp only
    refine sound_ite h ?_
    show Keeps K xs (askUnit s _ _).warps
    rw [askUnit_warps]
    exact h

theorem keeps_returnErrors {s : State} (h : Keeps K xs s.warps) (e : Env) (fslot : Nat) (accs : List LaneAcc)
    (dead : List (Nat × Option Nat)) (bad : Mask) : Keeps K xs (returnErrors s e fslot accs dead bad).warps := by
  have step : ∀ {s : State} {c : Prop} [Decidable c] {cause : Nat} {m : Mask} {addr d : Nat}, Keeps K xs s.warps →
      Keeps K xs (if c then s else asyncTrap s e.w e.x.issued fslot cause m e.pc addr d).warps := fun h =>
    keeps_ite h (keeps_asyncTrap h _ _ _ _ _ _ _ _)
  exact step (step (step (step h)))

theorem outSound_loadOp (s : State) (h : Hdr) (m : MemOp) (d : Opnd) (k : Nat) (packed : Bool) (n : Nat)
    (post : Nat → Nat) : OutSound K s.warps (loadOp s h m d k packed n post) := by
  refine outSound_runInstr fun c _ _ => ?_
  dsimp only
  split <;> rename_i hr
  · exact sound_error hr (sound_checkLanes keeps_refl ..)
  · split <;> rename_i hf <;> have hs := (warps_of_snd hf).trans (fetchLanes_warps ..)
    · exact keeps_holdPath (by rw [hs]; exact keeps_refl) _
    · have hw : ∀ rs, Keeps K s.warps (sawBytes _ 0 (envOf s c).w rs).warps := fun rs => by
        rw [sawBytes_warps, hs]
        exact keeps_refl
      split <;> rename_i hr
      · refine sound_error hr (sound_finish ?_ ..)
        exact keeps_setWarp_same (hw _) rfl rfl rfl
      · refine sound_next (keeps_returnErrors (sound_ok hr (sound_finish ?_ ..)) ..)
        exact keeps_setWarp_same (hw _) rfl rfl rfl

theorem keeps_storeLanes {s : State} (h : Keeps K xs s.warps) (w ctx : Nat) (f : LaneAcc → Nat) (accs : List LaneAcc) :
    Keeps K xs (accs.foldl (fun s a => storeLane s w ctx a (f a)) s).warps := by
  rw [foldl_same State.warps _ (fun s a => storeLane_warps s _ _ a _)]
  exact h

theorem outSound_storeOp (s : State) (g : Guard) (m : MemOp) (d : Opnd) (k : Nat) (packed : Bool) (n : Nat) :
    OutSound K s.warps (storeOp s g m d k packed n) := by
  refine outSound_runInstr fun c _ _ => ?_
  dsimp only
  split <;> rename_i hr
  · exact sound_error hr (sound_checkLanes keeps_refl ..)
  · split <;> rename_i hc <;> have hs := (warps_of_snd hc).trans (clearPeers_warps ..)
    · exact keeps_holdPath (by rw [hs]; exact keeps_refl) _
    · split <;> rename_i hx <;> have ht := ((warps_of_snd hx).trans (exchange_warps ..)).trans hs
      · exact keeps_holdPath (by rw [ht]; exact keeps_refl) _
      · split <;> rename_i hr
        · refine sound_error hr (sound_advance ?_ _)
          exact keeps_storeLanes (by rw [ht]; exact keeps_refl) _ _ _ _
        · refine sound_next (keeps_returnErrors (sound_ok hr (sound_advance ?_ _)) ..)
          exact keeps_storeLanes (by rw [ht]; exact keeps_refl) _ _ _ _

theorem outSound_ldsOp (s : State) (h : Hdr) (m : MemOp) (d : Opnd) (k : Nat) :
    OutSound K s.warps (ldsOp s h m d k) := by
  refine outSound_runInstr fun c _ _ => ?_
  dsimp only
  split
  · trivial
  · exact sound_finish keeps_refl _ _ _ _ _ _

theorem outSound_stsOp (s : State) (g : Guard) (m : MemOp) (d : Opnd) (k : Nat) :
    OutSound K s.warps (stsOp s g m d k) := by
  refine outSound_runInstr fun c _ _ => ?_
  dsimp only
  split
  · trivial
  · exact sound_advance (by exact keeps_refl) _

theorem sound_scratchWarp {s : State} (h : Keeps K xs s.warps) (e : Env) (m : Mask) (a n al : Nat) :
    Sound K xs (fun _ => s) (scratchWarp e m a n al) := by
  unfold scratchWarp
  split
  · exact h
  · trivial

end Sys2Proof.Machine

namespace Sys2Proof.Machine

variable {K : Allowed} {xs : List Warp}

/-! ### Operations under a slot, and status words -/

theorem statusKept_or {w : Nat} {a b : Warp} (fl : Word) (hf : b.fflags = a.fflags ||| fl) (hm : b.mode = a.mode)
    (ha : b.alive = a.alive) : StatusKept K w a b := by
  refine ⟨fun _ => ?_, .inl hm, fun h => ha.trans h⟩
  rw [hf]
  ext i
  simp only [BitVec.getElem_and, BitVec.getElem_or]
  cases a.fflags[i] <;> simp

@[simp] theorem keeps_raiseFlags {s : State} (h : Keeps K xs s.warps) (w fl : Nat) :
    Keeps K xs (raiseFlags s w fl).warps := keeps_setWarp h (statusKept_or (BitVec.ofNat 32 fl) rfl rfl rfl)

@[simp] theorem keeps_raiseAcc {s : State} (h : Keeps K xs s.warps) (w fl : Nat) :
    Keeps K xs (raiseAcc s w fl).warps := keeps_setWarp_same h rfl rfl rfl

@[simp] theorem keeps_stepGen {s : State} (h : Keeps K xs s.warps) (w : Nat) (r : Bool) (m : Mask) :
    Keeps K xs (stepGen s w r m).2.warps := by
  unfold stepGen
  dsimp only
  split
  · exact keeps_setWarp_same h rfl rfl rfl
  · exact h

/-- `clrflag` clears bits of FFLAGS only where it names them. -/
theorem keeps_clearStatus {s : State} (h : Keeps K xs s.warps) (w : Nat) (sel : FlagSel) (v : Nat)
    (hs : sel = .ff → K.clears = true) : Keeps K xs (clearStatus s w sel v).warps := by
  refine keeps_setWarp h ?_
  cases sel with
  | ff => exact ⟨fun hc => by simp [hs rfl] at hc, .inl rfl, id⟩
  | qs => exact statusKept_of_eq rfl rfl id
  | as => exact statusKept_of_eq rfl rfl id

theorem outSound_slotLanes (s : State) (h : Hdr) (f : FSlot) (d : Opnd) (srcs : List Src) (extra : Env → Bool)
    (rounds : Word → Bool) (fn : Word → List Nat → Nat → Word → Rnd) :
    OutSound K s.warps (slotLanes s h f d srcs extra rounds fn) :=
  outSound_runInstr fun c _ _ => by
    have hs := fun m dst push => sound_readSrcs keeps_refl (envKept_envOf (K := K) s c) m srcs dst push
    dsimp only
    split <;> rename_i hr
    · exact sound_error hr (hs ..)
    · exact sound_finish (keeps_raiseFlags (keeps_stepGen (sound_ok hr (hs ..)) _ _ _) _ _) _ _ _ _ _ _

theorem outSound_slotElems (s : State) (h : Hdr) (f : FSlot) (d : Opnd) (srcs : List Opnd)
    (fn : Word → List Nat → Word → Rnd) : OutSound K s.warps (slotElems s h f d srcs fn) := outSound_slotLanes ..

theorem outSound_slotSpecial (s : State) (h : Hdr) (f : FSlot) (d a : Opnd) (fn : Val → SpecRes) :
    OutSound K s.warps (slotSpecial s h f d a fn) := outSound_slotElems ..

theorem outSound_slotPred (s : State) (h : Hdr) (f : FSlot) (k : Fin 8) (d : Pred) (a b : Opnd)
    (fn : Word → Nat → Nat → Bool) : OutSound K s.warps (slotPred s h f k d a b fn) :=
  outSound_runInstr fun c _ _ => by
    have hs := fun m dst push => sound_readSrcs keeps_refl (envKept_envOf (K := K) s c) m [(a, 1), (b, 1)] dst push
    dsimp only
    split <;> rename_i hr
    · exact sound_error hr (hs ..)
    · exact sound_finishPred (sound_ok hr (hs ..)) _ _ _ _ _

theorem outSound_statusWrite (s : State) (fslot : Nat) (g : Guard) (a : Opnd) (k : Nat)
    (act : State → Env → Mask → Nat → Except Stop State) (hact : ∀ t e m v, Keeps K s.warps t.warps →
      Sound K s.warps id (act t e m v)) : OutSound K s.warps (statusWrite s fslot g a k act) :=
  outSound_runInstr fun c _ _ => by
    have hs := fun m dst push => sound_readSrcs keeps_refl (envKept_envOf (K := K) s c) m [(a, k)] dst push
    dsimp only
    split <;> rename_i hr
    · exact sound_error hr (hs ..)
    · have ht := sound_ok hr (hs ..)
      refine sound_ite (sound_advance ht _) ?_
      split <;> rename_i ha
      · exact sound_error ha (hact _ _ _ _ ht)
      · exact sound_advance (sound_ok ha (hact _ _ _ _ ht)) _

theorem outSound_statusRead (s : State) (fslot : Nat) (h : Hdr) (d : Opnd) (k : Nat) (val : Warp → Nat) :
    OutSound K s.warps (statusRead s fslot h d k val) :=
  outSound_runInstr fun c _ _ => by
    have hs := fun m dst push => sound_readSrcs keeps_refl (envKept_envOf (K := K) s c) m [] dst push
    dsimp only
    split <;> rename_i hr
    · exact sound_error hr (hs ..)
    · exact sound_finish (sound_ok hr (hs ..)) _ _ _ _ _ _

theorem outSound_setfs (g : Guard) (f : FSlot) (a : Opnd) (s : State) : OutSound K s.warps (execSetfs g f a s) := by
  refine outSound_statusWrite _ _ _ _ _ _ (fun t e m v h => ?_)
  exact sound_ite trivial (keeps_setWarp_same h rfl rfl rfl)

theorem outSound_srseed (g : Guard) (a : Opnd) (s : State) : OutSound K s.warps (execSrseed g a s) :=
  outSound_statusWrite _ _ _ _ _ _ (fun _ _ _ _ h => keeps_setWarp_same h rfl rfl rfl)

theorem outSound_clrflag (g : Guard) (sel : FlagSel) (a : Opnd) (s : State) (hs : sel = .ff → K.clears = true) :
    OutSound K s.warps (execClrflag g sel a s) :=
  outSound_statusWrite _ _ _ _ _ _ (fun _ _ _ _ h => keeps_clearStatus h _ _ _ hs)

end Sys2Proof.Machine

namespace Sys2Proof.Machine

variable {K : Allowed} {xs : List Warp}

/-- The sources of the issuing path, read in the state in which it issues. -/
theorem sound_read (s : State) (c : Cur) (m : Mask) (srcs : List Src) (dst : Option Opnd) (push : Bool) :
    Sound K s.warps Prod.fst (readSrcs s (envOf s c) m srcs dst push) :=
  sound_readSrcs keeps_refl (envKept_envOf s c) m srcs dst push

/-! ### Conversions, blocks, and predicates from predicates -/

theorem outSound_fcvt (h : Hdr) (f src : FSlot) (grp : Fin 8) (d a : Opnd) (s : State) :
    OutSound K s.warps (execFcvt h f src grp d a s) := by
  unfold execFcvt
  refine outSound_runInstr fun c _ _ => ?_
  dsimp only
  split <;> rename_i hr
  · exact sound_error hr (sound_read ..)
  · exact sound_finish (keeps_raiseFlags (keeps_stepGen (sound_ok hr (sound_read ..)) _ _ _) _ _) _ _ _ _ _ _

theorem writeRange_status (x : Warp) (a : Opnd) (n : Nat) (m : Mask) (val : Nat → Nat → Nat) :
    (writeRange x a n m val).fflags = x.fflags ∧ (writeRange x a n m val).mode = x.mode ∧
    (writeRange x a n m val).alive = x.alive := by
  cases a <;> exact ⟨rfl, rfl, rfl⟩

/-- A register range is written, or nothing. -/
theorem statusKept_writeRange {w : Nat} {x y : Warp} (h : StatusKept K w x y) (a : Opnd) (n : Nat) (m : Mask)
    (val : Nat → Nat → Nat) : StatusKept K w x (writeRange y a n m val) := by
  obtain ⟨hf, hm, ha⟩ := writeRange_status y a n m val
  exact statusKept_trans h (statusKept_of_eq hf hm (fun h => ha.trans h))

theorem outSound_blockOp (s : State) (g : Guard) (w : Bool) (f : FSlot) (o : Fin 3) (d a : Opnd) (b c : Option Opnd)
    (nd na : Word → Nat) (rounds : Bool) (fn : Word → List Word → Nat → List Word → Nat → Word → BlockRes) :
    OutSound K s.warps (blockOp s g w f o d a b c nd na rounds fn) := by
  unfold blockOp
  refine outSound_runInstr fun cc _ _ => ?_
  dsimp only
  split <;> rename_i hr
  · exact sound_error hr (sound_read ..)
  · refine sound_advance ?_ _
    have stored : ∀ {t : State} {p q : Prop} [Decidable p] [Decidable q] {n v : Nat} {x y : Warp},
        Keeps K s.warps t.warps → StatusKept K v (warpAt t v) x → StatusKept K v (warpAt t v) y →
        Keeps K s.warps (if p then { setWarp t v (if q then x else y) with free := n }
          else setWarp t v (if q then x else y)).warps := by
      intro t p q _ _ n v x y ht hx hy
      have := keeps_setWarp ht (x := if q then x else y) (by split <;> assumption)
      exact keeps_ite this this
    have qstat : ∀ {x : Warp} {v : Nat} {q : Word}, StatusKept K v x { x with qstat := q } :=
      statusKept_of_eq rfl rfl id
    refine stored (keeps_raiseFlags (keeps_stepGen (sound_ok hr (sound_read ..)) _ _ _) _ _) ?_ ?_
    · split
      · exact statusKept_writeRange qstat _ _ _ _
      · exact qstat
    · refine statusKept_writeRange ?_ _ _ _ _
      split
      · exact statusKept_writeRange qstat _ _ _ _
      · exact qstat

theorem outSound_sel (h : Hdr) (d a b : Opnd) (p : Pred) (s : State) : OutSound K s.warps (execSel h d a b p s) :=
  outSound_runInstr fun c _ _ => by
    dsimp only
    split <;> rename_i hr
    · exact sound_error hr (sound_read ..)
    · exact sound_finish (sound_ok hr (sound_read ..)) _ _ _ _ _ _

theorem outSound_movp (h : Hdr) (d : Opnd) (p : Pred) (s : State) : OutSound K s.warps (execMovp h d p s) :=
  outSound_runInstr fun c _ _ => by
    dsimp only
    split <;> rename_i hr
    · exact sound_error hr (sound_read ..)
    · exact sound_finish (sound_ok hr (sound_read ..)) _ _ _ _ _ _

theorem outSound_predOp (s : State) (h : Hdr) (d a b : Pred) (f : Bool → Bool → Bool) :
    OutSound K s.warps (predOp s h d a b f) :=
  outSound_runInstr fun _ _ _ => sound_finishPred keeps_refl _ _ _ _ _

/-! ### Control transfers -/

theorem except_map_ok {ε α β : Type} {f : α → β} {r : Except ε α} {b : β} (h : r.map f = .ok b) :
    ∃ a, r = .ok a ∧ f a = b := by
  cases r with
  | error x => exact nomatch h
  | ok a => exact ⟨a, rfl, Except.ok.inj h⟩

theorem except_bind_ok {ε α β : Type} {f : α → Except ε β} {r : Except ε α} {b : β} (h : r.bind f = .ok b) :
    ∃ a, r = .ok a ∧ f a = .ok b := by
  cases r with
  | error x => exact nomatch h
  | ok a => exact ⟨a, rfl, h⟩

theorem keeps_addChild {s t : State} {e : Env} {ix : Nat} (h : Keeps K xs s.warps) (ht : addChild s e ix = .ok t) :
    Keeps K xs t.warps := by
  unfold addChild at ht
  split at ht
  · cases ht
  · split at ht
    · cases ht
    · exact keeps_entPut h ht

theorem keeps_pushEnt {s t : State} {e : Env} {en : BitVec 256} (h : Keeps K xs s.warps)
    (ht : pushEnt s e en = .ok t) : Keeps K xs t.warps := by
  obtain ⟨u, hu, rfl⟩ := except_map_ok ht
  exact keeps_setSsn (keeps_entPut h hu) _ _

/-- An operation on the split stack that keeps the status where it answers a state. -/
theorem sound_orStop {e : Env} {r : Except Unsettled State} (h : ∀ t, r = .ok t → Keeps K xs t.warps) :
    Sound K xs id (orStop e r) := by
  cases r with
  | ok t => exact h t rfl
  | error x => exact sound_unsettled e x

theorem sound_splitPath {s : State} (h : Keeps K xs s.warps) (e : Env) (tm nm : Mask) (t : DWord) (rj : Option DWord) :
    Sound K xs id (splitPath s e tm nm t rj) := by
  unfold splitPath
  dsimp only
  split <;> rename_i hb
  · exact sound_unsettled _ _
  · rename_i u _ _
    have hu : Keeps K xs u.warps := by
      cases rj with
      | none =>
        dsimp only at hb
        split at hb
        · cases hb; exact h
        · obtain ⟨v, hv, he⟩ := except_map_ok hb
          cases he
          exact keeps_addChild h hv
      | some r =>
        obtain ⟨v, hv, he⟩ := except_map_ok hb
        cases he
        exact keeps_pushEnt h hv
    refine sound_orStop fun t ht => ?_
    obtain ⟨v, hv, he⟩ := except_bind_ok ht
    refine keeps_settle ?_ he
    have hs := keeps_setSlot hu (K := K)
    split at hv
    · exact keeps_pushEnt (hs _ _ _) hv
    · cases hv
      exact keeps_setSlot (hs _ _ _) _ _ _

theorem keeps_writeReg {s : State} (h : Keeps K xs s.warps) (w : Nat) (d : Opnd) (m : Mask) (k : Nat)
    (val : Nat → Nat) : Keeps K xs (setWarp s w (writeReg (warpAt s w) d m k val)).warps :=
  keeps_setWarp_same h (by simp) (by simp) (by simp)

theorem outSound_branch (s : State) (g : Guard) (u : Bool) (rj : BitVec 17) (tgt : BitVec 24) (k : Option Opnd) :
    OutSound K s.warps (branch s g u rj tgt k) := by
  unfold branch
  refine outSound_runInstr fun c _ _ => ?_
  have linked : Keeps K s.warps (match k with
      | some o => setWarp s (envOf s c).w (writeReg (warpAt s (envOf s c).w) o (taking (envOf s c) g) 2
        (fun _ => (nextPc (envOf s c).pc).toNat))
      | none => s).warps := by
    cases k with
    | none => exact keeps_refl
    | some o => exact keeps_writeReg keeps_refl _ _ _ _ _
  dsimp only
  split
  · trivial
  · refine sound_ite (sound_advance keeps_refl _) (sound_ite (sound_jump linked _ _)
      (sound_ite trivial (sound_ite trivial ?_)))
    split
    · trivial
    · exact sound_ite trivial (sound_splitPath linked _ _ _ _ _)

theorem outSound_indirect (s : State) (g : Guard) (a : Opnd) (d : Option (Hdr × Opnd)) :
    OutSound K s.warps (indirect s g a d) := by
  unfold indirect
  refine outSound_runInstr fun c _ _ => ?_
  dsimp only
  refine sound_ite trivial (sound_ite (sound_advance keeps_refl _) (sound_ite trivial (sound_jump ?_ _ _)))
  split
  · exact keeps_writeDest keeps_refl _ _ _ _
  · exact keeps_refl

theorem outSound_exit (g : Guard) (s : State) : OutSound K s.warps (execExit g s) :=
  outSound_runInstr fun c _ _ => by
    refine sound_ite (sound_advance keeps_refl _) (sound_advance (keeps_setWarp keeps_refl ?_) _)
    exact statusKept_of_eq (by simp) (by simp) (fun h => by simp [h])

theorem outSound_yield (g : Guard) (s : State) : OutSound K s.warps (execYield g s) :=
  outSound_runInstr fun c _ _ => by
    have aside := sound_advance (keeps_setSlot (K := K) (keeps_refl (xs := s.warps)) (envOf s c).w (envOf s c).which
      { slotOf (warpAt s (envOf s c).w) (envOf s c).which with aside := true }) (envOf s c)
    refine sound_ite (sound_advance keeps_refl _) (sound_ite (sound_advance keeps_refl _) (sound_ite aside ?_))
    split
    · exact sound_unsettled _ _
    · refine sound_ite trivial (sound_ite aside (sound_orStop fun t ht => ?_))
      obtain ⟨v, hv, he⟩ := except_bind_ok ht
      exact keeps_settle (keeps_setSlot (keeps_entPut keeps_refl hv) _ _ _) he

theorem outSound_trap (g : Guard) (code : BitVec 8) (s : State) : OutSound K s.warps (execTrap g code s) :=
  outSound_runInstr fun _ _ _ => sound_ite (sound_advance keeps_refl _) trivial

theorem outSound_brk (g : Guard) (code : BitVec 8) (s : State) : OutSound K s.warps (execBrk g code s) :=
  outSound_runInstr fun c _ _ => by
    have ha := sound_advance (K := K) (keeps_refl (xs := s.warps)) (envOf s c)
    refine sound_ite ha (sound_ite ?_ trivial)
    split <;> rename_i hr
    · exact sound_error hr ha
    · exact keeps_haltWarp (sound_ok hr ha) _

theorem outSound_pchk (h : Hdr) (d : Pred) (s : State) : OutSound K s.warps (execPchk h d s) :=
  outSound_runInstr fun _ _ _ => sound_finishPred keeps_refl _ _ _ _ _

theorem outSound_pyield (g : Guard) (dead : BitVec 3) (s : State) : OutSound K s.warps (execPyield g dead s) :=
  outSound_runInstr fun c _ _ => by
    have ha := sound_advance (K := K) (keeps_refl (xs := s.warps)) (envOf s c)
    exact sound_ite ha (sound_ite trivial (sound_ite keeps_refl ha))

theorem outSound_nop (g : Guard) (s : State) : OutSound K s.warps (execNop g s) :=
  outSound_runInstr fun _ _ _ => sound_advance keeps_refl _

theorem outSound_ill (s : State) : OutSound K s.warps (execIll s) :=
  outSound_runInstr fun _ _ _ => sound_advance keeps_refl _

end Sys2Proof.Machine

namespace Sys2Proof.Machine

variable {K : Allowed} {xs : List Warp}

/-! ### The matrix engine -/

/-- What is done to the state that a part answers. -/
theorem sound_map {r : Except Stop State} (h : Sound K xs id r) {f : State → State}
    (hf : ∀ t : State, Keeps K xs t.warps → Keeps K xs (f t).warps) : Sound K xs id (r.map f) := by
  cases r with
  | error x => exact h
  | ok t => exact hf t h

theorem keeps_engArrive {s : State} (h : Keeps K xs s.warps) (c : Nat) (cmd : EngCmd) :
    Keeps K xs (engArrive s c cmd).warps := by
  unfold engArrive
  split
  · exact h
  · exact keeps_ite (keeps_raiseAcc (keeps_mbEngine h _ _ _ _) _ _) (keeps_mbEngine h _ _ _ _)

theorem keeps_engTrap {s : State} (h : Keeps K xs s.warps) (cmd : EngCmd) (f : ReadFail) :
    Keeps K xs (engTrap s cmd f).warps := keeps_asyncTrap h _ _ _ _ _ _ _ _

theorem keeps_mloadDone {s : State} (h : Keeps K xs s.warps) (c : Nat) (cmd : EngCmd)
    (w : Option (Nat → Nat → Val)) (f : Option ReadFail) : Keeps K xs (mloadDone s c cmd w f).warps := by
  have arrived : Keeps K xs (engArrive (match w, f with
      | some w, none => setCrew s c { crewAt s c with plS := planeOf8 cmd w }
      | _, _ => if cmd.obj then setCrew s c { crewAt s c with plS := Plane.empty } else s) c cmd).warps := by
    refine keeps_engArrive ?_ _ _
    split
    · exact h
    · exact keeps_ite h h
  unfold mloadDone
  cases f with
  | none => exact arrived
  | some f => exact keeps_engTrap arrived _ _

theorem keeps_mstreamDone {s : State} (h : Keeps K xs s.warps) (c : Nat) (cmd : EngCmd) (bad : Bool) :
    Keeps K xs (mstreamDone s c cmd bad).warps := by
  unfold mstreamDone
  refine keeps_ite (keeps_engTrap (keeps_engArrive h _ _) _ _) (keeps_engArrive (keeps_raiseAcc ?_ _ _) _ _)
  exact h

theorem keeps_wakeMwait {s : State} (h : Keeps K xs s.warps) (c : Nat) : Keeps K xs (wakeMwait s c).warps :=
  keeps_wakeWhere h _ _

theorem keeps_engHead {s : State} (h : Keeps K xs s.warps) (thaw : Bool) (hit : Option ReadFail) (c : Nat) :
    Keeps K xs (engHead thaw hit s c).2.warps := by
  have hp : ∀ {t : State}, Keeps K xs t.warps → Keeps K xs (engPop t c).warps := fun ht => by
    rw [engPop_warps]; exact ht
  unfold engHead
  split
  · exact h
  · rename_i cmd _ _
    have ht : Keeps K xs (readTile s c cmd).1.warps := by rw [readTile_warps]; exact h
    have loaded := fun {t : State} (ht : Keeps K xs t.warps) w f =>
      keeps_wakeMwait (keeps_mloadDone (hp ht) c cmd w f) c
    split
    · exact h
    · split
      · exact keeps_wakeMwait (keeps_mstreamDone (hp h) _ _ _) _
      · split
        · exact loaded h _ _
        · dsimp only
          split
          · rw [askUnit_warps]; exact ht
          · split
            · exact ht
            · split <;> exact loaded ht _ _

theorem keeps_engSettle {s : State} (h : Keeps K xs s.warps) (thaw : Bool) (f c : Nat) :
    Keeps K xs (engSettle thaw f s c).2.warps := by
  induction f generalizing s with
  | zero => exact h
  | succ f ih =>
    unfold engSettle
    dsimp only
    split
    · exact h
    · split
      · exact ih (keeps_engHead h _ _ _)
      · exact keeps_engHead h _ _ _

theorem outSound_engineOp (s : State) (fslot : Nat) (g : Guard) (ill : Env → Bool) (srcs : List Src) (settle : Bool)
    (body : State → Env → Mask → (Nat → Nat) → Except Stop State)
    (hb : ∀ (t : State) e m v, Keeps K s.warps t.warps → Sound K s.warps id (body t e m v)) :
    OutSound K s.warps (engineOp s fslot g ill srcs settle body) :=
  outSound_runInstr fun c _ _ => by
    refine sound_ite (sound_advance keeps_refl _) ?_
    dsimp only
    have hr := keeps_engSettle (keeps_refl (K := K) (xs := s.warps)) false ((envOf s c).cr.eng.length + 1) (envOf s c).c
    have run : ∀ {u : State} {x : Warp} {cr : Crew} {m : Mask}, Keeps K s.warps u.warps → x = warpAt u (envOf s c).w →
        Sound K s.warps id (match readSrcs u { envOf s c with x := x, cr := cr } m srcs none false with
          | .error x => .error x
          | .ok (t, vals) => body t { envOf s c with x := x, cr := cr } m (fun k => warpValue m vals k)) := by
      rintro u _ cr m hu rfl
      have hs := sound_readSrcs hu (e := { envOf s c with x := warpAt u (envOf s c).w, cr := cr })
        (statusKept_of_eq rfl rfl id) m srcs none false
      split <;> rename_i hq
      · exact sound_error hq hs
      · exact hb _ _ _ _ (sound_ok hq hs)
    cases settle with
    | false => exact sound_ite (keeps_holdPath keeps_refl _) (run keeps_refl rfl)
    | true => exact sound_ite (keeps_holdPath hr _) (run hr rfl)

theorem outSound_macal (g : Guard) (a : Opnd) (s : State) : OutSound K s.warps (execMacal g a s) :=
  outSound_engineOp _ _ _ _ _ _ _ fun _ _ _ _ h => sound_ite trivial (sound_ite trivial (sound_advance (by exact h) _))

theorem outSound_mafree (g : Guard) (a : Opnd) (s : State) : OutSound K s.warps (execMafree g a s) :=
  outSound_engineOp _ _ _ _ _ _ _ fun _ _ _ _ h => sound_ite trivial (sound_ite trivial (sound_advance (by exact h) _))

theorem outSound_mown (g : Guard) (band : Fin 4) (a : Opnd) (s : State) : OutSound K s.warps (execMown g band a s) :=
  outSound_engineOp _ _ _ _ _ _ _ fun _ _ _ _ h =>
    sound_ite trivial (sound_ite trivial (by
      dsimp only
      refine sound_advance ?_ _
      exact keeps_setWarp_same h rfl rfl rfl))

/-- The checks of an operand, which change nothing. -/
theorem sound_scrRange {s : State} (h : Keeps K xs s.warps) (e : Env) (m : Mask) (a n : Nat) :
    Sound K xs (fun _ => s) (scrRange e m a n) := sound_ite trivial h

theorem sound_mbarOpnd {s : State} (h : Keeps K xs s.warps) (e : Env) (m : Mask) (c : Opnd) (v : Nat) :
    Sound K xs (fun _ => s) (mbarOpnd e m c v) := by
  unfold mbarOpnd
  split
  · exact h
  · split <;> rename_i hr
    · exact h
    · exact sound_error hr (sound_scratchWarp h ..)

theorem sound_bankCheck {s : State} (h : Keeps K xs s.warps) (e : Env) (m : Mask) (word rows : Nat) (write : Bool) :
    Sound K xs (fun _ => s) (bankCheck e m word rows write) :=
  sound_ite trivial (sound_ite trivial (sound_ite trivial h))

theorem sound_mloadObjCheck {s : State} (h : Keeps K xs s.warps) (e : Env) (m : Mask) (blk : Bool) (fw : Word)
    (a cfg : Nat) : Sound K xs (fun _ => s) (mloadObjCheck s e m blk fw a cfg) := by
  unfold mloadObjCheck
  dsimp only
  split
  · trivial
  · refine sound_ite trivial (sound_ite trivial ?_)
    split
    · trivial
    · split
      · trivial
      · exact h

theorem keeps_engPush {s : State} (h : Keeps K xs s.warps) (e : Env) (m : Mask) (f : FSlot) (load obj blk : Bool)
    (o a cfg : Nat) (mb : Option Nat) : Keeps K xs (engPush s e m f load obj blk o a cfg mb).warps := by
  rw [engPush_warps]; exact h

theorem outSound_mload (g : Guard) (f : FSlot) (obj blk : Bool) (o : BitVec 2) (a b c : Opnd) (s : State) :
    OutSound K s.warps (execMload g f obj blk o a b c s) :=
  outSound_engineOp _ _ _ _ _ _ _ fun t e m v h => by
    refine sound_ite trivial (sound_ite trivial (sound_ite trivial (sound_ite trivial ?_)))
    split <;> rename_i hr
    · exact sound_error hr (sound_mbarOpnd h ..)
    · split
      · split <;> rename_i hq
        · exact sound_error hq (sound_mloadObjCheck h ..)
        · exact sound_advance (by rw [askUnit_warps]; exact keeps_engPush h ..) _
      · dsimp only
        split <;> rename_i hq
        · exact sound_error hq (sound_scrRange h ..)
        · exact sound_advance (keeps_engPush h ..) _

theorem outSound_mswap (g : Guard) (s : State) : OutSound K s.warps (execMswap g s) :=
  outSound_engineOp _ _ _ _ _ _ _ fun _ _ _ _ h => sound_ite trivial (sound_advance (by exact h) _)

theorem outSound_mstream (g : Guard) (f : FSlot) (blk : Bool) (o : BitVec 2) (a b c : Opnd) (s : State) :
    OutSound K s.warps (execMstream g f blk o a b c s) :=
  outSound_engineOp _ _ _ _ _ _ _ fun t e m v h => by
    refine sound_ite trivial (sound_ite trivial (sound_ite trivial (sound_ite trivial (sound_ite trivial
      (sound_ite trivial (sound_ite trivial ?_))))))
    split <;> rename_i hr
    · exact sound_error hr (sound_mbarOpnd h ..)
    · split <;> rename_i hq
      · exact sound_error hq (sound_scrRange h ..)
      · exact sound_advance (keeps_engPush h ..) _

theorem outSound_mdrainOp (bad : Bool) (g : Guard) (w : Bool) (f : FSlot) (clr : Bool) (rows : Fin 64) (d a : Opnd)
    (s : State) : OutSound K s.warps (mdrainOp bad g w f clr rows d a s) := by
  unfold mdrainOp
  refine outSound_engineOp _ _ _ _ _ _ _ fun t e m v h => ?_
  dsimp only
  split <;> rename_i hr
  · exact sound_error hr (sound_bankCheck h ..)
  · refine sound_ite (sound_map (sound_advance h _) fun _ ht => keeps_asyncTrap ht ..) (sound_advance ?_ _)
    have hx : ∀ (u : State) (n : Nat) (p q : Bool) (y : Word) (val : Nat → Nat → Nat), Keeps K s.warps u.warps →
        Keeps K s.warps (setWarp u e.w (if p = true then
          (if q = true then warpAt u e.w else { warpAt u e.w with accstat := y })
          else writeRange (if q = true then warpAt u e.w else { warpAt u e.w with accstat := y }) d n m val)).warps := by
      intro u n p q y val hu
      have ha : StatusKept K e.w (warpAt u e.w)
          (if q = true then warpAt u e.w else { warpAt u e.w with accstat := y }) := by
        split <;> exact statusKept_of_eq rfl rfl id
      refine keeps_setWarp hu ?_
      split
      · exact ha
      · exact statusKept_writeRange ha ..
    have hg := keeps_raiseFlags (keeps_stepGen h e.w (fmRm (slotWord e.x f) == 5) m) e.w
    split
    · exact hx _ _ _ _ _ _ (hg _)
    · exact hx _ _ _ _ _ _ (hg _)

theorem outSound_mfill (g : Guard) (f : FSlot) (rows : Fin 64) (a d : Opnd) (s : State) :
    OutSound K s.warps (execMfill g f rows a d s) := by
  unfold execMfill
  refine outSound_engineOp _ _ _ _ _ _ _ fun t e m v h => ?_
  dsimp only
  split <;> rename_i hr
  · exact sound_error hr (sound_bankCheck h ..)
  · exact sound_advance (by exact keeps_raiseFlags h _ _) _

theorem outSound_mzero (g : Guard) (rows : Fin 64) (a : Opnd) (s : State) : OutSound K s.warps (execMzero g rows a s) := by
  unfold execMzero
  refine outSound_engineOp _ _ _ _ _ _ _ fun t e m v h => ?_
  split <;> rename_i hr
  · exact sound_error hr (sound_bankCheck h ..)
  · exact sound_advance (by exact h) _

theorem outSound_mwait (g : Guard) (s : State) : OutSound K s.warps (execMwait g s) :=
  outSound_runInstr fun _ _ _ => sound_ite (sound_advance keeps_refl _) keeps_refl

end Sys2Proof.Machine

namespace Sys2Proof.Machine

variable {K : Allowed} {xs : List Warp}

/-- What follows the sources of the issuing path keeps the status from there. -/
theorem keeps_read {s t : State} {c : Cur} {m : Mask} {srcs : List Src} {dst : Option Opnd} {push : Bool}
    {v : Nat → List Nat} (hr : readSrcs s (envOf s c) m srcs dst push = .ok (t, v)) : Keeps K s.warps t.warps :=
  sound_ok hr (sound_read s c m srcs dst push)

/-- A scratchpad offset that fails its check stops the instruction with a trap. -/
theorem sound_scratchError {α : Type} {g : α → State} {e : Env} {m : Mask} {a n al : Nat} {x : Stop}
    (hr : scratchWarp e m a n al = .error x) : Sound K xs g (.error x) := by
  unfold scratchWarp at hr
  split at hr
  · cases hr
  · cases hr
    trivial

/-! ### Copies -/

theorem cpWrite_warps (k : Walk) (q : Nat) (x : CpSide) (n v : Nat) (acc : CpAcc) :
    (cpWrite k q x n v acc).s.warps = acc.s.warps := by
  cases x with
  | elem addr l rd wr => exact cpStore_warps ..
  | _ => rfl

theorem combGen_s (k : Walk) (acc : CpAcc) : (combGen k acc).s = acc.s := by
  unfold combGen; split <;> rfl

theorem cpCombine_warps (k : Walk) (q : Nat) (x : CpSide) (v : Nat) (acc : CpAcc) :
    (cpCombine k q x v acc).s.warps = acc.s.warps := by
  unfold cpCombine
  split
  · dsimp only
    split
    · exact congrArg State.warps (combGen_s k acc)
    · exact (cpWrite_warps ..).trans (congrArg State.warps (combGen_s k acc))
  · rfl

theorem cpStep_warps (k : Walk) (vals : List (Nat × Nat)) (wrote : Nat → Bool) (acc : CpAcc) (p : CpPos) :
    (cpStep k vals wrote acc p).s.warps = acc.s.warps := by
  unfold cpStep
  dsimp only
  split
  · split
    · split
      · exact cpCombine_warps ..
      · exact cpWrite_warps ..
    · split
      · exact congrArg State.warps (combGen_s k acc)
      · rfl
  · rfl

theorem cpGroup_warps (k : Walk) (s0 : State) (wrote : Nat → Bool) (acc : CpAcc) (ps : List CpPos) :
    (cpGroup k s0 wrote acc ps).s.warps = acc.s.warps := by
  have stepped : ∀ {c : Prop} [Decidable c] {n : DWord}, (if c then { acc with gen := n } else acc).s.warps =
      acc.s.warps := by intro c _ n; split <;> rfl
  have resid : ∀ (a : CpAcc) (e : CpPos × Nat), (match e.1.res with
      | some x => if wrote (boxSize k.d + e.1.q) then cpWrite k e.1.q x 32 e.2 a else a
      | none => a).s.warps = a.s.warps := by
    intro a e
    split
    · split
      · exact cpWrite_warps ..
      · rfl
    · rfl
  unfold cpGroup
  split
  · rfl
  · dsimp only
    split
    · refine (foldl_same (fun a : CpAcc => a.s.warps) _ resid _ _).trans ?_
      split
      · exact (cpWrite_warps ..).trans stepped
      · exact stepped
    · exact stepped

theorem cpPerform_warps (s : State) (k : Walk) (ps : List CpPos) (whole : List CpPos → Bool) (wrote : Nat → Bool) :
    (cpPerform s k ps whole wrote).s.warps = s.warps := by
  unfold cpPerform
  dsimp only
  split
  · refine foldl_same (fun a : CpAcc => a.s.warps) _ (fun a g => ?_) _ _
    split
    · exact cpGroup_warps ..
    · split <;> rfl
  · exact foldl_same (fun a : CpAcc => a.s.warps) _ (fun a p => cpStep_warps _ _ _ a p) _ _

theorem keeps_wakeCopy {s : State} (h : Keeps K xs s.warps) (c t : Nat) : Keeps K xs (wakeCopy s c t).warps :=
  keeps_wakeWhere h _ _

theorem keeps_copyEnd {s : State} (h : Keeps K xs s.warps) (cmd : CopyCmd) (status : Nat) (f : Option CpFail) :
    Keeps K xs (copyEnd s cmd status f).warps := by
  have hd : Keeps K xs (dropOwners { s with copies := s.copies.filter (fun k => !sameCmd k cmd) }
      (· == cmdOwner cmd)).warps := by rw [dropOwners_warps]; exact h
  unfold copyEnd
  generalize dropOwners _ _ = t at hd
  dsimp only
  have counted : ∀ {u : State} {c : Prop} [Decidable c] {q : Word}, Keeps K xs u.warps →
      Keeps K xs (if c then setWarp u cmd.warp { warpAt u cmd.warp with qstat := q } else u).warps := fun h =>
    keeps_ite (keeps_setWarp_same h rfl rfl rfl) h
  have ended : ∀ {u : State} {c : Prop} [Decidable c] {r : BitVec 128}, Keeps K xs u.warps →
      Keeps K xs (if c then portRecord (wakeCopy u cmd.crew (tokenOf cmd.chan cmd.seq)) cmd.warp false r
        else wakeCopy u cmd.crew (tokenOf cmd.chan cmd.seq)).warps := fun h =>
    keeps_ite (keeps_portRecord (keeps_wakeCopy h _ _) _ _ _) (keeps_wakeCopy h _ _)
  have arrived : Keeps K xs (if (descOf cmd.desc).arv = 0 then (false, t) else
      mbEngine t cmd.crew (16 * (descOf cmd.desc).mbo) (copyXb (walkOf s cmd)) ((descOf cmd.desc).arv == 2)).2.warps := by
    split
    · exact hd
    · exact keeps_mbEngine hd _ _ _ _
  cases f with
  | none => exact ended (counted arrived)
  | some f => exact keeps_asyncTrap (ended (counted arrived)) ..

theorem keeps_copyStop {s : State} (h : Keeps K xs s.warps) (cmd : CopyCmd) (status : Nat) (f : Option CpFail)
    (started : Bool) : Keeps K xs (copyStop s cmd status f started).warps := by
  unfold copyStop
  refine keeps_copyEnd ?_ _ _ _
  split
  · rw [cpPerform_warps, copySaw_warps]
    exact h
  · exact h

theorem outSound_copyOp (s : State) (h : Hdr) (op : CopyOp) (chan : Fin 8) (d a : Opnd) (b : Option Opnd) :
    OutSound K s.warps (copyOp s h op chan d a b) := by
  unfold copyOp
  refine outSound_runInstr fun c _ _ => sound_ite (sound_advance keeps_refl _) ?_
  split <;> rename_i hr
  · exact sound_error hr (sound_read ..)
  · have ht := keeps_read (K := K) hr
    dsimp only
    split <;> rename_i hq
    · exact sound_scratchError hq
    · refine sound_ite trivial ?_
      split
      · trivial
      · exact sound_ite keeps_refl (sound_finish (by exact ht) _ _ _ _ _ _)

theorem outSound_cwait (g : Guard) (a : Opnd) (s : State) : OutSound K s.warps (execCwait g a s) :=
  outSound_runInstr fun c _ _ => by
    refine sound_ite (sound_advance keeps_refl _) ?_
    split <;> rename_i hr
    · exact sound_error hr (sound_read ..)
    · have ht := keeps_read (K := K) hr
      exact sound_ite trivial (sound_ite ht (sound_advance ht _))

theorem outSound_ccan (g : Guard) (a : Opnd) (s : State) : OutSound K s.warps (execCcan g a s) :=
  outSound_runInstr fun c _ _ => by
    refine sound_ite (sound_advance keeps_refl _) ?_
    split <;> rename_i hr
    · exact sound_error hr (sound_read ..)
    · have ht := keeps_read (K := K) hr
      have ended : ∀ (ks : List CopyCmd) (started : CopyCmd → Bool) {u : State}, Keeps K s.warps u.warps →
          Keeps K s.warps (ks.foldl (fun s k =>
            if k.out.isEmpty then copyStop s k 2 none (started k) else copyDying s k) u).warps :=
        fun ks started u hu => keeps_foldl (fun s k h => keeps_ite (keeps_copyStop h _ _ _ _)
          (by rw [copyDying_warps]; exact h)) hu ks
      refine sound_ite trivial (sound_ite ?_ ?_)
      · exact ended _ _ ht
      · split <;> rename_i ha
        · exact sound_error ha (sound_advance ht _)
        · have hu := sound_ok ha (sound_advance ht _)
          exact keeps_ite (ended _ _ hu) (keeps_markStale (ended _ _ hu) _)

end Sys2Proof.Machine

namespace Sys2Proof.Machine

variable {K : Allowed} {xs : List Warp}

/-! ### Handles and collectives -/

theorem outSound_handleOp (s : State) (h : Hdr) (ds srcs : List Src) (push : Option Opnd)
    (body : State → Env → Mask → (Nat → Nat) → Except Stop State)
    (hb : ∀ (t : State) e m v, Keeps K s.warps t.warps → Sound K s.warps id (body t e m v)) :
    OutSound K s.warps (handleOp s h ds srcs push body) :=
  outSound_runInstr fun c _ _ => by
    refine sound_ite (sound_advance keeps_refl _) ?_
    split <;> rename_i hr
    · exact sound_error hr (sound_read ..)
    · exact hb _ _ _ _ (keeps_read hr)

theorem outSound_lnch (h : Hdr) (d a : Opnd) (qn : BitVec 8) (s : State) :
    OutSound K s.warps (execLnch h d a qn s) :=
  outSound_handleOp _ _ _ _ _ _ fun t e m v ht => by
    dsimp only
    split <;> rename_i hq
    · exact sound_scratchError hq
    · refine sound_ite trivial (sound_ite keeps_refl ?_)
      split
      · exact sound_finish ht _ _ _ _ _ _
      · rename_i ha
        have hu := sound_olEvents (K := K) (xs := s.warps) (by rw [allocHandle_warps ha]; exact ht) e
          [OlEvent.mk 4 (issuingLane m) qn.toNat 0]
        split <;> rename_i ho
        · exact sound_error ho hu
        · exact sound_finish (by rw [enterRing_warps]; exact sound_ok ho hu) _ _ _ _ _ _

theorem sound_handleResult {s : State} (hs : Keeps K xs s.warps) (e : Env) (h : Hdr) (d : Opnd) (p : Pred) (m : Mask)
    (hd : DWord) : Sound K xs id (handleResult s e h d p m hd) :=
  sound_finish (keeps_setWarp_same hs (by simp) (by simp) (by simp)) _ _ _ _ _ _

theorem sound_sendLaunch {s0 s : State} (h0 : Keeps K xs s0.warps) (hs : Keeps K xs s.warps) (e : Env) (h : Hdr)
    (d : Opnd) (p : Pred) (ntf : Bool) (m : Mask) (off dev : Nat) (comet : Option DWord) (queue : Nat)
    (wrap : LaunchMsg → Out) : Sound K xs id (sendLaunch s0 s e h d p ntf m off dev comet queue wrap) := by
  unfold sendLaunch
  refine sound_ite (sound_handleResult hs _ _ _ _ _ _) (sound_ite h0 ?_)
  extract_lets record r c
  have hc : Keeps K xs r.1.warps := by rw [capture_warps]; exact hs
  clear_value c
  clear_value r
  refine sound_ite ?_ (sound_ite ?_ ?_)
  · show Keeps K xs (askUnit s0 _ _).warps
    rw [askUnit_warps]
    exact h0
  · show Keeps K xs (holdPath _ e).warps
    exact keeps_holdPath (by exact h0) _
  · split
    · exact sound_handleResult hs _ _ _ _ _ _
    · rename_i ha
      exact sound_handleResult (by rw [← allocHandle_warps ha] at hc; exact hc) _ _ _ _ _ _

theorem outSound_invk (h : Hdr) (p : Pred) (ntf : Bool) (d a b : Opnd) (s : State) :
    OutSound K s.warps (execInvk h p ntf d a b s) :=
  outSound_handleOp _ _ _ _ _ _ fun t e m v ht => by
    dsimp only
    split <;> rename_i hq
    · exact sound_scratchError hq
    · exact sound_ite trivial (sound_sendLaunch keeps_refl ht _ _ _ _ _ _ _ _ _ _ _)

theorem outSound_hsend (h : Hdr) (p : Pred) (ntf : Bool) (d a b c : Opnd) (s : State) :
    OutSound K s.warps (execHsend h p ntf d a b c s) :=
  outSound_handleOp _ _ _ _ _ _ fun t e m v ht => by
    dsimp only
    split <;> rename_i hq
    · exact sound_scratchError hq
    · exact sound_ite trivial (sound_ite trivial (sound_sendLaunch keeps_refl ht _ _ _ _ _ _ _ _ _ _ _))

theorem outSound_handleRead (s : State) (h : Hdr) (d : Opnd) (k : Nat) (a : Opnd)
    (body : State → State → Env → Mask → DWord → HandleReport → Except Stop State)
    (hb : ∀ (t u : State) e m hd r, Keeps K s.warps t.warps → Keeps K s.warps u.warps →
      Sound K s.warps id (body t u e m hd r)) : OutSound K s.warps (handleRead s h d k a body) :=
  outSound_handleOp _ _ _ _ _ _ fun t e m v ht => by
    dsimp only
    split <;> rename_i hq <;> have hs := (warps_of_snd hq).trans (askHome_warps ..)
    · exact keeps_holdPath (by exact keeps_refl) _
    · exact hb _ _ _ _ _ _ keeps_refl (by rw [hs]; exact ht)

theorem outSound_hwait (h : Hdr) (d a : Opnd) (s : State) : OutSound K s.warps (execHwait h d a s) :=
  outSound_handleRead _ _ _ _ _ _ fun _ _ _ _ _ _ _ hu => sound_ite trivial (sound_ite (sound_finish hu _ _ _ _ _ _) hu)

theorem outSound_hstat (h : Hdr) (d a : Opnd) (s : State) : OutSound K s.warps (execHstat h d a s) :=
  outSound_handleRead _ _ _ _ _ _ fun _ _ _ _ _ _ _ hu => sound_finish hu _ _ _ _ _ _

theorem outSound_hstatOrg (h : Hdr) (d a : Opnd) (s : State) : OutSound K s.warps (execHstatOrg h d a s) :=
  outSound_handleRead _ _ _ _ _ _ fun _ _ _ _ _ _ _ hu => sound_finish hu _ _ _ _ _ _

theorem outSound_hstatUp (h : Hdr) (d a : Opnd) (s : State) : OutSound K s.warps (execHstatUp h d a s) :=
  outSound_handleRead _ _ _ _ _ _ fun _ _ _ _ _ _ _ hu => sound_finish hu _ _ _ _ _ _

theorem outSound_hstatOcd (h : Hdr) (d a : Opnd) (s : State) : OutSound K s.warps (execHstatOcd h d a s) :=
  outSound_handleRead _ _ _ _ _ _ fun _ _ _ _ _ _ _ hu => sound_finish hu _ _ _ _ _ _

theorem outSound_hfree (g : Guard) (a : Opnd) (s : State) : OutSound K s.warps (execHfree g a s) :=
  outSound_handleRead _ _ _ _ _ _ fun _ _ _ _ _ _ _ hu => sound_ite trivial (sound_ite trivial
    (sound_advance (by rw [changeRefs_warps]; exact hu) _))

theorem outSound_hdup (h : Hdr) (d a : Opnd) (s : State) : OutSound K s.warps (execHdup h d a s) :=
  outSound_handleRead _ _ _ _ _ _ fun _ _ _ _ _ _ _ hu => sound_ite trivial (sound_ite trivial
    (sound_finish (by rw [changeRefs_warps]; exact hu) _ _ _ _ _ _))

theorem stopSound_collWaits {s0 : State} (h : Keeps K xs s0.warps) (s : State) (e : Env) :
    StopSound K xs (collWaits s0 s e) := keeps_holdPath (by exact h) _

theorem sound_collRefused {s0 s : State} (h0 : Keeps K xs s0.warps) (hs : Keeps K xs s.warps) (e : Env) (h : Hdr)
    (p : Pred) (ntf : Bool) (d : Opnd) (m : Mask) (desc : List Byte) :
    Sound K xs id (collRefused s0 s e h p ntf d m desc) := by
  generalize hf : collRefused = f
  delta collRefused at hf
  subst hf
  beta_reduce
  extract_lets obj
  have hw := wordAtIssue_warps s e obj 1
  rw [← hw] at hs
  generalize wordAtIssue s e obj 1 = r at hs
  obtain ⟨_ | w, u⟩ := r
  · exact stopSound_collWaits h0 _ _
  · dsimp only
    split
    · exact sound_handleResult hs _ _ _ _ _ _
    · rename_i ha
      rw [← allocHandle_warps ha] at hs
      refine sound_handleResult (keeps_settleAll (keeps_breakHandles ?_ _)) _ _ _ _ _ _
      split
      · exact hs
      · rw [tellAbandon_warps]
        exact hs
      · exact hs

theorem outSound_coll (h : Hdr) (p : Pred) (ntf : Bool) (d a : Opnd) (s : State) :
    OutSound K s.warps (execColl h p ntf d a s) :=
  outSound_handleOp _ _ _ _ _ _ fun t e m v ht => by
    split <;> rename_i hq
    · exact sound_scratchError hq
    · refine sound_ite (sound_handleResult ht _ _ _ _ _ _) (sound_ite keeps_refl (sound_ite keeps_refl ?_))
      extract_lets desc obj
      generalize commAtIssue t (envAgent t e) obj = comm
      cases comm with
      | bad => exact sound_collRefused keeps_refl ht _ _ _ _ _ _ _
      | units ts =>
        show Keeps K s.warps (askUnit s _ _).warps
        rw [askUnit_warps]
        exact keeps_refl
      | found l rd wr =>
        have hr := rankAtIssue_warps t e obj
        rw [← hr] at ht
        generalize rankAtIssue t e obj = r at ht
        obtain ⟨_ | rank, u⟩ := r
        · exact stopSound_collWaits keeps_refl _ _
        · dsimp only at ht ⊢
          split <;> rename_i hk <;> have hc := (warps_of_snd hk).trans (takeCseq_warps ..)
          · exact stopSound_collWaits keeps_refl _ _
          · rw [← hc] at ht
            exact sound_collRefused keeps_refl ht _ _ _ _ _ _ _
          · rw [← hc] at ht
            split
            · exact sound_handleResult ht _ _ _ _ _ _
            · rename_i ha
              rw [← allocHandle_warps ha] at ht
              exact sound_handleResult (by exact ht) _ _ _ _ _ _

end Sys2Proof.Machine

namespace Sys2Proof.Machine

variable {K : Allowed} {xs : List Warp}

/-! ### Control registers -/

theorem outSound_csrr (h : Hdr) (d : Opnd) (n : BitVec 9) (s : State) : OutSound K s.warps (execCsrr h d n s) := by
  unfold execCsrr
  refine outSound_runInstr fun c _ _ => ?_
  dsimp only
  split <;> rename_i hr
  · exact sound_error hr (sound_read ..)
  · exact sound_finish (keeps_read hr) _ _ _ _ _ _

theorem statusKept_warpCsrWrite (w : Nat) (x : Warp) (n v : Nat) : StatusKept K w x (warpCsrWrite x n v) := by
  unfold warpCsrWrite
  dsimp only
  split
  · exact statusKept_of_eq rfl rfl id
  · split
    · exact statusKept_of_eq rfl rfl id
    · split <;> exact statusKept_of_eq rfl rfl id

theorem sound_csrUpdate {s0 s : State} (h0 : Keeps K xs s0.warps) (hs : Keeps K xs s.warps) (e : Env) (n v : Nat) :
    Sound K xs id (csrUpdate s0 s e n v) := by
  unfold csrUpdate
  refine sound_ite (keeps_setWarp hs (statusKept_warpCsrWrite _ _ _ _)) ?_
  split <;> rename_i hr
  · exact sound_next (by rw [ctxCsrWrite_warps hr]; exact hs)
  · exact h0

theorem keeps_afterCsr {s : State} (h : Keeps K xs s.warps) (e : Env) (n : Nat) : Keeps K xs (afterCsr s e n).warps :=
  keeps_ite h (keeps_markStale h e)

theorem outSound_csrw (g : Guard) (n : BitVec 9) (a : Opnd) (s : State) : OutSound K s.warps (execCsrw g n a s) := by
  unfold execCsrw
  refine outSound_runInstr fun c _ _ => sound_ite trivial ?_
  split <;> rename_i hr
  · exact sound_error hr (sound_read ..)
  · have ht := keeps_read (K := K) hr
    refine sound_ite (sound_advance ht _) ?_
    split <;> rename_i hu
    · exact sound_error hu (sound_csrUpdate keeps_refl ht _ _ _)
    · exact sound_map (sound_advance (sound_ok hu (sound_csrUpdate keeps_refl ht _ _ _)) _)
        fun _ h => keeps_afterCsr h _ _

theorem outSound_csrModify (s : State) (h : Hdr) (d : Opnd) (n : BitVec 9) (a : Opnd) (f : Nat → Nat → Nat) :
    OutSound K s.warps (csrModify s h d n a f) := by
  unfold csrModify
  refine outSound_runInstr fun c _ _ => sound_ite trivial ?_
  split <;> rename_i hr
  · exact sound_error hr (sound_read ..)
  · have ht := keeps_read (K := K) hr
    refine sound_ite (sound_advance ht _) ?_
    dsimp only
    split <;> rename_i hu
    · exact sound_error hu (sound_csrUpdate keeps_refl ht _ _ _)
    · exact sound_map (sound_finish (sound_ok hu (sound_csrUpdate keeps_refl ht _ _ _)) _ _ _ _ _ _)
        fun _ h => keeps_afterCsr h _ _

/-! ### Trap returns -/

theorem outSound_tretOp (s : State) (g : Guard) (act : State → Env → Except Stop State)
    (hb : ∀ c, s.cur = some c → K.clears = true ∧ K.leaves = some c.w ∧ Sound K s.warps id (act s (envOf s c))) :
    OutSound K s.warps (tretOp s g act) :=
  outSound_runInstr fun c hc _ => by
    obtain ⟨hcl, hlv, hact⟩ := hb c hc
    refine sound_ite (sound_advance keeps_refl _) ?_
    split <;> rename_i hr
    · exact sound_error hr hact
    · have hs := keeps_setWarp (w := c.w) (x := tretRestore (warpAt _ c.w)) (sound_ok hr hact)
        ⟨fun hf => by simp [hcl] at hf, .inr ⟨rfl, .inl hlv⟩, id⟩
      exact keeps_ite (keeps_finishWarp hs _) hs

theorem sound_tretResume {s : State} (h : Keeps K xs s.warps) (e : Env) : Sound K xs id (tretResume s e) := by
  unfold tretResume
  dsimp only
  split
  · exact h
  · exact sound_ite h (sound_orStop fun t ht => keeps_settle (keeps_setSlot h _ _ _) ht)

theorem keeps_giveBackAll {s : State} (h : Keeps K xs s.warps) (w : Nat) : Keeps K xs (giveBackAll s w).warps :=
  keeps_giveBack (keeps_giveBack (keeps_giveBack h _ _) _ _) _ _

/-- A fold of steps that may fail and keep the status where they do not. -/
theorem keeps_foldBind {α : Type} {f : State → α → Except Unsettled State}
    (hf : ∀ s t a, Keeps K xs s.warps → f s a = .ok t → Keeps K xs t.warps) (as : List α)
    {r : Except Unsettled State} (hr : ∀ s, r = .ok s → Keeps K xs s.warps) {t : State}
    (ht : as.foldl (fun acc a => acc.bind (fun s => f s a)) r = .ok t) : Keeps K xs t.warps := by
  induction as generalizing r with
  | nil => exact hr t ht
  | cons a as ih =>
    refine ih (fun u hu => ?_) ht
    obtain ⟨s, hs, he⟩ := except_bind_ok hu
    exact hf s u a (hr s hs) he

theorem and_zero_of_left {a m : Mask} (h : a = 0) : a &&& m = 0 := by rw [h]; exact BitVec.zero_and

theorem keeps_endLanes {s t : State} {e : Env} {m : Mask} (h : Keeps K xs s.warps) (ht : endLanes s e m = .ok t) :
    Keeps K xs t.warps := by
  have given : ∀ {u : State} {k : Which} {c : Prop} [Decidable c], Keeps K xs u.warps →
      Keeps K xs (if c then giveBack u e.w k else u).warps := fun h => keeps_ite (keeps_giveBack h _ _) h
  unfold endLanes at ht
  refine keeps_foldBind (fun u v k hu hv => ?_) _ (fun u hu => ?_) ht
  · obtain ⟨en, _, he⟩ := except_bind_ok hv
    split at he
    · split at he
      · cases he
      · exact keeps_entPut hu he
    · cases he
      exact hu
  · cases hu
    exact keeps_setWarp (given (given h)) (statusKept_of_eq rfl rfl and_zero_of_left)

theorem keeps_endCrewByHandler {s : State} (h : Keeps K xs s.warps) (c : Nat) :
    Keeps K xs (endCrewByHandler s c).warps := keeps_breakHandles (by exact keeps_endCrew h c) _

theorem outSound_tretRes (g : Guard) (s : State) (c : Cur) (hc : s.cur = some c) :
    OutSound ⟨true, some c.w⟩ s.warps (execTretRes g s) :=
  outSound_tretOp _ _ _ fun k hk => by
    obtain rfl : c = k := Option.some.inj (hc.symm.trans hk)
    exact ⟨rfl, rfl, sound_tretResume keeps_refl _⟩

theorem outSound_tretLanes (g : Guard) (s : State) (c : Cur) (hc : s.cur = some c) :
    OutSound ⟨true, some c.w⟩ s.warps (execTretLanes g s) :=
  outSound_tretOp _ _ _ fun k hk => by
    obtain rfl : c = k := Option.some.inj (hc.symm.trans hk)
    refine ⟨rfl, rfl, ?_⟩
    split <;> rename_i hl
    · exact sound_unsettled _ _
    · have hs := sound_tretResume (K := ⟨true, some c.w⟩) (keeps_endLanes keeps_refl hl) (envOf s c)
      split <;> rename_i hr
      · exact sound_error hr hs
      · exact sound_orStop fun t ht => keeps_settle (sound_ok hr hs) ht

theorem outSound_tretWarp (g : Guard) (s : State) (c : Cur) (hc : s.cur = some c) :
    OutSound ⟨true, some c.w⟩ s.warps (execTretWarp g s) :=
  outSound_tretOp _ _ _ fun k hk => by
    obtain rfl : c = k := Option.some.inj (hc.symm.trans hk)
    exact ⟨rfl, rfl, sound_next (keeps_setWarp (keeps_giveBackAll keeps_refl _) (statusKept_of_eq rfl rfl (fun _ => rfl)))⟩

theorem outSound_tretCrew (g : Guard) (s : State) (c : Cur) (hc : s.cur = some c) :
    OutSound ⟨true, some c.w⟩ s.warps (execTretCrew g s) :=
  outSound_tretOp _ _ _ fun k hk => by
    obtain rfl : c = k := Option.some.inj (hc.symm.trans hk)
    exact ⟨rfl, rfl, sound_next (keeps_endCrewByHandler keeps_refl _)⟩

theorem outSound_tretLaunch (g : Guard) (s : State) (c : Cur) (hc : s.cur = some c) :
    OutSound ⟨true, some c.w⟩ s.warps (execTretLaunch g s) :=
  outSound_tretOp _ _ _ fun k hk => by
    obtain rfl : c = k := Option.some.inj (hc.symm.trans hk)
    exact ⟨rfl, rfl, sound_next (keeps_breakLaunch keeps_refl _ _ _)⟩

theorem outSound_tqpop (g : Guard) (d : Opnd) (s : State) : OutSound K s.warps (execTqpop g d s) := by
  unfold execTqpop
  refine outSound_runInstr fun c _ _ => ?_
  dsimp only
  split <;> rename_i hr
  · exact sound_error hr (sound_read ..)
  · have ht := keeps_read (K := K) hr
    split
    · refine sound_ite (sound_finish ?_ _ _ _ _ _ _) (sound_finish ht _ _ _ _ _ _)
      exact keeps_setWarp_same ht rfl rfl rfl
    · exact sound_finish ht _ _ _ _ _ _

/-! ### Invalidation of pointers -/

theorem sound_orinvEnd {s : State} (h : Keeps K xs s.warps) (e : Env) (obj sub : Option Nat) {drop : State → State}
    (hd : (drop s).warps = s.warps) : Sound K xs id (orinvEnd s e obj sub drop) :=
  sound_ite (keeps_holdPath h _) (sound_map (sound_advance (by rw [hd]; exact h) _) fun _ ht => keeps_markStale ht _)

theorem outSound_orinvObj (g : Guard) (a : Opnd) (s : State) : OutSound K s.warps (execOrinvObj g a s) :=
  outSound_runInstr fun _ _ _ => sound_ite (sound_advance keeps_refl _) (sound_orinvEnd keeps_refl _ _ _ rfl)

theorem outSound_orinvSub (g : Guard) (a : Opnd) (s : State) : OutSound K s.warps (execOrinvSub g a s) :=
  outSound_runInstr fun c _ _ => by
    refine sound_ite (sound_advance keeps_refl _) ?_
    split <;> rename_i hr
    · unfold shapeOnly at hr
      dsimp only at hr
      split at hr
      · cases hr; trivial
      · split at hr
        · cases hr; trivial
        · cases hr
    · exact sound_orinvEnd keeps_refl _ _ _ rfl

theorem outSound_orinvAll (g : Guard) (s : State) : OutSound K s.warps (execOrinvAll g s) :=
  outSound_runInstr fun _ _ _ => sound_ite (sound_advance keeps_refl _)
    (sound_orinvEnd keeps_refl _ _ _ (dropContext_warps ..))

end Sys2Proof.Machine

namespace Sys2Proof.Machine

variable {K : Allowed} {xs : List Warp}

/-! ### Atomics and fences -/

/-- The lanes of an atomic whose turn is not known stop it before it has done anything. -/
theorem stopSound_atomTurn {s : State} {e : Env} {logged : Bool} {accs : List LaneAcc} {x : Stop}
    (hx : atomTurn s e logged accs = .error x) : StopSound K xs x := by
  unfold atomTurn at hx
  generalize hr : List.foldl _ _ accs = r at hx
  obtain rfl : r = .error x := by
    cases r with
    | error y => exact congrArg _ (Except.error.inj hx)
    | ok a => exact nomatch hx
  have all : ∀ (r : Except Stop (State × List LaneAcc)), (∀ y, r = .error y → StopSound K xs y) →
      ∀ y, accs.foldl (fun (acc : Except Stop (State × List LaneAcc)) a => match acc with
        | .error x => .error x
        | .ok (t, ls) => match olFold t e (atomEvents logged a) with
          | .done t => .ok (t, ls ++ [a])
          | .wait => .ok (t, ls)
          | .unit ts => .error (.again ts)
          | .fetch ls => .error (.fetch ls)
          | .clear ls => .error (.clear ls)) r = .error y → StopSound K xs y := by
    clear hr hx
    induction accs with
    | nil => exact fun r h => h
    | cons a as ih =>
      intro r h
      refine ih _ (fun y hy => ?_)
      dsimp only at hy
      split at hy
      · exact h y hy
      · split at hy <;> cases hy <;> trivial
  exact all _ (fun y hy => by cases hy) x hr

theorem keeps_atomLanes {s : State} (h : Keeps K xs s.warps) {f : AtomAcc → LaneAcc → AtomAcc}
    (hf : ∀ acc a, (f acc a).s.warps = acc.s.warps) (as : List LaneAcc) :
    Keeps K xs (as.foldl f ⟨s, [], 0⟩).s.warps := by
  rw [foldl_same (fun a : AtomAcc => a.s.warps) f hf]
  exact h

theorem outSound_atomOp (s : State) (h : Hdr) (m : AtomOp) (aop : Nat) (wide : Bool) (f : Option FSlot) (d c : Opnd) :
    OutSound K s.warps (atomOp s h m aop wide f d c) := by
  unfold atomOp
  extract_lets k n fslot logged
  refine outSound_runInstr fun cc _ _ => ?_
  extract_lets tm idx fw gen g stepped before v sw
  split <;> rename_i hr
  · exact sound_error hr (sound_checkLanes keeps_refl ..)
  · extract_lets fw gen g drawn0 before v sw logged todo
    have drawn : ∀ {u : State}, Keeps K s.warps u.warps → Keeps K s.warps (stepped u).warps := fun hu =>
      keeps_ite hu (keeps_stepGen hu _ _ _)
    clear_value stepped
    split <;> rename_i hq
    · exact stopSound_atomTurn hq
    · refine sound_ite keeps_refl ?_
      extract_lets reqs
      refine sound_ite (keeps_holdPath keeps_refl _) ?_
      split <;> rename_i hp <;> have hs := (warps_of_snd hp).trans (clearPeers_warps ..)
      · exact keeps_holdPath (by rw [hs]; exact keeps_refl) _
      · split <;> rename_i hx <;> have ht := ((warps_of_snd hx).trans (exchange_warps ..)).trans hs
        · exact keeps_holdPath (by rw [ht]; exact keeps_refl) _
        · extract_lets answers of s1 s2 r done errors s3 s4 y s5
          have h2 : Keeps K s.warps s2.warps := by
            rw [atomLog_warps, sawBytes_warps, ht]
            exact keeps_refl
          have hr : Keeps K s.warps r.s.warps := keeps_atomLanes h2 (fun _ _ => atomLane_warps ..) _
          have he : ∀ {u : State}, Keeps K s.warps u.warps → Keeps K s.warps (errors u).warps := fun hu =>
            keeps_returnErrors hu ..
          clear_value r errors done
          refine sound_ite (he (keeps_keepTurn (drawn hr) _ _ _)) ?_
          have h4 : Keeps K s.warps s4.warps := by
            have h3 := keeps_raiseFlags (drawn hr) (envOf s cc).w
            exact keeps_ite (keeps_olCount (h3 _) _) (h3 _)
          have h5 : Keeps K s.warps s5.warps := keeps_setWarp_same h4 rfl rfl rfl
          clear_value s5
          split <;> rename_i hf
          · exact sound_error hf (sound_finish h5 _ _ _ _ _ _)
          · exact he (sound_ok hf (sound_finish h5 _ _ _ _ _ _))

theorem outSound_atomsOp (s : State) (h : Hdr) (m : AtomOp) (aop : Nat) (wide : Bool) (f : Option FSlot) (d c : Opnd) :
    OutSound K s.warps (atomsOp s h m aop wide f d c) := by
  unfold atomsOp
  refine outSound_runInstr fun cc _ _ => ?_
  dsimp only
  split
  · trivial
  · split <;> rename_i hr
    · exact sound_error hr (sound_read ..)
    · refine sound_finish ?_ _ _ _ _ _ _
      exact keeps_raiseFlags (keeps_stepGen (keeps_read hr) _ _ _) _ _

theorem outSound_fence (g : Guard) (scp : Scope) (ord : Order) (sc : Bool) (s : State) :
    OutSound K s.warps (execFence g scp ord sc s) := outSound_runInstr fun _ _ _ => sound_advance keeps_refl _

theorem outSound_fencex (g : Guard) (scp : Scope) (src dst : PathSet) (s : State) :
    OutSound K s.warps (execFencex g scp src dst s) := outSound_runInstr fun c _ _ => by
  refine sound_ite (sound_advance keeps_refl _) (sound_advance ?_ _)
  rw [fenceViews_warps]
  exact keeps_refl

/-! ### Barriers, mbar objects and queues -/

theorem outSound_barOp (s : State) (g : Guard) (n : Fin 16) (b : Opnd)
    (after : State → Env → Bool → Except Stop State)
    (hb : ∀ (t : State) e p, Keeps K s.warps t.warps → Sound K s.warps id (after t e p)) :
    OutSound K s.warps (barOp s g n b after) :=
  outSound_runInstr fun c _ _ => by
    refine sound_ite (sound_advance keeps_refl _) (sound_ite trivial ?_)
    split <;> rename_i hr
    · exact sound_error hr (sound_read ..)
    · exact sound_ite trivial (sound_ite trivial (hb _ _ _ (keeps_barArrive (keeps_read hr) _ _ _)))

theorem outSound_barSync (g : Guard) (n : Fin 16) (b : Opnd) (s : State) : OutSound K s.warps (execBarSync g n b s) :=
  outSound_barOp _ _ _ _ _ fun _ _ _ h => sound_ite (sound_advance h _) h

theorem outSound_barArv (g : Guard) (n : Fin 16) (b : Opnd) (s : State) : OutSound K s.warps (execBarArv g n b s) :=
  outSound_barOp _ _ _ _ _ fun _ _ _ h => sound_advance h _

theorem outSound_barWait (g : Guard) (n : Fin 16) (s : State) : OutSound K s.warps (execBarWait g n s) :=
  outSound_runInstr fun _ _ _ => sound_ite (sound_advance keeps_refl _) (sound_ite trivial keeps_refl)

theorem outSound_mbarOp (s : State) (g : Guard) (ds : List Src) (dst : Option Opnd) (push : Bool) (a : Opnd)
    (b : Option Opnd) (needInit : Bool) (body : State → Env → Mask → Nat → Nat → Nat → Except Stop State)
    (hb : ∀ (t : State) e m off obj v, Keeps K s.warps t.warps → Sound K s.warps id (body t e m off obj v)) :
    OutSound K s.warps (mbarOp s g ds dst push a b needInit body) := by
  unfold mbarOp
  refine outSound_runInstr fun c _ _ => ?_
  dsimp only
  split <;> rename_i hr
  · exact sound_error hr (sound_read ..)
  · have ht := keeps_read (K := K) hr
    refine sound_ite (sound_advance ht _) ?_
    split <;> rename_i hq
    · exact sound_scratchError hq
    · exact sound_ite trivial (hb _ _ _ _ _ _ ht)

theorem outSound_mbarInit (g : Guard) (a b : Opnd) (s : State) : OutSound K s.warps (execMbarInit g a b s) :=
  outSound_mbarOp _ _ _ _ _ _ _ _ _ fun _ _ _ _ _ _ h => sound_ite trivial (sound_advance (keeps_mbStore h _ _ _) _)

theorem outSound_mbarArv (h : Hdr) (d a : Opnd) (s : State) : OutSound K s.warps (execMbarArv h d a s) :=
  outSound_mbarOp _ _ _ _ _ _ _ _ _ fun _ _ _ _ _ _ h => sound_finish (keeps_mbStore h _ _ _) _ _ _ _ _ _

theorem outSound_mbarArvtx (h : Hdr) (d a b : Opnd) (s : State) : OutSound K s.warps (execMbarArvtx h d a b s) :=
  outSound_mbarOp _ _ _ _ _ _ _ _ _ fun _ _ _ _ _ _ h => sound_finish (keeps_mbStore h _ _ _) _ _ _ _ _ _

theorem outSound_mbarTest (h : Hdr) (d : Pred) (a b : Opnd) (s : State) : OutSound K s.warps (execMbarTest h d a b s) :=
  outSound_mbarOp _ _ _ _ _ _ _ _ _ fun _ _ _ _ _ _ h => sound_finishPred h _ _ _ _ _

theorem outSound_mbarWait (g : Guard) (a b : Opnd) (s : State) : OutSound K s.warps (execMbarWait g a b s) :=
  outSound_mbarOp _ _ _ _ _ _ _ _ _ fun _ _ _ _ _ _ h => sound_ite (sound_advance h _) h

theorem outSound_mbarInval (g : Guard) (a : Opnd) (s : State) : OutSound K s.warps (execMbarInval g a s) :=
  outSound_mbarOp _ _ _ _ _ _ _ _ _ fun t e m off obj v h => by
    refine sound_advance (keeps_forParked (by exact h) _ fun u w k p hu => ?_) _
    split
    · exact keeps_ite (keeps_trapParked hu ..) hu
    · exact hu

theorem outSound_qbind (g : Guard) (d : Fin 6) (a : Opnd) (s : State) : OutSound K s.warps (execQctlQbind g d a s) :=
  outSound_runInstr fun c _ _ => by
    dsimp only
    split <;> rename_i hr
    · exact sound_error hr (sound_read ..)
    · have ht := keeps_read (K := K) hr
      exact sound_ite (sound_advance ht _) (sound_ite trivial (sound_ite trivial (sound_advance (by exact ht) _)))

theorem outSound_qstat (h : Hdr) (d : Opnd) (a : Fin 8) (s : State) : OutSound K s.warps (execQctlQstat h d a s) :=
  outSound_runInstr fun c _ _ => by
    dsimp only
    split <;> rename_i hr
    · exact sound_error hr (sound_read ..)
    · exact sound_finish (keeps_read hr) _ _ _ _ _ _

end Sys2Proof.Machine

namespace Sys2Proof.Machine

variable {K : Allowed} {xs : List Warp}

/-! ### Lanes, special registers, and exchanges between warps -/

theorem outSound_lxchOp (s : State) (h : Hdr) (seg : Fin 6) (d : Opnd) (srcs : List Src)
    (src : Nat → Nat → Nat → Nat → Option Nat) : OutSound K s.warps (lxchOp s h seg d srcs src) := by
  unfold lxchOp
  refine outSound_runInstr fun c _ _ => ?_
  dsimp only
  split <;> rename_i hr
  · exact sound_error hr (sound_read ..)
  · exact sound_finish (keeps_read hr) _ _ _ _ _ _

theorem outSound_lmaskPred (s : State) (h : Hdr) (d a : Pred) (f : Mask → Mask → Bool) :
    OutSound K s.warps (lmaskPred s h d a f) := outSound_runInstr fun _ _ _ => sound_finishPred keeps_refl _ _ _ _ _

theorem outSound_lmaskWord (s : State) (h : Hdr) (d : Opnd) (a : Pred) (f : Mask → Nat) :
    OutSound K s.warps (lmaskWord s h d a f) := by
  unfold lmaskWord
  refine outSound_runInstr fun c _ _ => ?_
  dsimp only
  split <;> rename_i hr
  · exact sound_error hr (sound_read ..)
  · exact sound_finish (keeps_read hr) _ _ _ _ _ _

theorem outSound_lmaskSame (h : Hdr) (d : Pred) (a : Opnd) (s : State) : OutSound K s.warps (execLmaskSame h d a s) := by
  unfold execLmaskSame
  refine outSound_runInstr fun c _ _ => ?_
  dsimp only
  split <;> rename_i hr
  · exact sound_error hr (sound_read ..)
  · exact sound_finishPred (keeps_read hr) _ _ _ _ _

theorem outSound_lredOp (s : State) (h : Hdr) (d a : Opnd) (f : Word → Word → Word) :
    OutSound K s.warps (lredOp s h d a f) := by
  unfold lredOp
  refine outSound_runInstr fun c _ _ => ?_
  dsimp only
  split <;> rename_i hr
  · exact sound_error hr (sound_read ..)
  · exact sound_finish (keeps_read hr) _ _ _ _ _ _

theorem outSound_rdsr (h : Hdr) (d : Opnd) (n : Fin 24) (s : State) : OutSound K s.warps (execRdsr h d n s) := by
  unfold execRdsr
  refine outSound_runInstr fun c _ _ => ?_
  dsimp only
  split <;> rename_i hr
  · exact sound_error hr (sound_read ..)
  · exact sound_finish (keeps_read hr) _ _ _ _ _ _

theorem keeps_profOperand (s : State) (c : Cur) (m : Mask) (a : Opnd) :
    Keeps K s.warps (profOperand s (envOf s c) m a).1.warps := by
  unfold profOperand
  split <;> rename_i hr
  · exact keeps_read hr
  · exact keeps_refl

theorem outSound_prof (g : Guard) (code : BitVec 8) (a : Opnd) (s : State) :
    OutSound K s.warps (execProf g code a s) := by
  unfold execProf
  refine outSound_runInstr fun c _ _ => ?_
  extract_lets m r u
  have hp : Keeps K s.warps u.warps := keeps_profOperand s c m a
  split
  · exact sound_advance keeps_refl _
  · refine sound_ite (sound_advance keeps_refl _)
      (sound_ite (sound_advance (by rw [ctxPut_warps]; exact hp) _) (sound_advance (keeps_ite ?_ ?_) _))
    · rw [raiseMsix_warps, ctxPut_warps, physPut_warps]
      exact hp
    · rw [ctxPut_warps, physPut_warps]
      exact hp

theorem keeps_countSwap {s : State} (h : Keeps K xs s.warps) (w : Nat) : Keeps K xs (countSwap s w).warps :=
  keeps_setWarp_same h rfl rfl rfl

theorem sound_swapPartner {s : State} (h : Keeps K xs s.warps) (v : Nat) (k : Which) (dst : Dest) (val : Nat → Nat) :
    Sound K xs id (swapPartner s v k dst val) := by
  have hs := keeps_countSwap (keeps_writeDest h v dst 1 val) v
  have pushed : Sound K xs id (match dst.d with
      | .q n => if dst.h.w then .ok (countSwap (setWarp s v (writeDest (warpAt s v) dst 1 val)) v)
          else pushChan (countSwap (setWarp s v (writeDest (warpAt s v) dst 1 val)) v)
            (envOf (countSwap (setWarp s v (writeDest (warpAt s v) dst 1 val)) v) ⟨v, k⟩) n.val dst.lanes val
      | _ => .ok (countSwap (setWarp s v (writeDest (warpAt s v) dst 1 val)) v)) := by
    split
    · exact sound_ite hs (sound_pushChan hs _ _ _ _)
    · exact hs
  unfold swapPartner
  dsimp only
  split <;> rename_i hp
  · exact sound_error hp pushed
  · exact keeps_resumeSlot (keeps_setSlot (sound_ok hp pushed) _ _ _) _ _

theorem outSound_xswap (h : Hdr) (d a : Opnd) (s : State) : OutSound K s.warps (execXswap h d a s) := by
  unfold execXswap
  refine outSound_runInstr fun c _ _ => ?_
  refine sound_ite (sound_advance keeps_refl _) (sound_ite trivial (sound_ite trivial (sound_ite trivial ?_)))
  split <;> rename_i hr
  · exact sound_error hr (sound_read ..)
  · have ht := keeps_read (K := K) hr
    dsimp only
    split
    · exact ht
    · refine sound_ite keeps_refl ?_
      have hp := sound_swapPartner (keeps_countSwap ht (envOf s c).w)
      split <;> rename_i hx
      · exact keeps_refl
      · exact sound_error hx (hp _ _ _ _)
      · exact sound_finish (sound_ok hx (hp _ _ _ _)) _ _ _ _ _ _

/-! ### Memory levels -/

theorem outSound_pref (g : Guard) (m : MemOp) (s : State) : OutSound K s.warps (execPref g m s) :=
  outSound_runInstr fun _ _ _ => sound_advance keeps_refl _

theorem stopSound_checkRange {s : State} {e : Env} {m : Mask} {addr n : Nat} {x : Stop}
    (hx : checkRange s e m addr n = .error x) : StopSound K xs x := by
  unfold checkRange at hx
  dsimp only at hx
  split at hx
  · cases hx; trivial
  · split at hx
    · cases hx; trivial
    · split at hx <;> cases hx
      trivial

theorem outSound_rowOp (s : State) (h : Hdr) (d a b : Opnd) (priv : Env → Bool)
    (f : List PSlot → Nat → List PSlot × Bool) : OutSound K s.warps (rowOp s h d a b priv f) := by
  unfold rowOp
  refine outSound_runInstr fun c _ _ => ?_
  dsimp only
  split <;> rename_i hr
  · exact sound_error hr (sound_read ..)
  · have ht := keeps_read (K := K) hr
    refine sound_ite (sound_advance ht _) ?_
    split <;> rename_i hq
    · exact stopSound_checkRange hq
    · exact sound_map (sound_finish (by rw [overRows_warps]; exact ht) _ _ _ _ _ _) fun _ h => keeps_markStale h _

theorem outSound_objqOp (s : State) (h : Hdr) (d : Opnd) (k : Nat) (srcs : List Src)
    (f : State → Env → List Nat → Except (Fail × Nat) Nat) : OutSound K s.warps (objqOp s h d k srcs f) := by
  unfold objqOp
  refine outSound_runInstr fun c _ _ => ?_
  dsimp only
  split <;> rename_i hr
  · exact sound_error hr (sound_read ..)
  · split
    · trivial
    · exact sound_finish (keeps_read hr) _ _ _ _ _ _

theorem outSound_cacheOp (s : State) (g : Guard) (a b : Opnd) (f : State → List Nat → State)
    (hf : ∀ t ls, (f t ls).warps = t.warps) : OutSound K s.warps (cacheOp s g a b f) := by
  unfold cacheOp
  refine outSound_runInstr fun c _ _ => ?_
  dsimp only
  split <;> rename_i hr
  · exact sound_error hr (sound_read ..)
  · have ht := keeps_read (K := K) hr
    refine sound_ite (sound_advance ht _) ?_
    split <;> rename_i hq
    · exact stopSound_checkRange hq
    · exact sound_map (sound_advance (by rw [hf]; exact ht) _) fun _ h => keeps_markStale h _

end Sys2Proof.Machine

namespace Sys2Proof.Machine

/-! ### The arithmetic forms -/

section
variable {K : Allowed}

theorem outSound_op1 (s : State) (h : Hdr) (d a : Opnd) (f : Word → Word) : OutSound K s.warps (op1 s h d a f) :=
  outSound_laneOp _ _ _ _ _ _

theorem outSound_op2 (s : State) (h : Hdr) (d a b : Opnd) (f : Word → Word → Word) :
    OutSound K s.warps (op2 s h d a b f) := outSound_laneOp _ _ _ _ _ _

theorem outSound_op3 (s : State) (h : Hdr) (d a b c : Opnd) (f : Word → Word → Word → Word) :
    OutSound K s.warps (op3 s h d a b c f) := outSound_laneOp _ _ _ _ _ _

theorem outSound_op64 (s : State) (h : Hdr) (d a b : Opnd) (f : DWord → DWord → DWord) :
    OutSound K s.warps (op64 s h d a b f) := outSound_laneOp _ _ _ _ _ _

theorem outSound_opSh64 (s : State) (h : Hdr) (d a b : Opnd) (f : DWord → Nat → DWord) :
    OutSound K s.warps (opSh64 s h d a b f) := outSound_laneOp _ _ _ _ _ _

end

/-! ### Every instruction word (R13, R15) -/

/-- The instructions that may clear bits of FFLAGS (R127, R321). -/
def clearsFlags : Instr → Bool
  | .clrflag _ .ff _ => true
  | i => returns i

/-- What an instruction that path c issues may do besides. -/
def allowedTo (i : Instr) (c : Cur) : Allowed := ⟨clearsFlags i, if returns i then some c.w else none⟩

theorem clearsFlags_eq_false {i : Instr} (hc : ∀ g r, i ≠ .clrflag g .ff r) (hr : returns i = false) :
    clearsFlags i = false := by
  unfold clearsFlags
  split
  · exact absurd rfl (hc _ _)
  · exact hr

/-- Every instruction word keeps the status of every warp, but for what it is allowed. -/
theorem outSound_exec {i : Instr} (hw : wellFormed i = true) {s : State} {c : Cur} (hc : s.cur = some c) :
    OutSound (allowedTo i c) s.warps (exec i s) := by
  cases i
  case iabs | ineg | not | popc | clz | ctz | brev | mov | iaddi | andi | ori | xori =>
    unfold exec
    exact outSound_op1 _ _ _ _ _
  case iadd | isub | imin | imax | iminu | imaxu | iaddsat | isubsat | and | or | xor | andn | orn | imul | imulh |
    imulhu | idiv | idivu | irem | iremu | shl | shr | sar | rotl | rotr | bfe | bfes =>
    unfold exec
    exact outSound_op2 _ _ _ _ _ _
  case ltab | imad | bfi | bgat =>
    unfold exec
    exact outSound_op3 _ _ _ _ _ _ _
  case iadd2 | isub2 | padd =>
    unfold exec
    exact outSound_op64 _ _ _ _ _ _
  case shl2 | shr2 | sar2 =>
    unfold exec
    exact outSound_opSh64 _ _ _ _ _ _
  case imulw | imulwu | mov2 | movi | movi2 =>
    unfold exec
    exact outSound_laneOp _ _ _ _ _ _
  case icmp =>
    unfold exec execIcmp
    exact outSound_lanePred _ _ _ _ _
  case setp =>
    unfold exec
    exact outSound_lanePred _ _ _ _ _
  case pand | por | pxor | pnot | pandn =>
    unfold exec
    exact outSound_predOp _ _ _ _ _ _
  case bra | call =>
    unfold exec
    exact outSound_branch _ _ _ _ _ _
  case brx | callx | ret =>
    unfold exec
    exact outSound_indirect _ _ _ _
  case ld8 | ld8s | ld16 | ld16s | ld32 | ld64 | ld128 | ldp =>
    unfold exec
    exact outSound_loadOp _ _ _ _ _ _ _ _
  case st8 | st16 | st32 | st64 | st128 | stp =>
    unfold exec
    exact outSound_storeOp _ _ _ _ _ _ _
  case lds32 | lds64 | lds128 =>
    unfold exec
    exact outSound_ldsOp _ _ _ _ _
  case sts32 | sts64 | sts128 =>
    unfold exec
    exact outSound_stsOp _ _ _ _ _
  case prom | promPin | dem =>
    unfold exec
    exact outSound_rowOp _ _ _ _ _ _ _
  case objqRec | objqRes =>
    unfold exec
    exact outSound_objqOp _ _ _ _ _ _
  case atomAdd | atomSub | atomMin | atomMax | atomMinu | atomMaxu | atomAnd | atomOr | atomXor | atomXchg | atomCas |
    atomFadd | atomFmin | atomFmax =>
    unfold exec
    exact outSound_atomOp _ _ _ _ _ _ _ _
  case atomsAdd | atomsSub | atomsMin | atomsMax | atomsMinu | atomsMaxu | atomsAnd | atomsOr | atomsXor | atomsXchg |
    atomsCas | atomsFadd | atomsFmin | atomsFmax =>
    unfold exec
    exact outSound_atomsOp _ _ _ _ _ _ _ _
  case lxchSel | lxchRdn | lxchRup | lxchXor | lxchRev =>
    unfold exec
    exact outSound_lxchOp _ _ _ _ _ _
  case lmaskSome | lmaskEvery =>
    unfold exec
    exact outSound_lmaskPred _ _ _ _ _
  case lmaskMask | lmaskCount =>
    unfold exec
    exact outSound_lmaskWord _ _ _ _ _
  case lredAdd | lredMin | lredMax | lredMinu | lredMaxu | lredAnd | lredOr | lredXor =>
    unfold exec
    exact outSound_lredOp _ _ _ _ _
  case cpy | cpyg | cpys | cpyq =>
    unfold exec
    exact outSound_copyOp _ _ _ _ _ _ _
  case fadd | fsub | fmul | fmin | fmax | fabs | fneg | fsgn | ffma | ffms | fnma | fnms | fdiv | fsqrt | frcp =>
    unfold exec
    exact outSound_slotElems _ _ _ _ _ _
  case frsq | fex2 | flg2 | fsin | fcos | ftanh | fsigm =>
    unfold exec
    exact outSound_slotSpecial _ _ _ _ _ _
  case fcmp | fclass =>
    unfold exec
    exact outSound_slotPred _ _ _ _ _ _ _ _
  case fcvti | ficvt | fdot | fsum =>
    unfold exec
    exact outSound_slotLanes _ _ _ _ _ _ _ _
  case getfs | getsr | rdflag =>
    unfold exec
    exact outSound_statusRead _ _ _ _ _ _
  case qnt | qntr | rqnt | dqnt =>
    unfold exec
    exact outSound_blockOp _ _ _ _ _ _ _ _ _ _ _ _ _
  case csrs | csrc =>
    unfold exec
    exact outSound_csrModify _ _ _ _ _ _
  case cflush =>
    unfold exec
    exact outSound_cacheOp _ _ _ _ _ fun _ _ => rfl
  case cinv =>
    unfold exec
    exact outSound_cacheOp _ _ _ _ _ fun t ls => by split <;> rfl
  case mdrain =>
    unfold exec
    exact outSound_mdrainOp _ _ _ _ _ _ _ _ _
  case nop =>
    unfold exec
    exact outSound_nop _ _
  case sel =>
    unfold exec
    exact outSound_sel _ _ _ _ _ _
  case movp =>
    unfold exec
    exact outSound_movp _ _ _ _
  case exit =>
    unfold exec
    exact outSound_exit _ _
  case yield =>
    unfold exec
    exact outSound_yield _ _
  case trap =>
    unfold exec
    exact outSound_trap _ _ _
  case brk =>
    unfold exec
    exact outSound_brk _ _ _
  case pchk =>
    unfold exec
    exact outSound_pchk _ _ _
  case pyield =>
    unfold exec
    exact outSound_pyield _ _ _
  case pref =>
    unfold exec
    exact outSound_pref _ _ _
  case fence =>
    unfold exec
    exact outSound_fence _ _ _ _ _
  case fencex =>
    unfold exec
    exact outSound_fencex _ _ _ _ _
  case lmaskSame =>
    unfold exec
    exact outSound_lmaskSame _ _ _ _
  case xswap =>
    unfold exec
    exact outSound_xswap _ _ _ _
  case rdsr =>
    unfold exec
    exact outSound_rdsr _ _ _ _
  case prof =>
    unfold exec
    exact outSound_prof _ _ _ _
  case barWait =>
    unfold exec
    exact outSound_barWait _ _ _
  case qctlQbind =>
    unfold exec
    exact outSound_qbind _ _ _ _
  case qctlQstat =>
    unfold exec
    exact outSound_qstat _ _ _ _
  case mwait =>
    unfold exec
    exact outSound_mwait _ _
  case cwait =>
    unfold exec
    exact outSound_cwait _ _ _
  case ccan =>
    unfold exec
    exact outSound_ccan _ _ _
  case orinvObj =>
    unfold exec
    exact outSound_orinvObj _ _ _
  case orinvSub =>
    unfold exec
    exact outSound_orinvSub _ _ _
  case orinvAll =>
    unfold exec
    exact outSound_orinvAll _ _
  case ill =>
    unfold exec
    exact outSound_ill _
  case mfill =>
    unfold exec
    exact outSound_mfill _ _ _ _ _ _
  case mzero =>
    unfold exec
    exact outSound_mzero _ _ _ _
  case fcvt =>
    unfold exec
    exact outSound_fcvt _ _ _ _ _ _ _
  case csrr =>
    unfold exec
    exact outSound_csrr _ _ _ _
  case csrw =>
    unfold exec
    exact outSound_csrw _ _ _ _
  case tqpop =>
    unfold exec
    exact outSound_tqpop _ _ _
  case barSync =>
    unfold exec
    exact outSound_barSync _ _ _ _
  case barArv =>
    unfold exec
    exact outSound_barArv _ _ _ _
  case mbarInit =>
    unfold exec
    exact outSound_mbarInit _ _ _ _
  case mbarArv =>
    unfold exec
    exact outSound_mbarArv _ _ _ _
  case mbarArvtx =>
    unfold exec
    exact outSound_mbarArvtx _ _ _ _ _
  case mbarTest =>
    unfold exec
    exact outSound_mbarTest _ _ _ _ _
  case mbarWait =>
    unfold exec
    exact outSound_mbarWait _ _ _ _
  case mbarInval =>
    unfold exec
    exact outSound_mbarInval _ _ _
  case macal =>
    unfold exec
    exact outSound_macal _ _ _
  case mafree =>
    unfold exec
    exact outSound_mafree _ _ _
  case mown =>
    unfold exec
    exact outSound_mown _ _ _ _
  case mload =>
    unfold exec
    exact outSound_mload _ _ _ _ _ _ _ _ _
  case mswap =>
    unfold exec
    exact outSound_mswap _ _
  case mstream =>
    unfold exec
    exact outSound_mstream _ _ _ _ _ _ _ _
  case lnch =>
    unfold exec
    exact outSound_lnch _ _ _ _ _
  case invk =>
    unfold exec
    exact outSound_invk _ _ _ _ _ _ _
  case hsend =>
    unfold exec
    exact outSound_hsend _ _ _ _ _ _ _ _
  case coll =>
    unfold exec
    exact outSound_coll _ _ _ _ _ _
  case hwait =>
    unfold exec
    exact outSound_hwait _ _ _ _
  case hstat =>
    unfold exec
    exact outSound_hstat _ _ _ _
  case hstatOrg =>
    unfold exec
    exact outSound_hstatOrg _ _ _ _
  case hstatUp =>
    unfold exec
    exact outSound_hstatUp _ _ _ _
  case hstatOcd =>
    unfold exec
    exact outSound_hstatOcd _ _ _ _
  case hfree =>
    unfold exec
    exact outSound_hfree _ _ _
  case hdup =>
    unfold exec
    exact outSound_hdup _ _ _ _
  case setfs =>
    unfold exec
    exact outSound_setfs _ _ _ _
  case srseed =>
    unfold exec
    exact outSound_srseed _ _ _
  case tretRes =>
    unfold exec
    exact outSound_tretRes _ _ c hc
  case tretLanes =>
    unfold exec
    exact outSound_tretLanes _ _ c hc
  case tretWarp =>
    unfold exec
    exact outSound_tretWarp _ _ c hc
  case tretCrew =>
    unfold exec
    exact outSound_tretCrew _ _ c hc
  case tretLaunch =>
    unfold exec
    exact outSound_tretLaunch _ _ c hc
  case clrflag =>
    unfold exec
    exact outSound_clrflag _ _ _ _ fun h => by subst h; rfl
  all_goals exact Bool.noConfusion hw

end Sys2Proof.Machine

namespace Sys2Proof.Machine

variable {K : Allowed} {xs : List Warp}

/-! ### A warp's turn (R308) -/

theorem wellFormed_of_decodeWord {x : Nat} {i : Instr} (h : decodeWord x = .ok i) : wellFormed i = true := by
  unfold decodeWord at h
  split at h
  · cases h
  · split at h
    · cases h; assumption
    · cases h

/-- A warp that is in user mode is still in it where its status has been kept. -/
theorem user_of_keeps {xs ys : List Warp} (h : Keeps K xs ys) {w : Nat} (hu : (xs.getD w Warp.zero).mode = .user) :
    (ys.getD w Warp.zero).mode = .user := by
  obtain ⟨_, hm, _⟩ := h.2 w
  rcases hm with hm | ⟨hm, _⟩
  · exact hm.trans hu
  · exact hm

theorem keeps_passOver {s : State} (h : Keeps K xs s.warps) (s0 : State) (w : Nat) (k : Which) (v : Nat) :
    Keeps K xs (passOver s0 w k s v).warps :=
  keeps_foldl (fun _ _ h => keeps_ite (keeps_setSlot h _ _ _) (keeps_setSlot h _ _ _)) h _

theorem keeps_countIssue {s : State} (h : Keeps K xs s.warps) (w : Nat) (k : Which) :
    Keeps K xs (countIssue s w k).warps :=
  keeps_ite h (keeps_foldl (fun _ _ h => keeps_passOver h _ _ _ _) h _)

theorem statusKept_issueWarp (w : Nat) (x : Warp) (k : Which) : StatusKept K w x (issueWarp x k) := by
  unfold issueWarp
  dsimp only
  split <;> exact statusKept_of_eq (by simp) (by simp) (by simp)

theorem keeps_openIssue {s : State} (h : Keeps K xs s.warps) (w : Nat) (k : Which) :
    Keeps K xs (openIssue s w k).warps := by
  have ht := keeps_setWarp (keeps_countIssue h w k) (statusKept_issueWarp w _ k)
  unfold openIssue
  dsimp only
  split
  · split
    · exact ht
    · exact ht
  · exact ht

theorem openIssue_cur (s : State) (w : Nat) (k : Which) : (openIssue s w k).cur = some ⟨w, k⟩ := rfl

theorem keeps_closeIssue {s : State} (h : Keeps K xs s.warps) (sl0 : Slot) (w : Nat) (k : Which) :
    Keeps K xs (closeIssue sl0 s w k).warps := by
  have ht := keeps_setSlot h w k
  exact keeps_ite (keeps_haltWarp (by exact ht _) w) (ht _)

theorem keeps_issueTrap {s : State} (h : Keeps K xs s.warps) (w : Nat) (k : Which) (cause : Nat) (addr : Option Nat)
    (detail : Nat) : Keeps K xs (issueTrap s w k cause addr detail).warps :=
  keeps_closeIssue (keeps_takeTrap (keeps_openIssue h w k) _ _ _) _ w k

theorem keeps_endPaths {s : State} (h : Keeps K xs s.warps) (w : Nat) : Keeps K xs (endPaths s w).warps :=
  keeps_ite (keeps_finishWarp h w) h

theorem keeps_pushHanded {s : State} (h : Keeps K xs s.warps) (w : Nat) : Keeps K xs (pushHanded s w).warps := by
  refine keeps_foldl (fun u k hu => ?_) h _
  dsimp only
  split
  · rename_i _ dst st _
    refine keeps_ite hu ?_
    have ht := keeps_writeDest hu w dst 1 (fun _ => st.toNat)
    generalize setWarp u w _ = t at ht
    have pushed : Sound K xs id (match dst.d with
        | .q n => pushChan t (envOf u ⟨w, k⟩) n.val dst.lanes (fun _ => st.toNat)
        | _ => .ok t) := by
      split
      · exact sound_pushChan ht _ _ _ _
      · exact ht
    split <;> rename_i hp
    · exact keeps_resumeSlot (sound_ok hp pushed) _ _
    · rw [askUnit_warps]
      exact hu
    · exact hu
  · exact hu

theorem fetchNear_ne_far {s t : State} {e : Env} {p : Piece} {bit : Nat} : fetchNear s e p bit ≠ .far t := by
  unfold fetchNear
  split
  · exact Fetched.noConfusion
  · split <;> exact Fetched.noConfusion

theorem fetchAt_warps {s t : State} {e : Env} (h : fetchAt s e = .far t) : t.warps = s.warps := by
  unfold fetchAt at h
  split at h
  · cases h
  · dsimp only at h
    split at h
    · cases h
    · split at h
      · cases h
      · split at h
        · cases h
        · split at h
          · split at h
            · exact absurd h fetchNear_ne_far
            · cases h
            · split at h <;> rename_i hf <;> cases h
              exact (warps_of_snd hf).trans (fetchLines_warps ..)
          · cases h

/-- What a path's turn to issue comes to where it names no instruction. -/
theorem keeps_issuePath {s t : State} {w : Nat} {k : Which} (h : Keeps K xs s.warps)
    (ht : issuePath s w k = .done t) : Keeps K xs t.warps := by
  have ho := keeps_openIssue h w k
  unfold issuePath at ht
  dsimp only at ht
  split at ht
  · cases ht
    exact keeps_endPaths (keeps_resumeSlot h _ _) _
  · split at ht
    · cases ht
      exact keeps_issueTrap h _ _ _ _ _
    · split at ht <;> rename_i hf
      · cases ht
        exact keeps_issueTrap h _ _ _ _ _
      · cases ht
        exact keeps_closeIssue (keeps_parkPath (by rw [askUnit_warps]; exact ho) _ _ _) _ _ _
      · cases ht
        exact keeps_closeIssue (keeps_holdPath (by rw [fetchAt_warps hf]; exact ho) _) _ _ _
      · split at ht
        · cases ht
          exact keeps_issueTrap h _ _ _ _ _
        · cases ht

/-- The instruction that a path's turn names, and the state in which it runs. -/
theorem issuePath_run {s t : State} {w : Nat} {k j : Which} {i : Instr} {sl0 : Slot}
    (h : issuePath s w k = .run i j sl0 t) : wellFormed i = true ∧ t = openIssue s w k ∧ j = k := by
  unfold issuePath at h
  dsimp only at h
  split at h
  · cases h
  · split at h
    · cases h
    · split at h
      · cases h
      · cases h
      · cases h
      · split at h <;> rename_i hd
        · cases h
        · cases h
          exact ⟨wellFormed_of_decodeWord hd, rfl, rfl⟩

theorem keeps_haltDue {s t : State} {w : Nat} (h : Keeps K xs s.warps) (ht : haltDue s w = some t) :
    Keeps K xs t.warps := by
  unfold haltDue at ht
  dsimp only at ht
  split at ht
  · cases ht
  · split at ht
    · cases ht
      exact keeps_haltWarp h w
    · split at ht
      · cases ht
      · split at ht <;> cases ht
        exact keeps_haltWarp (keeps_setSlot h _ _ _) w

/-- The state in which a warp's turn begins: what its paths wait to push is in its port (R146, R308). -/
def turnStart (s : State) (w : Nat) : State := endPaths (pushHanded s w) w

theorem keeps_turnStart {s : State} (h : Keeps K xs s.warps) (w : Nat) : Keeps K xs (turnStart s w).warps :=
  keeps_endPaths (keeps_pushHanded h w) w

/-- A warp whose crew is gone or being saved issues nothing. -/
theorem mayIssue_eq_false {s : State} {w : Nat}
    (h : ((warpAt s w).gone || (crewOf s w).saving || (crewOf s w).gone) = true) : mayIssue s w = false := by
  unfold mayIssue
  unfold crewOf at h
  revert h
  dsimp only
  cases (warpAt s w).gone <;> cases (crewAt s (warpAt s w).crew).saving <;>
    cases (crewAt s (warpAt s w).crew).gone <;> simp

/-- A warp's turn from the state in which it begins. -/
def turnFrom (u : State) (w : Nat) : Issued :=
  if !mayIssue u w then .done u
  else match haltDue u w with
  | some t => .done t
  | none =>
    if trapDue (warpAt u w) then .done (deliverTrap u w)
    else match choosePath u w with
      | none => .done u
      | some k => if arbiterLets u w k then issuePath u w k else .done u

/-- A warp whose crew is here begins its turn by what its paths wait to push. -/
theorem issueTurn_of_here {s : State} {w : Nat}
    (h : ((warpAt s w).gone || (crewOf s w).saving || (crewOf s w).gone) = false) :
    issueTurn s w = turnFrom (turnStart s w) w := by
  unfold issueTurn
  rw [h]
  rfl

theorem issueTurn_of_away {s : State} {w : Nat}
    (h : ((warpAt s w).gone || (crewOf s w).saving || (crewOf s w).gone) = true) : issueTurn s w = .done s := by
  unfold issueTurn
  dsimp only
  rw [h, if_pos rfl, mayIssue_eq_false h]
  rfl

theorem issueTurn_eq (s : State) (w : Nat) :
    issueTurn s w = .done s ∨ issueTurn s w = turnFrom (turnStart s w) w := by
  cases h : (warpAt s w).gone || (crewOf s w).saving || (crewOf s w).gone with
  | true => exact .inl (issueTurn_of_away h)
  | false => exact .inr (issueTurn_of_here h)

/-- A warp's turn that names no instruction keeps the status of every warp, but where it delivers a trap that is due. -/
theorem issueTurn_done {s t : State} {w : Nat} (h : issueTurn s w = .done t) : Keeps K s.warps t.warps ∨
    (trapDue (warpAt (turnStart s w) w) = true ∧ t = deliverTrap (turnStart s w) w) := by
  have hu := keeps_turnStart (keeps_refl (K := K) (xs := s.warps)) w
  rcases issueTurn_eq s w with he | he <;> rw [he] at h
  · cases h
    exact .inl keeps_refl
  · unfold turnFrom at h
    split at h
    · cases h
      exact .inl hu
    · split at h <;> rename_i hh
      · cases h
        exact .inl (keeps_haltDue hu hh)
      · split at h
        · cases h
          exact .inr ⟨by assumption, rfl⟩
        · split at h
          · cases h
            exact .inl hu
          · split at h
            · exact .inl (keeps_issuePath hu h)
            · cases h
              exact .inl hu

theorem issueTurn_run {s t : State} {w : Nat} {i : Instr} {k : Which} {sl0 : Slot}
    (h : issueTurn s w = .run i k sl0 t) : wellFormed i = true ∧ t = openIssue (turnStart s w) w k := by
  rcases issueTurn_eq s w with he | he <;> rw [he] at h
  · cases h
  · unfold turnFrom at h
    split at h
    · cases h
    · split at h
      · cases h
      · split at h
        · cases h
        · split at h
          · cases h
          · split at h
            · obtain ⟨hw, ht, rfl⟩ := issuePath_run h
              exact ⟨hw, ht⟩
            · cases h

/-- The delivery of a trap changes its own warp only. -/
theorem warpAt_deliverTrap_ne (s : State) {w v : Nat} (h : w ≠ v) : warpAt (deliverTrap s w) v = warpAt s v := by
  unfold deliverTrap
  dsimp only
  split
  · exact warpAt_setWarp_ne _ _ h
  · rfl

/-- A warp enters supervisor mode at a turn only by the delivery of a trap that is due to it. -/
theorem takeIssue_supervisor {s t : State} {w v : Nat} (h : takeIssue s w = .next t)
    (hu : (warpAt s v).mode = .user) (ht : (warpAt t v).mode = .supervisor) :
    v = w ∧ trapDue (warpAt (turnStart s w) w) = true ∧ t = deliverTrap (turnStart s w) w := by
  have keep : ∀ {K : Allowed} {u : State}, Keeps K s.warps u.warps → (warpAt u v).mode ≠ .supervisor := by
    intro K u hk hs
    have := user_of_keeps hk hu
    rw [← warpAt, hs] at this
    cases this
  unfold takeIssue at h
  split at h <;> rename_i hi
  · cases h
    rcases issueTurn_done (K := ⟨true, none⟩) hi with hk | ⟨hd, rfl⟩
    · exact absurd ht (keep hk)
    · refine ⟨?_, hd, rfl⟩
      by_contra hv
      rw [warpAt_deliverTrap_ne _ (Ne.symm hv)] at ht
      exact keep (keeps_turnStart (K := ⟨true, none⟩) keeps_refl w) ht
  · rename_i i k sl0 u
    obtain ⟨hw, rfl⟩ := issueTurn_run hi
    split at h <;> rename_i he <;> cases h
    have hx := outSound_exec hw (openIssue_cur (turnStart s w) w k)
    rw [he] at hx
    exact absurd ht (keep (keeps_closeIssue
      (keeps_trans (keeps_openIssue (keeps_turnStart keeps_refl w) w k) hx) _ _ _))

/-- Settles O20: every instruction word keeps the status of the warps but for what it is allowed, and so does every turn
but for the delivery of a trap. -/
theorem statusRegisters : Obligations.StatusRegisters := by
  refine ⟨fun x i s t c w hd hc _ he => ?_, fun s t w v _ h hu ht => takeIssue_supervisor h hu ht⟩
  have hx := outSound_exec (wellFormed_of_decodeWord hd) hc
  rw [he] at hx
  obtain ⟨hf, hm, _⟩ := hx.2 w
  refine ⟨fun hn hr => hf (clearsFlags_eq_false hn hr), user_of_keeps hx, fun hs hu => ?_⟩
  rcases hm with hm | ⟨_, hl | ha⟩
  · have := hm.symm.trans hu
    rw [← warpAt, hs] at this
    cases this
  · left
    unfold allowedTo at hl
    dsimp only at hl
    split at hl
    · exact ⟨by assumption, (Option.some.inj hl).symm⟩
    · cases hl
  · exact .inr ha

end Sys2Proof.Machine

namespace Sys2Proof.Machine

/-! ### Steps of named turns (R28, R46) -/

theorem afterMove_next (u : State) : afterMove (.next u) = .next (afterIt u) := by
  unfold afterMove afterIt ready
  simp only [beq_iff_eq]

theorem step_named {s : State} {t : Turn} {ts : List Turn} (h : s.turns = t :: ts) :
    step s = afterMove (turnOnce { s with turns := ts } t) := by
  unfold step takeStep
  rw [h]

/-! ### A machine at rest -/

theorem foldl_fixed {α β : Type} {f : β → α → β} {b : β} {as : List α} (h : ∀ a ∈ as, f b a = b) :
    as.foldl f b = b := by
  induction as with
  | nil => rfl
  | cons a as ih =>
    rw [List.foldl_cons, h a (List.mem_cons_self ..)]
    exact ih fun a ha => h a (List.mem_cons_of_mem _ ha)

/-- Nothing follows a move in a machine at rest. -/
theorem afterTurn_of_atRest {u : State} (h : atRest u) : afterTurn u = u := by
  obtain ⟨hheld, hreqs, hwaits, hcut, hhost, hlaunch, hcrew, hctx⟩ := h
  have h1 : fabReplay u = u := by simp [fabReplay, hheld]
  have h2 : flushHost u = u := by simp [flushHost, hhost]
  have h3 : endDue u = u := by simp [endDue, hreqs]
  have h4 : endWaits u = u := by simp [endWaits, hwaits]
  have h5 : endCut u = u := by simp [endCut, hcut]
  have h6 : ageQueues u = u := by simp [ageQueues, hlaunch]
  have h7 : beginSaves u = u := foldl_fixed fun c hc => by
    simp [hcrew c (List.mem_range.mp hc)]
  have h8 : forceOverdue u = u := foldl_fixed fun c hc => by
    simp [overdue, hcrew c (List.mem_range.mp hc)]
  have h9 : endStacks u = u := by
    unfold endStacks
    rw [hreqs]
    show { u with fab := { u.fab with reqs := [] } } = u
    rw [← hreqs]
  have h10 : checkLogs u = u := foldl_fixed fun e he => by
    simp [olCheck, (hctx e he).1]
  have h11 : mismStuck u = u := foldl_fixed fun e he => if_neg fun hm => (hctx e he).2 hm.1
  rw [afterTurn, dueNow, h1, h2, h3, h4, h5, h6, h7, h8, h9, h10, h11]

theorem afterIt_of_atRest {u : State} (h : atRest u) : afterIt u = u := by
  unfold afterIt
  rw [afterTurn_of_atRest h, ite_self]

/-! ### The bytes of an instruction word (R25, R34) -/

theorem wordOf_eq_bytesNat (bs : List Byte) : wordOf bs = bytesNat bs := by
  induction bs with
  | nil => rfl
  | cons b bs ih => rw [wordOf, bytesNat, ih]

theorem bytesNat_lt (bs : List Byte) : bytesNat bs < 256 ^ bs.length := by
  induction bs with
  | nil => simp [bytesNat]
  | cons b bs ih =>
    rw [bytesNat, List.length_cons, Nat.pow_succ]
    have := b.isLt
    omega

theorem memBytes_length (m : Memory) (a n : Nat) : (memBytes m a n).length = n := by
  induction n generalizing a with
  | zero => rfl
  | succ n ih => rw [memBytes, List.length_cons, ih]

theorem memBits_word (m : Memory) (a : Nat) : memBits m (8 * a) 64 = bytesNat (memBytes m a 8) := by
  have hl := bytesNat_lt (memBytes m a 8)
  rw [memBytes_length] at hl
  have hd : 8 * a / 8 = a := by omega
  have hm : 8 * a % 8 = 0 := by omega
  rw [memBits, hd, hm]
  show bits (bytesNat (memBytes m a 8)) 0 64 = _
  unfold bits
  omega

theorem decode_memBytes (m : Memory) (a : Nat) :
    decode (memBytes m a 8) = (decodeWord (memBits m (8 * a) 64)).map fun i => (i, []) := by
  have hl := memBytes_length m a 8
  have ht : (memBytes m a 8).take 8 = memBytes m a 8 := List.take_of_length_le (by omega)
  have hd : (memBytes m a 8).drop 8 = [] := List.drop_of_length_le (by omega)
  unfold decode
  rw [if_neg (by omega), ht, hd, wordOf_eq_bytesNat, memBits_word]
  cases decodeWord (bytesNat (memBytes m a 8)) <;> rfl

/-! ### A turn of a warp whose path issues -/

/-- Where no status word waits for a port, nothing is pushed at the start of a turn. -/
theorem pushHanded_of_none {s : State} {w : Nat}
    (h : ∀ j g d st, (slotOf (warpAt s w) j).park ≠ some (.handed g d st)) : pushHanded s w = s := by
  refine foldl_fixed fun k _ => ?_
  split
  · rename_i g d st hp
    exact absurd hp (h k g d st)
  · rfl

theorem turnStart_of_issues {s : State} {w : Nat} {k : Which} (h : issues s w k) : turnStart s w = s := by
  obtain ⟨hm, _, _, hp, _⟩ := h
  unfold turnStart
  rw [pushHanded_of_none hp]
  have hd : pathsDone (warpAt s w) = false := by
    simp only [mayIssue, Bool.and_eq_true, Bool.not_eq_true'] at hm
    exact hm.1.1.1.1.2
  simp [endPaths, hd]

theorem haltDue_of_issues {s : State} {w : Nat} {k : Which} (h : issues s w k) : haltDue s w = none := by
  obtain ⟨_, hh, _, _, hk, _, _, hb⟩ := h
  unfold haltDue
  dsimp only
  by_cases ho : (warpAt s w).holdSl.isSome = true
  · rw [if_pos ho]
  · have hn : (warpAt s w).halt = .no := hh.resolve_right fun hne => ho (Option.isSome_iff_ne_none.mpr hne)
    rw [if_neg ho, hn, if_neg (by decide), hk]
    simp [hb]

/-- Where nothing else is due, a warp's turn is its path's. -/
theorem issueTurn_of_issues {s : State} {w : Nat} {k : Which} (h : issues s w k) :
    issueTurn s w = issuePath s w k := by
  have ht := turnStart_of_issues h
  have hd := haltDue_of_issues h
  obtain ⟨hm, _, hr, _, hk, ha, _⟩ := h
  have hg : ((warpAt s w).gone || (crewOf s w).saving || (crewOf s w).gone) = false :=
    Bool.eq_false_iff.mpr fun hg => by simp [mayIssue_eq_false hg] at hm
  rw [issueTurn_of_here hg, ht, turnFrom, hd, hm, hr, hk]
  exact if_pos ha

section
variable {s : State} {w : Nat} {k : Which} (hr : rejoins (slotOf (warpAt s w) k) = false) (hb : bpMatch s w k = none)
include hr hb

theorem issuePath_of_trap {c d : Nat} (hf : fetchAt (openIssue s w k) (envOf (openIssue s w k) ⟨w, k⟩) = .trap c d) :
    issuePath s w k = .done (issueTrap s w k c none d) := by
  unfold issuePath
  simp only [hr, hb, hf]
  rfl

theorem issuePath_of_word {x : Nat} {i : Instr}
    (hf : fetchAt (openIssue s w k) (envOf (openIssue s w k) ⟨w, k⟩) = .word x) (hd : decodeWord x = .ok i) :
    issuePath s w k = .run i k (slotOf (warpAt s w) k) (openIssue s w k) := by
  unfold issuePath
  simp only [hr, hb, hf, hd]
  rfl

theorem issuePath_of_noWord {x : Nat} {m : DecodeError}
    (hf : fetchAt (openIssue s w k) (envOf (openIssue s w k) ⟨w, k⟩) = .word x) (hd : decodeWord x = .error m) :
    issuePath s w k = .done (issueTrap s w k 1 none 0) := by
  unfold issuePath
  simp only [hr, hb, hf, hd]
  rfl

end

/-! ### Fetches (R28, R114, R240) -/

theorem fetchNear_of_uncached {s : State} {e : Env} {p : Piece} {bit : Nat} (hp : piecePoisoned s p = false)
    (hc : ∀ k ∈ s.caches.ilines, k.tower = e.cr.tower → k.phys = e.cr.phys → k.line ≠ lineOf bit) :
    fetchNear s e p bit = .word (memBits s.mem bit 64) := by
  have hn : s.caches.ilines.find? (fun l => l.tower == e.cr.tower && l.phys == e.cr.phys && l.line == lineOf bit) =
      none := by
    rw [List.find?_eq_none]
    intro l hl hm
    simp only [Bool.and_eq_true, beq_iff_eq] at hm
    exact hc l hl hm.1.1 hm.1.2 hm.2
  unfold fetchNear
  rw [hn, hp]
  rfl

theorem fetchAt_of_codeAt {s : State} {c : Cur} {a : Nat} (h : codeAt s c a) :
    fetchAt s (envOf s c) = .word (memBits s.mem (8 * a) 64) := by
  obtain ⟨hl, l, p, hs, hf, hp, hq, hc⟩ := h
  unfold fetchAt
  simp only [hl, hs, hf, hp]
  exact fetchNear_of_uncached hq hc

theorem fetchAt_of_lastMark {s : State} {e : Env} (h : e.sl.failed.contains lastMark = true) :
    fetchAt s e = .trap 6 0 := by
  unfold fetchAt
  exact if_pos h

theorem fetchAt_of_checkShape {s : State} {e : Env} {f : Fail} (h : e.sl.failed.contains lastMark = false)
    (hs : checkShape s (envAgent s e) (bits e.pc.toNat 42 22) (bits e.pc.toNat 0 42 : Nat) 64
      ⟨some .x, false, true⟩ = .error f) : fetchAt s e = .trap f.cause f.detail := by
  unfold fetchAt
  simp only [h, hs]
  rfl

theorem intBits_bits (x : Nat) : intBits 42 (bits x 0 42 : Nat) = bits x 0 42 := by
  unfold intBits bits
  omega

/-- The checks of a fetch, by the kind, the permissions and the count of the record (R28, R114). -/
theorem checkShape_fetch {s : State} {ag : Agent} {obj x : Nat} {rc : Rec}
    (hr : recordOf s ag obj (bits x 0 42) = .ok rc) :
    (recKind rc ≠ 2 → checkShape s ag obj (bits x 0 42 : Nat) 64 ⟨some .x, false, true⟩ = .error ⟨5, 3, bits x 0 42⟩) ∧
    (recKind rc = 2 → recPerm rc .x = false →
      checkShape s ag obj (bits x 0 42 : Nat) 64 ⟨some .x, false, true⟩ = .error ⟨5, 1, bits x 0 42⟩) ∧
    (recKind rc = 2 → recPerm rc .x = true → recCount rc ≤ bits x 0 42 →
      checkShape s ag obj (bits x 0 42 : Nat) 64 ⟨some .x, false, true⟩ = .error ⟨6, 0, bits x 0 42⟩) := by
  unfold checkShape
  simp only [intBits_bits, hr, Option.bind_some]
  refine ⟨fun hk => ?_, fun hk hp => ?_, fun hk hp hn => ?_⟩
  · simp [permFail, hk]
  · simp [permFail, hk, hp]
  · have : (recCount rc : Int) ≤ (bits x 0 42 : Nat) := by exact_mod_cast hn
    simp [permFail, hk, hp, this]

/-! ### The obligation -/

/-- A turn that comes to a state is followed by what follows every move. -/
theorem step_of_done {s u : State} {w : Nat} {ts : List Turn} (h : s.turns = .issue w :: ts)
    (hd : issueTurn { s with turns := ts } w = .done u) : step s = .next (afterIt u) := by
  rw [step_named h]
  show afterMove (takeIssue _ w) = _
  rw [takeIssue, hd]
  exact afterMove_next u

theorem step_of_run {s t : State} {w : Nat} {k : Which} {i : Instr} {sl0 : Slot} {ts : List Turn}
    (h : s.turns = .issue w :: ts) (hd : issueTurn { s with turns := ts } w = .run i k sl0 t) :
    (∀ u, exec i t = .next u → step s = .next (afterIt (closeIssue sl0 u w k))) ∧
    (∀ f, exec i t = .fault f → step s = .fault f) ∧ (∀ r, exec i t = .refused r → step s = .refused r) := by
  have hs : step s = afterMove (takeIssue { s with turns := ts } w) := step_named h
  rw [hs, takeIssue, hd]
  refine ⟨fun u hu => ?_, fun f hf => ?_, fun r hr => ?_⟩
  · simp only [hu]
    exact afterMove_next _
  · simp only [hf]
    rfl
  · simp only [hr]
    rfl

/-- The first part of the obligation: a turn of a warp whose path issues. -/
theorem step_of_issues {s : State} {w : Nat} {ts : List Turn} {k : Which} (h : s.turns = .issue w :: ts)
    (hi : issues { s with turns := ts } w k) :
    let s0 := { s with turns := ts }
    let t := openIssue s0 w k
    let e := envOf t ⟨w, k⟩
    (∀ i x, fetchAt t e = .word x → decodeWord x = .ok i →
      (∀ u, exec i t = .next u → step s = .next (afterIt (closeIssue (slotOf (warpAt s0 w) k) u w k))) ∧
      (∀ f, exec i t = .fault f → step s = .fault f) ∧ (∀ r, exec i t = .refused r → step s = .refused r)) ∧
    (∀ x m, fetchAt t e = .word x → decodeWord x = .error m →
      step s = .next (afterIt (issueTrap s0 w k 1 none 0))) ∧
    (∀ c d, fetchAt t e = .trap c d → step s = .next (afterIt (issueTrap s0 w k c none d))) := by
  have ht := issueTurn_of_issues hi
  obtain ⟨_, _, _, _, _, _, hr, hb⟩ := hi
  exact ⟨fun i x hf hd => step_of_run h (ht.trans (issuePath_of_word hr hb hf hd)),
    fun x m hf hd => step_of_done h (ht.trans (issuePath_of_noWord hr hb hf hd)),
    fun c d hf => step_of_done h (ht.trans (issuePath_of_trap hr hb hf))⟩

/-- Settles O56: what a turn comes to is what its path's fetch and its decoding say, and nothing follows at rest. -/
theorem stepRunsDecoded : Obligations.StepRunsDecoded := by
  refine ⟨fun s w ts k => ?_, fun s e ts u h hd hx => ?_, fun s w ts t h hd => ?_, fun u h => afterIt_of_atRest h⟩
  · intro s0 t e traps h hi
    obtain ⟨hrun, hill, htrap⟩ := step_of_issues h hi
    refine ⟨fun a ha => ⟨fun i rest hd => ?_, fun x hd => ?_⟩, fun hl => ?_, fun rc hl hr => ?_⟩
    · rw [decode_memBytes] at hd
      obtain ⟨j, hj, he⟩ := except_map_ok hd
      cases he
      exact ⟨wellFormed_of_decodeWord hj, hrun _ _ (fetchAt_of_codeAt ha) hj⟩
    · rw [decode_memBytes] at hd
      cases hw : decodeWord (memBits t.mem (8 * a) 64) with
      | error m => exact hill _ _ (fetchAt_of_codeAt ha) hw
      | ok j => rw [hw] at hd; cases hd
    · exact htrap _ _ (fetchAt_of_lastMark hl)
    · obtain ⟨hk, hp, hn⟩ := checkShape_fetch hr
      exact ⟨fun h2 => htrap _ _ (fetchAt_of_checkShape hl (hk h2)),
        fun h2 hx => htrap _ _ (fetchAt_of_checkShape hl (hp h2 hx)),
        fun h2 hx hc => htrap _ _ (fetchAt_of_checkShape hl (hn h2 hx hc))⟩
  · have he : takeEvent { s with turns := ts } e = .next u := by
      unfold takeEvent
      split
      · rw [hd _ rfl]
        exact hx
      · exact hx
    rw [step_named h]
    show afterMove (takeEvent _ e) = _
    rw [he]
    exact afterMove_next u
  · rw [step_named h]
    show afterMove (takeEvent _ (.trapDelivery w)) = _
    rw [takeEvent, hd]
    exact afterMove_next t

end Sys2Proof.Machine

namespace Sys2Proof.Machine

/-! ### The privileged instructions (R15) -/

/-- An instruction that supervisor mode alone may run traps PRIV in user mode (R46). -/
theorem runInstr_priv {s : State} {c : Cur} {fs : Nat} {ill priv : Env → Bool} {g : Guard}
    {body : Env → Except Stop State} (hc : s.cur = some c) (hi : ill (envOf s c) = true)
    (hp : priv (envOf s c) = true) :
    runInstr s fs ill priv g body =
      .next (takeTrap s (envOf s c) fs ⟨2, (envOf s c).mask, (envOf s c).pc.toNat, 0⟩) := by
  unfold runInstr
  simp [hc, hi, hp]

theorem sup_of_user {e : Env} (h : e.x.mode = .user) : e.sup = false := by simp [Env.sup, h]

theorem cur_of_issuing {s : State} {c : Cur} (h : issuing s c = true) : s.cur = some c := by
  simp only [issuing, Bool.and_eq_true, beq_iff_eq] at h
  exact h.1.1.1

/-- Settles O19: every privileged instruction runs through `runInstr`, whose check of the mode comes before its body. -/
theorem privilegedInstructions : Obligations.PrivilegedInstructions := by
  intro i s c ok hi hs hu hok
  have hc := cur_of_issuing hs
  have hsup := sup_of_user hu
  have hpriv : supOnly (envOf s c) = true := by simp [supOnly, hsup]
  unfold privileged at hi
  split at hi
  case h_1 h d n =>
    split at hi <;> cases hi
    rename_i hn
    unfold exec execCsrr
    exact runInstr_priv hc (by exact hok) (by simp [hsup, hn])
  case h_14 h d a b =>
    cases hi
    simp only [Bool.and_eq_true] at hok
    obtain ⟨hr, hx⟩ := hok
    have hp : pinPriv s (envOf s c) = true := by
      simp only [pinPriv, hsup, Bool.not_false, Bool.true_and]
      exact hx
    unfold exec execPromPin rowOp
    exact runInstr_priv hc hr hp
  case h_15 => cases hi
  case h_2 =>
    cases hi
    unfold exec execCsrw
    exact runInstr_priv hc (by exact hok) (by exact hpriv)
  case h_3 =>
    cases hi
    unfold exec execCsrs csrModify
    exact runInstr_priv hc (by exact hok) (by exact hpriv)
  case h_4 =>
    cases hi
    unfold exec execCsrc csrModify
    exact runInstr_priv hc (by exact hok) (by exact hpriv)
  case h_5 =>
    cases hi
    unfold exec execTretRes tretOp
    exact runInstr_priv hc (by exact hok) (by exact hpriv)
  case h_6 =>
    cases hi
    unfold exec execTretLanes tretOp
    exact runInstr_priv hc (by exact hok) (by exact hpriv)
  case h_7 =>
    cases hi
    unfold exec execTretWarp tretOp
    exact runInstr_priv hc (by exact hok) (by exact hpriv)
  case h_8 =>
    cases hi
    unfold exec execTretCrew tretOp
    exact runInstr_priv hc (by exact hok) (by exact hpriv)
  case h_9 =>
    cases hi
    unfold exec execTretLaunch tretOp
    exact runInstr_priv hc (by exact hok) (by exact hpriv)
  case h_10 =>
    cases hi
    unfold exec execTqpop
    exact runInstr_priv hc (by exact hok) (by exact hpriv)
  case h_11 =>
    cases hi
    unfold exec execOrinvObj
    exact runInstr_priv hc (by exact hok) (by exact hpriv)
  case h_12 =>
    cases hi
    unfold exec execOrinvSub
    exact runInstr_priv hc (by exact hok) (by exact hpriv)
  case h_13 =>
    cases hi
    unfold exec execOrinvAll
    exact runInstr_priv hc (by exact hok) (by exact hpriv)

/-! ### Trap records (R306 to R309) -/

section
variable (cause fslot addr detail : Nat) (slotB : Bool) (lanes : Mask) (pc : DWord)

/-- The record of a synchronous trap as a number (R307). -/
theorem trapRecord_toNat : (trapRecord cause slotB false fslot lanes pc addr detail).toNat =
    cause % 256 + 2 ^ 8 * (if slotB then 1 else 0) + 2 ^ 16 * (fslot % 16) + 2 ^ 32 * lanes.toNat + 2 ^ 64 * pc.toNat +
      2 ^ 128 * (addr % 2 ^ 64) + 2 ^ 192 * (detail % 2 ^ 32) := by
  have hl := lanes.isLt
  have hp := pc.isLt
  rw [trapRecord, BitVec.toNat_ofNat]
  cases slotB <;> simp <;> omega

/-- The fields of the record of a synchronous trap (R307). -/
theorem trapRecord_fields : let b := trapRecord cause slotB false fslot lanes pc addr detail
    bits b.toNat 0 8 = cause % 256 ∧ bits b.toNat 8 1 = (if slotB then 1 else 0) ∧ bits b.toNat 9 1 = 0 ∧
    bits b.toNat 10 6 = 0 ∧ bits b.toNat 16 4 = fslot % 16 ∧ bits b.toNat 20 12 = 0 ∧
    bits b.toNat 32 32 = lanes.toNat ∧ bits b.toNat 64 64 = pc.toNat ∧
    bits b.toNat 128 64 = addr % 2 ^ 64 ∧ bits b.toNat 192 32 = detail % 2 ^ 32 ∧ bits b.toNat 224 32 = 0 := by
  have hl := lanes.isLt
  have hp := pc.isLt
  have hc : cause % 256 < 256 := Nat.mod_lt _ (by decide)
  have hf : fslot % 16 < 16 := Nat.mod_lt _ (by decide)
  have ha : addr % 2 ^ 64 < 2 ^ 64 := Nat.mod_lt _ (by decide)
  have hd : detail % 2 ^ 32 < 2 ^ 32 := Nat.mod_lt _ (by decide)
  have hk : (if slotB then 1 else 0) < 2 := by split <;> decide
  simp only [trapRecord_toNat, bits, Nat.shiftRight_eq_div_pow]
  generalize cause % 256 = c at *
  generalize fslot % 16 = f at *
  generalize addr % 2 ^ 64 = a at *
  generalize detail % 2 ^ 32 = d at *
  generalize (if slotB then 1 else 0 : Nat) = k at *
  generalize lanes.toNat = l at *
  generalize pc.toNat = p at *
  refine ⟨?_, ?_, ?_, ?_, ?_, ?_, ?_, ?_, ?_, ?_, ?_⟩ <;> omega

end

theorem queueTrap_of_room {s : State} {w : Nat} {t : TrapEntry} (hg : (warpAt s w).gone = false)
    (hd : pathsDone (warpAt s w) = false) (hq : (warpAt s w).tq.length < Config.trapDepth) :
    queueTrap s w t = setWarp s w { warpAt s w with tq := insertTrap t (warpAt s w).tq } := by
  unfold queueTrap
  simp only [hg, hd, Nat.not_le.mpr hq, Bool.false_eq_true, if_false]

/-- Settles O18: the record is laid out field by field, and in supervisor mode the launch breaks. -/
theorem trapRecords : Obligations.TrapRecords := by
  refine ⟨fun s c fslot r hm => ?_, fun s c fslot r hu hg hd hq => ?_⟩
  · have hs : (envOf s c).sup = true := by simp [Env.sup, envOf, hm]
    exact if_pos hs
  · have hs := sup_of_user (e := envOf s c) hu
    have hf := trapRecord_fields r.cause fslot r.addr r.detail (c.which == .b) r.lanes (envOf s c).pc
    rw [show (if (c.which == Which.b) = true then 1 else 0 : Nat) = if c.which = .b then 1 else 0 by
      simp only [beq_iff_eq]] at hf
    refine ⟨_, ?_, hf⟩
    rw [takeTrap, hs, if_neg Bool.false_ne_true]
    exact queueTrap_of_room hg hd hq

end Sys2Proof.Machine

namespace Sys2Proof.Machine

/-! ### Start values (R189) -/

/-- A launch of one crew of one warp whose entry address has its lowest bit set: the model clears the low three bits. -/
def oddEntry : Launch :=
  { h := 0, ctx := 0, queue := 0, record := 1 :: (List.replicate 19 0 ++ [1]), args := [], fmt := [], prio := 0, lseq := 0,
    order := 0, state := .placed, next := 0, redo := [], saved := [], ended := 0, comet := none, result := 0, since := 0,
    late := false }

/-- Refutes O59: the entry address 1 of the record gives a warp the PC 0. -/
theorem not_startValues : ¬ Obligations.StartValues := by
  intro h
  obtain ⟨cr, ws, _, _, _, hlen, _, _, _, hs⟩ := h State.reset oddEntry 0 0 0 none none
  have hj : 0 < ws.length := by rw [hlen]; decide
  obtain ⟨_, _, _, _, _, _, _, _, _, _, _, hpath, _⟩ := hs 0 hj
  have hpc : (warpAt (startCrew State.reset oddEntry 0 0 0 none none) 0).sa.path.pc = 0 := by decide
  have hentry : BitVec.ofNat 64 (recBits oddEntry.record 0 64) = 1 := by decide
  have hlen0 : State.reset.warps.length = 0 := by decide
  rw [hlen0, hentry] at hpath
  exact absurd (hpc.symm.trans (congrArg Path.pc hpath)) (by decide)

end Sys2Proof.Machine

/-! ## Global loads and stores (R107 to R113, R240) -/

namespace Sys2Proof.Machine

/-! ### The instructions of each shape -/

/-- A global load runs the shared load operation. -/
theorem exec_loadShape (i : Instr) (r : LoadForm) (s : State) (h : loadShape i = some r) :
    exec i s = loadOp s r.h r.m r.d r.k r.n.isNone (r.n.getD 0) r.post := by
  unfold loadShape at h
  split at h
  case h_9 => exact absurd h (by simp)
  all_goals cases h; rfl

/-- A global store runs the shared store operation. -/
theorem exec_storeShape (i : Instr) (g : Guard) (mo : MemOp) (d : Opnd) (k : Nat) (n : Option Nat) (s : State)
    (h : storeShape i = some (g, mo, d, k, n)) : exec i s = storeOp s g mo d k n.isNone (n.getD 0) := by
  unfold storeShape at h
  split at h
  case h_7 => exact absurd h (by simp)
  all_goals cases h; rfl

end Sys2Proof.Machine

/-! ### The checks of every lane (R32, R109, R240) -/

namespace Sys2Proof.Machine

theorem lanesOf_pairwise (m : Mask) : (lanesOf m).Pairwise (· < ·) := List.pairwise_lt_range.filter _

/-- Checks that every lane passes give each lane's result, in lane order. -/
theorem lanesOrTrap_ok {α : Type} (m : Mask) (f : Nat → Except (Fail × Nat) α) (g : Nat → α)
    (h : ∀ l ∈ lanesOf m, f l = .ok (g l)) : lanesOrTrap m f = .ok ((lanesOf m).map (fun l => (l, g l))) := by
  have hrs : (lanesOf m).map (fun l => (l, f l)) = (lanesOf m).map (fun l => (l, Except.ok (g l))) :=
    List.map_congr_left (fun l hl => by rw [h l hl])
  unfold lanesOrTrap
  simp only [hrs, List.findSome?_map, List.filterMap_map, Function.comp_def]
  rw [List.findSome?_eq_none_iff.2 (fun _ _ => rfl)]
  simp only [Except.ok.injEq]
  rw [← List.filterMap_eq_map]
  rfl

/-- A lane's checks fail with a cause. -/
def failsWith {α : Type} (cause : Nat) (r : Except (Fail × Nat) α) : Bool :=
  match r with
  | .error y => y.1.cause == cause
  | .ok _ => false

/-- The lowest lane that fails gives the trap; its mask holds the lanes that fail with the same cause (R32). -/
theorem lanesOrTrap_error {α : Type} (m : Mask) (f : Nat → Except (Fail × Nat) α) (l : Nat) (x : Fail × Nat)
    (hl : l ∈ lanesOf m) (hx : f l = .error x) (hlow : ∀ j ∈ lanesOf m, j < l → ∃ a, f j = .ok a) :
    lanesOrTrap m f =
      .error ⟨x.1.cause, maskOf (fun j => m.getLsbD j && failsWith x.1.cause (f j)), x.2, x.1.detail⟩ := by
  obtain ⟨as, bs, hsplit⟩ := List.append_of_mem hl
  have hbelow : ∀ j ∈ as, j < l := by
    intro j hj
    have hp := lanesOf_pairwise m
    rw [hsplit] at hp
    exact (List.pairwise_append.1 hp).2.2 j hj l (by simp)
  have hfind : ((lanesOf m).map (fun l => (l, f l))).findSome? (fun r => match r.2 with
      | .error x => some x
      | .ok _ => none) = some x := by
    rw [List.findSome?_map, List.findSome?_eq_some_iff]
    refine ⟨as, l, bs, hsplit, by simp only [Function.comp_def, hx], fun j hj => ?_⟩
    obtain ⟨a, ha⟩ := hlow j (by rw [hsplit]; simp [hj]) (hbelow j hj)
    simp only [Function.comp_def, ha]
  unfold lanesOrTrap
  simp only
  split
  case h_2 hnone => exact absurd (hfind.symm.trans hnone) (by simp)
  case h_1 y hy =>
    obtain rfl : x = y := Option.some.inj (hfind.symm.trans hy)
    congr 3
    funext j
    rw [Bool.eq_iff_iff]
    simp only [List.any_map, List.any_eq_true, Function.comp_def, Bool.and_eq_true, beq_iff_eq, mem_lanesOf]
    constructor
    · rintro ⟨k, hk, rfl, hc⟩
      exact ⟨hk, hc⟩
    · rintro ⟨hj, hc⟩
      exact ⟨j, hj, rfl, hc⟩

/-- A failure that is no watchpoint's traps. -/
theorem checkLanes_trap (s : State) (e : Env) (m : Mask) (rd wr : Bool) (obj : Nat → Nat)
    (plan : Nat → Except Fail (List Loc)) (r : Raise)
    (h : lanesOrTrap m (fun l => laneSteps s e (obj l) rd wr (plan l)) = .error r) (hw : r.cause ≠ 0x15) :
    checkLanes s e m rd wr obj plan = .error (.trap r) := by
  unfold checkLanes
  simp only [h, hw, false_and, if_false]

/-- Accesses that pass and ask the fault unit for nothing are performed. -/
theorem checkLanes_ok (s : State) (e : Env) (m : Mask) (rd wr : Bool) (obj : Nat → Nat)
    (plan : Nat → Except Fail (List Loc)) (g : Nat → List (Loc × Found))
    (h : ∀ l ∈ lanesOf m, laneSteps s e (obj l) rd wr (plan l) = .ok (g l) ∧ ∀ p ∈ g l, p.2.units = []) :
    checkLanes s e m rd wr obj plan = .ok ((lanesOf m).map (fun l => ⟨l, g l⟩)) := by
  have hunits : ((lanesOf m).map (fun l => LaneAcc.mk l (g l))).flatMap (fun a => a.locs.flatMap (·.2.units)) = [] := by
    simp only [List.flatMap_eq_nil_iff, List.mem_map]
    rintro _ ⟨l, hl, rfl⟩ p hp
    exact (h l hl).2 p hp
  unfold checkLanes
  simp only [lanesOrTrap_ok m _ g (fun l hl => (h l hl).1), List.map_map, Function.comp_def, hunits,
    List.isEmpty_nil, if_true]

/-! ### Accesses whose pieces are all on this device -/

/-- The plan of a lane of an access of a fixed width, or of a packed one. -/
def accessPlan (s : State) (e : Env) (idx : Nat → Nat × Int) (n : Option Nat) (nd : Need) (l : Nat) :
    Except Fail (List Loc) :=
  match n with
  | some k => planFixed s e idx k nd l
  | none => planPacked s e idx nd l

theorem accessPlan_eq (s : State) (e : Env) (idx : Nat → Nat × Int) (n : Option Nat) (nd : Need) :
    (if n.isNone = true then planPacked s e idx nd else planFixed s e idx (n.getD 0) nd) =
      accessPlan s e idx n nd := by
  cases n <;> rfl

/-- The accesses that an instruction performs, one entry for each lane that takes part. -/
def laneAccs (s : State) (c : Cur) (mo : MemOp) (n : Option Nat) (nd : Need) (rd wr : Bool) (m : Mask) : List LaneAcc :=
  (lanesOf m).map (fun l => ⟨l, (located s c mo n nd rd wr l).getD []⟩)

theorem laneSteps_located (s : State) (c : Cur) (mo : MemOp) (n : Option Nat) (nd : Need) (rd wr : Bool) (l : Nat)
    (fs : List (Loc × Found)) (h : located s c mo n nd rd wr l = some fs) :
    let e := envOf s c
    let idx := globalIndex e.x mo.b mo.a mo.sc.toNat (sx 16 mo.off.toNat)
    laneSteps s e (idx l).1 rd wr (accessPlan s e idx n nd l) = .ok fs := by
  intro e idx
  have h' : (match laneSteps s e (idx l).1 rd wr (accessPlan s e idx n nd l) with
      | .ok fs => some fs
      | .error _ => none) = some fs := h
  generalize laneSteps s e (idx l).1 rd wr (accessPlan s e idx n nd l) = r at h' ⊢
  cases r with
  | error _ => exact absurd h' (by simp)
  | ok _ => simpa using h'

/-- A piece is local when it lies in this device's memory or in the argument object. -/
def isLocal (q : Piece) : Bool :=
  match q.place with
  | .far _ _ _ => false
  | _ => true

theorem allHere_iff (fs : List (Loc × Found)) :
    allHere fs = true ↔ ∀ p ∈ fs, p.2.units = [] ∧ ∀ q ∈ p.2.pieces, isLocal q = true := by
  simp only [allHere, List.all_eq_true, Bool.and_eq_true, List.isEmpty_iff, isLocal] <;> rfl

theorem farPieces_of_isLocal (ps : List Piece) (h : ∀ q ∈ ps, isLocal q = true) : farPieces ps = [] := by
  unfold farPieces
  rw [List.filterMap_eq_nil_iff]
  intro q hq
  have hl := h q hq
  unfold isLocal at hl
  cases hp : q.place with
  | far _ _ _ => simp [hp] at hl
  | phys _ => rfl
  | arg _ => rfl

theorem readAll_of_isLocal (s : State) (args : List Byte) (ps : List Piece) (h : ∀ q ∈ ps, isLocal q = true) :
    readAll s args ps = readPieces s args ps := by
  unfold readAll readPieces
  refine List.foldl_ext _ _ _ (fun acc q hq => ?_)
  have hl := h q hq
  unfold isLocal at hl
  cases hp : q.place with
  | far _ _ _ => simp [hp] at hl
  | phys _ => rfl
  | arg _ => rfl

/-- The lanes of an instruction whose accesses are located, and all here. -/
def lanesHere (s : State) (c : Cur) (mo : MemOp) (n : Option Nat) (nd : Need) (rd wr : Bool) (m : Mask) : Prop :=
  ∀ l ∈ lanesOf m, ∃ fs, located s c mo n nd rd wr l = some fs ∧ allHere fs = true

section
variable {s : State} {c : Cur} {mo : MemOp} {n : Option Nat} {nd : Need} {rd wr : Bool} {m : Mask}

theorem lanesHere_locs (h : lanesHere s c mo n nd rd wr m) (a : LaneAcc) (ha : a ∈ laneAccs s c mo n nd rd wr m) :
    ∀ p ∈ a.locs, p.2.units = [] ∧ ∀ q ∈ p.2.pieces, isLocal q = true := by
  obtain ⟨l, hl, rfl⟩ := List.mem_map.1 ha
  obtain ⟨fs, hfs, hh⟩ := h l hl
  simp only [hfs, Option.getD_some]
  exact (allHere_iff fs).1 hh

theorem checkLanes_lanesHere (h : lanesHere s c mo n nd rd wr m) :
    let e := envOf s c
    let idx := globalIndex e.x mo.b mo.a mo.sc.toNat (sx 16 mo.off.toNat)
    checkLanes s e m rd wr (fun l => (idx l).1) (accessPlan s e idx n nd) = .ok (laneAccs s c mo n nd rd wr m) := by
  intro e idx
  refine checkLanes_ok s e m rd wr _ _ (fun l => (located s c mo n nd rd wr l).getD []) (fun l hl => ?_)
  obtain ⟨fs, hfs, hh⟩ := h l hl
  refine ⟨?_, ?_⟩
  · simp only [hfs, Option.getD_some]
    exact laneSteps_located s c mo n nd rd wr l fs hfs
  · simp only [hfs, Option.getD_some]
    exact fun p hp => ((allHere_iff fs).1 hh p hp).1

theorem farLines_lanesHere (h : lanesHere s c mo n nd rd wr m) (ctx : Nat) (a : LaneAcc)
    (ha : a ∈ laneAccs s c mo n nd rd wr m) : a.farLines ctx = [] := by
  unfold LaneAcc.farLines
  rw [List.flatMap_eq_nil_iff]
  intro p hp
  unfold farLines
  rw [farPieces_of_isLocal _ (lanesHere_locs h a ha p hp).2]
  rfl

end

/-- No line, nothing to wait for and nothing changed. -/
theorem fetchSet_nil (s : State) (w : Owner) : fetchSet s w [] = (some [], s) := by
  unfold fetchSet
  simp

end Sys2Proof.Machine

/-! ### Accesses that trap (R32, R109) -/

namespace Sys2Proof.Machine

/-- A load whose checks fail traps. -/
theorem loadOp_trap {s : State} {c : Cur} {h : Hdr} {mo : MemOp} {d : Opnd} {k : Nat} {n : Option Nat}
    {post : Nat → Nat} {r : Raise} (hi : issuing s c = true)
    (hr : regsOk ((d, k) :: globalSrcs mo.b mo.a) (envOf s c) = true)
    (hc : let e := envOf s c
      let idx := globalIndex e.x mo.b mo.a mo.sc.toNat (sx 16 mo.off.toNat)
      checkLanes s e (takers s c h.g) true false (fun l => (idx l).1)
        (accessPlan s e idx n ⟨some .r, false, n.isSome⟩) = .error (.trap r)) :
    loadOp s h mo d k n.isNone (n.getD 0) post = .next (takeTrap s (envOf s c) 0 r) := by
  refine runInstr_trap s c _ _ _ _ _ r hi hr rfl ?_
  simp only [accessPlan_eq, Option.not_isNone]
  rw [show checkLanes s (envOf s c) (taking (envOf s c) h.g) true false _ _ = .error (.trap r) from hc]

/-- A store whose checks fail traps. -/
theorem storeOp_trap {s : State} {c : Cur} {g : Guard} {mo : MemOp} {d : Opnd} {k : Nat} {n : Option Nat}
    {r : Raise} (hi : issuing s c = true) (hr : regsOk ((d, k) :: globalSrcs mo.b mo.a) (envOf s c) = true)
    (hc : let e := envOf s c
      let idx := globalIndex e.x mo.b mo.a mo.sc.toNat (sx 16 mo.off.toNat)
      checkLanes s e (takers s c g) false true (fun l => (idx l).1)
        (accessPlan s e idx n ⟨some .w, true, n.isSome⟩) = .error (.trap r)) :
    storeOp s g mo d k n.isNone (n.getD 0) = .next (takeTrap s (envOf s c) 0 r) := by
  refine runInstr_trap s c _ _ _ _ _ r hi hr rfl ?_
  simp only [accessPlan_eq, Option.not_isNone]
  rw [show checkLanes s (envOf s c) (taking (envOf s c) g) false true _ _ = .error (.trap r) from hc]

/-- Settles O28: the lowest failing lane gives the trap, before any lane has an effect. -/
theorem accessTraps : Obligations.AccessTraps := by
  unfold Obligations.AccessTraps
  intro i g mo d k n rd hshape s c l f addr e m nd idx steps hi hr hl hf hlow hc
  suffices h : exec i s = .next (takeTrap s e 0
      ⟨f.cause, maskOf (fun j => m.getLsbD j && failsWith f.cause (steps j)), addr, f.detail⟩) by
    rw [h]
    congr 4
    funext j
    cases steps j <;> rfl
  have hlanes := lanesOrTrap_error m steps l (f, addr) hl hf hlow
  have hcheck := checkLanes_trap s e m rd (!rd) (fun l => (idx l).1) (accessPlan s e idx n nd) _ hlanes hc
  rcases hshape with ⟨r, hshape, heq⟩ | ⟨hshape, rfl⟩
  · simp only [Prod.mk.injEq] at heq
    obtain ⟨rfl, rfl, rfl, rfl, rfl, rfl⟩ := heq
    rw [exec_loadShape i r s hshape]
    exact loadOp_trap hi hr hcheck
  · rw [exec_storeShape i g mo d k n s hshape]
    exact storeOp_trap hi hr hcheck

end Sys2Proof.Machine

/-! ### Loads of data on this device (R110, R112) -/

namespace Sys2Proof.Machine

/-- Reading bytes changes only the views. -/
theorem sawBytes_eq (s : State) (path w : Nat) (rs : List (Nat × Nat)) :
    sawBytes s path w rs = { s with views := (sawBytes s path w rs).views } := by
  unfold sawBytes
  split <;> rfl

/-- What an engine path sees is not touched by another path's reading: it only makes writes known. -/
theorem sameViews_sawBytes (s : State) (path w : Nat) (rs : List (Nat × Nat)) :
    sameViews s (sawBytes s path w rs).views := by
  unfold sameViews sawBytes
  split
  · rfl
  · simp only [List.map_map]
    refine List.map_congr_left (fun v _ => ?_)
    simp only [Function.comp_def]
    split
    · rfl
    · generalize List.foldl _ 0 rs = k
      have hknown : ∀ h : Hidden, ((fun h : Hidden => (h.addr, h.old)) ∘ fun h : Hidden =>
          if h.via.contains (path, w) = true then h else { h with via := h.via ++ [(path, w)] }) h = (h.addr, h.old) := by
        intro h
        simp only [Function.comp_def]
        split <;> rfl
      simp only [List.map_append, List.map_map]
      rw [List.map_congr_left (fun h _ => hknown h), ← List.map_append, List.take_append_drop]

theorem fetchLanes_lanesHere {s : State} {c : Cur} {mo : MemOp} {n : Option Nat} {nd : Need} {rd wr : Bool} {m : Mask}
    (h : lanesHere s c mo n nd rd wr m) (w ctx : Nat) :
    fetchLanes s w ctx (laneAccs s c mo n nd rd wr m) =
      (some ((laneAccs s c mo n nd rd wr m).map (fun a => (a.lane, none))), s) := by
  have hlines : (laneAccs s c mo n nd rd wr m).flatMap (·.farLines ctx) = [] :=
    List.flatMap_eq_nil_iff.2 (farLines_lanesHere h ctx)
  unfold fetchLanes
  simp only [hlines, fetchSet_nil, Option.map_some, List.find?_nil, Option.map_none]

/-- No lane of a mask that is built from no lane. -/
theorem maskOf_of_forall_false (f : Nat → Bool) (h : ∀ l, f l = false) : maskOf f = 0 :=
  (maskOf_eq_zero f).2 (fun l _ => h l)

/-- Data that returned without errors queues nothing. -/
theorem returnErrors_none (s : State) (e : Env) (fslot : Nat) (accs : List LaneAcc) (dead : List (Nat × Option Nat))
    (h : ∀ p ∈ dead, p.2 = none) : returnErrors s e fslot accs dead 0 = s := by
  have hmask : ∀ d, maskOf (fun l => dead.any (fun p => p.1 == l && p.2 == some d)) = 0 := by
    intro d
    refine maskOf_of_forall_false _ (fun l => ?_)
    rw [List.any_eq_false]
    intro p hp
    simp [h p hp]
  unfold returnErrors
  simp only [hmask, if_true]

theorem laneValue_of_isLocal (s : State) (args : List Byte) (a : LaneAcc)
    (h : ∀ p ∈ a.locs, ∀ q ∈ p.2.pieces, isLocal q = true) : laneValue s args a = valueAt s args a.locs := by
  unfold laneValue valueAt
  rw [List.foldl_ext _ _ _ (fun acc p hp => by rw [readAll_of_isLocal s args _ (h p hp)])]

/-- The entry of a lane among the accesses. -/
theorem find_laneAccs (s : State) (c : Cur) (mo : MemOp) (n : Option Nat) (nd : Need) (rd wr : Bool) (m : Mask) (l : Nat)
    (hl : l ∈ lanesOf m) : (laneAccs s c mo n nd rd wr m).find? (fun a => a.lane == l) =
      some ⟨l, (located s c mo n nd rd wr l).getD []⟩ := by
  unfold laneAccs
  rw [List.find?_map]
  simp only [Function.comp_def]
  have : (lanesOf m).find? (fun j => j == l) = some l := by
    rw [List.find?_eq_some_iff_getElem]
    obtain ⟨k, hk, hkl⟩ := List.getElem_of_mem hl
    refine ⟨by simp, k, hk, hkl, fun j hj => ?_⟩
    have hlt := List.pairwise_iff_getElem.1 (lanesOf_pairwise m) j k (by omega) hk hj
    simp only [Bool.not_eq_true', beq_eq_false_iff_ne]
    omega
  rw [this]
  rfl

/-- The state in which a load has made what it read known, and has left its mark in the warp. -/
def loadNoted (s : State) (c : Cur) (h : Hdr) (d : Opnd) (k : Nat) (m : Mask) (rs : List (Nat × Nat)) : State :=
  setWarp (sawBytes s 0 c.w rs) c.w { warpAt (sawBytes s 0 c.w rs) c.w with
    lastLd := some ⟨(envOf s c).pc, ⟨h, d, m⟩, k, (envOf s c).x.issued, 0⟩ }

theorem warpAt_loadNoted (s : State) (c : Cur) (h : Hdr) (d : Opnd) (k : Nat) (m : Mask) (rs : List (Nat × Nat))
    (hw : c.w < s.warps.length) : warpAt (loadNoted s c h d k m rs) c.w =
      { warpAt s c.w with lastLd := some ⟨(envOf s c).pc, ⟨h, d, m⟩, k, (envOf s c).x.issued, 0⟩ } := by
  unfold loadNoted
  rw [sawBytes_eq]
  exact warpAt_setWarp _ _ _ hw

theorem lanePoisoned_laneAccs {s : State} {c : Cur} {mo : MemOp} {n : Option Nat} {nd : Need} {rd wr : Bool} {m : Mask}
    (h : ∀ l ∈ lanesOf m, ∃ fs, located s c mo n nd rd wr l = some fs ∧ anyPoison s fs = false)
    (a : LaneAcc) (ha : a ∈ laneAccs s c mo n nd rd wr m) : lanePoisoned s a = false := by
  obtain ⟨l, hl, rfl⟩ := List.mem_map.1 ha
  obtain ⟨fs, hfs, hp⟩ := h l hl
  simp only [lanePoisoned, hfs, Option.getD_some]
  exact hp

/-- A load of sound data on this device gives D the packed bits, extended (R25, R110, R112). -/
theorem loadOp_lanesHere (s : State) (c : Cur) (h : Hdr) (mo : MemOp) (d : Opnd) (k : Nat) (n : Option Nat)
    (post val : Nat → Nat) (hp : plain s c = true) (hr : regsOk ((d, k) :: globalSrcs mo.b mo.a) (envOf s c) = true)
    (hq : ∀ q, d ≠ .q q)
    (hfs : ∀ l ∈ lanesOf (takers s c h.g), ∃ fs,
      located s c mo n ⟨some .r, false, n.isSome⟩ true false l = some fs ∧ allHere fs = true ∧
      anyPoison s fs = false ∧
      val l = post (valueAt s (((launchOf s (envOf s c).cr.launch).map (·.args)).getD []) fs)) :
    ∃ rs, loadOp s h mo d k n.isNone (n.getD 0) post =
      .next (stepped (let t := loadNoted s c h d k (takers s c h.g) rs
        setWarp t c.w (writeDest (warpAt t c.w) ⟨h, d, takers s c h.g⟩ k val)) c) := by
  set m := takers s c h.g with hm
  set accs := laneAccs s c mo n ⟨some .r, false, n.isSome⟩ true false m with haccs
  have hhere : lanesHere s c mo n ⟨some .r, false, n.isSome⟩ true false m := fun l hl => by
    obtain ⟨fs, h1, h2, -, -⟩ := hfs l hl
    exact ⟨fs, h1, h2⟩
  have hsound : ∀ a ∈ accs, lanePoisoned s a = false := lanePoisoned_laneAccs (fun l hl => by
    obtain ⟨fs, h1, -, h3, -⟩ := hfs l hl
    exact ⟨fs, h1, h3⟩)
  have hbad : maskOf (fun l => accs.any (fun a => a.lane == l && lanePoisoned s a)) = 0 :=
    maskOf_of_forall_false _ (fun l => by
      rw [List.any_eq_false]
      intro a ha
      simp [hsound a ha])
  have hlost : maskOf (fun l => (accs.map (fun a => (a.lane, (none : Option Nat)))).any
      (fun p => p.1 == l && p.2.isSome)) = 0 :=
    maskOf_of_forall_false _ (fun l => by simp [List.any_map])
  refine ⟨pieceBytes (accPieces accs), ?_⟩
  refine runInstr_ok s _ c _ _ _ _ _ (issuing_of_plain hp) hr rfl ?_
  simp only [accessPlan_eq, Option.not_isNone]
  rw [show checkLanes s (envOf s c) (taking (envOf s c) h.g) true false _ _ = .ok accs from
    checkLanes_lanesHere hhere]
  simp only
  rw [show fetchLanes s (envOf s c).w (envOf s c).cr.ctx accs = _ from fetchLanes_lanesHere hhere c.w _]
  simp only [← haccs, hbad, hlost]
  have hlen : (loadNoted s c h d k m (pieceBytes (accPieces accs))).warps.length = s.warps.length := by
    unfold loadNoted
    rw [setWarp_length, sawBytes_eq]
  have hpaths : samePaths (warpAt s c.w) (warpAt (loadNoted s c h d k m (pieceBytes (accPieces accs))) c.w) := by
    rw [warpAt_loadNoted s c h d k m _ (warp_lt_of_plain hp)]
    exact samePaths_refl _
  rw [show taking (envOf s c) h.g = m from rfl, show (envOf s c).w = c.w from rfl, ← loadNoted,
    finish_same s _ c h d m k _ hp hlen hpaths hq]
  simp only
  rw [returnErrors_none _ _ _ _ _ (fun p hp => by
    obtain ⟨a, -, rfl⟩ := List.mem_map.1 hp
    rfl)]
  congr 3
  refine writeDest_congr _ _ _ _ _ (fun l _ hlm => ?_)
  have hl : l ∈ lanesOf m := (mem_lanesOf m l).2 hlm
  obtain ⟨fs, hloc, hall, -, hval⟩ := hfs l hl
  rw [find_laneAccs s c mo n _ true false m l hl, hval]
  simp only [hloc, Option.getD_some]
  rw [laneValue_of_isLocal s _ _ (fun p hp => ((allHere_iff fs).1 hall p hp).2)]
  simp

theorem setWarp_loadNoted (s : State) (c : Cur) (h : Hdr) (d : Opnd) (k : Nat) (m : Mask) (rs : List (Nat × Nat))
    (y : Warp) : setWarp (loadNoted s c h d k m rs) c.w y =
      setWarp { s with views := (sawBytes s 0 c.w rs).views } c.w y := by
  rw [loadNoted, setWarp_setWarp, ← sawBytes_eq]

/-- Settles O25: the checks pass, no line is fetched, and the data returns without errors. -/
theorem globalLoads : Obligations.GlobalLoads := by
  unfold Obligations.GlobalLoads
  intro i r hi s c val e m x args hp hr hq hfs
  obtain ⟨rs, hrun⟩ := loadOp_lanesHere s c r.h r.m r.d r.k r.n r.post val hp hr hq hfs
  refine ⟨(sawBytes s 0 c.w rs).views, sameViews_sawBytes s 0 c.w rs, ?_⟩
  rw [exec_loadShape i r s hi, hrun]
  simp only [setWarp_loadNoted, warpAt_loadNoted s c r.h r.d r.k _ rs (warp_lt_of_plain hp)]
  rfl

end Sys2Proof.Machine

/-! ### Stores to memory of this device (R111, R112) -/

namespace Sys2Proof.Machine

/-- A device whose lines no other device caches has nothing to clear. -/
theorem clearPeers_ownLines {s : State} (h : ownLines s) (ls : List LineRef) : clearPeers s ls = (true, s) := by
  obtain ⟨hdir, hwaits, hcopies⟩ := h
  have hnear : s.copies.all (fun k => k.out.all (·.near.isEmpty)) = true := by
    rw [List.all_eq_true]
    intro k hk
    rw [List.all_eq_true]
    intro o ho
    rw [hcopies k hk o ho]
    rfl
  unfold clearPeers
  simp only [hdir, hwaits, hnear, List.isEmpty_nil, Bool.and_self, if_true]

/-- No request, nothing to wait for and nothing changed. -/
theorem exchange_nil (s : State) (w : Owner) : exchange s w [] = (some [], s) := by
  simp [exchange, sendMissing]

/-- Writes to pieces on this device send no request. -/
theorem laneWriteReqs_of_isLocal (s : State) (ctx : Nat) (a : LaneAcc) (x : Nat)
    (h : ∀ p ∈ a.locs, ∀ q ∈ p.2.pieces, isLocal q = true) : laneWriteReqs s ctx a x = [] := by
  obtain ⟨l, locs⟩ := a
  have key : ∀ n, (locs.foldl (fun (acc : List FabReq × Nat) p =>
      (acc.1 ++ (writeReqs s ctx p.1.obj (bits x acc.2 p.1.n) p.2.pieces).map (fun r => { r with lane := l }),
        acc.2 + p.1.n)) ([], n)).1 = [] := by
    induction locs with
    | nil => intro n; rfl
    | cons p ps ih =>
      intro n
      have hp : writeReqs s ctx p.1.obj (bits x n p.1.n) p.2.pieces = [] := by
        unfold writeReqs
        rw [farPieces_of_isLocal _ (h p (by simp))]
        rfl
      simp only [List.foldl_cons, hp, List.map_nil, List.append_nil]
      exact ih (fun q hq => h q (by simp [hq])) _
  exact key 0

@[simp] theorem storedAt_warps (s : State) (w ctx : Nat) (fs : List (Loc × Found)) (v : Nat) :
    (storedAt s w ctx fs v).warps = s.warps := storeLane_warps s w ctx ⟨0, fs⟩ v

/-- The stores of the lanes that take part, in lane order. -/
theorem foldl_storeLane_laneAccs {s : State} {c : Cur} {mo : MemOp} {n : Option Nat} {m : Mask}
    (h : lanesHere s c mo n ⟨some .w, true, n.isSome⟩ false true m) (d : Opnd) (k : Nat) :
    (laneAccs s c mo n ⟨some .w, true, n.isSome⟩ false true m).foldl (fun t a =>
      storeLane t c.w (envOf s c).cr.ctx a (regNat (envOf s c).x d k a.lane)) s = storedLanes s c mo d k n m := by
  unfold laneAccs storedLanes
  rw [List.foldl_map]
  refine List.foldl_ext _ _ _ (fun t l hl => ?_)
  obtain ⟨fs, hfs, -⟩ := h l hl
  simp only [hfs, Option.getD_some]
  rfl

theorem storedLanes_warps (s : State) (c : Cur) (mo : MemOp) (d : Opnd) (k : Nat) (n : Option Nat) (m : Mask) :
    (storedLanes s c mo d k n m).warps = s.warps := by
  unfold storedLanes
  refine foldl_same State.warps _ (fun t l => ?_) _ _
  split
  · exact storedAt_warps _ _ _ _ _
  · rfl

/-- A store whose pieces are all here writes its lanes in ascending order (R32, R111, R112). -/
theorem storeOp_lanesHere (s : State) (c : Cur) (g : Guard) (mo : MemOp) (d : Opnd) (k : Nat) (n : Option Nat)
    (hp : plain s c = true) (hr : regsOk ((d, k) :: globalSrcs mo.b mo.a) (envOf s c) = true) (ho : ownLines s)
    (hhere : lanesHere s c mo n ⟨some .w, true, n.isSome⟩ false true (takers s c g)) :
    storeOp s g mo d k n.isNone (n.getD 0) = .next (stepped (storedLanes s c mo d k n (takers s c g)) c) := by
  set accs := laneAccs s c mo n ⟨some .w, true, n.isSome⟩ false true (takers s c g) with haccs
  have hreqs : accs.flatMap (fun a => laneWriteReqs s (envOf s c).cr.ctx a (regNat (envOf s c).x d k a.lane)) = [] :=
    List.flatMap_eq_nil_iff.2 (fun a ha =>
      laneWriteReqs_of_isLocal _ _ a _ (fun p hp => (lanesHere_locs hhere a ha p hp).2))
  have hadv := advance_same s (storedLanes s c mo d k n (takers s c g)) c hp (by rw [storedLanes_warps])
    (by unfold warpAt; rw [storedLanes_warps]; exact samePaths_refl _)
  refine runInstr_ok s _ c _ _ _ _ _ (issuing_of_plain hp) hr rfl ?_
  simp only [accessPlan_eq, Option.not_isNone]
  rw [show checkLanes s (envOf s c) (taking (envOf s c) g) false true _ _ = .ok accs from
    checkLanes_lanesHere hhere]
  simp only [hreqs, clearPeers_ownLines ho, exchange_nil]
  rw [show (envOf s c).w = c.w from rfl, haccs, foldl_storeLane_laneAccs hhere, hadv]
  simp only
  rw [returnErrors_none _ _ _ _ _ (fun p hp => absurd hp (by simp))]

/-- Settles O26: the checks pass, no request is sent, and the lanes write in order. -/
theorem globalStores : Obligations.GlobalStores := by
  unfold Obligations.GlobalStores
  intro i g mo d k n hi s c m hp hr ho hfs
  rw [exec_storeShape i g mo d k n s hi]
  exact storeOp_lanesHere s c g mo d k n hp hr ho hfs

end Sys2Proof.Machine

/-! ### What a store leaves unchanged (R25, R111, R246, R259) -/

namespace Sys2Proof.Machine

/-! #### Bytes outside a write, in any byte store -/

theorem memGet_memSet_ne (m : Memory) {a k : Nat} (b : Byte) (h : k ≠ a) : memGet (memSet m a b) k = memGet m k := by
  induction m with
  | nil =>
    unfold memSet
    split
    · rfl
    · exact memGet_cons_ne (Ne.symm h)
  | cons c m ih =>
    obtain ⟨j, x⟩ := c
    unfold memSet
    split
    · split
      · rfl
      · exact memGet_cons_ne (Ne.symm h)
    · split
      case isTrue heq =>
        have hj : j ≠ k := heq ▸ Ne.symm h
        rw [memGet_cons_ne hj]
        split
        · rfl
        · exact memGet_cons_ne (Ne.symm h)
      case isFalse =>
        by_cases hj : j = k
        · subst hj
          rw [memGet_cons_self, memGet_cons_self]
        · rw [memGet_cons_ne hj, memGet_cons_ne hj, ih]

theorem memGet_memPut_frame (m : Memory) (a : Nat) (bs : List Byte) (k : Nat) (h : k < a ∨ a + bs.length ≤ k) :
    memGet (memPut m a bs) k = memGet m k := by
  induction bs generalizing m a with
  | nil => rfl
  | cons b bs ih =>
    rw [List.length_cons] at h
    rw [memPut, ih _ _ (by omega), memGet_memSet_ne m b (by omega)]

theorem memGet_memPutNat_frame (m : Memory) (a n x k : Nat) (h : k < a ∨ a + n ≤ k) :
    memGet (memPutNat m a n x) k = memGet m k :=
  memGet_memPut_frame m a _ k (by rw [natBytes_length]; exact h)

theorem memGet_memPutBits_frame (m : Memory) (bit n x k : Nat) (h : k < bit / 8 ∨ (bit + n + 7) / 8 ≤ k) :
    memGet (memPutBits m bit n x) k = memGet m k :=
  memGet_memPutNat_frame m _ _ _ k (by omega)

theorem memGet_writePieces_frame (m : Memory) (ps : List Piece) (x a : Nat) (h : ∀ q ∈ ps, inPiece q a = false) :
    memGet (writePieces m ps x) a = memGet m a := by
  induction ps generalizing m with
  | nil => rfl
  | cons p ps ih =>
    unfold writePieces
    rw [List.foldl_cons]
    refine (ih _ (fun q hq => h q (by simp [hq]))).trans ?_
    have hp := h p (by simp)
    unfold inPiece at hp
    cases hpl : p.place with
    | phys bit =>
      simp only [hpl, Bool.and_eq_false_iff, decide_eq_false_iff_not, not_le, not_lt] at hp
      exact memGet_memPutBits_frame m bit p.n _ a hp
    | arg _ => rfl
    | far _ _ _ => rfl

/-! #### The ring of a context's dirty log -/

theorem ctxGet_ctxPut {s : State} {c : Nat} {x : Ctx} (h : ctxGet s c = some x) (y : Ctx) :
    ctxGet (ctxPut s c y) c = some y := by
  unfold ctxGet at h
  obtain ⟨e, he, -⟩ := Option.map_eq_some_iff.1 h
  have hkey : ((fun e : Nat × Ctx => e.1 == c) ∘ fun e => if (e.1 == c) = true then (c, y) else e) =
      fun e => e.1 == c := by
    funext e
    simp only [Function.comp_def]
    split
    case isTrue h => rw [h]; exact beq_self_eq_true c
    case isFalse => rfl
  have hc : (e.1 == c) = true := List.find?_some (p := fun e : Nat × Ctx => e.1 == c) he
  unfold ctxGet ctxPut
  simp only [List.find?_map, hkey, he, Option.map_some, hc, if_true]

/-- What the place of a context's dirty log depends on. -/
def ringOf (x : Ctx) : Bool × Word × Word × Word := (x.dten, x.dl.getD 0 0, x.dl.getD 1 0, x.dl.getD 2 0)

theorem inDirtyRing_ctxPut {s : State} {ctx : Nat} {x y : Ctx} (h : ctxGet s ctx = some x) (hr : ringOf y = ringOf x)
    (a : Nat) : inDirtyRing (ctxPut s ctx y) ctx a = inDirtyRing s ctx a := by
  simp only [ringOf, Prod.mk.injEq] at hr
  obtain ⟨h1, h2, h3, h4⟩ := hr
  unfold inDirtyRing
  rw [ctxGet_ctxPut h, h]
  simp only [h1, h2, h3, h4]

/-! #### Stores away from a byte -/

/-- `t` holds the byte at `a` that `s` holds, and the ring of the context's dirty log lies where it lay. -/
def keepsByte (ctx a : Nat) (s t : State) : Prop :=
  memGet t.mem a = memGet s.mem a ∧ inDirtyRing t ctx a = inDirtyRing s ctx a

theorem keepsByte_refl (ctx a : Nat) (s : State) : keepsByte ctx a s s := ⟨rfl, rfl⟩

theorem keepsByte_trans {ctx a : Nat} {s t u : State} (h : keepsByte ctx a s t) (k : keepsByte ctx a t u) :
    keepsByte ctx a s u := ⟨k.1.trans h.1, k.2.trans h.2⟩

theorem keepsByte_foldl {α : Type} {ctx a : Nat} (xs : List α) (f : State → α → State)
    (h : ∀ x ∈ xs, ∀ s, inDirtyRing s ctx a = false → keepsByte ctx a s (f s x)) (s : State)
    (hs : inDirtyRing s ctx a = false) : keepsByte ctx a s (xs.foldl f s) := by
  induction xs generalizing s with
  | nil => exact keepsByte_refl ctx a s
  | cons x xs ih =>
    have hx := h x (by simp) s hs
    exact keepsByte_trans hx (ih (fun y hy => h y (by simp [hy])) _ (hx.2.trans hs))

theorem keepsByte_hideWrite (ctx a : Nat) (s : State) (by_ : Option (Nat × Nat)) (rs : List (Nat × Nat)) :
    keepsByte ctx a s (hideWrite s by_ rs) := by
  unfold hideWrite
  split <;> exact ⟨rfl, rfl⟩

theorem keepsByte_raiseMsix (ctx a : Nat) (s : State) (fn vec : Nat) : keepsByte ctx a s (raiseMsix s fn vec) := by
  unfold raiseMsix
  split <;> exact ⟨rfl, rfl⟩

theorem keepsByte_physPut (ctx : Nat) {a : Nat} (s : State) {pa n : Nat} (x : Nat) (h : a < pa ∨ pa + n ≤ a) :
    keepsByte ctx a s (physPut s pa n x) := by
  unfold physPut
  split
  · exact ⟨memGet_memPutNat_frame _ _ _ _ _ h, (keepsByte_hideWrite ctx a s none _).2⟩
  · exact keepsByte_refl ctx a s

theorem keepsByte_ctxPut {s : State} {ctx : Nat} {x y : Ctx} (h : ctxGet s ctx = some x) (hr : ringOf y = ringOf x)
    (a : Nat) : keepsByte ctx a s (ctxPut s ctx y) := ⟨rfl, inDirtyRing_ctxPut h hr a⟩

theorem ctxGet_physPut (s : State) (pa n x c : Nat) : ctxGet (physPut s pa n x) c = ctxGet s c := by
  have h : (physPut s pa n x).ctxs = s.ctxs := by
    unfold physPut hideWrite
    split
    · split <;> rfl
    · rfl
  unfold ctxGet
  rw [h]

/-- A record of the dirty log lies in its ring. -/
theorem keepsByte_dirtyLog {a : Nat} (s : State) (t : SubTile) (h : inDirtyRing s t.ctx a = false) :
    keepsByte t.ctx a s (dirtyLog s t) := by
  unfold dirtyLog
  cases hx : ctxGet s t.ctx with
  | none => exact keepsByte_refl _ _ _
  | some x =>
    simp only
    split
    · exact keepsByte_refl _ _ _
    · rename_i hdten
      have hout : a < bits ((x.dl.getD 0 0).toNat + 2 ^ 32 * (x.dl.getD 1 0).toNat) 0 56 ∨
          bits ((x.dl.getD 0 0).toNat + 2 ^ 32 * (x.dl.getD 1 0).toNat) 0 56 +
            8 * 2 ^ bits (x.dl.getD 2 0).toNat 0 5 ≤ a := by
        simp only [Bool.not_eq_true', Bool.not_eq_false] at hdten
        unfold inDirtyRing at h
        rw [hx] at h
        simp only [hdten, Bool.true_and, Bool.and_eq_false_iff, decide_eq_false_iff_not, not_le, not_lt] at h
        exact h
      split
      · exact keepsByte_trans (keepsByte_ctxPut (y := { x with dlOvf := true }) hx rfl a) (keepsByte_raiseMsix _ _ _ _ _)
      · generalize hlg : bits (x.dl.getD 2 0).toNat 0 5 = lg at hout ⊢
        generalize hbase : bits ((x.dl.getD 0 0).toNat + 2 ^ 32 * (x.dl.getD 1 0).toNat) 0 56 = base at hout ⊢
        generalize hwr : (x.dl.getD 3 0).toNat = wr
        have hslot : wr % 2 ^ lg < 2 ^ lg := Nat.mod_lt _ (Nat.two_pow_pos lg)
        have hput := keepsByte_physPut t.ctx s (pa := base + 8 * (wr % 2 ^ lg)) (n := 8)
          (t.obj + 2 ^ 22 * t.ctx + 2 ^ 34 * t.sub) (a := a) (by omega)
        have hring : ringOf { x with dl := x.dl.set 3 (BitVec.ofNat 32 (wr + 1)) } = ringOf x := by
          simp [ringOf, List.getD_eq_getElem?_getD]
        have hall := keepsByte_trans hput (keepsByte_ctxPut ((ctxGet_physPut s _ _ _ _).trans hx) hring a)
        split
        · exact keepsByte_trans hall (keepsByte_raiseMsix _ _ _ _ _)
        · exact hall

theorem keepsByte_markDirty {ctx a : Nat} (s : State) (obj : Nat) (r : Rec) (sub rep : Nat)
    (h : inDirtyRing s ctx a = false) (ha : a < entryAddr r sub rep ∨ entryAddr r sub rep + 8 ≤ a) :
    keepsByte ctx a s (markDirty s ctx obj r sub rep) := by
  unfold markDirty
  split
  · exact keepsByte_refl _ _ _
  · simp only
    split
    · exact keepsByte_refl _ _ _
    · refine keepsByte_trans ⟨?_, ?_⟩ (keepsByte_dirtyLog _ ⟨ctx, obj, sub, rep⟩ h)
      · exact memGet_memPutNat_frame _ _ _ _ _ ha
      · rfl

theorem keepsByte_markDirtyLoc {ctx a : Nat} (s : State) (l : Loc) (h : inDirtyRing s ctx a = false)
    (ha : inEntry l a = false) : keepsByte ctx a s (markDirtyLoc s ctx l) := by
  have hentry : ∀ sub ∈ subTilesOf l.a l.n, ∀ rep ∈ replicasOf l.rec_,
      a < entryAddr l.rec_ sub rep ∨ entryAddr l.rec_ sub rep + 8 ≤ a := by
    simpa [inEntry, List.any_eq_false, or_iff_not_imp_left] using ha
  unfold markDirtyLoc
  split
  · exact keepsByte_refl _ _ _
  · refine keepsByte_foldl _ _ (fun sub hsub t ht => ?_) s h
    exact keepsByte_foldl _ _ (fun rep hrep u hu => keepsByte_markDirty u _ _ _ _ hu (hentry sub hsub rep hrep)) t ht

theorem keepsByte_storeLoc {ctx a : Nat} (s : State) (by_ : Option (Nat × Nat)) (l : Loc) (ps : List Piece) (x : Nat)
    (h : inDirtyRing s ctx a = false) (hl : inEntry l a = false) (hps : ∀ q ∈ ps, inPiece q a = false) :
    keepsByte ctx a s (storeLoc s by_ ctx l ps x) := by
  have hmark := keepsByte_trans (keepsByte_markDirtyLoc s l h hl) (keepsByte_hideWrite ctx a _ by_ (pieceBytes ps))
  exact ⟨(memGet_writePieces_frame _ ps x a hps).trans hmark.1, hmark.2⟩

/-- The bytes of a lane's accesses, and the entries that they may mark dirty, do not include `a`. -/
def awayFrom (fs : List (Loc × Found)) (a : Nat) : Prop :=
  ∀ p ∈ fs, inEntry p.1 a = false ∧ ∀ q ∈ p.2.pieces, inPiece q a = false

theorem keepsByte_storedAt {ctx a : Nat} (s : State) (w : Nat) (fs : List (Loc × Found)) (v : Nat)
    (h : inDirtyRing s ctx a = false) (hfs : awayFrom fs a) : keepsByte ctx a s (storedAt s w ctx fs v) := by
  have key : ∀ (fs : List (Loc × Found)) (t : State) (n : Nat), awayFrom fs a → inDirtyRing t ctx a = false →
      keepsByte ctx a t (fs.foldl (fun (acc : State × Nat) p =>
        (storeLoc acc.1 (some (0, w)) ctx p.1 p.2.pieces (bits v acc.2 p.1.n), acc.2 + p.1.n)) (t, n)).1 := by
    intro fs
    induction fs with
    | nil => exact fun t n _ _ => keepsByte_refl ctx a t
    | cons p fs ih =>
      intro t n haway ht
      obtain ⟨hentry, hpieces⟩ := haway p (by simp)
      have hp := keepsByte_storeLoc t (some (0, w)) p.1 p.2.pieces (bits v n p.1.n) ht hentry hpieces
      exact keepsByte_trans hp (ih _ _ (fun q hq => haway q (by simp [hq])) (hp.2.trans ht))
  exact key fs s 0 hfs h

theorem keepsByte_storedLanes {a : Nat} (s : State) (c : Cur) (mo : MemOp) (d : Opnd) (k : Nat) (n : Option Nat)
    (m : Mask) (h : inDirtyRing s (envOf s c).cr.ctx a = false)
    (hfs : ∀ l ∈ lanesOf m, ∀ fs, located s c mo n ⟨some .w, true, n.isSome⟩ false true l = some fs → awayFrom fs a) :
    keepsByte (envOf s c).cr.ctx a s (storedLanes s c mo d k n m) := by
  unfold storedLanes
  refine keepsByte_foldl _ _ (fun l hl t ht => ?_) s h
  split
  case h_1 fs hloc => exact keepsByte_storedAt t _ _ _ ht (hfs l hl fs hloc)
  case h_2 => exact keepsByte_refl _ _ _

/-- Settles O27: what a store writes is its pieces, its entries and a place of the dirty log. -/
theorem storeFrame : Obligations.StoreFrame := by
  unfold Obligations.StoreFrame
  intro i g mo d k n hi s t c a m hp hr ho hfs hring hrun
  have hhere : lanesHere s c mo n ⟨some .w, true, n.isSome⟩ false true m := fun l hl => by
    obtain ⟨fs, hloc, hall, -⟩ := hfs l hl
    exact ⟨fs, hloc, hall⟩
  rw [exec_storeShape i g mo d k n s hi, storeOp_lanesHere s c g mo d k n hp hr ho hhere] at hrun
  obtain rfl := Host.Outcome.next.inj hrun
  refine (keepsByte_storedLanes s c mo d k n m hring (fun l hl fs hloc => ?_)).1
  obtain ⟨fs', hloc', -, haway⟩ := hfs l hl
  obtain rfl : fs = fs' := Option.some.inj (hloc.symm.trans hloc')
  exact haway

end Sys2Proof.Machine

/-! ## One-word results (R12, R30, R147) -/

namespace Sys2Proof.Machine

/-! ### An instruction that ends by giving D its result -/

/-- Where its sources can be read, the instruction ends as the write of its result to D does. -/
def finishesWith (i : Instr) (r : Result) : Prop :=
  ∀ (s : State) (c : Cur) (s1 : State) (v : Nat → List Nat) (t : State),
    issuing s c = true → regsOk ((r.d, r.k) :: r.srcs) (envOf s c) = true →
    readSrcs s (envOf s c) (takers s c r.h.g) r.srcs (some r.d) (!r.h.w) = .ok (s1, v) →
    finish s1 (envOf s c) r.h r.d (takers s c r.h.g) r.k (r.val s (envOf s c) (takers s c r.h.g) v) = .ok t →
    exec i s = .next t

theorem pushChan_congr (s : State) (e : Env) (n : Nat) (m : Mask) (f g : Nat → Nat)
    (h : ∀ l, l < 32 → m.getLsbD l = true → f l = g l) : pushChan s e n m f = pushChan s e n m g := by
  have hentry : tab (fun l => if m.getLsbD l then BitVec.ofNat 32 (f l) else 0) =
      tab (fun l => if m.getLsbD l then BitVec.ofNat 32 (g l) else 0) := by
    unfold tab
    refine List.map_congr_left (fun l hl => ?_)
    split
    case isTrue hm => rw [h l (List.mem_range.1 hl) hm]
    case isFalse => rfl
  unfold pushChan
  simp only [hentry]

/-- A result counts only in the lanes that take part. -/
theorem finish_congr (s : State) (e : Env) (h : Hdr) (d : Opnd) (m : Mask) (k : Nat) (f g : Nat → Nat)
    (hfg : ∀ l, l < 32 → m.getLsbD l = true → f l = g l) : finish s e h d m k f = finish s e h d m k g := by
  unfold finish
  rw [writeDest_congr _ ⟨h, d, m⟩ k f g hfg]
  cases d with
  | q n => simp only [pushChan_congr _ _ _ m f g hfg]
  | v _ => rfl
  | s _ => rfl
  | b _ => rfl
  | z => rfl
  | lid => rfl

/-- An instruction that computes lane by lane. -/
theorem finishesWith_laneOp {i : Instr} {h : Hdr} {d : Opnd} {k : Nat} {srcs : List Src} {f : List Nat → Nat}
    {val : State → Env → Mask → (Nat → List Nat) → Nat → Nat} (hx : ∀ s, exec i s = laneOp s h d k srcs f)
    (hv : ∀ s e m (v : Nat → List Nat) l, f (v l) = val s e m v l) : finishesWith i ⟨h, d, k, srcs, val⟩ := by
  intro s c s1 v t hi hr hs hf
  rw [hx]
  refine runInstr_ok s t c _ _ _ _ _ hi hr rfl ?_
  simp only
  rw [show readSrcs s (envOf s c) (taking (envOf s c) h.g) srcs (some d) (!h.w) = .ok (s1, v) from hs]
  have hfun : (fun l => f (v l)) = val s (envOf s c) (takers s c h.g) v :=
    funext (fun l => hv s (envOf s c) (takers s c h.g) v l)
  simp only [hfun]
  exact hf

theorem arg32_toNat (v : Nat → List Nat) (j l : Nat) : (arg32 (v l) j).toNat = w32 v j l := BitVec.toNat_ofNat _ _
theorem arg64_toNat (v : Nat → List Nat) (j l : Nat) : (arg64 (v l) j).toNat = w64 v j l := BitVec.toNat_ofNat _ _

/-- A word from one word. -/
theorem finishesWith_op1 {i : Instr} {h : Hdr} {d a : Opnd} {f : Word → Word} {g : Nat → Nat} {r : Result}
    (hr : res1 h d 1 (a, 1) g = some r) (hv : ∀ x, (f x).toNat = g x.toNat) (hx : ∀ s, exec i s = op1 s h d a f) :
    finishesWith i r := by
  obtain rfl := Option.some.inj hr
  refine finishesWith_laneOp hx (fun s e m v l => ?_)
  rw [hv, arg32_toNat]
  rfl

/-- A word from two words. -/
theorem finishesWith_op2 {i : Instr} {h : Hdr} {d a b : Opnd} {f : Word → Word → Word} {g : Nat → Nat → Nat}
    {r : Result} (hr : res2 h d 1 (a, 1) (b, 1) g = some r) (hv : ∀ x y, (f x y).toNat = g x.toNat y.toNat)
    (hx : ∀ s, exec i s = op2 s h d a b f) : finishesWith i r := by
  obtain rfl := Option.some.inj hr
  refine finishesWith_laneOp hx (fun s e m v l => ?_)
  rw [hv, arg32_toNat, arg32_toNat]
  rfl

/-- A word from three words. -/
theorem finishesWith_op3 {i : Instr} {h : Hdr} {d a b c : Opnd} {f : Word → Word → Word → Word}
    {g : Nat → Nat → Nat → Nat} {r : Result} (hr : res3 h d a b c g = some r)
    (hv : ∀ x y z, (f x y z).toNat = g x.toNat y.toNat z.toNat) (hx : ∀ s, exec i s = op3 s h d a b c f) :
    finishesWith i r := by
  obtain rfl := Option.some.inj hr
  refine finishesWith_laneOp hx (fun s e m v l => ?_)
  rw [hv, arg32_toNat, arg32_toNat, arg32_toNat]

/-- A 64-bit value from two of them. -/
theorem finishesWith_op64 {i : Instr} {h : Hdr} {d a b : Opnd} {f : DWord → DWord → DWord} {g : Nat → Nat → Nat}
    {r : Result} (hr : res2 h d 2 (a, 2) (b, 2) g = some r) (hv : ∀ x y, (f x y).toNat = g x.toNat y.toNat)
    (hx : ∀ s, exec i s = op64 s h d a b f) : finishesWith i r := by
  obtain rfl := Option.some.inj hr
  refine finishesWith_laneOp hx (fun s e m v l => ?_)
  rw [hv, arg64_toNat, arg64_toNat]
  rfl

/-- A 64-bit value from one of them and a shift amount. -/
theorem finishesWith_opSh64 {i : Instr} {h : Hdr} {d a b : Opnd} {f : DWord → Nat → DWord} {g : Nat → Nat → Nat}
    {r : Result} (hr : res2 h d 2 (a, 2) (b, 1) g = some r) (hv : ∀ x y, (f x (bits y 0 6)).toNat = g x.toNat y)
    (hx : ∀ s, exec i s = opSh64 s h d a b f) : finishesWith i r := by
  obtain rfl := Option.some.inj hr
  refine finishesWith_laneOp hx (fun s e m v l => ?_)
  rw [hv, arg64_toNat, arg32_toNat]
  rfl

end Sys2Proof.Machine

/-! ### Machine words as numbers (R86 to R96) -/

namespace Sys2Proof.Machine

/-! #### Two's complement -/

theorem toNat_ofInt_eq_intBits (n : Nat) (i : Int) : (BitVec.ofInt n i).toNat = intBits n i := BitVec.toNat_ofInt i

theorem sx_mod_two_pow (n x : Nat) : sx n (x % 2 ^ n) = sx n x := by
  unfold sx
  rw [Nat.mod_mod]

/-- The low bits of a two's complement value are the number it was read from. -/
theorem intBits_sx (n x : Nat) : intBits n (sx n x) = x % 2 ^ n := by
  have hlt : x % 2 ^ n < 2 ^ n := Nat.mod_lt _ (Nat.two_pow_pos n)
  unfold intBits sx
  generalize x % 2 ^ n = y at hlt ⊢
  simp only
  split
  · rw [Int.emod_eq_of_lt (by omega) (by exact_mod_cast hlt)]
    exact Int.toNat_natCast y
  · rw [Int.sub_emod_right, Int.emod_eq_of_lt (by omega) (by exact_mod_cast hlt)]
    exact Int.toNat_natCast y

theorem intBits_sxv {n : Nat} (x : BitVec n) : intBits n (sxv x) = x.toNat := by
  rw [sxv, intBits_sx, Nat.mod_eq_of_lt x.isLt]

theorem sx32_eq_zero (x : Word) : sxv x = 0 ↔ x.toNat = 0 := by
  have := x.isLt
  unfold sxv sx
  rw [Nat.mod_eq_of_lt x.isLt]
  simp only
  split <;> omega

theorem toNat_sub_eq_intBits (n : Nat) (x y : BitVec n) : (x - y).toNat = intBits n ((x.toNat : Int) - y.toNat) := by
  have hy := y.isLt
  have hcast : ((2 ^ n - y.toNat + x.toNat : Nat) : Int) = (x.toNat : Int) - y.toNat + (2 ^ n : Nat) := by omega
  rw [BitVec.toNat_sub, intBits, ← Int.add_emod_right, ← hcast, ← Int.natCast_emod, Int.toNat_natCast]

theorem toNat_minS {n : Nat} (x y : BitVec n) : (minS x y).toNat = intBits n (min (sx n x.toNat) (sx n y.toNat)) := by
  change _ = intBits n (min (sxv x) (sxv y))
  unfold minS
  split
  case isTrue h => rw [min_eq_right (le_of_lt h)]; exact (intBits_sxv y).symm
  case isFalse h => rw [min_eq_left (not_lt.1 h)]; exact (intBits_sxv x).symm

theorem toNat_maxS {n : Nat} (x y : BitVec n) : (maxS x y).toNat = intBits n (max (sx n x.toNat) (sx n y.toNat)) := by
  change _ = intBits n (max (sxv x) (sxv y))
  unfold maxS
  split
  case isTrue h => rw [max_eq_right (le_of_lt h)]; exact (intBits_sxv y).symm
  case isFalse h => rw [max_eq_left (not_lt.1 h)]; exact (intBits_sxv x).symm

theorem toNat_minU {n : Nat} (x y : BitVec n) : (minU x y).toNat = min x.toNat y.toNat := by
  unfold minU
  split <;> omega

theorem toNat_maxU {n : Nat} (x y : BitVec n) : (maxU x y).toNat = max x.toNat y.toNat := by
  unfold maxU
  split <;> omega

theorem toNat_absW (x : Word) : (absW x).toNat = intBits 32 |sx 32 x.toNat| := by
  rw [absW, toNat_ofInt_eq_intBits, Int.natCast_natAbs]
  rfl

theorem toNat_clamp32 (i : Int) : (clamp32 i).toNat = intBits 32 (max (-2 ^ 31) (min (2 ^ 31 - 1) i)) :=
  toNat_ofInt_eq_intBits 32 _

theorem toNat_divS_fst (x y : Word) : (divS x y).1.toNat =
    if y.toNat = 0 then 2 ^ 32 - 1 else intBits 32 ((sx 32 x.toNat).tdiv (sx 32 y.toNat)) := by
  unfold divS
  simp only [sx32_eq_zero]
  by_cases hy : y.toNat = 0
  · simp only [hy, if_true]
    rfl
  · simp only [hy, if_false]
    split
    case isTrue h =>
      obtain ⟨h1, h2⟩ := h
      rw [show sx 32 x.toNat = -2147483648 from h1, show sx 32 y.toNat = -1 from h2]
      rfl
    case isFalse => exact toNat_ofInt_eq_intBits 32 _

theorem toNat_divS_snd (x y : Word) : (divS x y).2.toNat =
    if y.toNat = 0 then x.toNat else intBits 32 ((sx 32 x.toNat).tmod (sx 32 y.toNat)) := by
  unfold divS
  simp only [sx32_eq_zero]
  by_cases hy : y.toNat = 0
  · simp only [hy, if_true]
  · simp only [hy, if_false]
    split
    case isTrue h =>
      obtain ⟨h1, h2⟩ := h
      rw [show sx 32 x.toNat = -2147483648 from h1, show sx 32 y.toNat = -1 from h2]
      rfl
    case isFalse =>
      rw [toNat_ofInt_eq_intBits, Int.tmod_def, Int.mul_comm]
      rfl

theorem toNat_divU_fst (x y : Word) : (divU x y).1.toNat = if y.toNat = 0 then 2 ^ 32 - 1 else x.toNat / y.toNat := by
  unfold divU
  split
  · rfl
  · rw [BitVec.toNat_ofNat, Nat.mod_eq_of_lt (lt_of_le_of_lt (Nat.div_le_self _ _) x.isLt)]

theorem toNat_divU_snd (x y : Word) : (divU x y).2.toNat = if y.toNat = 0 then x.toNat else x.toNat % y.toNat := by
  unfold divU
  split
  · rfl
  · rw [BitVec.toNat_ofNat, Nat.mod_eq_of_lt (lt_of_le_of_lt (Nat.mod_le _ _) x.isLt)]

theorem toNat_mulhu (x y : Word) :
    (BitVec.ofNat 32 (bits (x.toNat * y.toNat) 32 32)).toNat = x.toNat * y.toNat / 2 ^ 32 := by
  have hlt : x.toNat * y.toNat < 2 ^ 32 * 2 ^ 32 := Nat.mul_lt_mul'' x.isLt y.isLt
  rw [BitVec.toNat_ofNat, bits, Nat.mod_mod, Nat.shiftRight_eq_div_pow,
    Nat.mod_eq_of_lt (Nat.div_lt_of_lt_mul hlt)]

/-! #### Words bit by bit -/

theorem bitOf_eq_testBit (x k : Nat) : bitOf x k = (x.testBit k).toNat := (Nat.toNat_testBit x k).symm

theorem bitOf_toNat {n : Nat} (x : BitVec n) (k : Nat) : bitOf x.toNat k = (x.getLsbD k).toNat := by
  rw [bitOf_eq_testBit, BitVec.testBit_toNat]

/-- Bit k of the number with given bits. -/
theorem testBit_ofBits (f : Nat → Nat) (k : Nat) :
    (ofBits f).testBit k = (decide (k < 32) && decide (f k % 2 = 1)) := by
  have hsum : ofBits f = (List.range 32).foldl (fun acc l => acc + (if decide (f l % 2 = 1) then 2 ^ l else 0)) 0 := by
    unfold ofBits
    rw [List.sum_eq_foldl, List.foldl_map]
    refine List.foldl_ext _ _ _ (fun acc l _ => ?_)
    rcases Nat.mod_two_eq_zero_or_one (f l) with h | h <;> simp [h]
  rw [hsum]
  exact (maskSum_testBit (fun l => decide (f l % 2 = 1)) 32).2 k

/-- A word is the number with its bits. -/
theorem toNat_eq_ofBits (x : Word) (f : Nat → Nat) (h : ∀ k, k < 32 → f k % 2 = (x.getLsbD k).toNat) :
    x.toNat = ofBits f := by
  refine Nat.eq_of_testBit_eq (fun k => ?_)
  rw [testBit_ofBits, BitVec.testBit_toNat]
  by_cases hk : k < 32
  · rw [h k hk]
    cases x.getLsbD k <;> simp [hk]
  · simp [hk, BitVec.getLsbD_of_ge x k (by omega)]

theorem toNat_and_eq_ofBits (x y : Word) : (x &&& y).toNat = ofBits (fun k => bitOf x.toNat k * bitOf y.toNat k) :=
  toNat_eq_ofBits _ _ (fun k _ => by
    simp only [bitOf_toNat, BitVec.getLsbD_and]
    cases x.getLsbD k <;> cases y.getLsbD k <;> rfl)

theorem toNat_or_eq_ofBits (x y : Word) : (x ||| y).toNat = ofBits (fun k => max (bitOf x.toNat k) (bitOf y.toNat k)) :=
  toNat_eq_ofBits _ _ (fun k _ => by
    simp only [bitOf_toNat, BitVec.getLsbD_or]
    cases x.getLsbD k <;> cases y.getLsbD k <;> rfl)

theorem toNat_xor_eq_ofBits (x y : Word) : (x ^^^ y).toNat = ofBits (fun k => bitOf x.toNat k + bitOf y.toNat k) :=
  toNat_eq_ofBits _ _ (fun k _ => by
    simp only [bitOf_toNat, BitVec.getLsbD_xor]
    cases x.getLsbD k <;> cases y.getLsbD k <;> rfl)

theorem toNat_andn_eq_ofBits (x y : Word) :
    (x &&& ~~~y).toNat = ofBits (fun k => bitOf x.toNat k * (1 - bitOf y.toNat k)) :=
  toNat_eq_ofBits _ _ (fun k hk => by
    simp only [bitOf_toNat, BitVec.getLsbD_and, BitVec.getLsbD_not, hk, decide_true, Bool.true_and]
    cases x.getLsbD k <;> cases y.getLsbD k <;> rfl)

theorem toNat_orn_eq_ofBits (x y : Word) :
    (x ||| ~~~y).toNat = ofBits (fun k => max (bitOf x.toNat k) (1 - bitOf y.toNat k)) :=
  toNat_eq_ofBits _ _ (fun k hk => by
    simp only [bitOf_toNat, BitVec.getLsbD_or, BitVec.getLsbD_not, hk, decide_true, Bool.true_and]
    cases x.getLsbD k <;> cases y.getLsbD k <;> rfl)

theorem toNat_not_word (x : Word) : (~~~x).toNat = 2 ^ 32 - 1 - x.toNat := BitVec.toNat_not

/-- The mask that a predicate gives, as the number with its bits. -/
theorem toNat_maskOf (g : Nat → Bool) (f : Nat → Nat) (h : ∀ k, k < 32 → f k % 2 = (g k).toNat) :
    (maskOf g).toNat = ofBits f :=
  toNat_eq_ofBits _ _ (fun k hk => by rw [h k hk, maskOf_getLsbD, decide_eq_true hk, Bool.true_and])

theorem toNat_ltabW (tt : BitVec 8) (x y z : Word) : (ltabW tt x y z).toNat =
    ofBits (fun k => bitOf tt.toNat (bitOf x.toNat k + 2 * bitOf y.toNat k + 4 * bitOf z.toNat k)) :=
  toNat_maskOf _ _ (fun k _ => by
    simp only [bitOf_toNat]
    cases tt.getLsbD _ <;> rfl)

theorem toNat_brevW (x : Word) : (brevW x).toNat = ofBits (fun k => bitOf x.toNat (31 - k)) :=
  toNat_maskOf _ _ (fun k _ => by
    rw [bitOf_toNat]
    cases x.getLsbD _ <;> rfl)

/-! #### Shifts and rotations (R93, R96) -/

theorem toNat_shl {n : Nat} (x : BitVec n) (k : Nat) : (x <<< k).toNat = x.toNat * 2 ^ k % 2 ^ n := by
  rw [BitVec.toNat_shiftLeft, Nat.shiftLeft_eq]

theorem toNat_shr {n : Nat} (x : BitVec n) (k : Nat) : (x >>> k).toNat = x.toNat / 2 ^ k := by
  rw [BitVec.toNat_ushiftRight, Nat.shiftRight_eq_div_pow]

theorem toNat_sar {n : Nat} (x : BitVec n) (k : Nat) :
    (BitVec.ofInt n (sxv x / (2 ^ k : Nat))).toNat = intBits n (sx n x.toNat / 2 ^ k) := by
  rw [toNat_ofInt_eq_intBits, Nat.cast_pow]
  rfl

/-- A rotation puts the bits that leave at the top below the others. -/
theorem toNat_rotlW (x : Word) (n : Nat) (hn : n ≤ 32) :
    (rotlW x n).toNat = x.toNat * 2 ^ n % 2 ^ 32 + x.toNat / 2 ^ (32 - n) := by
  have hpow : 2 ^ 32 = 2 ^ (32 - n) * 2 ^ n := by rw [← pow_add]; congr 1; omega
  have hlow : x.toNat / 2 ^ (32 - n) < 2 ^ n := Nat.div_lt_of_lt_mul (hpow ▸ x.isLt)
  have hhigh : x.toNat * 2 ^ n % 2 ^ 32 = (x.toNat % 2 ^ (32 - n)) <<< n := by
    rw [hpow, Nat.mul_mod_mul_right, Nat.shiftLeft_eq]
  rw [rotlW, BitVec.toNat_or, toNat_shl, toNat_shr, hhigh, ← Nat.shiftLeft_add_eq_or_of_lt hlow]

theorem toNat_rotr (x : Word) (k : Nat) (hk : k ≤ 32) :
    (rotlW x (32 - k)).toNat = x.toNat / 2 ^ k + x.toNat * 2 ^ (32 - k) % 2 ^ 32 := by
  rw [toNat_rotlW x _ (by omega), Nat.add_comm, Nat.sub_sub_self hk]

end Sys2Proof.Machine

/-! ### Counts, fields and bytes (R94, R95, R96) -/

namespace Sys2Proof.Machine

/-! #### Counts (R94) -/

theorem toNat_popcW (x : Word) :
    (popcW x).toNat = ((List.range 32).filter (fun k => bitOf x.toNat k = 1)).length := by
  have hfilter : lanesOf x = (List.range 32).filter (fun k => bitOf x.toNat k = 1) := by
    unfold lanesOf
    refine List.filter_congr (fun k _ => ?_)
    rw [bitOf_toNat]
    cases x.getLsbD k <;> rfl
  have hlen : ((List.range 32).filter (fun k => bitOf x.toNat k = 1)).length ≤ 32 :=
    (List.length_filter_le _ _).trans (by simp)
  rw [popcW, hfilter, BitVec.toNat_ofNat, Nat.mod_eq_of_lt (by omega)]

/-- The first place of a range at which a predicate fails. -/
theorem takeWhile_range_length (p : Nat → Bool) (n j : Nat) (hj : j < n) (hbelow : ∀ k, k < j → p k = true)
    (hat : p j = false) : ((List.range n).takeWhile p).length = j := by
  obtain ⟨d, rfl⟩ : ∃ d, n = j + (d + 1) := ⟨n - j - 1, by omega⟩
  rw [List.range_add, List.takeWhile_append_of_pos (fun k hk => hbelow k (List.mem_range.1 hk)), List.range_succ_eq_map,
    List.map_cons, Nat.add_zero, List.takeWhile_cons, hat]
  simp

/-- The length before the first place at which a predicate holds. -/
theorem takeWhile_range'_length (q : Nat → Bool) (s n : Nat) :
    s + ((List.range' s n).takeWhile (fun k => !q k)).length = ((List.range' s n).find? q).getD (s + n) := by
  induction n generalizing s with
  | zero => rfl
  | succ n ih =>
    rw [List.range'_succ, List.takeWhile_cons, List.find?_cons]
    cases hq : q s with
    | true => simp
    | false =>
      have := ih (s + 1)
      simp only [Bool.not_false, if_true, List.length_cons]
      rw [show s + (n + 1) = s + 1 + n by omega, ← this]
      omega

theorem toNat_ctzW (x : Word) :
    (ctzW x).toNat = ((List.range 32).find? (fun k => bitOf x.toNat k = 1)).getD 32 := by
  have hq : (fun k => decide (bitOf x.toNat k = 1)) = x.getLsbD := by
    funext k
    rw [bitOf_toNat]
    cases x.getLsbD k <;> rfl
  have hlen := takeWhile_range'_length x.getLsbD 0 32
  rw [← List.range_eq_range', Nat.zero_add, Nat.zero_add] at hlen
  have hle : ((List.range 32).takeWhile (fun k => !x.getLsbD k)).length ≤ 32 :=
    (List.takeWhile_prefix _).length_le.trans (by simp)
  rw [hq, ← hlen, ctzW, BitVec.toNat_ofNat, Nat.mod_eq_of_lt (by omega)]

theorem toNat_clzW (x : Word) : (clzW x).toNat = if x.toNat = 0 then 32 else 31 - Nat.log2 x.toNat := by
  split
  case isTrue h =>
    obtain rfl : x = 0 := BitVec.eq_of_toNat_eq h
    rfl
  case isFalse h =>
    have hlog : Nat.log2 x.toNat < 32 := (Nat.log2_lt h).2 x.isLt
    have hlen : ((List.range 32).takeWhile (fun k => !x.getLsbD (31 - k))).length = 31 - Nat.log2 x.toNat := by
      refine takeWhile_range_length _ 32 _ (by omega) (fun k hk => ?_) ?_
      · rw [← BitVec.testBit_toNat, Nat.testBit_lt_two_pow]
        · rfl
        · exact (Nat.log2_lt h).1 (by omega)
      · rw [← BitVec.testBit_toNat, Nat.sub_sub_self (by omega), Nat.testBit_log2 h]
        rfl
    rw [clzW, hlen, BitVec.toNat_ofNat, Nat.mod_eq_of_lt (by omega)]

/-! #### Bit fields (R95) -/

theorem bits_eq_div_mod (x lo n : Nat) : bits x lo n = x / 2 ^ lo % 2 ^ n := by
  rw [bits, Nat.shiftRight_eq_div_pow]

theorem fieldOf_fst (y : Word) : (fieldOf y).1 = fieldPos y.toNat := by
  rw [fieldOf, bits_eq_div_mod, pow_zero, Nat.div_one]
  rfl

theorem fieldOf_snd (y : Word) : (fieldOf y).2 = fieldLen y.toNat := by
  simp only [fieldOf, bits_eq_div_mod, pow_zero, Nat.div_one, fieldLen, fieldPos]
  rfl

theorem toNat_bfeW (x y : Word) : (bfeW x y).toNat = x.toNat / 2 ^ fieldPos y.toNat % 2 ^ fieldLen y.toNat := by
  rw [bfeW, fieldOf_fst, fieldOf_snd, bits_eq_div_mod, BitVec.toNat_ofNat, Nat.mod_eq_of_lt]
  exact lt_of_le_of_lt ((Nat.mod_le _ _).trans (Nat.div_le_self _ _)) x.isLt

theorem toNat_bfesW (x y : Word) : (bfesW x y).toNat =
    if fieldLen y.toNat = 0 then 0
    else intBits 32 (sx (fieldLen y.toNat) (x.toNat / 2 ^ fieldPos y.toNat)) := by
  rw [bfesW, fieldOf_fst, fieldOf_snd]
  split
  · rfl
  · rw [toNat_ofInt_eq_intBits, bits_eq_div_mod, sx_mod_two_pow]

/-- A field that is set: its bits from the new value, the others from the old one. -/
theorem testBit_setBits (old lo n x k : Nat) : (setBits old lo n x).testBit k =
    if lo ≤ k ∧ k < lo + n then x.testBit (k - lo) else old.testBit k := by
  have hold : old % 2 ^ lo < 2 ^ lo := Nat.mod_lt _ (Nat.two_pow_pos lo)
  have hx : x % 2 ^ n < 2 ^ n := Nat.mod_lt _ (Nat.two_pow_pos n)
  have hshape : setBits old lo n x = 2 ^ lo * (2 ^ n * (old / 2 ^ (lo + n)) + x % 2 ^ n) + old % 2 ^ lo := by
    rw [setBits, pow_add]
    ring
  rw [hshape, Nat.testBit_two_pow_mul_add _ hold, Nat.testBit_two_pow_mul_add _ hx, Nat.testBit_mod_two_pow,
    Nat.testBit_mod_two_pow, Nat.testBit_div_two_pow]
  by_cases h1 : k < lo
  · simp [h1]
  · by_cases h2 : k - lo < n
    · have : lo ≤ k ∧ k < lo + n := by omega
      simp [h1, h2, this]
    · have : ¬ (lo ≤ k ∧ k < lo + n) := by omega
      simp only [h1, h2, this, if_false]
      congr 1
      omega

theorem toNat_bfiW (x y z : Word) : (bfiW x y z).toNat =
    if fieldLen y.toNat = 0 then z.toNat
    else ofBits (fun k => if fieldPos y.toNat ≤ k ∧ k < fieldPos y.toNat + fieldLen y.toNat
      then bitOf x.toNat (k - fieldPos y.toNat) else bitOf z.toNat k) := by
  have hbit : ∀ k, k < 32 → (bfiW x y z).getLsbD k =
      if fieldPos y.toNat ≤ k ∧ k < fieldPos y.toNat + fieldLen y.toNat
        then x.getLsbD (k - fieldPos y.toNat) else z.getLsbD k := by
    intro k hk
    rw [bfiW, fieldOf_fst, fieldOf_snd, BitVec.getLsbD_ofNat, testBit_setBits, decide_eq_true hk, Bool.true_and,
      BitVec.testBit_toNat, BitVec.testBit_toNat]
  split
  case isTrue h =>
    congr 1
    refine BitVec.eq_of_getLsbD_eq (fun k hk => ?_)
    rw [hbit k hk, if_neg (by omega)]
  case isFalse =>
    refine toNat_eq_ofBits _ _ (fun k hk => ?_)
    rw [hbit k hk]
    split <;> rw [bitOf_toNat] <;> cases BitVec.getLsbD _ _ <;> rfl

/-! #### Bytes (R95) -/

theorem bgatByte_eq (x y : Word) (z k : Nat) : bgatByte x y (bits z (8 * k) 8) = gatherByte x.toNat y.toNat z k := by
  simp only [bgatByte, gatherByte, bits_eq_div_mod, pow_zero, Nat.div_one]
  rfl

theorem gatherByte_lt (x y z k : Nat) : gatherByte x y z k < 256 := by
  unfold gatherByte
  simp only
  split
  · exact Nat.mod_lt _ (by omega)
  · split <;> omega
  · omega
  · omega

theorem toNat_bgatW (x y z : Word) : (bgatW x y z).toNat =
    gatherByte x.toNat y.toNat z.toNat 0 + 2 ^ 8 * gatherByte x.toNat y.toNat z.toNat 1 +
      2 ^ 16 * gatherByte x.toNat y.toNat z.toNat 2 + 2 ^ 24 * gatherByte x.toNat y.toNat z.toNat 3 := by
  have h0 := gatherByte_lt x.toNat y.toNat z.toNat 0
  have h1 := gatherByte_lt x.toNat y.toNat z.toNat 1
  have h2 := gatherByte_lt x.toNat y.toNat z.toNat 2
  have h3 := gatherByte_lt x.toNat y.toNat z.toNat 3
  rw [bgatW, show bgatByte x y (bits z.toNat 0 8) = _ from bgatByte_eq x y z.toNat 0,
    show bgatByte x y (bits z.toNat 8 8) = _ from bgatByte_eq x y z.toNat 1,
    show bgatByte x y (bits z.toNat 16 8) = _ from bgatByte_eq x y z.toNat 2,
    show bgatByte x y (bits z.toNat 24 8) = _ from bgatByte_eq x y z.toNat 3, BitVec.toNat_ofNat,
    Nat.mod_eq_of_lt (by omega)]

theorem toNat_paddW (x y : DWord) :
    (paddW x y).toNat = x.toNat / 2 ^ 42 * 2 ^ 42 + (x.toNat + y.toNat) % 2 ^ 42 := by
  have hx := x.isLt
  rw [paddW, bits_eq_div_mod, bits_eq_div_mod, BitVec.toNat_ofNat]
  omega

/-! #### Reductions (R156) -/

/-- A list of words combined from its first on; 0 for none. -/
def combined (f : Word → Word → Word) (xs : List Word) : Word :=
  match xs with
  | [] => 0
  | x :: ys => ys.foldl f x

theorem toNat_combined_add (xs : List Word) :
    (combined (fun x y => x + y) xs).toNat = (xs.map BitVec.toNat).sum % 2 ^ 32 := by
  have key : ∀ (ys : List Word) (x : Word),
      (ys.foldl (fun x y => x + y) x).toNat = (x.toNat + (ys.map BitVec.toNat).sum) % 2 ^ 32 := by
    intro ys
    induction ys with
    | nil => exact fun x => (Nat.mod_eq_of_lt x.isLt).symm
    | cons y ys ih =>
      intro x
      rw [List.foldl_cons, ih, BitVec.toNat_add, Nat.mod_add_mod, List.map_cons, List.sum_cons, Nat.add_assoc]
  cases xs with
  | nil => rfl
  | cons x ys => exact key ys x

/-- A combination that some reading of words turns into a choice between numbers. -/
theorem foldl_map_comm {α : Type} (f : Word → Word → Word) (g : α → α → α) (p : Word → α)
    (h : ∀ x y, p (f x y) = g (p x) (p y)) (ys : List Word) (x : Word) :
    p (ys.foldl f x) = (ys.map p).foldl g (p x) := by
  induction ys generalizing x with
  | nil => rfl
  | cons y ys ih => rw [List.foldl_cons, ih, h, List.map_cons, List.foldl_cons]

theorem sxv_minS (x y : Word) : sxv (minS x y) = min (sxv x) (sxv y) := by
  unfold minS
  split <;> omega

theorem sxv_maxS (x y : Word) : sxv (maxS x y) = max (sxv x) (sxv y) := by
  unfold maxS
  split <;> omega

theorem toNat_combined_minS (xs : List Word) :
    (combined minS xs).toNat = intBits 32 (((xs.map sxv).min?).getD 0) := by
  cases xs with
  | nil => rfl
  | cons x ys =>
    rw [List.map_cons, List.min?_cons', Option.getD_some, ← foldl_map_comm minS min sxv sxv_minS, intBits_sxv]
    rfl

theorem toNat_combined_maxS (xs : List Word) :
    (combined maxS xs).toNat = intBits 32 (((xs.map sxv).max?).getD 0) := by
  cases xs with
  | nil => rfl
  | cons x ys =>
    rw [List.map_cons, List.max?_cons', Option.getD_some, ← foldl_map_comm maxS max sxv sxv_maxS, intBits_sxv]
    rfl

theorem toNat_combined_minU (xs : List Word) : (combined minU xs).toNat = ((xs.map BitVec.toNat).min?).getD 0 := by
  cases xs with
  | nil => rfl
  | cons x ys =>
    rw [List.map_cons, List.min?_cons', Option.getD_some, ← foldl_map_comm minU min BitVec.toNat toNat_minU]
    rfl

theorem toNat_combined_maxU (xs : List Word) : (combined maxU xs).toNat = ((xs.map BitVec.toNat).max?).getD 0 := by
  cases xs with
  | nil => rfl
  | cons x ys =>
    rw [List.map_cons, List.max?_cons', Option.getD_some, ← foldl_map_comm maxU max BitVec.toNat toNat_maxU]
    rfl

theorem bitOf_eq_one_iff (x : Word) (k : Nat) : (bitOf x.toNat k = 1) ↔ x.getLsbD k = true := by
  rw [bitOf_toNat]
  cases x.getLsbD k <;> simp

theorem getLsbD_foldl_and (k : Nat) (ys : List Word) (x : Word) :
    (ys.foldl (fun x y => x &&& y) x).getLsbD k = (x :: ys).all (fun y => y.getLsbD k) := by
  induction ys generalizing x with
  | nil => simp
  | cons y ys ih =>
    rw [List.foldl_cons, ih, List.all_cons, BitVec.getLsbD_and, List.all_cons, List.all_cons, Bool.and_assoc]

theorem getLsbD_foldl_or (k : Nat) (ys : List Word) (x : Word) :
    (ys.foldl (fun x y => x ||| y) x).getLsbD k = (x :: ys).any (fun y => y.getLsbD k) := by
  induction ys generalizing x with
  | nil => simp
  | cons y ys ih =>
    rw [List.foldl_cons, ih, List.any_cons, BitVec.getLsbD_or, List.any_cons, List.any_cons, Bool.or_assoc]

theorem getLsbD_foldl_xor (k : Nat) (ys : List Word) (x : Word) :
    ((ys.foldl (fun x y => x ^^^ y) x).getLsbD k).toNat =
      (((x :: ys).map BitVec.toNat).map (fun y => bitOf y k)).sum % 2 := by
  induction ys generalizing x with
  | nil =>
    simp only [List.foldl_nil, List.map_cons, List.map_nil, List.sum_cons, List.sum_nil, bitOf_toNat]
    cases x.getLsbD k <;> rfl
  | cons y ys ih =>
    rw [List.foldl_cons, ih]
    simp only [List.map_cons, List.sum_cons, bitOf_toNat, BitVec.getLsbD_xor]
    cases x.getLsbD k <;> cases y.getLsbD k <;> simp only [Bool.toNat_true, Bool.toNat_false, Bool.xor_true,
      Bool.xor_false, Bool.not_true, Bool.not_false] <;> omega

theorem toNat_combined_and (xs : List Word) : (combined (fun x y => x &&& y) xs).toNat =
    if xs.map BitVec.toNat = [] then 0
    else ofBits (fun k => if (xs.map BitVec.toNat).all (fun x => bitOf x k = 1) then 1 else 0) := by
  cases xs with
  | nil => rfl
  | cons x ys =>
    rw [if_neg (by simp)]
    refine toNat_eq_ofBits _ _ (fun k _ => ?_)
    rw [combined, getLsbD_foldl_and, List.all_map]
    simp only [Function.comp_def, bitOf_eq_one_iff, Bool.decide_eq_true]
    cases List.all _ _ <;> rfl

theorem toNat_combined_or (xs : List Word) : (combined (fun x y => x ||| y) xs).toNat =
    ofBits (fun k => if (xs.map BitVec.toNat).any (fun x => bitOf x k = 1) then 1 else 0) := by
  refine toNat_eq_ofBits _ _ (fun k _ => ?_)
  cases xs with
  | nil => simp [combined]
  | cons x ys =>
    rw [combined, getLsbD_foldl_or, List.any_map]
    simp only [Function.comp_def, bitOf_eq_one_iff, Bool.decide_eq_true]
    cases List.any _ _ <;> rfl

theorem toNat_combined_xor (xs : List Word) : (combined (fun x y => x ^^^ y) xs).toNat =
    ofBits (fun k => ((xs.map BitVec.toNat).map (fun x => bitOf x k)).sum) := by
  refine toNat_eq_ofBits _ _ (fun k _ => ?_)
  cases xs with
  | nil => simp [combined]
  | cons x ys => rw [combined, getLsbD_foldl_xor]

end Sys2Proof.Machine

/-! ### The tables of one-word results -/

namespace Sys2Proof.Machine

/-! #### Integer, logic, field and wide results (R89 to R100) -/

/-- Integer arithmetic ends with the results of its table (R89, R91). -/
theorem finishesWith_arithResult (i : Instr) (r : Result) (h : arithResult i = some r) : finishesWith i r := by
  unfold arithResult at h
  split at h
  · exact finishesWith_op2 h BitVec.toNat_add (fun _ => rfl)
  · exact finishesWith_op2 h (toNat_sub_eq_intBits 32) (fun _ => rfl)
  · exact finishesWith_op2 h toNat_minS (fun _ => rfl)
  · exact finishesWith_op2 h toNat_maxS (fun _ => rfl)
  · exact finishesWith_op2 h toNat_minU (fun _ => rfl)
  · exact finishesWith_op2 h toNat_maxU (fun _ => rfl)
  · exact finishesWith_op1 h toNat_absW (fun _ => rfl)
  · exact finishesWith_op1 (f := negW) h (fun _ => toNat_ofInt_eq_intBits 32 _) (fun _ => rfl)
  · exact finishesWith_op2 h (fun _ _ => toNat_clamp32 _) (fun _ => rfl)
  · exact finishesWith_op2 h (fun _ _ => toNat_clamp32 _) (fun _ => rfl)
  · exact finishesWith_op2 h BitVec.toNat_mul (fun _ => rfl)
  · exact finishesWith_op2 h (fun _ _ => toNat_ofInt_eq_intBits 32 _) (fun _ => rfl)
  · exact finishesWith_op2 h toNat_mulhu (fun _ => rfl)
  · exact finishesWith_op3 (f := fun x y z => x * y + z) h
      (fun x y z => by rw [BitVec.toNat_add, BitVec.toNat_mul, Nat.mod_add_mod]) (fun _ => rfl)
  · obtain rfl := Option.some.inj h
    refine finishesWith_laneOp (f := fun v => intBits 64 (sxv (arg32 v 0) * sxv (arg32 v 1))) (fun _ => rfl)
      (fun _ _ _ v l => ?_)
    rw [sxv, sxv, arg32_toNat, arg32_toNat]
    rfl
  · obtain rfl := Option.some.inj h
    refine finishesWith_laneOp (f := fun v => (arg32 v 0).toNat * (arg32 v 1).toNat) (fun _ => rfl)
      (fun _ _ _ v l => ?_)
    rw [arg32_toNat, arg32_toNat]
    rfl
  · exact absurd h (by simp)

/-- Division ends with the quotients and remainders of its table (R92). -/
theorem finishesWith_divisionResult (i : Instr) (r : Result) (h : divisionResult i = some r) : finishesWith i r := by
  unfold divisionResult at h
  split at h
  · exact finishesWith_op2 h toNat_divS_fst (fun _ => rfl)
  · exact finishesWith_op2 h toNat_divU_fst (fun _ => rfl)
  · exact finishesWith_op2 h toNat_divS_snd (fun _ => rfl)
  · exact finishesWith_op2 h toNat_divU_snd (fun _ => rfl)
  · exact absurd h (by simp)

/-- Logic, shifts and counts end with the results of their table (R90, R93, R94). -/
theorem finishesWith_logicResult (i : Instr) (r : Result) (h : logicResult i = some r) : finishesWith i r := by
  unfold logicResult at h
  split at h
  · exact finishesWith_op2 h toNat_and_eq_ofBits (fun _ => rfl)
  · exact finishesWith_op2 h toNat_or_eq_ofBits (fun _ => rfl)
  · exact finishesWith_op2 h toNat_xor_eq_ofBits (fun _ => rfl)
  · exact finishesWith_op2 h toNat_andn_eq_ofBits (fun _ => rfl)
  · exact finishesWith_op2 h toNat_orn_eq_ofBits (fun _ => rfl)
  · exact finishesWith_op1 h toNat_not_word (fun _ => rfl)
  · exact finishesWith_op3 h (toNat_ltabW _) (fun _ => rfl)
  · exact finishesWith_op2 h (fun x y => toNat_shl x (shAmt y)) (fun _ => rfl)
  · exact finishesWith_op2 h (fun x y => toNat_shr x (shAmt y)) (fun _ => rfl)
  · exact finishesWith_op2 h (fun x y => toNat_sar x (shAmt y)) (fun _ => rfl)
  · exact finishesWith_op2 h (fun x y => toNat_rotlW x _ (Nat.mod_lt _ (by omega)).le) (fun _ => rfl)
  · exact finishesWith_op2 h (fun x y => toNat_rotr x _ (Nat.mod_lt _ (by omega)).le) (fun _ => rfl)
  · exact finishesWith_op1 h toNat_popcW (fun _ => rfl)
  · exact finishesWith_op1 h toNat_clzW (fun _ => rfl)
  · exact finishesWith_op1 h toNat_ctzW (fun _ => rfl)
  · exact finishesWith_op1 h toNat_brevW (fun _ => rfl)
  · exact absurd h (by simp)

/-- Bit fields and bytes end with the results of their table (R95). -/
theorem finishesWith_fieldResult (i : Instr) (r : Result) (h : fieldResult i = some r) : finishesWith i r := by
  unfold fieldResult at h
  split at h
  · exact finishesWith_op2 h toNat_bfeW (fun _ => rfl)
  · exact finishesWith_op2 h toNat_bfesW (fun _ => rfl)
  · exact finishesWith_op3 h toNat_bfiW (fun _ => rfl)
  · exact finishesWith_op3 h toNat_bgatW (fun _ => rfl)
  · exact absurd h (by simp)

/-! #### Instructions with a body of their own -/

/-- An instruction that reads its sources and gives D a value. -/
theorem finishesWith_runInstr {i : Instr} {h : Hdr} {d : Opnd} {k fslot : Nat} {srcs : List Src}
    {body : State → Env → Except Stop State} {val : State → Env → Mask → (Nat → List Nat) → Nat → Nat}
    (hx : ∀ s, exec i s = runInstr s fslot (regsOk ((d, k) :: srcs)) anyMode h.g (body s))
    (hb : ∀ s c s1 v, readSrcs s (envOf s c) (takers s c h.g) srcs (some d) (!h.w) = .ok (s1, v) →
      ∃ g, body s (envOf s c) = finish s1 (envOf s c) h d (takers s c h.g) k g ∧
        ∀ l, l < 32 → (takers s c h.g).getLsbD l = true → g l = val s (envOf s c) (takers s c h.g) v l) :
    finishesWith i ⟨h, d, k, srcs, val⟩ := by
  intro s c s1 v t hi hr hs hf
  obtain ⟨g, hg, hval⟩ := hb s c s1 v hs
  rw [hx]
  refine runInstr_ok s t c _ _ _ _ _ hi hr rfl ?_
  rw [hg, finish_congr _ _ h d _ k g _ hval]
  exact hf

/-- Reading no source changes nothing. -/
theorem readSrcs_nil {s s1 : State} {e : Env} {m : Mask} {dst : Option Opnd} {push : Bool} {v : Nat → List Nat}
    (h : readSrcs s e m [] dst push = .ok (s1, v)) : s1 = s := by
  unfold readSrcs at h
  simp only [portsOf, List.filterMap_nil, List.findSome?_nil, popEach, List.isEmpty_nil, if_true] at h
  split at h
  · exact (Prod.mk.inj (Except.ok.inj h)).1.symm
  · split at h
    · exact absurd h (by simp)
    · split at h
      · exact absurd h (by simp)
      · exact (Prod.mk.inj (Except.ok.inj h)).1.symm

theorem finishesWith_sel (h : Hdr) (d a b : Opnd) (p : Pred) : finishesWith (.sel h d a b p)
    ⟨h, d, 1, [(a, 1), (b, 1)], fun _ e _ v l => (v l).getD (if (predMask e.x p).getLsbD l then 0 else 1) 0⟩ := by
  refine finishesWith_runInstr (fun s => by unfold exec execSel; rfl) (fun s c s1 v hs => ?_)
  unfold takers at hs
  simp only [hs]
  exact ⟨_, rfl, fun _ _ _ => rfl⟩

theorem finishesWith_movp (h : Hdr) (d : Opnd) (p : Pred) : finishesWith (.movp h d p)
    ⟨h, d, 1, [], fun _ e _ _ l => if (predMask e.x p).getLsbD l then 1 else 0⟩ := by
  refine finishesWith_runInstr (fun s => by unfold exec execMovp; rfl) (fun s c s1 v hs => ?_)
  unfold takers at hs
  simp only [hs]
  exact ⟨_, rfl, fun _ _ _ => rfl⟩

/-- 64-bit arithmetic, moves and immediates end with the results of their table (R96, R98, R100). -/
theorem finishesWith_wideResult (i : Instr) (r : Result) (h : wideResult i = some r) : finishesWith i r := by
  unfold wideResult at h
  split at h
  · exact finishesWith_op64 h BitVec.toNat_add (fun _ => rfl)
  · exact finishesWith_op64 h (toNat_sub_eq_intBits 64) (fun _ => rfl)
  · exact finishesWith_opSh64 (f := fun x n => x <<< n) h (fun x y => toNat_shl x (bits y 0 6)) (fun _ => rfl)
  · exact finishesWith_opSh64 (f := fun x n => x >>> n) h (fun x y => toNat_shr x (bits y 0 6)) (fun _ => rfl)
  · exact finishesWith_opSh64 (f := fun x n => BitVec.ofInt 64 (sxv x / (2 ^ n : Nat))) h
      (fun x y => toNat_sar x (bits y 0 6)) (fun _ => rfl)
  · exact finishesWith_op64 h toNat_paddW (fun _ => rfl)
  · exact finishesWith_op1 h (fun _ => rfl) (fun _ => rfl)
  · obtain rfl := Option.some.inj h
    exact finishesWith_laneOp (f := fun v => (arg64 v 0).toNat) (fun _ => rfl) (fun _ _ _ v l => arg64_toNat v 0 l)
  · obtain rfl := Option.some.inj h
    exact finishesWith_sel _ _ _ _ _
  · obtain rfl := Option.some.inj h
    exact finishesWith_movp _ _ _
  · next hd d imm =>
    obtain rfl := Option.some.inj h
    exact finishesWith_laneOp (f := fun _ => imm.toNat) (fun _ => rfl) (fun _ _ _ _ _ => rfl)
  · exact finishesWith_op1 h (fun x => BitVec.toNat_add x _) (fun _ => rfl)
  · exact finishesWith_op1 h (fun x => toNat_and_eq_ofBits x _) (fun _ => rfl)
  · exact finishesWith_op1 h (fun x => toNat_or_eq_ofBits x _) (fun _ => rfl)
  · exact finishesWith_op1 h (fun x => toNat_xor_eq_ofBits x _) (fun _ => rfl)
  · next hd zx d imm =>
    obtain rfl := Option.some.inj h
    exact finishesWith_laneOp (f := fun _ => if zx then imm.toNat else intBits 64 (sxv imm)) (fun _ => rfl)
      (fun _ _ _ _ _ => rfl)
  · exact absurd h (by simp)

end Sys2Proof.Machine

/-! #### Lane exchange, masks, reductions and state (R154 to R159, R127, R170) -/

namespace Sys2Proof.Machine

/-- A lane exchange reads the lane that its table names. -/
theorem finishesWith_lxchOp {i : Instr} {h : Hdr} {sg : Fin 6} {d : Opnd} {srcs : List Src}
    {src : Nat → Nat → Nat → Nat → Option Nat} {tab : Nat → Nat → Nat → Option Nat}
    (hx : ∀ s, exec i s = lxchOp s h sg d srcs src)
    (hsrc : ∀ sb j w m, 0 < w → m < 32 → src sb j w m = (tab j w m).map (sb + ·)) :
    finishesWith i ⟨h, d, 1, srcs, fun _ _ t v l => exchanged t sg.val v l tab⟩ := by
  refine finishesWith_runInstr (fun s => by rw [hx]; unfold lxchOp; rfl) (fun s c s1 v hs => ?_)
  unfold takers at hs
  simp only [hs]
  refine ⟨_, rfl, fun l _ _ => ?_⟩
  have hw : 0 < 32 / 2 ^ sg.val := by
    have : ∀ k : Fin 6, 0 < 32 / 2 ^ k.val := by decide
    exact this sg
  have hm : bits ((v l).getD 1 0) 0 5 = (v l).getD 1 0 % 32 := by
    rw [bits_eq_div_mod, pow_zero, Nat.div_one]
    rfl
  have hlt : (v l).getD 1 0 % 32 < 32 := Nat.mod_lt _ (by omega)
  unfold exchanged
  simp only [hm, hsrc _ _ _ _ hw hlt]
  cases tab (l % (32 / 2 ^ sg.val)) (32 / 2 ^ sg.val) ((v l).getD 1 0 % 32) <;> rfl

/-- The lane that is m places below, in a segment. -/
theorem rup_lane (j w m : Nat) (hw : 0 < w) (hm : m < 32) :
    (((j : Int) - m) % (w : Int)).toNat = (j + 32 * w - m) % w := by
  have hle : m ≤ 32 * w := by nlinarith
  have hcast : ((j + 32 * w - m : Nat) : Int) = (j : Int) - m + w * 32 := by omega
  rw [← Int.toNat_natCast ((j + 32 * w - m) % w), Int.natCast_emod, hcast, Int.add_mul_emod_self_left]

theorem takenValues_eq (m : Mask) (v : Nat → List Nat) :
    takenValues m v = ((lanesOf m).map (fun l => arg32 (v l) 0)).map BitVec.toNat := by
  rw [takenValues, List.map_map]
  exact List.map_congr_left (fun l _ => (arg32_toNat v 0 l).symm)

/-- A reduction gives every lane the words of the taking lanes combined. -/
theorem finishesWith_lredOp {i : Instr} {h : Hdr} {d a : Opnd} {f : Word → Word → Word} {g : List Nat → Nat}
    (hx : ∀ s, exec i s = lredOp s h d a f) (hv : ∀ xs, (combined f xs).toNat = g (xs.map BitVec.toNat)) :
    finishesWith i ⟨h, d, 1, [(a, 1)], fun _ _ t v _ => g (takenValues t v)⟩ := by
  refine finishesWith_runInstr (fun s => by rw [hx]; unfold lredOp; rfl) (fun s c s1 v hs => ?_)
  unfold takers at hs
  simp only [hs]
  refine ⟨_, rfl, fun l _ _ => ?_⟩
  rw [takenValues_eq, ← hv]
  rfl

theorem map_sx_toNat (xs : List Word) : (xs.map BitVec.toNat).map (sx 32) = xs.map sxv := by
  rw [List.map_map]
  rfl

/-- A mask of the taking lanes gives every lane its word. -/
theorem finishesWith_lmaskWord {i : Instr} {h : Hdr} {d : Opnd} {a : Pred} {f : Mask → Nat} {g : Env → Mask → Nat}
    (hx : ∀ s, exec i s = lmaskWord s h d a f) (hv : ∀ e m, f (predMask e.x a &&& m) = g e m) :
    finishesWith i ⟨h, d, 1, [], fun _ e t _ _ => g e t⟩ := by
  refine finishesWith_runInstr (fun s => by rw [hx]; unfold lmaskWord; rfl) (fun s c s1 v hs => ?_)
  unfold takers at hs
  simp only [hs]
  exact ⟨_, rfl, fun l _ _ => hv (envOf s c) _⟩

theorem lanesOf_and_length (p m : Mask) : (lanesOf (p &&& m)).length =
    ((List.range 32).filter (fun l => p.getLsbD l && m.getLsbD l)).length := by
  unfold lanesOf
  simp only [BitVec.getLsbD_and]

/-- Lane exchange, masks and reductions end with the results of their table (R154 to R156). -/
theorem finishesWith_laneResult (i : Instr) (r : Result) (h : laneResult i = some r) : finishesWith i r := by
  unfold laneResult at h
  split at h
  · obtain rfl := Option.some.inj h
    exact finishesWith_lxchOp (src := fun sb _ w m => some (sb + m % w))
      (fun _ => rfl) (fun _ _ _ _ _ _ => rfl)
  · next hd sg clip d a b =>
    obtain rfl := Option.some.inj h
    refine finishesWith_lxchOp (src := fun sb j w m => if clip && decide (w ≤ j + m) then none else some (sb + (j + m) % w))
      (fun _ => rfl) (fun sb j w m _ _ => ?_)
    simp only [Bool.and_eq_true, decide_eq_true_eq]
    split <;> rfl
  · next hd sg clip d a b =>
    obtain rfl := Option.some.inj h
    refine finishesWith_lxchOp (src := fun sb j w m => if clip && decide (j < m) then none else some (sb + (j + 32 * w - m) % w))
      (fun _ => rfl) (fun sb j w m hw hm => ?_)
    simp only [Bool.and_eq_true, decide_eq_true_eq, rup_lane j w m hw hm]
    split <;> rfl
  · obtain rfl := Option.some.inj h
    exact finishesWith_lxchOp (src := fun sb j w m => some (sb + (j ^^^ m) % w))
      (fun _ => rfl) (fun _ _ _ _ _ _ => rfl)
  · obtain rfl := Option.some.inj h
    exact finishesWith_lxchOp (src := fun sb j w _ => some (sb + (w - 1 - j)))
      (fun _ => rfl) (fun _ _ _ _ _ _ => rfl)
  · obtain rfl := Option.some.inj h
    exact finishesWith_lmaskWord (f := fun t => t.toNat) (fun _ => rfl) (fun _ _ => rfl)
  · obtain rfl := Option.some.inj h
    exact finishesWith_lmaskWord (f := fun t => (lanesOf t).length) (fun _ => rfl) (fun e m => lanesOf_and_length _ m)
  · obtain rfl := Option.some.inj h
    exact finishesWith_lredOp (f := fun x y => x + y) (g := fun xs => xs.sum % 2 ^ 32) (fun _ => rfl) toNat_combined_add
  · obtain rfl := Option.some.inj h
    exact finishesWith_lredOp (f := minS) (g := fun xs => intBits 32 (((xs.map (sx 32)).min?).getD 0)) (fun _ => rfl)
      (fun xs => by rw [toNat_combined_minS, map_sx_toNat])
  · obtain rfl := Option.some.inj h
    exact finishesWith_lredOp (f := maxS) (g := fun xs => intBits 32 (((xs.map (sx 32)).max?).getD 0)) (fun _ => rfl)
      (fun xs => by rw [toNat_combined_maxS, map_sx_toNat])
  · obtain rfl := Option.some.inj h
    exact finishesWith_lredOp (f := minU) (g := fun xs => (xs.min?).getD 0) (fun _ => rfl) toNat_combined_minU
  · obtain rfl := Option.some.inj h
    exact finishesWith_lredOp (f := maxU) (g := fun xs => (xs.max?).getD 0) (fun _ => rfl) toNat_combined_maxU
  · obtain rfl := Option.some.inj h
    exact finishesWith_lredOp (f := fun x y => x &&& y) (g := fun xs => if xs = [] then 0
      else ofBits (fun k => if xs.all (fun x => bitOf x k = 1) then 1 else 0)) (fun _ => rfl) toNat_combined_and
  · obtain rfl := Option.some.inj h
    exact finishesWith_lredOp (f := fun x y => x ||| y)
      (g := fun xs => ofBits (fun k => if xs.any (fun x => bitOf x k = 1) then 1 else 0))
      (fun _ => rfl) toNat_combined_or
  · obtain rfl := Option.some.inj h
    exact finishesWith_lredOp (f := fun x y => x ^^^ y)
      (g := fun xs => ofBits (fun k => (xs.map (fun x => bitOf x k)).sum)) (fun _ => rfl)
      toNat_combined_xor
  · exact absurd h (by simp)

theorem argAddr_low : bits argAddr 0 32 = 0 := by
  unfold bits argAddr Config.argObject
  norm_num

theorem argAddr_high : bits argAddr 32 32 = 4294966272 := by
  unfold bits argAddr Config.argObject
  norm_num [Nat.shiftRight_eq_div_pow]

/-- The special registers, in the order of their numbers (R158, R381). -/
theorem specialReg_eq (s : State) (e : Env) (n : Fin 24) : specialReg s e n.val = specialValue s e n.val := by
  have hsup : (if e.sup then 1 else 0) = if e.x.mode = .supervisor then 1 else 0 := by
    unfold Env.sup
    simp only [beq_iff_eq]
  have hlow : ∀ x : DWord, bits x.toNat 0 32 = x.toNat % 2 ^ 32 := fun x => by
    rw [bits_eq_div_mod, pow_zero, Nat.div_one]
  have hhigh : ∀ x : DWord, bits x.toNat 32 32 = x.toNat / 2 ^ 32 := fun x => by
    have := x.isLt
    rw [bits_eq_div_mod]
    omega
  have hargLow : 0x3FFFFF * 2 ^ 42 % 2 ^ 32 = 0 := by norm_num
  have hargHigh : 0x3FFFFF * 2 ^ 42 / 2 ^ 32 = 4294966272 := by norm_num
  obtain ⟨n, hn⟩ := n
  unfold specialReg specialValue
  simp only [hsup, argAddr_low, argAddr_high, hlow, hhigh, hargLow, hargHigh]
  interval_cases n <;> rfl

/-- An instruction that gives D a status word of its warp. -/
theorem finishesWith_statusRead {i : Instr} {fslot : Nat} {h : Hdr} {d : Opnd} {k : Nat} {f : Warp → Nat}
    (hx : ∀ s, exec i s = statusRead s fslot h d k f) : finishesWith i ⟨h, d, k, [], fun _ e _ _ _ => f e.x⟩ := by
  refine finishesWith_runInstr (fun s => by rw [hx]; unfold statusRead; rfl) (fun s c s1 v hs => ?_)
  unfold takers at hs
  simp only [hs]
  obtain rfl := readSrcs_nil hs
  exact ⟨_, rfl, fun _ _ _ => rfl⟩

/-- Reads of the state end with the values of their table (R127, R158, R170). -/
theorem finishesWith_stateResult (i : Instr) (r : Result) (h : stateResult i = some r) : finishesWith i r := by
  unfold stateResult at h
  split at h
  · next hd d n =>
    obtain rfl := Option.some.inj h
    refine finishesWith_runInstr (fun s => by unfold exec execRdsr; rfl) (fun s c s1 v hs => ?_)
    unfold takers at hs
    simp only [hs]
    obtain rfl := readSrcs_nil hs
    exact ⟨_, rfl, fun _ _ _ => specialReg_eq s1 (envOf s1 c) n⟩
  · next hd f d =>
    obtain rfl := Option.some.inj h
    exact finishesWith_statusRead (f := fun x => (slotWord x f).toNat) (fun _ => rfl)
  · next hd d =>
    obtain rfl := Option.some.inj h
    exact finishesWith_statusRead (fslot := 0) (f := fun x => x.srgen.toNat) (fun _ => rfl)
  · next hd sel d =>
    obtain rfl := Option.some.inj h
    cases sel with
    | ff => exact finishesWith_statusRead (fslot := 0) (f := fun x => x.fflags.toNat) (fun _ => rfl)
    | qs => exact finishesWith_statusRead (fslot := 0) (f := fun x => x.qstat.toNat) (fun _ => rfl)
    | as => exact finishesWith_statusRead (fslot := 0) (f := fun x => x.accstat.toNat) (fun _ => rfl)
  · next hd d a =>
    obtain rfl := Option.some.inj h
    refine finishesWith_runInstr (fun s => by unfold exec execQctlQstat; rfl) (fun s c s1 v hs => ?_)
    unfold takers at hs
    simp only [hs]
    obtain rfl := readSrcs_nil hs
    exact ⟨_, rfl, fun _ _ _ => rfl⟩
  · exact absurd h (by simp)

end Sys2Proof.Machine

/-! ### Results that go to a channel (R147, R277) -/

namespace Sys2Proof.Machine

/-- Every one-word result is one that its instruction ends with. -/
theorem finishesWith_wordResult (i : Instr) (r : Result) (h : wordResult i = some r) : finishesWith i r := by
  obtain ⟨o, ho, hr⟩ := List.exists_of_findSome?_eq_some h
  simp only [id] at hr
  subst hr
  simp only [List.mem_cons, List.not_mem_nil, or_false] at ho
  obtain h | h | h | h | h | h | h := ho
  · exact finishesWith_arithResult i r h.symm
  · exact finishesWith_divisionResult i r h.symm
  · exact finishesWith_logicResult i r h.symm
  · exact finishesWith_fieldResult i r h.symm
  · exact finishesWith_wideResult i r h.symm
  · exact finishesWith_laneResult i r h.symm
  · exact finishesWith_stateResult i r h.symm

/-! #### What pops leave of a channel -/

/-- A channel of a crew in which another or the same channel has other entries. -/
theorem chanOf_entries_prod (cr : Crew) (k n : Nat) (t : List (List Word)) :
    (chanOf { cr with chans := cr.chans.set k { chanOf cr k with entries := t } } n).prod = (chanOf cr n).prod := by
  unfold chanOf
  simp only [List.getD_eq_getElem?_getD, List.getElem?_set]
  by_cases hk : k = n
  · subst hk
    by_cases hl : k < cr.chans.length
    · simp [hl]
    · simp [hl]
  · simp [hk]

/-- Pops keep the role that pushes into a channel. -/
theorem popEach_prod {x y : Warp} {cr cr' : Crew} {ns : List Nat} {hs : List (List Word)}
    (h : popEach x cr ns = some (hs, y, cr')) (n : Nat) : (chanOf cr' n).prod = (chanOf cr n).prod := by
  induction ns generalizing x cr hs with
  | nil =>
    simp only [popEach, Option.some.injEq, Prod.mk.injEq] at h
    rw [h.2.2]
  | cons p ns ih =>
    simp only [popEach] at h
    split at h
    · exact absurd h (by simp)
    · rename_i r hd x1 cr1 hone
      split at h
      · exact absurd h (by simp)
      · rename_i hs2 x2 cr2 hrest
        simp only [Option.some.injEq, Prod.mk.injEq] at h
        obtain ⟨-, rfl, rfl⟩ := h
        refine (ih hrest).trans ?_
        split at hone
        · split at hone
          · exact absurd hone (by simp)
          · simp only [Option.some.injEq, Prod.mk.injEq] at hone
            rw [← hone.2.2]
            exact chanOf_entries_prod _ _ _ _
        · split at hone
          · exact absurd hone (by simp)
          · simp only [Option.some.injEq, Prod.mk.injEq] at hone
            rw [hone.2.2]

/-- Reading sources keeps the role that pushes into a channel of the warp's crew. -/
theorem readSrcs_prod {s s1 : State} {c : Cur} {m : Mask} {srcs : List Src} {dst : Option Opnd} {push : Bool}
    {v : Nat → List Nat} (hc : (warpAt s c.w).crew < s.crews.length)
    (h : readSrcs s (envOf s c) m srcs dst push = .ok (s1, v)) (n : Nat) :
    (chanOf (crewAt s1 (envOf s c).c) n).prod = (chanOf (envOf s c).cr n).prod := by
  unfold readSrcs at h
  simp only at h
  split at h
  · rw [← (Prod.mk.inj (Except.ok.inj h)).1]
    rfl
  · split at h
    · exact absurd h (by simp)
    · split at h
      · exact absurd h (by simp)
      · split at h
        · exact absurd h (by simp)
        · rename_i hs x cr hpop
          split at h
          · exact absurd h (by simp)
          · rw [← (Prod.mk.inj (Except.ok.inj h)).1]
            split
            · rfl
            · rw [crewAt_setCrew _ _ _ (by rw [setWarp_crews]; exact hc)]
              exact popEach_prod hpop n

theorem readSrcs_ctxs {s s1 : State} {e : Env} {m : Mask} {srcs : List Src} {dst : Option Opnd} {push : Bool}
    {v : Nat → List Nat} (h : readSrcs s e m srcs dst push = .ok (s1, v)) : s1.ctxs = s.ctxs := by
  obtain rfl | ⟨a, b, cr, rfl⟩ := readSrcs_ok _ _ _ _ _ _ _ _ h <;> rfl

/-! #### The push -/

/-- Events of a context whose order log is off are not logged. -/
theorem olFold_off {t : State} {e : Env} (h : ∀ k, ctxGet t e.cr.ctx = some k → bits (csrN k 0x074) 0 2 = 0)
    (evs : List OlEvent) : olFold t e evs = .done t := by
  have hone : ∀ r, olOne t (olAgent e.cr.ctx e.sl.failed) r = .done t := by
    intro r
    unfold olOne
    cases hk : ctxGet t (olAgent e.cr.ctx e.sl.failed).ctx with
    | none => rfl
    | some k => simp only [h k hk]
  unfold olFold
  induction evs with
  | nil => rfl
  | cons ev evs ih => rw [List.foldl_cons]; simp only [hone]; exact ih

/-- A push without a log only counts its event, where several warps may push. -/
theorem pushChan_off {s t : State} {c : Cur} {n : Nat} {m : Mask} {val : Nat → Nat}
    (hcrew : (warpAt t c.w).crew = (envOf s c).c)
    (hslot : (slotOf (warpAt t c.w) c.which).turned = (envOf s c).sl.turned)
    (hprod : (chanOf (crewAt t (envOf s c).c) n).prod = (chanOf (envOf s c).cr n).prod)
    (hoff : ∀ k, ctxGet t (envOf s c).cr.ctx = some k → bits (csrN k 0x074) 0 2 = 0) :
    pushChan t (envOf s c) n m val = .ok (channelTakes t c n m val) := by
  have hcount : eventsCounted t c = olCount t (envOf s c) := by
    unfold eventsCounted olCount
    rw [hslot]
    rfl
  have hcrews : ∀ k, crewAt (olCount t (envOf s c)) k = crewAt t k := by
    intro k
    unfold olCount
    split <;> rfl
  unfold pushChan channelTakes olEvents
  simp only [olFold_off hoff, hcrew, ← hprod, hcount, roleWarps]
  by_cases hmany : 1 < ((crewAt t (envOf s c).c).warps.filter
      (fun w => (warpAt t w).role == (chanOf (crewAt t (envOf s c).c) n).prod)).length
  · simp only [hmany, if_true, List.isEmpty_cons, Bool.false_eq_true, if_false, hcrews]
  · simp only [hmany, if_false, List.isEmpty_nil, if_true]

theorem channelTakes_warps_length (t : State) (c : Cur) (n : Nat) (m : Mask) (val : Nat → Nat) :
    (channelTakes t c n m val).warps.length = t.warps.length := by
  unfold channelTakes eventsCounted
  simp only [setCrew_warps]
  split
  · split
    · rfl
    · exact setWarp_length _ _ _
  · rfl

theorem samePaths_channelTakes (t : State) (c : Cur) (n : Nat) (m : Mask) (val : Nat → Nat)
    (hw : c.w < t.warps.length) : samePaths (warpAt t c.w) (warpAt (channelTakes t c n m val) c.w) := by
  unfold channelTakes eventsCounted
  simp only [warpAt_setCrew]
  split
  · split
    · exact samePaths_refl _
    · rw [warpAt_setWarp _ _ _ hw]
      exact ⟨rfl, rfl, rfl, rfl, rfl⟩
  · exact samePaths_refl _

/-- Settles O43: the result is written to the latch, and a push that is due appends its entry. -/
theorem pushedResults : Obligations.PushedResults := by
  unfold Obligations.PushedResults
  intro i r n hi hd hk s c s1 v e m val t hp hr hs hoff
  have hregs : regsOk ((r.d, r.k) :: r.srcs) (envOf s c) = true := by
    rw [hd]
    exact hr
  obtain ⟨hlen, hpaths, -, -⟩ := readSrcs_same s s1 c m r.srcs _ _ v hp hs
  have hw : c.w < s1.warps.length := hlen ▸ warp_lt_of_plain hp
  obtain ⟨-, a, b, hx⟩ := readSrcs_keeps s s1 c m r.srcs _ _ v (warp_lt_of_plain hp) hs
  have ht : warpAt t c.w = writeDest (warpAt s1 c.w) ⟨r.h, r.d, m⟩ 1 val := warpAt_setWarp _ _ _ hw
  have htlen : t.warps.length = s.warps.length := (setWarp_length _ _ _).trans hlen
  have htpaths : samePaths (warpAt s c.w) (warpAt t c.w) := by
    rw [ht]
    obtain ⟨h1, h2, h3, h4, h5⟩ := hpaths
    exact ⟨by rw [writeDest_sa, h1], by rw [writeDest_sb, h2], by rw [writeDest_hdl, h3], by rw [writeDest_ssn, h4],
      by rw [writeDest_ents, h5]⟩
  have hfinish : ∀ u, finish s1 e r.h (.q n) m 1 val = .ok u → exec i s = .next u := by
    intro u hu
    refine finishesWith_wordResult i r hi s c s1 v u (issuing_of_plain hp) hregs hs ?_
    rw [hd, hk]
    exact hu
  have ht' : t = setWarp s1 e.w (writeDest (warpAt s1 e.w) ⟨r.h, .q n, m⟩ 1 val) := by
    rw [← hd]
    rfl
  constructor
  · intro hnone
    refine hfinish _ ?_
    unfold finish
    simp only [hnone, if_true, ← ht']
    exact advance_same s t c hp htlen htpaths
  · intro hpush hm
    refine hfinish _ ?_
    have hprod : (chanOf (crewAt t e.c) n.val).prod = (chanOf e.cr n.val).prod :=
      readSrcs_prod (crew_lt_of_plain hp) hs n.val
    have hcrew : (warpAt t c.w).crew = e.c := by
      rw [ht, writeDest_crew, hx]
      rfl
    have hslot : (slotOf (warpAt t c.w) c.which).turned = e.sl.turned := by
      obtain ⟨h1, h2, h3, -, -⟩ := htpaths
      show _ = (slotOf (warpAt s c.w) c.which).turned
      cases c.which <;> simp only [slotOf, h1, h2, h3]
    have htoff : ∀ k, ctxGet t e.cr.ctx = some k → bits (csrN k 0x074) 0 2 = 0 := by
      intro k hctx
      refine hoff k (Eq.trans ?_ hctx)
      unfold ctxGet
      rw [show t.ctxs = s1.ctxs from rfl, readSrcs_ctxs hs]
    unfold finish
    simp only [hpush, hm, or_self, Bool.false_eq_true, if_false, ← ht']
    rw [show pushChan t e n.val m val = _ from pushChan_off hcrew hslot hprod htoff]
    exact advance_same s _ c hp ((channelTakes_warps_length t c _ m val).trans htlen)
      (samePaths_trans htpaths (samePaths_channelTakes t c _ m val (htlen ▸ warp_lt_of_plain hp)))

end Sys2Proof.Machine

/-! ## Block instructions (R129, R130) -/

namespace Sys2Proof.Machine

/-- A block instruction runs the shared block operation. -/
theorem exec_blockForm (i : Instr) (r : BlockForm) (s : State) (h : blockForm i = some r) :
    exec i s = blockOp s r.g r.w r.f r.o r.d r.a r.b r.c r.nd r.na r.rounds r.val := by
  unfold blockForm at h
  split at h
  case h_5 => exact absurd h (by simp)
  all_goals cases h; rfl

theorem writeRange_congr (x : Warp) (a : Opnd) (n : Nat) (m : Mask) (f g : Nat → Nat → Nat)
    (h : ∀ l, l < 32 → m.getLsbD l = true → f l = g l) : writeRange x a n m f = writeRange x a n m g := by
  cases a with
  | v r =>
    have hset : ∀ (vs : List (List Word)) (j : Nat),
        putLanes 0 m (vs.getD (r.val + j) []) (fun l => BitVec.ofNat 32 (f l j)) =
        putLanes 0 m (vs.getD (r.val + j) []) (fun l => BitVec.ofNat 32 (g l j)) := fun vs j =>
      putLanes_congr _ _ _ _ _ (fun l hl hm => by rw [h l hl hm])
    simp only [writeRange, hset]
  | _ => rfl

theorem samePaths_writeRange (x : Warp) (a : Opnd) (n : Nat) (m : Mask) (f : Nat → Nat → Nat) :
    samePaths x (writeRange x a n m f) := by
  cases a <;> exact ⟨rfl, rfl, rfl, rfl, rfl⟩

/-- The flags and the counters that the taking lanes raise, from the list of every lane's results. -/
theorem foldl_flags_tab (m : Mask) (out : Nat → BlockRes) :
    (tab (fun l => if m.getLsbD l then out l else ⟨[], [], 0, []⟩)).foldl (fun a x => a ||| x.flags) 0 =
      ((lanesOf m).map (fun l => (out l).flags)).foldl (fun a b => a ||| b) 0 := by
  unfold tab lanesOf
  rw [List.foldl_map, List.foldl_map, List.foldl_filter]
  refine List.foldl_ext _ _ _ (fun a l _ => ?_)
  split <;> simp

theorem foldl_evs_tab (m : Mask) (out : Nat → BlockRes) (q : Word) :
    (tab (fun l => if m.getLsbD l then out l else ⟨[], [], 0, []⟩)).foldl (fun q y => qstatAdd q y.evs) q =
      (lanesOf m).foldl (fun q l => qstatAdd q (out l).evs) q := by
  unfold tab lanesOf
  rw [List.foldl_map, List.foldl_filter]
  refine List.foldl_ext _ _ _ (fun a l _ => ?_)
  split
  · rfl
  · simp [qstatAdd]

end Sys2Proof.Machine

namespace Sys2Proof.Machine

/-! ### The block operation in two parts: a lane's results, and what is done with them -/

/-- The sources of a block instruction besides its ranges. -/
def blockSrcs (b : Option Opnd) : List Src := match b with | some r => [(r, 1)] | none => []

/-- What a block instruction computes in lane l, with the generator's output. -/
def blockOut (r : BlockForm) (e : Env) (v : Nat → List Nat) (gen : Word) (l : Nat) : BlockRes :=
  r.val (slotWord e.x r.f) (rangeWords e.x r.a (r.na (slotWord e.x r.f)) l) ((v l).getD 0 0)
    (match r.c with | some rc => rangeWords e.x rc 48 l | none => []) l gen

/-- Whether register j of the range of D lies in the range of the residuals too. -/
def sharedReg (r : BlockForm) (j : Nat) : Bool :=
  match r.c, r.d with
  | some (.v rc), .v rd => decide (rc.val ≤ rd.val + j) && decide (rd.val + j < rc.val + 48)
  | _, _ => false

/-- A warp with the residuals of the taking lanes written, and then their blocks. -/
def blockWritten (r : BlockForm) (n : Nat) (m : Mask) (free : Nat) (out : Nat → BlockRes) (y : Warp) : Warp :=
  let z := match r.c with
    | some rc => writeRange y rc 48 m (fun l j => (out l).resid.getD j 0)
    | none => y
  if r.w then z else writeRange z r.d n m (fun l j =>
    if sharedReg r j then (Config.unstatedWord (free + 64 * l + j)).toNat else (out l).out.getD j 0)

/-- The state in which warp w is `y` with the results written, and free values are used up for shared registers. -/
def blockStored (r : BlockForm) (n : Nat) (m : Mask) (out : Nat → BlockRes) (s : State) (w : Nat) (y : Warp) : State :=
  let t := setWarp s w (blockWritten r n m s.free out y)
  if r.c.isSome && !r.w then { t with free := s.free + 2048 } else t

theorem blockWritten_congr (r : BlockForm) (n : Nat) (m : Mask) (free : Nat) (f g : Nat → BlockRes) (y : Warp)
    (h : ∀ l, l < 32 → m.getLsbD l = true → f l = g l) :
    blockWritten r n m free f y = blockWritten r n m free g y := by
  have hresid : ∀ rc, writeRange y rc 48 m (fun l j => (f l).resid.getD j 0) =
      writeRange y rc 48 m (fun l j => (g l).resid.getD j 0) := fun rc =>
    writeRange_congr _ _ _ _ _ _ (fun l hl hm => by rw [h l hl hm])
  have hout : ∀ z, writeRange z r.d n m (fun l j =>
        if sharedReg r j then (Config.unstatedWord (free + 64 * l + j)).toNat else (f l).out.getD j 0) =
      writeRange z r.d n m (fun l j =>
        if sharedReg r j then (Config.unstatedWord (free + 64 * l + j)).toNat else (g l).out.getD j 0) := fun z =>
    writeRange_congr _ _ _ _ _ _ (fun l hl hm => by rw [h l hl hm])
  unfold blockWritten
  simp only [hresid, hout]

theorem samePaths_blockWritten (r : BlockForm) (n : Nat) (m : Mask) (free : Nat) (out : Nat → BlockRes) (y : Warp) :
    samePaths y (blockWritten r n m free out y) := by
  unfold blockWritten
  simp only
  have hz : samePaths y (match r.c with
      | some rc => writeRange y rc 48 m (fun l j => (out l).resid.getD j 0)
      | none => y) := by
    cases r.c with
    | none => exact samePaths_refl y
    | some rc => exact samePaths_writeRange _ _ _ _ _
  split
  · exact hz
  · exact samePaths_trans hz (samePaths_writeRange _ _ _ _ _)

theorem blockStored_warps_length (r : BlockForm) (n : Nat) (m : Mask) (out : Nat → BlockRes) (s : State) (w : Nat)
    (y : Warp) : (blockStored r n m out s w y).warps.length = s.warps.length := by
  unfold blockStored
  split <;> exact setWarp_length _ _ _

theorem warpAt_blockStored (r : BlockForm) (n : Nat) (m : Mask) (out : Nat → BlockRes) (s : State) (w : Nat)
    (y : Warp) (hw : w < s.warps.length) :
    warpAt (blockStored r n m out s w y) w = blockWritten r n m s.free out y := by
  unfold blockStored
  split <;> exact warpAt_setWarp _ _ _ hw

/-- The block operation, with its two parts by name. -/
theorem blockOp_eq (r : BlockForm) (s : State) :
    blockOp s r.g r.w r.f r.o r.d r.a r.b r.c r.nd r.na r.rounds r.val =
      runInstr s r.f.val (fun e => blockLegal r e && decide (r.o.val < 3)) anyMode r.g (fun e =>
        match readSrcs s e (taking e r.g) (blockSrcs r.b) none false with
        | .error x => .error x
        | .ok (s, v) =>
          let g := stepGen s e.w (r.rounds && fmRm (slotWord e.x r.f) == 5) (taking e r.g)
          let res := tab (fun l => if (taking e r.g).getLsbD l then blockOut r e v g.1 l else ⟨[], [], 0, []⟩)
          let s := raiseFlags g.2 e.w (res.foldl (fun a x => a ||| x.flags) 0)
          advance (blockStored r (r.nd (slotWord e.x r.f)) (taking e r.g) (lane ⟨[], [], 0, []⟩ res) s e.w
            { warpAt s e.w with qstat := res.foldl (fun q y => qstatAdd q y.evs) (warpAt s e.w).qstat }) e) := by
  rfl

end Sys2Proof.Machine

namespace Sys2Proof.Machine

/-- A lane that takes part finds its own result in the list of every lane's results. -/
theorem lane_tab_of_taking {α : Type} (d : α) (m : Mask) (out : Nat → α) (l : Nat) (hl : l < 32)
    (hm : m.getLsbD l = true) : lane d (tab (fun l => if m.getLsbD l then out l else d)) l = out l := by
  rw [lane_tab _ _ _ hl, if_pos hm]

theorem blockStored_setWarp (r : BlockForm) (n : Nat) (m : Mask) (out : Nat → BlockRes) (s : State) (w : Nat)
    (y z : Warp) : blockStored r n m out (setWarp s w z) w y = blockStored r n m out s w y := by
  unfold blockStored
  simp only [setWarp_setWarp, setWarp_free]

theorem blockStored_congr (r : BlockForm) (n : Nat) (m : Mask) (f g : Nat → BlockRes) (s : State) (w : Nat) (y : Warp)
    (h : ∀ l, l < 32 → m.getLsbD l = true → f l = g l) :
    blockStored r n m f s w y = blockStored r n m g s w y := by
  unfold blockStored
  rw [blockWritten_congr r n m s.free f g y h]

/-- What a block instruction leaves: the step of SRGEN, the flags and counters, the residuals, and the blocks (R129,
R130). -/
theorem blockOp_plain (r : BlockForm) (s : State) (c : Cur) (s1 : State) (v : Nat → List Nat) (hp : plain s c = true)
    (hl : blockLegal r (envOf s c) = true)
    (hs : readSrcs s (envOf s c) (takers s c r.g) (blockSrcs r.b) none false = .ok (s1, v)) :
    let e := envOf s c
    let m := takers s c r.g
    let fw := slotWord e.x r.f
    let x := warpAt s1 c.w
    let draws := r.rounds && fmRm fw == 5 && m != 0
    let gen := if draws then genStep x.srgen else x.srgen
    let out := blockOut r e v (if draws then genOut gen else 0)
    let flags := ((lanesOf m).map (fun l => (out l).flags)).foldl (fun a b => a ||| b) 0
    blockOp s r.g r.w r.f r.o r.d r.a r.b r.c r.nd r.na r.rounds r.val =
      .next (stepped (blockStored r (r.nd fw) m out s1 c.w { x with
        srgen := gen
        fflags := x.fflags ||| BitVec.ofNat 32 flags
        qstat := (lanesOf m).foldl (fun q l => qstatAdd q (out l).evs) x.qstat }) c) := by
  intro e m fw x draws gen out flags
  obtain ⟨hlen, hpaths, -, -⟩ := readSrcs_same s s1 c m _ _ _ v hp hs
  have hw : c.w < s1.warps.length := hlen ▸ warp_lt_of_plain hp
  have ho : decide (r.o.val < 3) = true := decide_eq_true r.o.isLt
  have hg : blockOut r e v (if draws then genOut (genStep x.srgen) else 0) = out := by
    by_cases hd : draws = true <;> simp [hd, gen, out]
  rw [blockOp_eq]
  refine runInstr_ok s _ c _ _ _ _ _ (issuing_of_plain hp) (by rw [hl, ho]; rfl) rfl ?_
  simp only
  rw [show readSrcs s (envOf s c) (taking (envOf s c) r.g) (blockSrcs r.b) none false = .ok (s1, v) from hs]
  simp only [stepGen_eq, foldl_flags_tab, foldl_evs_tab, raiseFlags]
  rw [show (envOf s c).w = c.w from rfl, show taking (envOf s c) r.g = m from rfl,
    show slotWord (envOf s c).x r.f = fw from rfl]
  simp only [setWarp_setWarp, warpAt_setWarp _ _ _ hw]
  rw [blockStored_setWarp, show blockOut r (envOf s c) v (if (r.rounds && fmRm fw == 5 && m != 0) = true then
      genOut (genStep (warpAt s1 c.w).srgen) else 0) = out from hg,
    blockStored_congr r _ m _ out s1 c.w _ (fun l hl hm => lane_tab_of_taking _ m out l hl hm)]
  refine advance_same s _ c hp ((blockStored_warps_length _ _ _ _ _ _ _).trans hlen) ?_
  rw [warpAt_blockStored _ _ _ _ _ _ _ hw]
  obtain ⟨h1, h2, h3, h4, h5⟩ := hpaths
  exact samePaths_trans ⟨h1, h2, h3, h4, h5⟩ (samePaths_blockWritten _ _ _ _ _ _)

/-- Block instructions store what their lanes give (R129, R130). -/
theorem exec_blockForm_plain (i : Instr) (r : BlockForm) (hi : blockForm i = some r) (s : State) (c : Cur) (s1 : State)
    (v : Nat → List Nat) :
    let e := envOf s c
    let m := takers s c r.g
    let fw := slotWord e.x r.f
    let x := warpAt s1 c.w
    let draws := r.rounds && fmRm fw == 5 && m != 0
    let gen := if draws then genStep x.srgen else x.srgen
    let out := fun l => r.val fw (rangeWords e.x r.a (r.na fw) l) ((v l).getD 0 0)
      (match r.c with | some rc => rangeWords e.x rc 48 l | none => []) l (if draws then genOut gen else 0)
    let flags := ((lanesOf m).map (fun l => (out l).flags)).foldl (fun a b => a ||| b) 0
    let y := { x with
      srgen := gen
      fflags := x.fflags ||| BitVec.ofNat 32 flags
      qstat := (lanesOf m).foldl (fun q l => qstatAdd q (out l).evs) x.qstat }
    let z := match r.c with
      | some rc => writeRange y rc 48 m (fun l j => (out l).resid.getD j 0)
      | none => y
    let shared := fun (j : Nat) => match r.c, r.d with
      | some (.v rc), .v rd => decide (rc.val ≤ rd.val + j) && decide (rd.val + j < rc.val + 48)
      | _, _ => false
    let t := setWarp s1 c.w (if r.w then z else writeRange z r.d (r.nd fw) m (fun l j =>
      if shared j then (Config.unstatedWord (s1.free + 64 * l + j)).toNat else (out l).out.getD j 0))
    plain s c = true → blockLegal r e = true →
    readSrcs s e m (match r.b with | some b => [(b, 1)] | none => []) none false = .ok (s1, v) →
    exec i s = .next (stepped (if r.c.isSome && !r.w then { t with free := s1.free + 2048 } else t) c) := by
  intro e m fw x draws gen out flags y z shared t hp hl hs
  rw [exec_blockForm i r s hi, blockOp_plain r s c s1 v hp hl hs]
  rfl

end Sys2Proof.Machine

/-! ## Encodings of a slot (R60 to R67) -/

namespace Sys2Proof.Machine

/-! ### Encodings fit their slot -/

/-- What R61 keeps of the canonical NaN: a code with a sign bit alone, or with a mantissa, has a place in the slot. -/
structure NanFits (f : Word) : Prop where
  nan_sign : fmNan f = 3 → fmS f ≠ 0
  nan_man  : fmNan f = 1 → fmM f ≠ 0

theorem nanFits_of_not_illegal {f : Word} (h : fmIllegal f = false) : NanFits f := by
  simp only [fmIllegal, Bool.or_eq_false_iff, Bool.and_eq_false_iff, beq_eq_false_iff_ne] at h
  obtain ⟨⟨⟨⟨-, hsign⟩, hman⟩, -⟩, -⟩ := h
  exact ⟨fun hn => hsign.resolve_left (not_not_intro hn), fun hn => hman.resolve_left (not_not_intro hn)⟩

theorem fmS_le_one (f : Word) : fmS f ≤ 1 := by
  unfold fmS bits
  omega

theorem fmNan_le_three (f : Word) : fmNan f ≤ 3 := by
  unfold fmNan bits
  omega

/-- The codes without a sign bit. -/
theorem two_pow_body_le (f : Word) : 2 ^ (fmE f + fmM f) ≤ 2 ^ fmW f :=
  Nat.pow_le_pow_right (by omega) (by unfold fmW; omega)

theorem fmTop_lt (f : Word) : fmTop f < 2 ^ (fmE f + fmM f) := by
  have := Nat.two_pow_pos (fmE f + fmM f)
  unfold fmTop
  omega

/-- A sign and a code below it. -/
theorem fmSign_add_lt (f : Word) (neg : Bool) (c : Nat) (h : c < 2 ^ (fmE f + fmM f)) :
    fmSign f neg + c < 2 ^ fmW f := by
  unfold fmSign
  split
  case isTrue hs =>
    have hs : fmS f = 1 := by
      simp only [Bool.and_eq_true, beq_iff_eq] at hs
      exact hs.2
    have hw : fmW f = fmE f + fmM f + 1 := by unfold fmW; omega
    rw [hw, Nat.add_sub_cancel, pow_succ]
    omega
  case isFalse => exact (Nat.zero_add c).symm ▸ lt_of_lt_of_le h (two_pow_body_le f)

theorem infBody_lt (f : Word) : (2 ^ fmE f - 1) * 2 ^ fmM f < 2 ^ (fmE f + fmM f) := by
  rw [pow_add]
  exact Nat.mul_lt_mul_of_pos_right (by have := Nat.two_pow_pos (fmE f); omega) (Nat.two_pow_pos _)

theorem fmMaxCode_lt (f : Word) : fmMaxCode f < 2 ^ (fmE f + fmM f) := by
  have htop := fmTop_lt f
  have hinf := infBody_lt f
  unfold fmMaxCode
  split
  · exact htop
  split
  · exact lt_of_le_of_lt (Nat.sub_le _ _) hinf
  split
  · exact hinf
  split
  · exact lt_of_le_of_lt (Nat.sub_le _ _) htop
  · exact htop

theorem fmInfCode_lt (f : Word) (neg : Bool) : fmInfCode f neg < 2 ^ fmW f := by
  unfold fmInfCode
  refine fmSign_add_lt f neg _ ?_
  split
  · exact infBody_lt f
  · exact fmTop_lt f

theorem fmNanCode_lt {f : Word} (h : NanFits f) (hn : fmNan f ≠ 0) : fmNanCode f < 2 ^ fmW f := by
  have hbody := two_pow_body_le f
  have hle := fmNan_le_three f
  unfold fmNanCode
  split
  case h_1 h1 =>
    have hm := h.nan_man h1
    have hpow : 2 ^ (fmM f - 1) < 2 ^ fmM f := Nat.pow_lt_pow_right (by omega) (by omega)
    calc (2 ^ fmE f - 1) * 2 ^ fmM f + 2 ^ (fmM f - 1)
        < (2 ^ fmE f - 1) * 2 ^ fmM f + 2 ^ fmM f := by omega
      _ = 2 ^ (fmE f + fmM f) := by
        rw [pow_add, Nat.sub_mul, Nat.one_mul, Nat.sub_add_cancel (Nat.le_mul_of_pos_left _ (Nat.two_pow_pos _))]
      _ ≤ 2 ^ fmW f := hbody
  case h_2 => exact lt_of_lt_of_le (fmTop_lt f) hbody
  case h_3 h1 h2 =>
    have h3 : fmNan f = 3 := by
      have h1 : fmNan f ≠ 1 := h1
      have h2 : fmNan f ≠ 2 := h2
      omega
    have hs : fmS f = 1 := by
      have := h.nan_sign h3
      have := fmS_le_one f
      omega
    exact Nat.pow_lt_pow_right (by omega) (by unfold fmW; omega)

theorem fmZero_lt (f : Word) (neg : Bool) : fmZero f neg < 2 ^ fmW f := by
  unfold fmZero
  split
  · exact Nat.two_pow_pos _
  · exact fmSign_add_lt f neg 0 (Nat.two_pow_pos _)

theorem fmMaxOf_lt (f : Word) (neg : Bool) : fmMaxOf f neg < 2 ^ fmW f := by
  have hmax := fmMaxCode_lt f
  unfold fmMaxOf
  split
  · exact lt_of_lt_of_le hmax (two_pow_body_le f)
  · split
    · exact Nat.two_pow_pos _
    · split
      case isTrue hs he => exact Nat.pow_lt_pow_right (by omega) (by unfold fmW; omega)
      case isFalse => exact fmSign_add_lt f true _ hmax

/-! ### Results of rounding fit their slot (R67) -/

theorem nanOut_code_lt {f : Word} (h : NanFits f) : (nanOut f).code < 2 ^ fmW f := by
  unfold nanOut
  split
  case isTrue hn => exact fmNanCode_lt h hn
  case isFalse => exact Nat.two_pow_pos _

theorem infOut_code_lt {f : Word} (h : NanFits f) (neg : Bool) : (infOut f neg).code < 2 ^ fmW f := by
  unfold infOut
  split
  · exact nanOut_code_lt h
  · split
    · exact fmInfCode_lt f neg
    · simp only
      split
      case isTrue hn => exact fmNanCode_lt h hn
      case isFalse => exact fmMaxOf_lt f neg

theorem overflowOut_lt {f : Word} (h : NanFits f) (neg : Bool) : overflowOut f neg < 2 ^ fmW f := by
  unfold overflowOut
  split
  · exact fmMaxOf_lt f neg
  · split
    · exact fmInfCode_lt f neg
    · split
      case isTrue hn => exact fmNanCode_lt h hn
      case isFalse => exact fmMaxOf_lt f neg

theorem roundEnd_code_lt {f : Word} (h : NanFits f) (x : Ex) (q : Nat) (g : Int) (fl : Nat) :
    (roundEnd f x q g fl).code < 2 ^ fmW f := by
  have hpos := Nat.two_pow_pos (fmW f)
  have hmax := fmMaxCode_lt f
  have hbody := two_pow_body_le f
  unfold roundEnd
  simp only
  generalize (if (exGrid x g).2.1 ≠ 0 then fl ||| flNX else fl) = fl'
  by_cases hq : q = 0
  · rw [if_pos hq]
    exact fmZero_lt f _
  rw [if_neg hq]
  by_cases hneg : fmS f = 0 ∧ x.neg = true
  · rw [if_pos hneg]
    exact nanOut_code_lt h
  rw [if_neg hneg]
  by_cases he : fmE f = 0
  · rw [if_pos he]
    by_cases hov : (if x.neg then 2 ^ fmM f else fmMaxCode f) < q
    · rw [if_pos hov]
      exact overflowOut_lt h _
    · rw [if_neg hov]
      show (if x.neg = true then 2 ^ fmW f - q else q) < 2 ^ fmW f
      split
      case isTrue => omega
      case isFalse hx =>
        rw [if_neg hx] at hov
        omega
  rw [if_neg he]
  by_cases hov : fmMaxCode f < fmCode f q g
  · rw [if_pos hov]
    exact overflowOut_lt h _
  · rw [if_neg hov]
    exact fmSign_add_lt f _ _ (by omega)

/-- A result fits its slot. -/
theorem roundTo_code_lt {f : Word} (h : NanFits f) (v : Val) (rw : Word) : (roundTo f v rw).code < 2 ^ fmW f := by
  have hend := roundEnd_code_lt h
  cases v with
  | nan => exact nanOut_code_lt h
  | inf n => exact infOut_code_lt h n
  | zero n => exact fmZero_lt f n
  | fin x =>
    show (roundEx f x rw).code < 2 ^ fmW f
    unfold roundEx
    simp only [apply_ite Rnd.code]
    generalize nearest (fmRm f) x (exLog2 x - fmM f) _ rw = q
    split_ifs
    · exact hend _ _ _ _
    · exact fmZero_lt f _
    · exact hend _ _ _ _
    · exact hend _ _ _ _
    · exact hend _ _ _ _

end Sys2Proof.Machine

/-! ## Exact reals and the values of encodings (R62 to R66) -/

namespace Sys2Proof.Machine

/-! ### Magnitudes and their binary logarithm -/

theorem int_log_eq {v : ℚ} {k : Int} (hlo : (2 : ℚ) ^ k ≤ v) (hhi : v < (2 : ℚ) ^ (k + 1)) : Int.log 2 v = k := by
  have hv : 0 < v := lt_of_lt_of_le (zpow_pos (by norm_num) k) hlo
  have h1 : k ≤ Int.log 2 v := (Int.zpow_le_iff_le_log (by norm_num) hv).1 (by exact_mod_cast hlo)
  have h2 : Int.log 2 v < k + 1 := (Int.lt_zpow_iff_log_lt (by norm_num) hv).1 (by exact_mod_cast hhi)
  omega

theorem abs_exQ (x : Ex) : |exQ x| = (x.num : ℚ) / x.den * (2 : ℚ) ^ x.exp := by
  unfold exQ
  rw [abs_mul, abs_div, abs_mul, Nat.abs_cast, Nat.abs_cast, abs_of_pos (zpow_pos (by norm_num : (0 : ℚ) < 2) _)]
  split <;> simp

/-- The comparison that `exLog2` makes. -/
def exFits (n d : Nat) (l : Int) : Bool :=
  if 0 ≤ l then decide (d * 2 ^ l.toNat ≤ n) else decide (d ≤ n * 2 ^ (-l).toNat)

theorem exFits_iff (n d : Nat) (l : Int) (hd : 0 < d) : exFits n d l = true ↔ (2 : ℚ) ^ l ≤ (n : ℚ) / d := by
  have hd' : (0 : ℚ) < d := by exact_mod_cast hd
  unfold exFits
  rw [le_div_iff₀ hd']
  split
  case isTrue h =>
    obtain ⟨k, rfl⟩ := Int.eq_ofNat_of_zero_le h
    rw [decide_eq_true_iff, Int.toNat_natCast, zpow_natCast, mul_comm]
    exact_mod_cast Iff.rfl
  case isFalse h =>
    obtain ⟨k, hk⟩ := Int.eq_ofNat_of_zero_le (show 0 ≤ -l by omega)
    rw [decide_eq_true_iff, hk, Int.toNat_natCast, show l = -(k : Int) by omega, zpow_neg, zpow_natCast,
      inv_mul_le_iff₀ (by positivity), mul_comm]
    exact_mod_cast Iff.rfl

theorem log2_bounds {n : Nat} (h : 0 < n) : (2 : ℚ) ^ (n.log2 : Int) ≤ n ∧ (n : ℚ) < (2 : ℚ) ^ (n.log2 + 1 : Int) := by
  have h1 := Nat.log2_self_le (show n ≠ 0 by omega)
  have h2 := Nat.lt_log2_self (n := n)
  constructor
  · rw [zpow_natCast]
    exact_mod_cast h1
  · rw [show ((n.log2 : Int) + 1) = ((n.log2 + 1 : Nat) : Int) by omega, zpow_natCast]
    exact_mod_cast h2

/-- `exLog2` is the floor of the binary logarithm of the magnitude. -/
theorem exLog2_eq (x : Ex) (hn : 0 < x.num) (hd : 0 < x.den) : exLog2 x = Int.log 2 |exQ x| := by
  have hd' : (0 : ℚ) < x.den := by exact_mod_cast hd
  obtain ⟨n1, n2⟩ := log2_bounds hn
  obtain ⟨d1, d2⟩ := log2_bounds hd
  set l : Int := (x.num.log2 : Int) - x.den.log2 with hl
  have hhi : (x.num : ℚ) / x.den < (2 : ℚ) ^ (l + 1) := by
    rw [div_lt_iff₀ hd']
    calc (x.num : ℚ) < (2 : ℚ) ^ (x.num.log2 + 1 : Int) := n2
      _ = (2 : ℚ) ^ (l + 1) * (2 : ℚ) ^ (x.den.log2 : Int) := by
        rw [← zpow_add₀ (by norm_num)]
        congr 1
        omega
      _ ≤ _ := mul_le_mul_of_nonneg_left d1 (by positivity)
  have hlo : (2 : ℚ) ^ (l - 1) ≤ (x.num : ℚ) / x.den := by
    rw [le_div_iff₀ hd']
    calc (2 : ℚ) ^ (l - 1) * x.den ≤ (2 : ℚ) ^ (l - 1) * (2 : ℚ) ^ (x.den.log2 + 1 : Int) :=
        mul_le_mul_of_nonneg_left d2.le (by positivity)
      _ = (2 : ℚ) ^ (x.num.log2 : Int) := by
        rw [← zpow_add₀ (by norm_num)]
        congr 1
        omega
      _ ≤ _ := n1
  have hscale : ∀ k : Int, (2 : ℚ) ^ k ≤ (x.num : ℚ) / x.den → (x.num : ℚ) / x.den < (2 : ℚ) ^ (k + 1) →
      x.exp + k = Int.log 2 |exQ x| := fun k h1 h2 => by
    symm
    rw [abs_exQ]
    have hp : (0 : ℚ) < (2 : ℚ) ^ x.exp := zpow_pos (by norm_num) _
    refine int_log_eq ?_ ?_
    · rw [add_comm, zpow_add₀ (by norm_num)]
      exact mul_le_mul_of_nonneg_right h1 hp.le
    · rw [show x.exp + k + 1 = (k + 1) + x.exp by omega, zpow_add₀ (by norm_num)]
      exact mul_lt_mul_of_pos_right h2 hp
  rw [show exLog2 x = x.exp + (if exFits x.num x.den l = true then l else l - 1) from rfl]
  split
  case isTrue h => exact hscale l ((exFits_iff _ _ _ hd).1 h) hhi
  case isFalse h =>
    refine hscale (l - 1) hlo ?_
    rw [sub_add_cancel]
    exact not_le.1 (fun hle => h ((exFits_iff _ _ _ hd).2 hle))

/-! ### Real values -/

/-- v is the zero or the real that has the value u. -/
def Val.holds (v : Val) (u : ℚ) : Prop := (u = 0 ∧ ∃ n, v = .zero n) ∨ (u ≠ 0 ∧ ∃ x, v = .fin x ∧ isReal x u)

theorem exQ_exScale (x : Ex) (e : Int) : exQ (exScale x e) = exQ x * (2 : ℚ) ^ e := by
  unfold exQ exScale
  rw [zpow_add₀ (by norm_num)]
  ring

theorem isReal_exScale {x : Ex} {u : ℚ} (h : isReal x u) (e : Int) : isReal (exScale x e) (u * (2 : ℚ) ^ e) := by
  obtain ⟨hn, hd, rfl⟩ := h
  exact ⟨hn, hd, exQ_exScale x e⟩

theorem valDy_holds (neg : Bool) (m : Nat) (e : Int) :
    (valDy neg m e).holds ((if neg then -1 else 1) * (m : ℚ) * (2 : ℚ) ^ e) := by
  have hp : (2 : ℚ) ^ e ≠ 0 := zpow_ne_zero _ (by norm_num)
  have hs : (if neg then -1 else 1 : ℚ) ≠ 0 := by split <;> norm_num
  unfold valDy
  by_cases h : m = 0
  · exact .inl ⟨by simp [h], neg, if_pos h⟩
  · have hm : (m : ℚ) ≠ 0 := by exact_mod_cast h
    refine .inr ⟨mul_ne_zero (mul_ne_zero hs hm) hp, _, if_neg h, Nat.pos_of_ne_zero h, one_pos, ?_⟩
    simp [exQ]

/-- An integer in units of 2^e. -/
theorem valDy_int_holds (i e : Int) : (valDy (decide (i < 0)) i.natAbs e).holds ((i : ℚ) * (2 : ℚ) ^ e) := by
  have h := valDy_holds (decide (i < 0)) i.natAbs e
  rwa [show (if decide (i < 0) = true then -1 else 1 : ℚ) * (i.natAbs : ℚ) = i by
    rw [Nat.cast_natAbs]
    by_cases hi : i < 0
    · simp [hi, abs_of_neg]
    · simp [hi, abs_of_nonneg (not_lt.1 hi)]] at h

/-! ### The value of an encoding -/

theorem bits_zero_eq_mod (x n : Nat) : bits x 0 n = x % 2 ^ n := rfl

theorem codeSign_iff {f : Word} {w : Nat} (hw : w < 2 ^ fmW f) :
    (fmS f == 1 && bits w (fmW f - 1) 1 == 1) = true ↔ 2 ^ (fmE f + fmM f) ≤ w := by
  have hs := fmS_le_one f
  rw [Bool.and_eq_true, beq_iff_eq, beq_iff_eq]
  by_cases h1 : fmS f = 1
  · have hW : fmW f = fmE f + fmM f + 1 := by unfold fmW; omega
    rw [hW, pow_succ] at hw
    rw [hW, Nat.add_sub_cancel, bits, Nat.shiftRight_eq_div_pow, pow_one]
    generalize hp : 2 ^ (fmE f + fmM f) = p at hw ⊢
    have hpos : 0 < p := hp ▸ Nat.two_pow_pos _
    have hlt : w / p < 2 := (Nat.div_lt_iff_lt_mul hpos).2 (by omega)
    rw [Nat.mod_eq_of_lt hlt, ← Nat.one_le_div_iff hpos]
    omega
  · have hW : fmW f = fmE f + fmM f := by unfold fmW; omega
    rw [hW] at hw
    constructor
    · exact fun h => absurd h.1 h1
    · exact fun h => absurd hw (not_lt.2 h)

/-- The value of a two's-complement integer encoding (R64). -/
theorem sx_code {f : Word} {w : Nat} (hw : w < 2 ^ fmW f) (he : fmE f = 0) :
    (((if fmS f = 1 then sx (fmW f) w else (bits w 0 (fmW f) : Nat) : Int)) : ℚ) =
      if fmS f = 1 ∧ 2 ^ fmM f ≤ w then (w : ℚ) - 2 ^ fmW f else w := by
  by_cases h1 : fmS f = 1
  · have hW : fmW f - 1 = fmM f := by unfold fmW; omega
    rw [if_pos h1, sx]
    simp only [Nat.mod_eq_of_lt hw, hW, h1, true_and]
    by_cases hlt : w < 2 ^ fmM f
    · rw [if_pos hlt, if_neg (not_le.2 hlt)]
      norm_cast
    · rw [if_neg hlt, if_pos (not_lt.1 hlt)]
      push_cast
      rfl
  · rw [if_neg h1, if_neg (fun h => h1 h.1), bits_zero_eq_mod, Nat.mod_eq_of_lt hw]
    norm_cast

/-- A code of the sign bit's range with no other bit is the sign bit. -/
theorem codeBody_eq_zero {f : Word} {w : Nat} (hw : w < 2 ^ fmW f) (hs : 2 ^ (fmE f + fmM f) ≤ w)
    (h0 : codeBody f w = 0) : w = 2 ^ (fmE f + fmM f) := by
  have hle : 2 ^ fmW f ≤ 2 * 2 ^ (fmE f + fmM f) := by
    rw [← pow_succ']
    exact Nat.pow_le_pow_right (by omega) (by have := fmS_le_one f; unfold fmW; omega)
  unfold codeBody at h0
  generalize 2 ^ (fmE f + fmM f) = p at hs h0 hle
  obtain ⟨k, rfl⟩ := Nat.dvd_of_mod_eq_zero h0
  have hk : k < 2 := by
    by_contra hk
    have : p * 2 ≤ p * k := Nat.mul_le_mul_left _ (by omega)
    omega
  obtain rfl | rfl : k = 0 ∨ k = 1 := by omega
  · omega
  · exact Nat.mul_one p

/-- Decoding a code that is not special, in a slot with an exponent field. -/
theorem fmDecode_of_not_special {f : Word} {w : Nat} (hw : w < 2 ^ fmW f) (hsp : codeSpecial f w = false)
    (he : fmE f ≠ 0) : fmDecode f w =
      if codeExp f w = 0 then valDy (decide (2 ^ (fmE f + fmM f) ≤ w)) (codeMan f w) (1 - fmBias f - fmM f)
      else valDy (decide (2 ^ (fmE f + fmM f) ≤ w)) (2 ^ fmM f + codeMan f w) (codeExp f w - fmBias f - fmM f) := by
  have hneg : (fmS f == 1 && bits w (fmW f - 1) 1 == 1) = decide (2 ^ (fmE f + fmM f) ≤ w) := by
    rw [Bool.eq_iff_iff, codeSign_iff hw, decide_eq_true_iff]
  simp only [codeSpecial, bne_iff_ne.2 he, Bool.true_and, Bool.or_eq_false_iff, Bool.and_eq_false_iff,
    beq_eq_false_iff_ne, bne_eq_false_iff_eq] at hsp
  obtain ⟨⟨⟨hinf, hnan1⟩, htop⟩, hnan3⟩ := hsp
  have hfold : w % 2 ^ (fmE f + fmM f) = codeBody f w := rfl
  have hexp : codeBody f w / 2 ^ fmM f = codeExp f w := rfl
  have hman : codeBody f w % 2 ^ fmM f = codeMan f w := rfl
  unfold fmDecode
  rw [if_neg he]
  simp only [hneg, bits_zero_eq_mod, hfold, hexp, hman, beq_iff_eq, fmTop]
  rw [if_neg, if_neg, if_neg, if_neg, if_neg]
  · exact fun h => hinf.elim (fun g => g h.1) (fun g => g h.2)
  · exact fun h => htop.elim (fun g => g.2 h.1) (fun g => g h.2)
  · exact fun h => hnan1.elim (fun g => g.elim (fun k => k h.1) (fun k => k h.2.1)) (fun g => h.2.2 g)
  · exact fun h => htop.elim (fun g => g.1 h.1) (fun g => g h.2)
  · rintro ⟨h1, h2, h3⟩
    exact hnan3.elim (fun g => g h1) (fun g => g (codeBody_eq_zero hw (of_decide_eq_true h2) h3))

/-- An encoding with a value decodes to that value. -/
theorem holds_of_slotValue {f : Word} {w : Nat} {u : ℚ} (h : slotValue f w = some u) : (fmDecode f w).holds u := by
  unfold slotValue at h
  split at h
  · cases h
  case isFalse hw =>
  obtain ⟨hw, hsp⟩ := not_or.1 hw
  have hw := not_le.1 hw
  have hsp := Bool.eq_false_iff.2 hsp
  split at h
  case isTrue he =>
    cases h
    rw [← sx_code hw he, fmDecode, if_pos he]
    exact valDy_int_holds _ _
  case isFalse he =>
    have hneg : ∀ m : ℕ, ∀ k : Int,
        (if decide (2 ^ (fmE f + fmM f) ≤ w) = true then -1 else 1 : ℚ) * (m : ℚ) * (2 : ℚ) ^ k =
        (if 2 ^ (fmE f + fmM f) ≤ w then -1 else 1 : ℚ) * (m : ℚ) * (2 : ℚ) ^ k := fun m k => by
      simp only [decide_eq_true_eq]
    rw [fmDecode_of_not_special hw hsp he]
    simp only at h
    split at h <;> cases h
    case isTrue hz =>
      rw [if_pos hz]
      have := valDy_holds (decide (2 ^ (fmE f + fmM f) ≤ w)) (codeMan f w) (1 - fmBias f - fmM f)
      rw [hneg, zpow_sub₀ (by norm_num), zpow_natCast] at this
      convert this using 1
      ring
    case isFalse hz =>
      rw [if_neg hz]
      have := valDy_holds (decide (2 ^ (fmE f + fmM f) ≤ w)) (2 ^ fmM f + codeMan f w) (codeExp f w - fmBias f - fmM f)
      rw [hneg, zpow_sub₀ (by norm_num), zpow_natCast] at this
      convert this using 1
      push_cast
      field_simp

end Sys2Proof.Machine

namespace Sys2Proof.Machine

theorem slotValue_nonneg {f : Word} {w : Nat} {u : ℚ} (h : slotValue f w = some u) (hw : w < 2 ^ (fmE f + fmM f)) :
    0 ≤ u := by
  unfold slotValue at h
  split at h
  · cases h
  split at h
  case isTrue he =>
    rw [he, Nat.zero_add] at hw
    rw [if_neg (fun hc => absurd hc.2 (not_le.2 hw))] at h
    cases h
    positivity
  case isFalse =>
    rw [if_neg (not_le.2 hw)] at h
    simp only at h
    split at h <;> cases h <;> positivity

/-- `fmEmax` is the binary logarithm of the largest finite value, when its code has a value. -/
theorem fmEmax_eq {f : Word} {m : ℚ} (h : slotValue f (fmMaxOf f false) = some m) : fmEmax f = Int.log 2 m := by
  have hmax : fmMaxOf f false = fmMaxCode f := rfl
  rw [hmax] at h
  have hm := slotValue_nonneg h (fmMaxCode_lt f)
  unfold fmEmax
  obtain ⟨rfl, n, hv⟩ | ⟨-, x, hv, hnum, hden, rfl⟩ := holds_of_slotValue h
  · rw [hv, Int.log_zero_right]
  · rw [hv, ← abs_of_nonneg hm]
    exact exLog2_eq x hnum hden

/-- Only a code without a magnitude decodes to a zero. -/
theorem codeBody_of_zero {f : Word} {w : Nat} {n : Bool} (he : fmE f ≠ 0) (h : fmDecode f w = .zero n) :
    codeBody f w = 0 := by
  have hdy : ∀ (b : Bool) (m : Nat) (e : Int), valDy b m e = .zero n → m = 0 := fun b m e hv => by
    unfold valDy at hv
    by_contra hm
    rw [if_neg hm] at hv
    cases hv
  unfold fmDecode at h
  rw [if_neg he] at h
  simp only at h
  split at h
  · cases h
  split at h
  · cases h
  split at h
  · cases h
  split at h
  · cases h
  split at h
  · cases h
  split at h
  case isTrue hexp =>
    have hman := hdy _ _ _ h
    have hdiv := Nat.div_add_mod (bits w 0 (fmE f + fmM f)) (2 ^ fmM f)
    rw [hexp, hman, Nat.mul_zero] at hdiv
    exact hdiv.symm
  case isFalse =>
    have := hdy _ _ _ h
    have := Nat.two_pow_pos (fmM f)
    omega

/-! ### binary32 and bfloat16 (R70) -/

theorem nanFits_b32 : NanFits fmB32 := nanFits_of_not_illegal (by decide)
theorem nanFits_bf16 : NanFits fmBf16 := nanFits_of_not_illegal (by decide)

theorem round32_code_lt (v : Val) : (round32 v).code < 2 ^ 32 := roundTo_code_lt nanFits_b32 v 0

theorem roundBf16_code_lt (v : Val) : (roundTo fmBf16 v 0).code < 2 ^ 16 := roundTo_code_lt nanFits_bf16 v 0

theorem round32_nan : (round32 .nan).code = nan32 := by decide

/-- A binary32 word that decodes to a zero has no magnitude bits. -/
theorem mag32_of_zero {x : Word} {n : Bool} (h : fmDecode fmB32 x.toNat = .zero n) : mag32 x = 0 :=
  codeBody_of_zero (f := fmB32) (by decide) h

theorem fmDecode_b32_zero : fmDecode fmB32 0 = .zero false := by decide

end Sys2Proof.Machine

/-! ## Blocks as numbers (R77, R78) -/

namespace Sys2Proof.Machine

/-! ### Bit fields of sums -/

theorem bits_lt (x lo n : Nat) : bits x lo n < 2 ^ n := Nat.mod_lt _ (Nat.two_pow_pos n)

theorem bits_zero_of_lt {x n : Nat} (h : x < 2 ^ n) : bits x 0 n = x := Nat.mod_eq_of_lt h

/-- A field below the place of a multiple. -/
theorem bits_add_mul_low (a b n lo k : Nat) (h : lo + k ≤ n) : bits (a + 2 ^ n * b) lo k = bits a lo k := by
  obtain ⟨d, rfl⟩ := Nat.exists_eq_add_of_le h
  rw [bits_eq_div_mod, bits_eq_div_mod, show a + 2 ^ (lo + k + d) * b = a + 2 ^ lo * (2 ^ k * (2 ^ d * b)) by ring,
    Nat.add_mul_div_left _ _ (Nat.two_pow_pos lo), Nat.add_mul_mod_self_left]

/-- A field at or above the place of a multiple, over a number below that place. -/
theorem bits_add_mul_high {a n : Nat} (b lo k : Nat) (h : a < 2 ^ n) :
    bits (a + 2 ^ n * b) (n + lo) k = bits b lo k := by
  rw [bits_eq_div_mod, bits_eq_div_mod, pow_add, ← Nat.div_div_eq_div_mul,
    Nat.add_mul_div_left _ _ (Nat.two_pow_pos n), Nat.div_eq_of_lt h, Nat.zero_add]

theorem add_mul_lt {a b n k : Nat} (ha : a < 2 ^ n) (hb : b < 2 ^ k) : a + 2 ^ n * b < 2 ^ (n + k) := by
  rw [pow_add]
  have hmul : 2 ^ n * (b + 1) ≤ 2 ^ n * 2 ^ k := Nat.mul_le_mul_left _ hb
  rw [Nat.mul_add] at hmul
  omega

/-! ### Packed fields -/

/-- The fields of a list, from bit 0 up, w bits each. -/
def packed (w : Nat) (l : List Nat) : Nat := Nat.ofDigits (2 ^ w) l

@[simp] theorem packed_nil (w : Nat) : packed w [] = 0 := rfl

theorem packed_cons (w c : Nat) (l : List Nat) : packed w (c :: l) = c + 2 ^ w * packed w l := by
  simp [packed, Nat.ofDigits_cons]

theorem packed_lt {w : Nat} {l : List Nat} (h : ∀ c ∈ l, c < 2 ^ w) : packed w l < 2 ^ (w * l.length) := by
  induction l with
  | nil => simp
  | cons c l ih =>
    rw [packed_cons, List.length_cons, Nat.mul_succ, Nat.add_comm (w * _)]
    exact add_mul_lt (h c (by simp)) (ih (fun d hd => h d (by simp [hd])))

theorem bits_packed {w : Nat} {l : List Nat} (h : ∀ c ∈ l, c < 2 ^ w) (j : Nat) :
    bits (packed w l) (j * w) w = l.getD j 0 := by
  induction l generalizing j with
  | nil => simp [bits]
  | cons c l ih =>
    have hc : c < 2 ^ w := h c (by simp)
    rw [packed_cons]
    cases j with
    | zero => rw [Nat.zero_mul, bits_add_mul_low _ _ _ _ _ (by omega), bits_zero_of_lt hc, List.getD_cons_zero]
    | succ j =>
      rw [Nat.succ_mul, Nat.add_comm (j * w), bits_add_mul_high _ _ _ hc, ih (fun d hd => h d (by simp [hd])),
        List.getD_cons_succ]

/-- The loop that packs fields. -/
theorem foldl_packed {α : Type} (w : Nat) (g : α → Nat) (l : List α) (a n : Nat) :
    l.foldl (fun (acc : Nat × Nat) c => (acc.1 + 2 ^ acc.2 * g c, acc.2 + w)) (a, n) =
      (a + 2 ^ n * packed w (l.map g), n + w * l.length) := by
  induction l generalizing a n with
  | nil => simp
  | cons c l ih =>
    rw [List.foldl_cons, ih, List.map_cons, packed_cons, List.length_cons]
    ext
    · rw [pow_add]
      ring
    · show n + w + w * l.length = n + w * (l.length + 1)
      ring

/-! ### The parts of a block -/

/-- A block from its three parts: 48 elements, the scale byte, the outlier entries. -/
def blkParts (w el scale ou : Nat) : Nat := el + 2 ^ (48 * w) * scale + 2 ^ (48 * w + 8) * ou

section
variable {w el scale ou : Nat}

theorem bits_blkParts_elem {j : Nat} (hj : j < 48) : bits (blkParts w el scale ou) (j * w) w = bits el (j * w) w := by
  have hle : j * w + w ≤ 48 * w := by
    rw [← Nat.succ_mul]
    exact Nat.mul_le_mul_right w hj
  rw [blkParts, bits_add_mul_low _ _ _ _ _ (by omega), bits_add_mul_low _ _ _ _ _ hle]

theorem bits_blkParts_elems (hel : el < 2 ^ (48 * w)) : bits (blkParts w el scale ou) 0 (48 * w) = el := by
  rw [blkParts, bits_add_mul_low _ _ _ _ _ (by omega), bits_add_mul_low _ _ _ _ _ (by omega), bits_zero_of_lt hel]

theorem bits_blkParts_scale (hel : el < 2 ^ (48 * w)) (hs : scale < 2 ^ 8) :
    bits (blkParts w el scale ou) (48 * w) 8 = scale := by
  rw [blkParts, bits_add_mul_low _ _ _ _ _ (by omega)]
  exact (bits_add_mul_high scale 0 8 hel).trans (bits_zero_of_lt hs)

theorem bits_blkParts_out (hel : el < 2 ^ (48 * w)) (hs : scale < 2 ^ 8) (lo k : Nat) :
    bits (blkParts w el scale ou) (48 * w + 8 + lo) k = bits ou lo k :=
  bits_add_mul_high ou lo k (add_mul_lt hel hs)

theorem blkParts_lt {o : Nat} (hel : el < 2 ^ (48 * w)) (hs : scale < 2 ^ 8) (ho : ou < 2 ^ (24 * o)) :
    blkParts w el scale ou < 2 ^ (48 * w + 8 + 24 * o) := add_mul_lt (add_mul_lt hel hs) ho

end

/-- The outlier entries that a block is made with: those given, and unused ones. -/
def outEntries (o : Nat) (outs : List (Nat × Nat)) : List Nat :=
  (List.range o).map (fun i => match outs[i]? with
    | some e => e.1 + 2 ^ 8 * e.2
    | none => 63)

theorem blkMake_eq (w o : Nat) (elems : List Nat) (scale : Nat) (outs : List (Nat × Nat)) :
    blkMake w o elems scale outs =
      blkParts w (packed w (elems.map (fun c => c % 2 ^ w))) scale (packed 24 (outEntries o outs)) := by
  have hel := foldl_packed w (fun c => c % 2 ^ w) elems 0 0
  have hou := foldl_packed 24 id (outEntries o outs) 0 0
  rw [Nat.zero_add, pow_zero, Nat.one_mul, Nat.zero_add] at hel hou
  rw [List.map_id] at hou
  unfold blkMake
  simp only [hel]
  exact congrArg (fun p : Nat × Nat => blkParts w _ scale p.1) hou

/-- Elements that fit are packed as they are. -/
theorem map_mod_of_lt {w : Nat} {l : List Nat} (h : ∀ c ∈ l, c < 2 ^ w) : l.map (fun c => c % 2 ^ w) = l := by
  rw [List.map_congr_left (fun c hc => Nat.mod_eq_of_lt (h c hc)), List.map_id']

/-! ### Non-finite blocks -/

theorem outEntries_nil (o : Nat) : outEntries o [] = List.replicate o 63 := by
  simp [outEntries, List.map_const']

theorem nonFiniteBlock_blkNonFinite (w o : Nat) : nonFiniteBlock w o (blkNonFinite w o) := by
  have hentry : ∀ c ∈ List.replicate o 63, c < 2 ^ 24 := fun c hc => by
    rw [List.eq_of_mem_replicate hc]
    decide
  have hlt := packed_lt hentry
  rw [List.length_replicate] at hlt
  unfold blkNonFinite nonFiniteBlock
  rw [blkMake_eq, List.map_nil, packed_nil, outEntries_nil]
  have h0 : 0 < 2 ^ (48 * w) := Nat.two_pow_pos _
  refine ⟨blkParts_lt h0 (by decide) hlt, bits_blkParts_elems h0, bits_blkParts_scale h0 (by decide), fun i hi => ?_⟩
  rw [bits_blkParts_out h0 (by decide), Nat.mul_comm, bits_packed hentry, List.getD_eq_getElem?_getD,
    List.getElem?_replicate, if_pos hi, Option.getD_some]

end Sys2Proof.Machine

/-! ## The outliers of a block (R79) -/

namespace Sys2Proof.Machine

/-- Element i comes before element j: a larger magnitude, or the same one and a lower index. -/
def before (mag : Nat → Nat) (i j : Nat) : Prop := mag j < mag i ∨ (mag j = mag i ∧ i < j)

theorem before_trans {mag : Nat → Nat} {i j k : Nat} (h1 : before mag i j) (h2 : before mag j k) :
    before mag i k := by
  unfold before at *
  omega

/-- The outliers that step 1 of R79 takes among the candidates `js`, at most n of them. -/
structure Picked (mag : Nat → Nat) (n : Nat) (js outs : List Nat) : Prop where
  length_eq : outs.length = min n js.length
  nodup     : outs.Nodup
  subset    : ∀ j ∈ outs, j ∈ js
  sorted    : outs.Pairwise (before mag)
  greatest  : ∀ i ∈ outs, ∀ j ∈ js, j ∉ outs → before mag i j

/-- An index with its magnitude. -/
def withMag (mag : Nat → Nat) (j : Nat) : Nat × Nat := (j, mag j)

/-- The search for the first candidate finds it. -/
theorem foldl_best (mag : Nat → Nat) (js : List Nat) (c : Nat) (h : (c :: js).Pairwise (· < ·)) :
    ∃ k, (js.map (withMag mag)).foldl (fun (best : Nat × Nat) d => if best.2 < d.2 then d else best) (withMag mag c) =
        withMag mag k ∧ k ∈ c :: js ∧ ∀ j ∈ c :: js, j = k ∨ before mag k j := by
  induction js generalizing c with
  | nil => exact ⟨c, rfl, by simp, fun j hj => .inl (List.mem_singleton.1 hj)⟩
  | cons d js ih =>
    obtain ⟨hc, hd, hjs⟩ : (∀ j ∈ d :: js, c < j) ∧ (∀ j ∈ js, d < j) ∧ js.Pairwise (· < ·) := by
      simpa only [List.pairwise_cons] using h
    rw [List.map_cons, List.foldl_cons]
    by_cases hlt : mag c < mag d
    · obtain ⟨k, hk, hmem, hall⟩ := ih d (List.pairwise_cons.2 ⟨hd, hjs⟩)
      rw [show (if (withMag mag c).2 < (withMag mag d).2 then withMag mag d else withMag mag c) = withMag mag d from
        if_pos hlt]
      refine ⟨k, hk, List.mem_cons_of_mem _ hmem, fun j hj => ?_⟩
      obtain rfl | hj := List.mem_cons.1 hj
      · right
        obtain rfl | hdk := hall d (by simp)
        · exact .inl hlt
        · exact before_trans hdk (.inl hlt)
      · exact hall j hj
    · have hcj : ∀ j ∈ js, c < j := fun j hj => hc j (by simp [hj])
      obtain ⟨k, hk, hmem, hall⟩ := ih c (List.pairwise_cons.2 ⟨hcj, hjs⟩)
      rw [show (if (withMag mag c).2 < (withMag mag d).2 then withMag mag d else withMag mag c) = withMag mag c from
        if_neg hlt]
      have hcd : before mag c d := by
        have := hc d (by simp)
        unfold before
        omega
      refine ⟨k, hk, ?_, fun j hj => ?_⟩
      · simp only [List.mem_cons] at hmem ⊢
        tauto
      · obtain rfl | rfl | hj : j = c ∨ j = d ∨ j ∈ js := by simpa using hj
        · exact hall _ (by simp)
        · right
          obtain rfl | hk' := hall c (by simp)
          · exact hcd
          · exact before_trans hk' hcd
        · exact hall j (by simp [hj])

/-- The outliers are the first candidates, in their order. -/
theorem picked_pickOuts (mag : Nat → Nat) (n : Nat) (js : List Nat) (h : js.Pairwise (· < ·)) :
    Picked mag n js (pickOuts n (js.map (withMag mag))) := by
  induction n generalizing js with
  | zero => exact ⟨by simp [pickOuts], List.nodup_nil, by simp [pickOuts], List.Pairwise.nil, by simp [pickOuts]⟩
  | succ n ih =>
    cases js with
    | nil => exact ⟨by simp [pickOuts], List.nodup_nil, by simp [pickOuts], List.Pairwise.nil, by simp [pickOuts]⟩
    | cons c js =>
      obtain ⟨k, hk, hmem, hall⟩ := foldl_best mag js c h
      have hnodup : (c :: js).Nodup := h.imp ne_of_lt
      have hlen : ((c :: js).filter (fun j => j != k)).length = js.length := by
        rw [← hnodup.erase_eq_filter, List.length_erase_of_mem hmem]
        rfl
      have hrest : pickOuts (n + 1) ((c :: js).map (withMag mag)) =
          k :: pickOuts n (((c :: js).filter (fun j => j != k)).map (withMag mag)) := by
        rw [List.map_cons, pickOuts]
        simp only [hk]
        rw [← List.map_cons, List.filter_map]
        rfl
      obtain ⟨hl, hn, hs, hp, hg⟩ := ih _ (h.filter (fun j => j != k))
      rw [hrest]
      generalize pickOuts n (((c :: js).filter (fun j => j != k)).map (withMag mag)) = outs at hl hn hs hp hg
      have hsub : ∀ j ∈ outs, j ∈ c :: js ∧ j ≠ k := fun j hj => by
        simpa only [List.mem_filter, bne_iff_ne] using hs j hj
      have hfirst : ∀ j ∈ c :: js, j ≠ k → before mag k j := fun j hj hne => (hall j hj).resolve_left hne
      refine ⟨?_, List.nodup_cons.2 ⟨fun hc => (hsub k hc).2 rfl, hn⟩, fun j hj => ?_,
        List.pairwise_cons.2 ⟨fun j hj => hfirst j (hsub j hj).1 (hsub j hj).2, hp⟩, fun i hi j hj hjn => ?_⟩
      · rw [List.length_cons, hl, hlen, List.length_cons]
        omega
      · obtain rfl | hj := List.mem_cons.1 hj
        · exact hmem
        · exact (hsub j hj).1
      · rw [List.mem_cons, not_or] at hjn
        obtain rfl | hi := List.mem_cons.1 hi
        · exact hfirst j hj hjn.1
        · exact hg i hi j (List.mem_filter.2 ⟨hj, bne_iff_ne.2 hjn.1⟩) hjn.2

end Sys2Proof.Machine

namespace Sys2Proof.Machine

/-! ### The counters of a block (step 5 of R79) -/

theorem flOF_and_ne (n : Nat) : (n &&& flOF != 0) = decide (bits n 2 1 = 1) := by
  have h : n &&& flOF = (n.testBit 2).toNat * 2 ^ 2 := Nat.and_two_pow n 2
  rw [h, Nat.testBit_eq_decide_div_mod_eq, bits_eq_div_mod, pow_one]
  cases decide (n / 2 ^ 2 % 2 = 1) <;> rfl

/-- The two counters that the elements decide, and that of a lost outlier. -/
theorem blockCounts_blockEvents (f : Word) (es : List (Val × Rnd)) (lost : Bool) :
    blockCounts f (blockEvents f es ++ if lost then [evOUTL] else []) es ∧
      (3 ∈ blockEvents f es ++ (if lost then [evOUTL] else []) ↔ lost = true) := by
  have hz : (es.any (fun r => !r.1.isZero) && es.all (fun r => (fmDecode f r.2.code).isZero)) = true ↔
      (∃ p ∈ es, p.1.isZero = false) ∧ ∀ p ∈ es, (fmDecode f p.2.code).isZero = true := by
    simp
  have hs : (!es.isEmpty && es.all (fun r => r.2.flags &&& flOF != 0)) = true ↔
      es ≠ [] ∧ ∀ p ∈ es, bits p.2.flags 2 1 = 1 := by
    simp only [flOF_and_ne, Bool.and_eq_true, Bool.not_eq_true', List.isEmpty_eq_false_iff, List.all_eq_true,
      decide_eq_true_iff]
  unfold blockCounts blockEvents
  rw [← hz, ← hs]
  generalize (es.any (fun r => !r.1.isZero) && es.all (fun r => (fmDecode f r.2.code).isZero)) = a
  generalize (!es.isEmpty && es.all (fun r => r.2.flags &&& flOF != 0)) = b
  revert a b lost
  decide

/-! ### The values of a block (R78, R80) -/

/-- Outlier entry i of a block, the field of 24 bits. -/
def outEntry (w blk i : Nat) : Nat := bits blk (48 * w + 8 + 24 * i) 24

/-- Whether one of the first o outlier entries names element j. -/
def namesElem (w o blk j : Nat) : Prop := ∃ i < o, bits (outEntry w blk i) 0 6 = j

theorem blkOutOf_succ (w o blk : Nat) {j : Nat} (hj : j < 48) : blkOutOf w (o + 1) blk j =
    if bits (outEntry w blk o) 0 6 = j then some (bits (outEntry w blk o) 8 16) else blkOutOf w o blk j := by
  unfold blkOutOf
  rw [List.range_succ, List.foldl_append, List.foldl_cons, List.foldl_nil, blkOut]
  rw [show bits blk (48 * w + 8 + 24 * o) 24 = outEntry w blk o from rfl]
  by_cases h : bits (outEntry w blk o) 0 6 = j
  · rw [if_pos (h.symm ▸ hj)]
  · rw [if_neg h]
    split
    case h_1 e he =>
      split at he
      · cases he
        exact if_neg h
      · cases he
    case h_2 => rfl

theorem blkOutOf_of_last (w o blk : Nat) {i j : Nat} (hj : j < 48) (hi : i < o) (hij : bits (outEntry w blk i) 0 6 = j)
    (hlast : ∀ k < o, i < k → bits (outEntry w blk k) 0 6 ≠ j) :
    blkOutOf w o blk j = some (bits (outEntry w blk i) 8 16) := by
  induction o with
  | zero => omega
  | succ o ih =>
    rw [blkOutOf_succ _ _ _ hj]
    obtain rfl | hlt : i = o ∨ i < o := by omega
    · exact if_pos hij
    · rw [if_neg (hlast o (by omega) hlt)]
      exact ih hlt (fun k hk hik => hlast k (by omega) hik)

theorem blkOutOf_eq_none_iff (w o blk : Nat) {j : Nat} (hj : j < 48) :
    blkOutOf w o blk j = none ↔ ¬ namesElem w o blk j := by
  unfold namesElem
  induction o with
  | zero => simp [blkOutOf]
  | succ o ih =>
    rw [blkOutOf_succ _ _ _ hj]
    by_cases h : bits (outEntry w blk o) 0 6 = j
    · rw [if_pos h]
      exact ⟨fun hc => absurd hc (Option.some_ne_none _), fun hc => absurd ⟨o, by omega, h⟩ hc⟩
    · rw [if_neg h, ih, not_iff_not]
      constructor
      · rintro ⟨i, hi, hij⟩
        exact ⟨i, by omega, hij⟩
      · rintro ⟨i, hi, hij⟩
        have hne : i ≠ o := fun hio => h (hio ▸ hij)
        exact ⟨i, by omega, hij⟩

theorem valScale_of_not_fin {v : Val} (e : Int) (h : ∀ x, v ≠ .fin x) : valScale v e = v := by
  cases v with
  | fin x => exact absurd rfl (h x)
  | _ => rfl

theorem blkValue_of_none {f : Word} {o blk j : Nat} (hs : blkScale (fmW f) blk ≠ 255)
    (hn : blkOutOf (fmW f) o blk j = none) :
    blkValue f o blk j = valScale (fmIn f (blkElem (fmW f) blk j)) ((blkScale (fmW f) blk : Nat) - 127) := by
  unfold blkValue
  simp only
  rw [if_neg hs, hn]

theorem blkValue_of_some {f : Word} {o blk j v : Nat} (hs : blkScale (fmW f) blk ≠ 255)
    (hn : blkOutOf (fmW f) o blk j = some v) : blkValue f o blk j = fmDecode fmBf16 v := by
  unfold blkValue
  simp only
  rw [if_neg hs, hn]

/-- The values of a block, as `blockRules` states them (R80). -/
theorem blkValue_rules (f : Word) (o blk j : Nat) :
    let w := fmW f
    let entry := fun i => bits blk (48 * w + 8 + 24 * i) 24
    let scale := bits blk (48 * w) 8
    (scale = 255 → blkValue f o blk j = .nan) ∧
    (∀ i < o, scale ≠ 255 → j < 48 → bits (entry i) 0 6 = j → (∀ k < o, i < k → bits (entry k) 0 6 ≠ j) →
      blkValue f o blk j = fmDecode fmBf16 (bits (entry i) 8 16)) ∧
    (scale ≠ 255 → j < 48 → (∀ i < o, bits (entry i) 0 6 ≠ j) →
      (∀ x u, fmIn f (bits blk (j * w) w) = .fin x → isReal x u →
        ∃ z, isReal z (u * (2 : ℚ) ^ ((scale : Int) - 127)) ∧ blkValue f o blk j = .fin z) ∧
      ((∀ x, fmIn f (bits blk (j * w) w) ≠ .fin x) → blkValue f o blk j = fmIn f (bits blk (j * w) w))) := by
  intro w entry scale
  refine ⟨fun hs => if_pos hs, fun i hi hs hj hij hlast => ?_, fun hs hj hnone => ?_⟩
  · exact blkValue_of_some hs (blkOutOf_of_last w o blk hj hi hij hlast)
  · have hn : blkOutOf w o blk j = none :=
      (blkOutOf_eq_none_iff w o blk hj).2 (fun ⟨i, hi, hij⟩ => hnone i hi hij)
    have hv : blkValue f o blk j = valScale (fmIn f (bits blk (j * w) w)) ((scale : Int) - 127) :=
      blkValue_of_none hs hn
    rw [hv]
    refine ⟨fun x u hx hu => ⟨_, isReal_exScale hu _, ?_⟩, fun hne => valScale_of_not_fin _ hne⟩
    rw [hx]
    rfl

end Sys2Proof.Machine

/-! ## Requantization (R81) -/

namespace Sys2Proof.Machine

theorem getD_map_range {α : Type} (n : Nat) (h : Nat → α) (d : α) {j : Nat} (hj : j < n) :
    ((List.range n).map h).getD j d = h j := by
  simp [List.getD_eq_getElem?_getD, hj]

/-- The flags of the elements that are not skipped are those of all, when the skipped ones raise none. -/
theorem foldl_flags_filter (l : List Nat) (p : Nat → Bool) (v : Nat → Val) (r : Nat → Rnd)
    (h : ∀ j, p j = false → (r j).flags = 0) :
    ((l.filter p).map (fun j => (v j, r j))).foldl (fun a q => a ||| q.2.flags) 0 =
      orFlags (l.map (fun j => (r j).flags)) := by
  unfold orFlags
  rw [List.foldl_map, List.foldl_map, List.foldl_filter]
  refine List.foldl_ext _ _ _ (fun a j _ => ?_)
  cases hp : p j <;> simp [h, hp]

theorem filterMap_ite {α : Type} (l : List Nat) (p : Nat → Bool) (h : Nat → α) :
    l.filterMap (fun j => if p j then none else some (h j)) = (l.filter (fun j => !p j)).map h := by
  induction l with
  | nil => rfl
  | cons j l ih => cases hp : p j <;> simp [hp, ih]

section
variable (f : Word) (blk o e : Nat) (g : Word) (l : Nat)

/-- Requantization leaves an element that an outlier entry names, and one whose value is not finite. -/
def requantSkips (j : Nat) : Bool :=
  (blkOutOf (fmW f) o blk j).isSome || (blkValue f o blk j).isNan || (blkValue f o blk j).isInf

/-- The result of rounding element j to the new scale. -/
def requantRnd (j : Nat) : Rnd :=
  if requantSkips f blk o j then ⟨0, 0⟩
  else roundTo f (valScale (blkValue f o blk j) (127 - (e : Int))) (genRot g l j)

/-- Element j of the new block. -/
def requantCode (j : Nat) : Nat :=
  if requantSkips f blk o j then blkElem (fmW f) blk j else (requantRnd f blk o e g l j).code

/-- The elements that are rounded. -/
def requantElems : List Nat := (List.range 48).filter (fun j => !requantSkips f blk o j)

/-- A non-finite block stays as it is. -/
theorem requantBlock_of_scale (hs : blkScale (fmW f) blk = 255) :
    requantBlock f blk o e g l = ⟨bits blk 0 (48 * fmW f + 8 + 24 * o), 0, []⟩ := by
  unfold requantBlock
  simp only
  rw [if_pos hs]

theorem requantBlock_to_255 (hs : blkScale (fmW f) blk ≠ 255) :
    requantBlock f blk o 255 g l = ⟨blkNonFinite (fmW f) o, 0, [evNONF]⟩ := by
  unfold requantBlock
  simp only
  rw [if_neg hs, if_pos trivial]

/-- A block requantized to a finite scale, by its parts. -/
theorem requantBlock_eq (hs : blkScale (fmW f) blk ≠ 255) (he : e ≠ 255) :
    requantBlock f blk o e g l =
      ⟨blkParts (fmW f) (packed (fmW f) ((List.range 48).map (requantCode f blk o e g l))) e
          (bits blk (48 * fmW f + 8) (24 * o)),
        orFlags ((List.range 48).map (fun j => (requantRnd f blk o e g l j).flags)),
        blockEvents f ((requantElems f blk o).map (fun j => (blkValue f o blk j, requantRnd f blk o e g l j)))⟩ := by
  have hres : ∀ j,
      (if (blkOutOf (fmW f) o blk j).isSome || (blkValue f o blk j).isNan || (blkValue f o blk j).isInf then
        ((none : Option (Val × Rnd)), blkElem (fmW f) blk j)
      else (some (blkValue f o blk j, roundTo f (valScale (blkValue f o blk j) (127 - (e : Int))) (genRot g l j)),
        (roundTo f (valScale (blkValue f o blk j) (127 - (e : Int))) (genRot g l j)).code)) =
      (if requantSkips f blk o j then none else some (blkValue f o blk j, requantRnd f blk o e g l j),
        requantCode f blk o e g l j) := fun j => by
    unfold requantCode requantRnd requantSkips
    split <;> rfl
  have hpack := fun (rs : List (Option (Val × Rnd) × Nat)) => foldl_packed (fmW f) Prod.snd rs 0 0
  have hflags := foldl_flags_filter (List.range 48) (fun j => !requantSkips f blk o j) (blkValue f o blk)
    (requantRnd f blk o e g l) (fun j hj => by
      unfold requantRnd
      rw [if_pos (by simpa using hj)])
  unfold requantBlock
  simp only
  rw [if_neg hs, if_neg he]
  simp only [hres, hpack, List.filterMap_map, List.map_map, Function.comp_def, filterMap_ite]
  rw [hflags, pow_zero, Nat.one_mul, Nat.zero_add]
  rfl

theorem requantCode_lt (h : NanFits f) (j : Nat) : requantCode f blk o e g l j < 2 ^ fmW f := by
  unfold requantCode
  split
  · exact bits_lt _ _ _
  case isFalse hk =>
    unfold requantRnd
    rw [if_neg hk]
    exact roundTo_code_lt h _ _

theorem requantSkips_iff {j : Nat} (hj : j < 48) : requantSkips f blk o j = true ↔
    namesElem (fmW f) o blk j ∨ (blkValue f o blk j).isNan = true ∨ (blkValue f o blk j).isInf = true := by
  unfold requantSkips
  rw [Bool.or_eq_true, Bool.or_eq_true, or_assoc, Option.isSome_iff_ne_none, ne_eq,
    blkOutOf_eq_none_iff _ _ _ hj, not_not]

end

/-- Requantization, as `blockRules` states it (R81). -/
theorem requantBlock_rules (f : Word) (blk o e : Nat) (g : Word) (l : Nat)
    (hf : fmIllegal f = false) (_hw2 : 2 ≤ fmW f) (_hw8 : fmW f ≤ 8) (he : e ≤ 255) (hblk : blk < 2 ^ (48 * fmW f + 8 + 24 * o)) :
    let w := fmW f
    let q := requantBlock f blk o e g l
    let val := fun j => blkValue f o blk j
    let named := fun j => ∃ i < o, bits (bits blk (48 * w + 8 + 24 * i) 24) 0 6 = j
    (bits blk (48 * w) 8 = 255 → q = ⟨blk, 0, []⟩) ∧
    (bits blk (48 * w) 8 ≠ 255 → e = 255 → nonFiniteBlock w o q.blk ∧ q.flags = 0 ∧ q.evs = [2]) ∧
    (bits blk (48 * w) 8 ≠ 255 → e ≠ 255 → ∃ r : Nat → Rnd,
      (∀ j < 48, ¬ named j → (val j).isNan = false → (val j).isInf = false →
        (∀ n, val j = .zero n → r j = roundTo f (.zero n) (genRot g l j)) ∧
        (∀ x u, val j = .fin x → isReal x u → ∃ z, isReal z (u * (2 : ℚ) ^ (127 - (e : Int))) ∧
          r j = roundTo f (.fin z) (genRot g l j)) ∧ bits q.blk (j * w) w = (r j).code) ∧
      (∀ j < 48, named j ∨ (val j).isNan = true ∨ (val j).isInf = true →
        r j = ⟨0, 0⟩ ∧ bits q.blk (j * w) w = bits blk (j * w) w) ∧
      bits q.blk (48 * w) 8 = e ∧ bits q.blk (48 * w + 8) (24 * o) = bits blk (48 * w + 8) (24 * o) ∧
      q.flags = orFlags ((List.range 48).map (fun j => (r j).flags)) ∧ 3 ∉ q.evs ∧
      ∃ es : List Nat, es.Nodup ∧ (∀ j, j ∈ es ↔ j < 48 ∧ ¬ named j ∧ (val j).isNan = false ∧ (val j).isInf = false) ∧
        blockCounts f q.evs (es.map (fun j => (val j, r j)))) := by
  intro w q val named
  have hnan := nanFits_of_not_illegal hf
  refine ⟨fun hs => ?_, fun hs he255 => ?_, fun hs he255 => ?_⟩
  · show requantBlock f blk o e g l = _
    rw [requantBlock_of_scale f blk o e g l hs, bits_zero_of_lt hblk]
  · have hq : q = ⟨blkNonFinite w o, 0, [evNONF]⟩ := by
      show requantBlock f blk o e g l = _
      rw [he255, requantBlock_to_255 f blk o g l hs]
    rw [hq]
    exact ⟨nonFiniteBlock_blkNonFinite w o, rfl, rfl⟩
  · have hcodes : ∀ c ∈ (List.range 48).map (requantCode f blk o e g l), c < 2 ^ w := fun c hc => by
      obtain ⟨j, -, rfl⟩ := List.mem_map.1 hc
      exact requantCode_lt f blk o e g l hnan j
    have hel : packed w ((List.range 48).map (requantCode f blk o e g l)) < 2 ^ (48 * w) := by
      have := packed_lt hcodes
      rwa [List.length_map, List.length_range, Nat.mul_comm] at this
    have he8 : e < 2 ^ 8 := by omega
    have hq : q = _ := requantBlock_eq f blk o e g l hs he255
    have helem : ∀ j < 48, bits q.blk (j * w) w = requantCode f blk o e g l j := fun j hj => by
      rw [hq]
      exact (bits_blkParts_elem hj).trans ((bits_packed hcodes j).trans (getD_map_range _ _ _ hj))
    have hskip : ∀ {j}, j < 48 → (requantSkips f blk o j = true ↔
        named j ∨ (val j).isNan = true ∨ (val j).isInf = true) := fun hj => requantSkips_iff f blk o hj
    have hskip' : ∀ {j}, j < 48 → (requantSkips f blk o j = false ↔
        ¬ named j ∧ (val j).isNan = false ∧ (val j).isInf = false) := fun hj => by
      rw [← Bool.not_eq_true, hskip hj]
      simp only [not_or, Bool.not_eq_true]
    have hcounts := blockCounts_blockEvents f
      ((requantElems f blk o).map (fun j => (val j, requantRnd f blk o e g l j))) false
    rw [if_neg (by decide), List.append_nil] at hcounts
    refine ⟨requantRnd f blk o e g l, fun j hj hn hnan hinf => ?_, fun j hj hsk => ?_, ?_, ?_, ?_, ?_,
      requantElems f blk o, List.nodup_range.filter _, fun j => ?_, ?_⟩
    · have hr := (hskip' hj).2 ⟨hn, hnan, hinf⟩
      have hrnd : requantRnd f blk o e g l j = roundTo f (valScale (val j) (127 - (e : Int))) (genRot g l j) :=
        if_neg (by rw [hr]; decide)
      refine ⟨fun n hv => ?_, fun x u hv hu => ⟨_, isReal_exScale hu _, ?_⟩, ?_⟩
      · rw [hrnd, hv]
        rfl
      · rw [hrnd, hv]
        rfl
      · rw [helem j hj]
        exact if_neg (by rw [hr]; decide)
    · have hr := (hskip hj).2 hsk
      refine ⟨if_pos hr, ?_⟩
      rw [helem j hj]
      exact if_pos hr
    · rw [hq]
      exact bits_blkParts_scale hel he8
    · rw [hq]
      exact (bits_blkParts_out hel he8 0 (24 * o)).trans (bits_zero_of_lt (bits_lt _ _ _))
    · rw [hq]
    · rw [hq, hcounts.2]
      decide
    · rw [requantElems, List.mem_filter, List.mem_range, Bool.not_eq_true']
      exact and_congr_right (fun hj => hskip' hj)
    · rw [hq]
      exact hcounts.1

end Sys2Proof.Machine

/-! ## Quantization with residual (R82) -/

namespace Sys2Proof.Machine

/-- The word of a sum rounded to binary32, as `quantResid` takes it. -/
theorem round32_sumVals (a b : Val) :
    (round32 (sumVals a b)).code = if infClash a b then nan32 else (round32 (addVals 0 a b)).code := by
  unfold sumVals
  split
  · exact round32_nan
  · rfl

theorem infClash_of_not_inf {a : Val} (b : Val) (h : a.isInf ≠ true) : infClash a b = false := by
  cases a with
  | inf n => exact absurd rfl h
  | _ => rfl

/-- The sums that `quantResid` quantizes. -/
def residInputs (xs rs : List Word) : List Word :=
  (List.range 48).map (fun j => BitVec.ofNat 32 (round32 (sumVals
    (fmDecode fmB32 (xs.getD j 0).toNat) (fmDecode fmB32 (rs.getD j 0).toNat))).code)

/-- The residual of element j with the value `v`, in the block `blk`. -/
def residWord (f : Word) (o blk : Nat) (v : Val) (j : Nat) : Nat :=
  if blkScale (fmW f) blk == 255 || v.isNan || v.isInf then 0
  else (round32 (sumVals v (blkValue f o blk j).flip)).code

theorem quantResid_eq (f : Word) (xs rs : List Word) (cap : Word) (o : Nat) (g : Word) (l : Nat) :
    quantResid f xs rs cap o g l = (quantBlock f (residInputs xs rs) cap o g l, (List.range 48).map (fun j =>
      residWord f o (quantBlock f (residInputs xs rs) cap o g l).blk
        (fmDecode fmB32 ((residInputs xs rs).getD j 0).toNat) j)) := rfl

theorem toNat_residInputs (xs rs : List Word) {j : Nat} (hj : j < 48) : ((residInputs xs rs).getD j 0).toNat =
    (round32 (sumVals (fmDecode fmB32 (xs.getD j 0).toNat) (fmDecode fmB32 (rs.getD j 0).toNat))).code := by
  rw [residInputs, getD_map_range _ _ _ hj, BitVec.toNat_ofNat, Nat.mod_eq_of_lt (round32_code_lt _)]

theorem residWord_eq (f : Word) (o blk : Nat) (v : Val) (j : Nat) : residWord f o blk v j =
    if bits blk (48 * fmW f) 8 = 255 ∨ v.isNan = true ∨ v.isInf = true then 0
    else (round32 (addVals 0 v (blkValue f o blk j).flip)).code := by
  unfold residWord blkScale
  simp only [Bool.or_eq_true, beq_iff_eq, or_assoc]
  refine ite_congr rfl (fun _ => rfl) (fun hfin => ?_)
  have hinf : v.isInf ≠ true := fun h => hfin (.inr (.inr h))
  rw [round32_sumVals, infClash_of_not_inf _ hinf]
  rfl

/-- Quantization with residual, as `blockRules` states it (R82). -/
theorem quantResid_rules (f : Word) (xs rs : List Word) (cap : Word) (o : Nat) (g : Word) (l : Nat) :
    ∃ ys : List Word, ys.length = 48 ∧
    (∀ j < 48, let a := fmDecode fmB32 (xs.getD j 0).toNat
      let b := fmDecode fmB32 (rs.getD j 0).toNat
      (ys.getD j 0).toNat = (if infClash a b then nan32 else (round32 (addVals 0 a b)).code)) ∧
    let p := quantResid f xs rs cap o g l
    p.1 = quantBlock f ys cap o g l ∧ p.2.length = 48 ∧
    ∀ j < 48, let v := fmDecode fmB32 (ys.getD j 0).toNat
      p.2.getD j 0 = (if bits p.1.blk (48 * fmW f) 8 = 255 ∨ v.isNan = true ∨ v.isInf = true then 0
        else (round32 (addVals 0 v (blkValue f o p.1.blk j).flip)).code) := by
  refine ⟨residInputs xs rs, by simp [residInputs], fun j hj => ?_, rfl, by simp [quantResid_eq], fun j hj => ?_⟩
  · exact (toNat_residInputs xs rs hj).trans (round32_sumVals _ _)
  · intro v
    rw [quantResid_eq]
    simp only
    rw [getD_map_range _ _ _ hj]
    exact residWord_eq f o _ v j

end Sys2Proof.Machine

/-! ## Quantization (R79) -/

namespace Sys2Proof.Machine

section
variable (f : Word) (xs : List Word) (cap : Word) (o : Nat) (g : Word) (l : Nat)

/-- The value of input j. -/
def quantVal (j : Nat) : Val := fmDecode fmB32 (xs.getD j 0).toNat

/-- The magnitude of input j, as a number. -/
def quantMag (j : Nat) : Nat := mag32 (xs.getD j 0)

/-- The inputs that are finite. -/
def quantFin : List Nat := (List.range 48).filter (fun j => !(quantVal xs j).isNan && !(quantVal xs j).isInf)

/-- The inputs above the cap, the candidates for outliers. -/
def quantCands : List Nat :=
  (quantFin xs).filter (fun j => !(fmDecode fmB32 cap.toNat).isNan && decide (mag32 cap < quantMag xs j))

/-- The outliers. -/
def quantOuts : List Nat := pickOuts o ((quantCands xs cap).map (withMag (quantMag xs)))

/-- The finite inputs that are no outliers. -/
def quantRest : List Nat := (quantFin xs).filter (fun j => !(quantOuts xs cap o).contains j)

/-- The largest magnitude of the finite inputs that are no outliers. -/
def quantMax : Nat := (quantRest xs cap o).foldl (fun m j => max m (quantMag xs j)) 0

/-- The scale exponent for a largest magnitude. -/
def quantScale (mx : Nat) : Int :=
  match fmDecode fmB32 mx with
  | .fin x => max 0 (min 254 (exLog2 x - fmEmax f + 127))
  | _ => 0

/-- The result of element j. -/
def quantRnd (j : Nat) : Rnd :=
  if (quantOuts xs cap o).contains j then ⟨0, 0⟩
  else if (quantVal xs j).isNan || (quantVal xs j).isInf then roundTo f (quantVal xs j) 0
  else roundTo f (valScale (quantVal xs j) (127 - quantScale f (quantMax xs cap o))) (genRot g l j)

/-- The outlier entry of element j. -/
def quantEntry (j : Nat) : Nat × Nat := (j, (roundTo fmBf16 (quantVal xs j) 0).code)

/-- Whether the block is not finite. -/
def quantBad : Bool :=
  (fmNan f == 0 && (List.range 48).any (fun j => (quantVal xs j).isNan)) ||
    (fmInf f == 0 && (List.range 48).any (fun j => (quantVal xs j).isInf))

end

theorem map_eq_map_range {α β : Type} (xs : List α) (d : α) (h : α → β) :
    xs.map h = (List.range xs.length).map (fun j => h (xs.getD j d)) := by
  refine List.ext_getElem (by simp) (fun j h1 h2 => ?_)
  rw [List.length_map] at h1
  simp [List.getD_eq_getElem?_getD, List.getElem?_eq_getElem h1]

theorem lt_of_mem_quantFin {xs : List Word} {j : Nat} (h : j ∈ quantFin xs) : j < 48 :=
  List.mem_range.1 (List.mem_filter.1 h).1

theorem picked_quantOuts (xs : List Word) (cap : Word) (o : Nat) :
    Picked (quantMag xs) o (quantCands xs cap) (quantOuts xs cap o) :=
  picked_pickOuts _ _ _ ((List.pairwise_lt_range.filter _).filter _)

theorem mem_quantFin_of_outs {xs : List Word} {cap : Word} {o j : Nat} (h : j ∈ quantOuts xs cap o) :
    j ∈ quantFin xs :=
  (List.mem_filter.1 ((picked_quantOuts xs cap o).subset j h)).1

/-- The candidates, as the model lists them. -/
theorem quantCands_eq (xs : List Word) (cap : Word) :
    (if (fmDecode fmB32 cap.toNat).isNan = true then []
      else ((quantFin xs).filter (fun j => decide (mag32 cap < mag32 (xs.getD j 0)))).map
        (fun j => (j, mag32 (xs.getD j 0)))) =
      (quantCands xs cap).map (withMag (quantMag xs)) := by
  unfold quantCands
  cases (fmDecode fmB32 cap.toNat).isNan
  · rfl
  · simp

theorem quantVals_eq {xs : List Word} (hlen : xs.length = 48) :
    xs.map (fun x => fmDecode fmB32 x.toNat) = (List.range 48).map (quantVal xs) := by
  rw [map_eq_map_range xs 0, hlen]
  rfl

/-- The triples that the model carries along: an index, its word, its value. -/
theorem quantTriples_eq (xs : List Word) :
    (List.range 48).map (fun j => (j, xs.getD j 0, ((List.range 48).map (quantVal xs)).getD j .nan)) =
      (List.range 48).map (fun j => (j, xs.getD j 0, quantVal xs j)) :=
  List.map_congr_left (fun j hj => by rw [getD_map_range _ _ _ (List.mem_range.1 hj)])

section
variable (f : Word) {xs : List Word} (cap : Word) (o : Nat) (g : Word) (l : Nat) (hlen : xs.length = 48)
include hlen

theorem quantBlock_of_bad (h : quantBad f xs = true) :
    quantBlock f xs cap o g l = ⟨blkNonFinite (fmW f) o, 0, [evNONF]⟩ := by
  unfold quantBlock
  simp only [quantVals_eq hlen, List.any_map]
  exact if_pos h

/-- A finite block, by its parts. -/
theorem quantBlock_eq (h : quantBad f xs = false) : quantBlock f xs cap o g l =
    ⟨blkMake (fmW f) o ((List.range 48).map (fun j => (quantRnd f xs cap o g l j).code))
        (quantScale f (quantMax xs cap o)).toNat ((quantOuts xs cap o).map (quantEntry xs)),
      orFlags ((List.range 48).map (fun j => (quantRnd f xs cap o g l j).flags)),
      blockEvents f ((quantRest xs cap o).map (fun j => (quantVal xs j, quantRnd f xs cap o g l j))) ++
        (if (quantOuts xs cap o).length < (quantCands xs cap).length then [evOUTL] else [])⟩ := by
  have hfin : (List.range 48).filter (fun j => !((quantVal xs j).isNan || (quantVal xs j).isInf)) = quantFin xs := by
    unfold quantFin
    simp only [Bool.not_or]
  have hents : (quantOuts xs cap o).map (fun j => (j, (roundTo fmBf16
      (((List.range 48).map (quantVal xs)).getD j .nan) 0).code)) = (quantOuts xs cap o).map (quantEntry xs) :=
    List.map_congr_left (fun j hj => by
      rw [getD_map_range _ _ _ (lt_of_mem_quantFin (mem_quantFin_of_outs hj)), quantEntry])
  have hrest : (quantRest xs cap o).map (fun j => (quantVal xs j,
      ((List.range 48).map (quantRnd f xs cap o g l)).getD j ⟨0, 0⟩)) =
      (quantRest xs cap o).map (fun j => (quantVal xs j, quantRnd f xs cap o g l j)) :=
    List.map_congr_left (fun j hj => by
      rw [getD_map_range _ _ _ (lt_of_mem_quantFin (List.mem_filter.1 hj).1)])
  rw [← hents, ← hrest, orFlags, List.foldl_map, ← List.length_map (as := quantCands xs cap) (withMag (quantMag xs))]
  unfold quantBlock
  simp only [quantVals_eq hlen, List.any_map, quantTriples_eq]
  refine (if_neg (fun hb => Bool.false_ne_true (h.symm.trans hb))).trans ?_
  simp only [List.filter_map, Function.comp_def, List.map_map, List.foldl_map, hfin, quantCands_eq]
  rfl

end

end Sys2Proof.Machine

namespace Sys2Proof.Machine

/-! ### The scale of a quantized block (steps 2 and 3 of R79) -/

theorem foldl_max_le_iff (mag : Nat → Nat) (l : List Nat) (a b : Nat) :
    l.foldl (fun m j => max m (mag j)) a ≤ b ↔ a ≤ b ∧ ∀ j ∈ l, mag j ≤ b := by
  induction l generalizing a with
  | nil => simp
  | cons j l ih => rw [List.foldl_cons, ih, max_le_iff, List.forall_mem_cons, and_assoc]

/-- The largest magnitude is that of an element that none exceeds. -/
theorem quantMax_eq {xs : List Word} {cap : Word} {o j : Nat} (hj : j ∈ quantRest xs cap o)
    (hmax : ∀ i ∈ quantRest xs cap o, quantMag xs i ≤ quantMag xs j) : quantMax xs cap o = quantMag xs j :=
  le_antisymm ((foldl_max_le_iff _ _ _ _).2 ⟨Nat.zero_le _, hmax⟩) (((foldl_max_le_iff _ _ _ _).1 le_rfl).2 j hj)

theorem quantMax_eq_zero {xs : List Word} {cap : Word} {o : Nat}
    (h : ∀ j ∈ quantRest xs cap o, quantMag xs j = 0) : quantMax xs cap o = 0 :=
  Nat.le_zero.1 ((foldl_max_le_iff _ _ _ _).2 ⟨le_rfl, fun j hj => (h j hj).le⟩)

theorem quantScale_bounds (f : Word) (mx : Nat) : 0 ≤ quantScale f mx ∧ quantScale f mx ≤ 254 := by
  unfold quantScale
  split <;> omega

theorem quantScale_zero (f : Word) : quantScale f 0 = 0 := by
  rw [quantScale, fmDecode_b32_zero]

/-- The scale from the values of the largest magnitude and of the slot's largest finite code. -/
theorem quantScale_eq {f : Word} {mx : Nat} {u m : ℚ} (hlt : mx < 2 ^ 31) (hmx : mx ≠ 0)
    (hu : slotValue fmB32 mx = some u) (hm : slotValue f (fmMaxOf f false) = some m) :
    quantScale f mx = max 0 (min 254 (Int.log 2 u - Int.log 2 m + 127)) := by
  rw [quantScale]
  obtain ⟨-, n, hv⟩ | ⟨-, x, hv, hnum, hden, rfl⟩ := holds_of_slotValue hu
  · have hbody : mx % 2 ^ 31 = 0 := codeBody_of_zero (f := fmB32) (by decide) hv
    exact absurd ((Nat.mod_eq_of_lt hlt).symm.trans hbody) hmx
  · have hpos := slotValue_nonneg hu hlt
    simp only [hv]
    rw [fmEmax_eq hm, exLog2_eq x hnum hden, abs_of_nonneg hpos]

/-! ### The results of the elements (step 4 of R79) -/

section
variable {f : Word} {xs : List Word} {cap : Word} {o : Nat} {g : Word} {l j : Nat}

theorem quantRnd_of_out (h : j ∈ quantOuts xs cap o) : quantRnd f xs cap o g l j = ⟨0, 0⟩ :=
  if_pos (List.contains_iff_mem.2 h)

/-- Outliers are finite and above the cap, so neither of the other kinds. -/
theorem not_mem_outs_of_nonfinite (h : (quantVal xs j).isNan = true ∨ (quantVal xs j).isInf = true) :
    j ∉ quantOuts xs cap o := fun hj => by
  have hfin := (List.mem_filter.1 (mem_quantFin_of_outs hj)).2
  rw [Bool.and_eq_true, Bool.not_eq_true', Bool.not_eq_true'] at hfin
  rw [hfin.1, hfin.2] at h
  simp at h

theorem not_mem_outs_of_zero {n : Bool} (h : quantVal xs j = .zero n) : j ∉ quantOuts xs cap o := fun hj => by
  have hc := (List.mem_filter.1 ((picked_quantOuts xs cap o).subset j hj)).2
  rw [Bool.and_eq_true, decide_eq_true_iff, quantMag, mag32_of_zero h] at hc
  exact absurd hc.2 (Nat.not_lt_zero _)

theorem quantRnd_of_nonfinite (h : (quantVal xs j).isNan = true ∨ (quantVal xs j).isInf = true) :
    quantRnd f xs cap o g l j = roundTo f (quantVal xs j) 0 := by
  unfold quantRnd
  rw [if_neg (fun hc => not_mem_outs_of_nonfinite h (List.contains_iff_mem.1 hc)), if_pos (by rwa [Bool.or_eq_true])]

theorem quantRnd_of_finite (h : j ∉ quantOuts xs cap o)
    (hfin : ((quantVal xs j).isNan || (quantVal xs j).isInf) = false) :
    quantRnd f xs cap o g l j =
      roundTo f (valScale (quantVal xs j) (127 - quantScale f (quantMax xs cap o))) (genRot g l j) := by
  unfold quantRnd
  rw [if_neg (fun hc => h (List.contains_iff_mem.1 hc)), hfin]
  rfl

theorem quantRnd_code_lt (h : NanFits f) : (quantRnd f xs cap o g l j).code < 2 ^ fmW f := by
  unfold quantRnd
  split
  · exact Nat.two_pow_pos _
  · split <;> exact roundTo_code_lt h _ _

end

/-! ### The outlier entries (R78) -/

theorem outEntries_lt {o : Nat} {outs : List (Nat × Nat)} (h : ∀ e ∈ outs, e.1 < 2 ^ 8 ∧ e.2 < 2 ^ 16) :
    ∀ c ∈ outEntries o outs, c < 2 ^ 24 := fun c hc => by
  obtain ⟨i, -, rfl⟩ := List.mem_map.1 hc
  split
  case h_1 e he =>
    obtain ⟨h1, h2⟩ := h e (List.mem_of_getElem? he)
    show e.1 + 2 ^ 8 * e.2 < 2 ^ 24
    omega
  case h_2 => decide

/-- The entry with number i. -/
theorem outEntries_getD {o i : Nat} (outs : List (Nat × Nat)) (hi : i < o) : (outEntries o outs).getD i 0 =
    match outs[i]? with
    | some e => e.1 + 2 ^ 8 * e.2
    | none => 63 := getD_map_range _ _ _ hi

theorem quantBad_iff (f : Word) (xs : List Word) : quantBad f xs = true ↔
    (fmNan f = 0 ∧ ∃ j < 48, (quantVal xs j).isNan = true) ∨ (fmInf f = 0 ∧ ∃ j < 48, (quantVal xs j).isInf = true) := by
  simp only [quantBad, Bool.or_eq_true, Bool.and_eq_true, beq_iff_eq, List.any_eq_true, List.mem_range]

end Sys2Proof.Machine

namespace Sys2Proof.Machine

/-! ### The block that a quantization gives -/

section
variable {f : Word} {xs : List Word} (cap : Word) (o : Nat) (g : Word) (l : Nat) (hlen : xs.length = 48)
include hlen

/-- A finite quantized block, field by field. -/
theorem quantBlock_fields (hf : NanFits f) (hbad : quantBad f xs = false) :
    let w := fmW f
    let q := quantBlock f xs cap o g l
    let r := quantRnd f xs cap o g l
    let outs := quantOuts xs cap o
    (∀ j < 48, bits q.blk (j * w) w = (r j).code) ∧
    bits q.blk (48 * w) 8 = (quantScale f (quantMax xs cap o)).toNat ∧
    (∀ i < o, bits q.blk (48 * w + 8 + 24 * i) 24 = (match outs[i]? with
      | some j => j + 2 ^ 8 * (roundTo fmBf16 (quantVal xs j) 0).code
      | none => 63)) ∧
    q.flags = orFlags ((List.range 48).map (fun j => (r j).flags)) ∧
    blockCounts f q.evs ((quantRest xs cap o).map (fun j => (quantVal xs j, r j))) ∧
    (3 ∈ q.evs ↔ o < (quantCands xs cap).length) := by
  intro w q r outs
  have hcodes : ∀ c ∈ (List.range 48).map (fun j => (r j).code), c < 2 ^ w := fun c hc => by
    obtain ⟨j, -, rfl⟩ := List.mem_map.1 hc
    exact quantRnd_code_lt hf
  have hel : packed w ((List.range 48).map (fun j => (r j).code)) < 2 ^ (48 * w) := by
    have := packed_lt hcodes
    rwa [List.length_map, List.length_range, Nat.mul_comm] at this
  have he : (quantScale f (quantMax xs cap o)).toNat < 2 ^ 8 := by
    have := quantScale_bounds f (quantMax xs cap o)
    omega
  have hentries := outEntries_lt (o := o) (outs := outs.map (quantEntry xs)) (fun e hm => by
    obtain ⟨j, hj, rfl⟩ := List.mem_map.1 hm
    have := lt_of_mem_quantFin (mem_quantFin_of_outs hj)
    exact ⟨show j < 2 ^ 8 by omega, roundBf16_code_lt _⟩)
  have hq : q = _ := quantBlock_eq f cap o g l hlen hbad
  rw [blkMake_eq, map_mod_of_lt hcodes] at hq
  have hcounts := blockCounts_blockEvents f ((quantRest xs cap o).map (fun j => (quantVal xs j, r j)))
    (decide (outs.length < (quantCands xs cap).length))
  simp only [decide_eq_true_eq] at hcounts
  rw [hq]
  refine ⟨fun j hj => ?_, bits_blkParts_scale hel he, fun i hi => ?_, rfl, hcounts.1, hcounts.2.trans ?_⟩
  · exact (bits_blkParts_elem hj).trans ((bits_packed hcodes j).trans (getD_map_range _ _ _ hj))
  · refine (bits_blkParts_out hel he _ _).trans ?_
    rw [Nat.mul_comm, bits_packed hentries, outEntries_getD _ hi, List.getElem?_map]
    cases outs[i]? <;> rfl
  · rw [(picked_quantOuts xs cap o).length_eq]
    omega

theorem quantBlock_nonfinite (hbad : quantBad f xs = true) :
    nonFiniteBlock (fmW f) o (quantBlock f xs cap o g l).blk ∧ (quantBlock f xs cap o g l).flags = 0 ∧
      (quantBlock f xs cap o g l).evs = [2] := by
  rw [quantBlock_of_bad f cap o g l hlen hbad]
  exact ⟨nonFiniteBlock_blkNonFinite _ o, rfl, rfl⟩

end

/-- A finite input is rounded at the scale of its block. -/
theorem quantRnd_of_real {f : Word} {xs : List Word} {cap : Word} {o : Nat} {g : Word} {l j : Nat} {u : ℚ}
    (hout : j ∉ quantOuts xs cap o) (hu : slotValue fmB32 (xs.getD j 0).toNat = some u) (hne : u ≠ 0) :
    ∃ z, isReal z (u * (2 : ℚ) ^ (127 - quantScale f (quantMax xs cap o))) ∧
      quantRnd f xs cap o g l j = roundTo f (.fin z) (genRot g l j) := by
  obtain ⟨h0, -⟩ | ⟨-, x, hv, hx⟩ := holds_of_slotValue hu
  · exact absurd h0 hne
  · have hval : quantVal xs j = .fin x := hv
    refine ⟨_, isReal_exScale hx _, ?_⟩
    rw [quantRnd_of_finite hout (by rw [hval]; rfl), hval]
    rfl

theorem quantRnd_of_zero {f : Word} {xs : List Word} {cap : Word} {o : Nat} {g : Word} {l j : Nat} {n : Bool}
    (h : quantVal xs j = .zero n) : quantRnd f xs cap o g l j = roundTo f (.zero n) (genRot g l j) := by
  rw [quantRnd_of_finite (not_mem_outs_of_zero h) (by rw [h]; rfl), h]
  rfl

/-- Quantization, as `blockRules` states it (R79). -/
theorem quantBlock_rules (f : Word) (xs : List Word) (cap : Word) (o : Nat) (g : Word) (l : Nat)
    (hf : fmIllegal f = false) (_hw2 : 2 ≤ fmW f) (_hw8 : fmW f ≤ 8) (hlen : xs.length = 48) :
    let w := fmW f
    let q := quantBlock f xs cap o g l
    let val := fun j => fmDecode fmB32 (xs.getD j 0).toNat
    let mag := fun j => (xs.getD j 0).toNat % 2 ^ 31
    let fin := (List.range 48).filter (fun j => !(val j).isNan && !(val j).isInf)
    let bad := (fmNan f = 0 ∧ ∃ j < 48, (val j).isNan = true) ∨ (fmInf f = 0 ∧ ∃ j < 48, (val j).isInf = true)
    let capNan := (fmDecode fmB32 cap.toNat).isNan
    let cands := fin.filter (fun j => !capNan && decide (cap.toNat % 2 ^ 31 < mag j))
    (bad → nonFiniteBlock w o q.blk ∧ q.flags = 0 ∧ q.evs = [2]) ∧
    (¬ bad → ∃ (outs : List Nat) (e : Nat) (r : Nat → Rnd),
      let rest := fin.filter (fun j => !outs.contains j)
      outs.length = min o cands.length ∧ outs.Nodup ∧ (∀ j ∈ outs, j ∈ cands) ∧
      outs.Pairwise (fun i j => mag j < mag i ∨ (mag j = mag i ∧ i < j)) ∧
      (∀ i ∈ outs, ∀ j ∈ cands, j ∉ outs → mag j < mag i ∨ (mag j = mag i ∧ i < j)) ∧
      e ≤ 254 ∧ ((∀ j ∈ rest, mag j = 0) → e = 0) ∧
      (∀ j ∈ rest, mag j ≠ 0 → (∀ i ∈ rest, mag i ≤ mag j) → ∀ u m, slotValue fmB32 (mag j) = some u →
        slotValue f (fmMaxOf f false) = some m → (e : Int) = max 0 (min 254 (Int.log 2 u - Int.log 2 m + 127))) ∧
      (∀ j < 48, (j ∈ outs → r j = ⟨0, 0⟩) ∧ ((val j).isNan = true ∨ (val j).isInf = true → r j = roundTo f (val j) 0) ∧
        (∀ n, val j = .zero n → r j = roundTo f (.zero n) (genRot g l j)) ∧
        (∀ u, j ∉ outs → slotValue fmB32 (xs.getD j 0).toNat = some u → u ≠ 0 →
          ∃ z, isReal z (u * (2 : ℚ) ^ (127 - (e : Int))) ∧ r j = roundTo f (.fin z) (genRot g l j))) ∧
      (∀ j < 48, bits q.blk (j * w) w = (r j).code) ∧ bits q.blk (48 * w) 8 = e ∧
      (∀ i < o, bits q.blk (48 * w + 8 + 24 * i) 24 = (match outs[i]? with
        | some j => j + 2 ^ 8 * (roundTo fmBf16 (val j) 0).code
        | none => 63)) ∧
      q.flags = orFlags ((List.range 48).map (fun j => (r j).flags)) ∧
      blockCounts f q.evs (rest.map (fun j => (val j, r j))) ∧ (3 ∈ q.evs ↔ o < cands.length)) := by
  intro w q val mag fin bad capNan cands
  refine ⟨fun h => quantBlock_nonfinite cap o g l hlen ((quantBad_iff f xs).2 h), fun h => ?_⟩
  have hbad : quantBad f xs = false := Bool.eq_false_iff.2 (fun hb => h ((quantBad_iff f xs).1 hb))
  obtain ⟨hlo, hhi⟩ := quantScale_bounds f (quantMax xs cap o)
  have he : ((quantScale f (quantMax xs cap o)).toNat : Int) = quantScale f (quantMax xs cap o) := Int.toNat_of_nonneg hlo
  obtain ⟨hl, hn, hs, hp, hg⟩ := picked_quantOuts xs cap o
  refine ⟨quantOuts xs cap o, (quantScale f (quantMax xs cap o)).toNat, quantRnd f xs cap o g l, hl, hn, hs, hp, hg,
    by omega, fun hz => ?_, fun j hj hne hmax u m hu hm => ?_, fun j _ => ⟨quantRnd_of_out, quantRnd_of_nonfinite,
      fun n => quantRnd_of_zero, fun u hout hu hne => ?_⟩, ?_⟩
  · rw [quantMax_eq_zero hz, quantScale_zero]
    rfl
  · rw [he, quantMax_eq hj hmax]
    exact quantScale_eq (Nat.mod_lt _ (Nat.two_pow_pos 31)) hne hu hm
  · rw [he]
    exact quantRnd_of_real hout hu hne
  · exact quantBlock_fields cap o g l hlen (nanFits_of_not_illegal hf) hbad

/-- The values of blocks (R78 to R82). -/
theorem blockRules_hold : blockRules :=
  ⟨quantBlock_rules, blkValue_rules, requantBlock_rules, quantResid_rules⟩

/-- Settles O9: the values of blocks by their parts, and what a block instruction stores by its two parts. -/
theorem blocks : Obligations.Blocks := ⟨blockRules_hold, exec_blockForm_plain⟩

end Sys2Proof.Machine

/-! ## Instruction words (R34 to R47)

An instruction reads back from its word because each format's fields stand apart in the word, each field's code reads
back, and the opcode map sends the major and the sub-operation to the reader of the instruction's shape. -/

namespace Sys2Proof.Machine

/-! ### The codes of the fields (R29, R31, R38, R41, R127) -/

@[simp] theorem opndOf_code (o : Opnd) : opndOf o.code = .ok o := by
  cases o with
  | v n => simp [opndOf, Opnd.code]
  | s n => simp [opndOf, Opnd.code]
  | q n => revert n; decide
  | b n => revert n; decide
  | z => rfl
  | lid => rfl

@[simp] theorem finOf_val {n : Nat} (p : Fin n) : finOf n p.val = .ok p := by
  simp [finOf]

@[simp] theorem guardOf_code (g : Guard) : guardOf g.code = g := by
  obtain ⟨p, n⟩ := g
  revert p n
  decide

@[simp] theorem latchOf_code (l : Option (Fin 3)) : latchOf (latchCode l) = l := by
  revert l
  decide

@[simp] theorem flagBit_beq_one (b : Bool) : (flagBit b == 1) = b := by
  cases b <;> rfl

@[simp] theorem hdrOf_codes (h : Hdr) : hdrOf h.g.code (flagBit h.w) (latchCode h.l) = h := by
  simp [hdrOf]

@[simp] theorem scopeOf_code (c : Scope) : scopeOf c.code = .ok c := by
  cases c <;> rfl

@[simp] theorem orderOf_code (c : Order) : orderOf c.code = c := by
  cases c <;> rfl

@[simp] theorem icondOf_code (c : ICond) : icondOf c.code = .ok c := by
  cases c <;> rfl

@[simp] theorem fcondOf_code (c : FCond) : fcondOf c.code = .ok c := by
  cases c <;> rfl

@[simp] theorem flagOf_code (c : FlagSel) : flagOf c.code = .ok c := by
  cases c <;> rfl

/-! Each code fits its field. -/

@[simp] theorem opnd_code_lt (o : Opnd) : o.code < 256 := by
  cases o <;> simp only [Opnd.code] <;> omega

theorem guard_code_lt (g : Guard) : g.code < 16 := by
  have := g.p.isLt
  unfold Guard.code
  split <;> omega

theorem latchCode_lt (l : Option (Fin 3)) : latchCode l < 4 := by
  revert l
  decide

theorem flagBit_lt (b : Bool) : flagBit b < 2 := by
  cases b <;> decide

theorem scope_code_lt (c : Scope) : c.code < 8 := by
  cases c <;> decide

theorem order_code_lt (c : Order) : c.code < 4 := by
  cases c <;> decide

theorem icond_code_lt (c : ICond) : c.code < 16 := by
  cases c <;> decide

/-- `fcmp` holds sub-operations 0 to 7, below that of `fclass`. -/
theorem fcond_code_lt (c : FCond) : c.code < 8 := by
  cases c <;> decide

@[simp] theorem flagSel_code_lt (c : FlagSel) : c.code < 512 := by
  cases c <;> decide

@[simp] theorem flagBit_div_two (b : Bool) : flagBit b / 2 = 0 := by
  cases b <;> rfl

@[simp] theorem flagBit_mod_two (b : Bool) : flagBit b % 2 = flagBit b := by
  cases b <;> rfl

/-- A one-bit modifier above one of three bits. -/
theorem flagBit_above_three {x : Nat} (hx : x < 8) (b : Bool) :
    x + 8 * flagBit b < 16 ∧ (x + 8 * flagBit b) % 8 = x ∧ (x + 8 * flagBit b) / 8 % 2 = flagBit b := by
  have := flagBit_lt b
  omega

theorem toNat_lt_of_pow_le {n k : Nat} (x : BitVec n) (h : 2 ^ n ≤ k) : x.toNat < k :=
  Nat.lt_of_lt_of_le x.isLt h

@[simp] theorem toNat_div_256 (x : BitVec 8) : x.toNat / 256 = 0 :=
  Nat.div_eq_of_lt x.isLt

@[simp] theorem latchCode_none : latchCode none = 0 := rfl

@[simp] theorem bare_g (g : Guard) : g.bare.g = g := rfl

@[simp] theorem flagBit_bare (g : Guard) : flagBit g.bare.w = 0 := rfl

@[simp] theorem latchCode_bare (g : Guard) : latchCode g.bare.l = 0 := rfl

/-! ### Readers -/

@[simp] theorem clear_nil (k : Except DecodeError Instr) : clear [] k = k := rfl

@[simp] theorem clear_cons (x : Nat) (xs : List Nat) (k : Except DecodeError Instr) :
    clear (x :: xs) k = if x = 0 then clear xs k else .error .reserved := by
  by_cases h : x = 0 <;> simp [clear, zeros, h]

@[simp] theorem ok_bind {α β : Type} (x : α) (k : α → Except DecodeError β) : (Except.ok x >>= k) = k x := rfl

/-- A word reads back as an instruction under its major's format, and it has 64 bits. -/
def ReadsBack (x : Nat) (i : Instr) : Prop := x < 2 ^ 64 ∧ parse x = .ok i

/-! ### The R format (R35, R47) -/

/-- The fields that `eR` joins to a word. -/
@[simps] def fieldsR (op sub m f : Nat) (h : Hdr) (d a b c : Nat) : RWord :=
  { op := op, g := h.g.code, w := flagBit h.w, l := latchCode h.l, d := d, a := a, b := b, c := c, f := f, m := m,
    sub := sub }

/-- The fields of the R format that an instruction chooses stay within their widths. -/
abbrev FitsR (m f d a b c : Nat) : Prop := m < 512 ∧ f < 16 ∧ d < 256 ∧ a < 256 ∧ b < 256 ∧ c < 256

/-- The majors of the R format, with a sub-operation of four bits. -/
abbrev PlaceR (op sub : Nat) : Prop :=
  op < 256 ∧ sub < 16 ∧ op ≠ 0 ∧ ¬ (0x1A ≤ op ∧ op ≤ 0x1F) ∧ ¬ (op = 0x40 ∨ op = 0x41) ∧
  ¬ ((0x50 ≤ op ∧ op ≤ 0x5E) ∨ (0x68 ≤ op ∧ op ≤ 0x6D)) ∧ op ≠ 0x60 ∧ op ≠ 0x6E

@[simp] theorem fieldsR_hdr (op sub m f : Nat) (h : Hdr) (d a b c : Nat) : (fieldsR op sub m f h d a b c).hdr = h :=
  hdrOf_codes h

@[simp] theorem fieldsR_grd (op sub m f : Nat) (h : Hdr) (d a b c : Nat) : (fieldsR op sub m f h d a b c).grd = h.g :=
  guardOf_code h.g

theorem eR_lt {op sub m f : Nat} (h : Hdr) {d a b c : Nat} (hop : op < 256) (hs : sub < 16) (hf : FitsR m f d a b c) :
    eR op sub m f h d a b c < 2 ^ 64 := by
  have := guard_code_lt h.g
  have := flagBit_lt h.w
  have := latchCode_lt h.l
  obtain ⟨h1, h2, h3, h4, h5, h6⟩ := hf
  unfold eR top
  omega

theorem rword_eR {op sub m f : Nat} (h : Hdr) {d a b c : Nat} (hop : op < 256) (hs : sub < 16)
    (hf : FitsR m f d a b c) : rword (eR op sub m f h d a b c) = fieldsR op sub m f h d a b c := by
  have := guard_code_lt h.g
  have := flagBit_lt h.w
  have := latchCode_lt h.l
  obtain ⟨h1, h2, h3, h4, h5, h6⟩ := hf
  simp only [rword, fieldsR, eR, top, bits, Nat.shiftRight_eq_div_pow, RWord.mk.injEq]
  omega

theorem parse_of_placeR {x sub : Nat} (h : PlaceR (rword x).op sub) : parse x = parseR (rword x) := by
  obtain ⟨-, -, h0, hI, hB, hM, hA, hS⟩ := h
  simp only [rword] at h0 hI hB hM hA hS
  simp only [parse, if_neg h0, if_neg hI, if_neg hB, if_neg hM, if_neg hA, if_neg hS]

/-- What the opcode map makes of the fields, the word gives. -/
theorem readsBack_eR {op sub m f : Nat} {h : Hdr} {d a b c : Nat} {i : Instr}
    (hk : parseR (fieldsR op sub m f h d a b c) = .ok i) (hp : PlaceR op sub := by decide)
    (hf : FitsR m f d a b c := by simp [FitsR, Fin.val_lt_of_le, toNat_lt_of_pow_le]) :
    ReadsBack (eR op sub m f h d a b c) i := by
  have ⟨hop, hs, _⟩ := hp
  have hr := rword_eR h hop hs hf
  refine ⟨eR_lt h hop hs hf, ?_⟩
  rw [parse_of_placeR (sub := sub) (by rw [hr]; exact hp), hr, hk]

/-- The opcode map hands the fields to a reader. -/
abbrev RoutesTo (r : RWord) (read : RWord → Except DecodeError Instr) : Prop := parseR r = read r

/-! ### The shapes of the R format

One lemma for each reader: where the opcode map hands an instruction's fields to the reader, the instruction reads
back. -/

section
variable {op sub m : Nat} {g : Guard} {h : Hdr} {f : FSlot} {d a b c : Opnd} {p q r : Pred}

theorem readsBack_rG {k : Guard → Instr} (hp : PlaceR op 0) (hm : m < 512)
    (hk : RoutesTo (fieldsR op 0 m 0 g.bare 0 0 0 0) fun r => rG { r with m := 0 } k) :
    ReadsBack (eR op 0 m 0 g.bare 0 0 0 0) (k g) :=
  readsBack_eR (hk.trans (by simp [rG, RWord.grd])) hp (by simp [FitsR, hm])

theorem readsBack_rA {k : Guard → Opnd → Instr} (hp : PlaceR op sub) (hm : m < 512)
    (hk : RoutesTo (fieldsR op sub m 0 g.bare 0 a.code 0 0) fun r => rA { r with m := 0 } k) :
    ReadsBack (eR op sub m 0 g.bare 0 a.code 0 0) (k g a) :=
  readsBack_eR (hk.trans (by simp [rA, RWord.grd])) hp (by simp [FitsR, hm])

theorem readsBack_rDA {k : Hdr → Opnd → Opnd → Instr} (hp : PlaceR op sub) (hm : m < 512)
    (hk : RoutesTo (fieldsR op sub m 0 h d.code a.code 0 0) fun r => rDA { r with m := 0 } k) :
    ReadsBack (eR op sub m 0 h d.code a.code 0 0) (k h d a) :=
  readsBack_eR (hk.trans (by simp [rDA, RWord.hdr])) hp (by simp [FitsR, hm])

theorem readsBack_rDAB {k : Hdr → Opnd → Opnd → Opnd → Instr} (hp : PlaceR op sub)
    (hk : RoutesTo (fieldsR op sub 0 0 h d.code a.code b.code 0) (rDAB · k)) :
    ReadsBack (eR op sub 0 0 h d.code a.code b.code 0) (k h d a b) :=
  readsBack_eR (hk.trans (by simp [rDAB])) hp

theorem readsBack_rDABC {k : Hdr → Opnd → Opnd → Opnd → Opnd → Instr} (hp : PlaceR op sub)
    (hk : RoutesTo (fieldsR op sub 0 0 h d.code a.code b.code c.code) (rDABC · k)) :
    ReadsBack (eR op sub 0 0 h d.code a.code b.code c.code) (k h d a b c) :=
  readsBack_eR (hk.trans (by simp [rDABC])) hp

theorem readsBack_rAB {k : Guard → Opnd → Opnd → Instr} (hp : PlaceR op sub)
    (hk : RoutesTo (fieldsR op sub 0 0 g.bare 0 a.code b.code 0) (rAB · k)) :
    ReadsBack (eR op sub 0 0 g.bare 0 a.code b.code 0) (k g a b) :=
  readsBack_eR (hk.trans (by simp [rAB])) hp

theorem readsBack_rPPP {k : Hdr → Pred → Pred → Pred → Instr} (hp : PlaceR op sub)
    (hk : RoutesTo (fieldsR op sub 0 0 h p.val q.val r.val 0) (rPPP · k)) :
    ReadsBack (eR op sub 0 0 h p.val q.val r.val 0) (k h p q r) :=
  readsBack_eR (hk.trans (by simp [rPPP])) hp

theorem readsBack_rPP {k : Hdr → Pred → Pred → Instr} (hp : PlaceR op sub)
    (hk : RoutesTo (fieldsR op sub 0 0 h p.val q.val 0 0) (rPP · k)) :
    ReadsBack (eR op sub 0 0 h p.val q.val 0 0) (k h p q) :=
  readsBack_eR (hk.trans (by simp [rPP])) hp

theorem readsBack_rPA {k : Hdr → Pred → Opnd → Instr} (hp : PlaceR op sub)
    (hk : RoutesTo (fieldsR op sub 0 0 h p.val a.code 0 0) (rPA · k)) :
    ReadsBack (eR op sub 0 0 h p.val a.code 0 0) (k h p a) :=
  readsBack_eR (hk.trans (by simp [rPA])) hp

theorem readsBack_rDP {k : Hdr → Opnd → Pred → Instr} (hp : PlaceR op sub)
    (hk : RoutesTo (fieldsR op sub 0 0 h d.code p.val 0 0) (rDP · k)) :
    ReadsBack (eR op sub 0 0 h d.code p.val 0 0) (k h d p) :=
  readsBack_eR (hk.trans (by simp [rDP])) hp

theorem readsBack_fDA {k : Hdr → FSlot → Opnd → Opnd → Instr} (hp : PlaceR op sub)
    (hk : RoutesTo (fieldsR op sub 0 f.val h d.code a.code 0 0) (fDA · k)) :
    ReadsBack (eR op sub 0 f.val h d.code a.code 0 0) (k h f d a) :=
  readsBack_eR (hk.trans (by simp [fDA])) hp

theorem readsBack_fDAB {k : Hdr → FSlot → Opnd → Opnd → Opnd → Instr} (hp : PlaceR op sub)
    (hk : RoutesTo (fieldsR op sub 0 f.val h d.code a.code b.code 0) (fDAB · k)) :
    ReadsBack (eR op sub 0 f.val h d.code a.code b.code 0) (k h f d a b) :=
  readsBack_eR (hk.trans (by simp [fDAB])) hp

theorem readsBack_fDABC {k : Hdr → FSlot → Opnd → Opnd → Opnd → Opnd → Instr} (hp : PlaceR op sub)
    (hk : RoutesTo (fieldsR op sub 0 f.val h d.code a.code b.code c.code) (fDABC · k)) :
    ReadsBack (eR op sub 0 f.val h d.code a.code b.code c.code) (k h f d a b c) :=
  readsBack_eR (hk.trans (by simp [fDABC])) hp

theorem readsBack_qDAB {k : Guard → Bool → FSlot → Fin 3 → Opnd → Opnd → Opnd → Instr} {o : Fin 3} {w : Bool}
    (hp : PlaceR op sub)
    (hk : RoutesTo (fieldsR op sub o.val f.val ⟨g, w, none⟩ d.code a.code b.code 0) (qDAB · k)) :
    ReadsBack (eR op sub o.val f.val ⟨g, w, none⟩ d.code a.code b.code 0) (k g w f o d a b) :=
  readsBack_eR (hk.trans (by simp [qDAB])) hp

theorem readsBack_lxDAB {k : Hdr → Fin 6 → Opnd → Opnd → Opnd → Instr} {seg : Fin 6} (hp : PlaceR op sub)
    (hk : RoutesTo (fieldsR op sub seg.val 0 h d.code a.code b.code 0) (lxDAB · k)) :
    ReadsBack (eR op sub seg.val 0 h d.code a.code b.code 0) (k h seg d a b) :=
  readsBack_eR (hk.trans (by simp [lxDAB])) hp

theorem readsBack_cpDA {k : Hdr → Fin 8 → Opnd → Opnd → Instr} {chan : Fin 8} (hp : PlaceR op 0)
    (hk : RoutesTo (fieldsR op 0 chan.val 0 h d.code a.code 0 0) (cpDA · k)) :
    ReadsBack (eR op 0 chan.val 0 h d.code a.code 0 0) (k h chan d a) :=
  readsBack_eR (hk.trans (by simp [cpDA])) hp

theorem readsBack_cpDAB {k : Hdr → Fin 8 → Opnd → Opnd → Opnd → Instr} {chan : Fin 8} (hp : PlaceR op 0)
    (hk : RoutesTo (fieldsR op 0 chan.val 0 h d.code a.code b.code 0) (cpDAB · k)) :
    ReadsBack (eR op 0 chan.val 0 h d.code a.code b.code 0) (k h chan d a b) :=
  readsBack_eR (hk.trans (by simp [cpDAB])) hp

theorem readsBack_csrDA {k : Hdr → Opnd → BitVec 9 → Opnd → Instr} {n : BitVec 9} (hp : PlaceR op 0)
    (hk : RoutesTo (fieldsR op 0 n.toNat 0 h d.code a.code 0 0) (csrDA · k)) :
    ReadsBack (eR op 0 n.toNat 0 h d.code a.code 0 0) (k h d n a) :=
  readsBack_eR (hk.trans (by simp [csrDA])) hp

theorem readsBack_rCode {k : Guard → BitVec 8 → Instr} {n : BitVec 8} (hp : PlaceR op 0)
    (hk : RoutesTo (fieldsR op 0 n.toNat 0 g.bare 0 0 0 0) (rCode · k)) :
    ReadsBack (eR op 0 n.toNat 0 g.bare 0 0 0 0) (k g n) :=
  readsBack_eR (hk.trans (by simp [rCode])) hp

theorem readsBack_lxClip {k : Hdr → Fin 6 → Bool → Opnd → Opnd → Opnd → Instr} {seg : Fin 6} {clip : Bool}
    (hp : PlaceR op sub)
    (hk : RoutesTo (fieldsR op sub (seg.val + 8 * flagBit clip) 0 h d.code a.code b.code 0) (lxClip · k)) :
    ReadsBack (eR op sub (seg.val + 8 * flagBit clip) 0 h d.code a.code b.code 0) (k h seg clip d a b) := by
  obtain ⟨hlt, hlo, hbit⟩ := flagBit_above_three (x := seg.val) (by omega) clip
  exact readsBack_eR (hk.trans (by simp [lxClip, Nat.div_eq_of_lt hlt, hlo, hbit])) hp (by simp [FitsR]; omega)

end

/-! ### Instructions that join modifiers in X bits 4 to 12 -/

section
variable {g : Guard} {h : Hdr} {f : FSlot} {d a b c : Opnd}

theorem readsBack_fcvti (k : Fin 8) (uns trunc : Bool) :
    ReadsBack (encode (.fcvti h f k uns trunc d a)) (.fcvti h f k uns trunc d a) := by
  have hu := flagBit_lt uns
  have ht := flagBit_lt trunc
  have hlt : k.val + 8 * flagBit uns + 16 * flagBit trunc < 32 := by omega
  have hk : (k.val + 8 * flagBit uns + 16 * flagBit trunc) % 8 = k.val := by omega
  have huns : (k.val + 8 * flagBit uns + 16 * flagBit trunc) / 8 % 2 = flagBit uns := by omega
  have htr : (k.val + 8 * flagBit uns + 16 * flagBit trunc) / 16 % 2 = flagBit trunc := by omega
  exact readsBack_eR (by simp [parseR, parse25, Nat.div_eq_of_lt hlt, hk, huns, htr]) (by decide)
    (by simp [FitsR]; omega)

theorem readsBack_ficvt (k : Fin 8) (uns : Bool) :
    ReadsBack (encode (.ficvt h f k uns d a b)) (.ficvt h f k uns d a b) := by
  obtain ⟨hlt, hk, hu⟩ := flagBit_above_three k.isLt uns
  exact readsBack_eR (by simp [parseR, parse25, Nat.div_eq_of_lt hlt, hk, hu]) (by decide)
    (by simp [FitsR]; omega)

theorem readsBack_invk (p : Pred) (ntf : Bool) : ReadsBack (encode (.invk h p ntf d a b)) (.invk h p ntf d a b) := by
  obtain ⟨hlt, hp, hn⟩ := flagBit_above_three p.isLt ntf
  exact readsBack_eR (by simp [parseR, parseA0, Nat.div_eq_of_lt hlt, hp, hn]) (by decide) (by simp [FitsR]; omega)

theorem readsBack_hsend (p : Pred) (ntf : Bool) :
    ReadsBack (encode (.hsend h p ntf d a b c)) (.hsend h p ntf d a b c) := by
  obtain ⟨hlt, hp, hn⟩ := flagBit_above_three p.isLt ntf
  exact readsBack_eR (by simp [parseR, parseA0, Nat.div_eq_of_lt hlt, hp, hn]) (by decide) (by simp [FitsR]; omega)

theorem readsBack_coll (p : Pred) (ntf : Bool) : ReadsBack (encode (.coll h p ntf d a)) (.coll h p ntf d a) := by
  obtain ⟨hlt, hp, hn⟩ := flagBit_above_three p.isLt ntf
  exact readsBack_eR (by simp [parseR, parseA0, Nat.div_eq_of_lt hlt, hp, hn]) (by decide) (by simp [FitsR]; omega)

theorem readsBack_cinv (selI selD : Bool) : ReadsBack (encode (.cinv g selI selD a b)) (.cinv g selI selD a b) := by
  have hi := flagBit_lt selI
  have hd := flagBit_lt selD
  have hlt : flagBit selI + 2 * flagBit selD < 4 := by omega
  have hselI : (flagBit selI + 2 * flagBit selD) % 2 = flagBit selI := by omega
  have hselD : (flagBit selI + 2 * flagBit selD) / 2 % 2 = flagBit selD := by omega
  exact readsBack_eR (by simp [parseR, parse62, Nat.div_eq_of_lt hlt, hselI, hselD]) (by decide)
    (by simp [FitsR]; omega)

theorem readsBack_fence (scp : Scope) (ord : Order) (sc : Bool) :
    ReadsBack (encode (.fence g scp ord sc)) (.fence g scp ord sc) := by
  have ho := order_code_lt ord
  have hs := flagBit_lt sc
  have hlt : ord.code + 4 * flagBit sc < 8 := by omega
  have hord : (ord.code + 4 * flagBit sc) % 4 = ord.code := by omega
  have hsc : (ord.code + 4 * flagBit sc) / 4 % 2 = flagBit sc := by omega
  have hscp := scope_code_lt scp
  exact readsBack_eR (by simp [parseR, parse63, Nat.div_eq_of_lt hlt, hord, hsc]) ⟨by omega, by omega, by decide⟩
    (by simp [FitsR]; omega)

theorem readsBack_fencex (scp : Scope) (src dst : PathSet) :
    ReadsBack (encode (.fencex g scp src dst)) (.fencex g scp src dst) := by
  have hs := src.isLt
  have hd := dst.isLt
  have hlt : src.toNat + 16 * dst.toNat < 256 := by omega
  have hsrc : BitVec.ofNat 4 (src.toNat + 16 * dst.toNat) = src := by bv_omega
  have hdst : BitVec.ofNat 4 ((src.toNat + 16 * dst.toNat) / 16) = dst := by bv_omega
  have hscp := scope_code_lt scp
  exact readsBack_eR (by simp [parseR, parse64, Nat.div_eq_of_lt hlt, hsrc, hdst]) ⟨by omega, by omega, by decide⟩
    (by simp [FitsR]; omega)

theorem readsBack_mload (obj blk : Bool) (o : BitVec 2) :
    ReadsBack (encode (.mload g f obj blk o a b c)) (.mload g f obj blk o a b c) := by
  have hobj := flagBit_lt obj
  have hblk := flagBit_lt blk
  have hlt : flagBit obj + 2 * flagBit blk + 4 * o.toNat < 16 := by omega
  have hb0 : (flagBit obj + 2 * flagBit blk + 4 * o.toNat) % 2 = flagBit obj := by omega
  have hb1 : (flagBit obj + 2 * flagBit blk + 4 * o.toNat) / 2 % 2 = flagBit blk := by omega
  have hb2 : (flagBit obj + 2 * flagBit blk + 4 * o.toNat) / 4 = o.toNat := by omega
  exact readsBack_eR (by simp [parseR, parse80, only, Nat.div_eq_of_lt hlt, hb0, hb1, hb2]) (by decide)
    (by simp [FitsR]; omega)

theorem readsBack_mstream (blk : Bool) (o : BitVec 2) :
    ReadsBack (encode (.mstream g f blk o a b c)) (.mstream g f blk o a b c) := by
  have hblk := flagBit_lt blk
  have hlt : flagBit blk + 2 * o.toNat < 8 := by omega
  have hb0 : (flagBit blk + 2 * o.toNat) % 2 = flagBit blk := by omega
  have hb1 : (flagBit blk + 2 * o.toNat) / 2 = o.toNat := by omega
  exact readsBack_eR (by simp [parseR, parse80, only, Nat.div_eq_of_lt hlt, hb0, hb1]) (by decide)
    (by simp [FitsR]; omega)

theorem readsBack_mdrain (w clr : Bool) (rows : Fin 64) :
    ReadsBack (encode (.mdrain g w f clr rows d a)) (.mdrain g w f clr rows d a) := by
  have hclr := flagBit_lt clr
  have hlt : flagBit clr + 2 * rows.val < 128 := by omega
  have hb0 : (flagBit clr + 2 * rows.val) % 2 = flagBit clr := by omega
  have hb1 : (flagBit clr + 2 * rows.val) / 2 = rows.val := by omega
  exact readsBack_eR (by simp [parseR, parse80, only, Nat.div_eq_of_lt hlt, hb0, hb1]) (by decide)
    (by simp [FitsR]; omega)

theorem readsBack_mfill (rows : Fin 64) : ReadsBack (encode (.mfill g f rows a d)) (.mfill g f rows a d) :=
  readsBack_eR (by simp [parseR, parse80, only]) (by decide) (by simp [FitsR]; omega)

theorem readsBack_mzero (rows : Fin 64) : ReadsBack (encode (.mzero g rows a)) (.mzero g rows a) :=
  readsBack_eR (by simp [parseR, parse80, only]) (by decide) (by simp [FitsR]; omega)

/-! ### Instructions with a rule of their own for a field -/

theorem readsBack_icmp (cond : ICond) (wide : Bool) {p : Pred} :
    ReadsBack (encode (.icmp h cond wide p a b)) (.icmp h cond wide p a b) := by
  have hw := flagBit_lt wide
  exact readsBack_eR (by simp [parseR, parse16]) ⟨by decide, icond_code_lt cond, by decide⟩
    (by simp [FitsR, Fin.val_lt_of_le]; omega)

/-- A condition's code lies below the sub-operation of `fclass`. -/
theorem readsBack_fcmp (cond : FCond) {k : Fin 8} {p : Pred} :
    ReadsBack (encode (.fcmp h f cond k p a b)) (.fcmp h f cond k p a b) := by
  have hc := fcond_code_lt cond
  exact readsBack_eR (by simp [parseR, parse24, Nat.ne_of_lt hc]) ⟨by decide, by omega, by decide⟩

/-- A port stands as its operand code, 224 and its number. -/
theorem readsBack_qctlQbind (p : Fin 6) : ReadsBack (encode (.qctlQbind g p a)) (.qctlQbind g p a) :=
  readsBack_eR (by simp [parseR, parse72]) (by decide) (by simp [FitsR]; omega)

theorem readsBack_qctlQstat (p : Fin 8) : ReadsBack (encode (.qctlQstat h d p)) (.qctlQstat h d p) :=
  readsBack_eR (by simp [parseR, parse72]) (by decide) (by simp [FitsR]; omega)

end

/-! ### The I format (R36, R100) -/

/-- The fields that `eI` joins to a word. -/
@[simps] def fieldsI (op : Nat) (h : Hdr) (d a : Nat) (imm : Word) (v : Nat) : IWord :=
  { op := op, g := h.g.code, w := flagBit h.w, l := latchCode h.l, d := d, a := a, imm := imm.toNat, v := v }

theorem readsBack_eI {op : Nat} {h : Hdr} {d a : Nat} {imm : Word} {v : Nat} {i : Instr}
    (hop : 0x1A ≤ op ∧ op ≤ 0x1F) (hd : d < 256) (ha : a < 256) (hv : v < 2)
    (hk : parseI (fieldsI op h d a imm v) = .ok i) : ReadsBack (eI op h d a imm v) i := by
  have := guard_code_lt h.g
  have := flagBit_lt h.w
  have := latchCode_lt h.l
  have := imm.isLt
  have hw : iword (eI op h d a imm v) = fieldsI op h d a imm v := by
    simp only [iword, fieldsI, eI, top, bits, Nat.shiftRight_eq_div_pow, IWord.mk.injEq]
    omega
  have hm : bits (eI op h d a imm v) 56 8 = op := congrArg IWord.op hw
  refine ⟨by unfold eI top; omega, ?_⟩
  simp only [parse, hm, hw, hk]
  rw [if_neg (by omega), if_pos hop]

theorem readsBack_iDA {op : Nat} {h : Hdr} {d a : Opnd} {imm : Word} {k : Hdr → Opnd → Opnd → Word → Instr}
    (hop : 0x1A ≤ op ∧ op ≤ 0x1F)
    (hk : parseI (fieldsI op h d.code a.code imm 0) = iDA (fieldsI op h d.code a.code imm 0) k) :
    ReadsBack (eI op h d.code a.code imm 0) (k h d a imm) :=
  readsBack_eI hop (opnd_code_lt d) (opnd_code_lt a) (by decide) (hk.trans (by simp [iDA]))

/-! ### The M format (R38, R110, R112, R164, R255) -/

/-- The fields that `eM` joins to a word. -/
@[simps] def fieldsM (op : Nat) (h : Hdr) (m : MemOp) (d : Nat) : MWord :=
  { op := op, g := h.g.code, w := flagBit h.w, l := latchCode h.l, d := d, a := m.a.code, b := m.b.code,
    sc := m.sc.toNat, off := m.off.toNat, ord := m.ord.code, scp := m.scp.code, nt := flagBit m.nt }

@[simp] theorem memOf_fieldsM (op : Nat) (h : Hdr) (m : MemOp) (d : Nat) : memOf (fieldsM op h m d) = .ok m := by
  simp [memOf]

/-- The majors of the M format. -/
abbrev MajorM (op : Nat) : Prop := (0x50 ≤ op ∧ op ≤ 0x5E) ∨ (0x68 ≤ op ∧ op ≤ 0x6D)

theorem readsBack_eM {op : Nat} {h : Hdr} {m : MemOp} {d : Nat} {i : Instr} (hop : MajorM op) (hd : d < 256)
    (hk : parseM (fieldsM op h m d) = .ok i) : ReadsBack (eM op h m d) i := by
  have := guard_code_lt h.g
  have := flagBit_lt h.w
  have := latchCode_lt h.l
  have := flagBit_lt m.nt
  have := scope_code_lt m.scp
  have := order_code_lt m.ord
  have := opnd_code_lt m.a
  have := opnd_code_lt m.b
  have := m.off.isLt
  have := m.sc.isLt
  have hw : mword (eM op h m d) = fieldsM op h m d := by
    simp only [mword, fieldsM, eM, top, bits, Nat.shiftRight_eq_div_pow, MWord.mk.injEq]
    omega
  have hm : bits (eM op h m d) 56 8 = op := congrArg MWord.op hw
  refine ⟨by unfold eM top; omega, ?_⟩
  simp only [parse, hm, hw, hk]
  rw [if_neg (by omega), if_neg (by omega), if_neg (by omega), if_pos hop]

theorem readsBack_mLoad {op : Nat} {h : Hdr} {m : MemOp} {d : Opnd} {k : Hdr → MemOp → Opnd → Instr}
    (hop : MajorM op)
    (hk : parseM (fieldsM op h m d.code) = mLoad (fieldsM op h m d.code) k) :
    ReadsBack (eM op h m d.code) (k h m d) :=
  readsBack_eM hop (opnd_code_lt d) (hk.trans (by simp [mLoad]))

theorem readsBack_mStore {op : Nat} {g : Guard} {m : MemOp} {d : Opnd} {k : Guard → MemOp → Opnd → Instr}
    (hop : MajorM op) (hk : parseM (fieldsM op g.bare m d.code) = mStore (fieldsM op g.bare m d.code) k) :
    ReadsBack (eM op g.bare m d.code) (k g m d) :=
  readsBack_eM hop (opnd_code_lt d) (hk.trans (by simp [mStore]))

/-! ### The A format (R39, R165, R272) -/

/-- The fields that `eA` joins to a word. -/
@[simps] def fieldsA (op aop f a64 : Nat) (h : Hdr) (m : AtomOp) (d c : Nat) : AWord :=
  { op := op, g := h.g.code, w := flagBit h.w, l := latchCode h.l, d := d, a := m.a.code, b := m.b.code, c := c,
    sc := m.sc.toNat, a64 := a64, aop := aop, ord := m.ord.code, scp := m.scp.code, f := f }

@[simp] theorem atomMem_fieldsA (op aop f a64 : Nat) (h : Hdr) (m : AtomOp) (d c : Nat) :
    atomMem (fieldsA op aop f a64 h m d c) = .ok m := by
  simp [atomMem]

/-- The opcode map of a major of the A format. -/
def parseA (r : AWord) : Except DecodeError Instr := if r.op = 0x60 then parse60 r else parse6E r

theorem readsBack_eA {op aop f a64 : Nat} {h : Hdr} {m : AtomOp} {d c : Opnd} {i : Instr}
    (hop : op = 0x60 ∨ op = 0x6E) (haop : aop < 16) (hf : f < 16) (ha64 : a64 < 2)
    (hk : parseA (fieldsA op aop f a64 h m d.code c.code) = .ok i) :
    ReadsBack (eA op aop f a64 h m d.code c.code) i := by
  have := guard_code_lt h.g
  have := flagBit_lt h.w
  have := latchCode_lt h.l
  have := scope_code_lt m.scp
  have := order_code_lt m.ord
  have := opnd_code_lt m.a
  have := opnd_code_lt m.b
  have := opnd_code_lt c
  have := opnd_code_lt d
  have := m.sc.isLt
  have hw : aword (eA op aop f a64 h m d.code c.code) = fieldsA op aop f a64 h m d.code c.code := by
    simp only [aword, fieldsA, eA, top, bits, Nat.shiftRight_eq_div_pow, AWord.mk.injEq]
    omega
  have hm : bits (eA op aop f a64 h m d.code c.code) 56 8 = op := congrArg AWord.op hw
  refine ⟨by unfold eA top; omega, ?_⟩
  rcases hop with rfl | rfl <;> simpa [parse, hm, hw, parseA] using hk

theorem readsBack_aInt {op aop : Nat} {h : Hdr} {m : AtomOp} {wide : Bool} {d c : Opnd}
    {k : Hdr → AtomOp → Bool → Opnd → Opnd → Instr} (hop : op = 0x60 ∨ op = 0x6E) (haop : aop < 16)
    (hk : parseA (fieldsA op aop 0 (flagBit wide) h m d.code c.code) =
      aInt (fieldsA op aop 0 (flagBit wide) h m d.code c.code) k) :
    ReadsBack (eA op aop 0 (flagBit wide) h m d.code c.code) (k h m wide d c) :=
  readsBack_eA hop haop (by decide) (flagBit_lt wide) (hk.trans (by simp [aInt]))

theorem readsBack_aSlot {op aop : Nat} {h : Hdr} {m : AtomOp} {f : FSlot} {d c : Opnd}
    {k : Hdr → AtomOp → FSlot → Opnd → Opnd → Instr} (hop : op = 0x60 ∨ op = 0x6E) (haop : aop < 16)
    (hk : parseA (fieldsA op aop f.val 0 h m d.code c.code) = aSlot (fieldsA op aop f.val 0 h m d.code c.code) k) :
    ReadsBack (eA op aop f.val 0 h m d.code c.code) (k h m f d c) :=
  readsBack_eA hop haop f.isLt (by decide) (hk.trans (by simp [aSlot]))

/-! ### The B format (R40, R101) -/

/-- The fields that `eB` joins to a word. -/
@[simps] def fieldsB (op : Nat) (g : Guard) (u : Bool) (rj : BitVec 17) (tgt : BitVec 24) (k : Nat) : BWord :=
  { op := op, g := g.code, u := flagBit u, res := 0, tgt := tgt.toNat, rj := rj.toNat, k := k }

theorem readsBack_eB {op : Nat} {g : Guard} {u : Bool} {rj : BitVec 17} {tgt : BitVec 24} {k : Nat} {i : Instr}
    (hop : op = 0x40 ∨ op = 0x41) (hd : k < 256) (hk : parseB (fieldsB op g u rj tgt k) = .ok i) :
    ReadsBack (eB op g u rj tgt k) i := by
  have := guard_code_lt g
  have := flagBit_lt u
  have := rj.isLt
  have := tgt.isLt
  have hw : bword (eB op g u rj tgt k) = fieldsB op g u rj tgt k := by
    simp only [bword, fieldsB, eB, bits, Nat.shiftRight_eq_div_pow, BWord.mk.injEq]
    omega
  have hm : bits (eB op g u rj tgt k) 56 8 = op := congrArg BWord.op hw
  refine ⟨by unfold eB; omega, ?_⟩
  simp only [parse, hm, hw, hk]
  rw [if_neg (by omega), if_neg (by omega), if_pos hop]

/-! ### Every instruction -/

theorem readsBack_encode {i : Instr} (hw : wellFormed i = true) : ReadsBack (encode i) i := by
  cases i with
  | ill => exact ⟨by decide, rfl⟩
  | nop | exit | yield | mswap | mwait | tretRes | tretLanes | tretWarp | tretCrew | tretLaunch | orinvAll =>
    exact readsBack_rG (by decide) (by decide) rfl
  | iabs | ineg | not | popc | clz | ctz | brev | mov | mov2 | callx | lredAdd | lredMin | lredMax | lredMinu
  | lredMaxu | lredAnd | lredOr | lredXor | xswap | mbarArv | hwait | hstat | hstatOrg | hstatUp | hstatOcd | hdup
  | objqRes => exact readsBack_rDA (by decide) (by decide) rfl
  | iadd | isub | imin | imax | iminu | imaxu | iaddsat | isubsat | and | or | xor | andn | orn | imul | imulh
  | imulhu | imulw | imulwu | idiv | idivu | irem | iremu | shl | shr | sar | rotl | rotr | bfe | bfes | iadd2
  | isub2 | shl2 | shr2 | sar2 | padd | prom | promPin | dem | mbarArvtx => exact readsBack_rDAB (by decide) rfl
  | imad | bfi | bgat => exact readsBack_rDABC (by decide) rfl
  | brx | ret | mbarInval | srseed | macal | mafree | cwait | ccan | hfree | orinvObj | orinvSub =>
    exact readsBack_rA (by decide) (by decide) rfl
  | cflush | mbarInit | mbarWait => exact readsBack_rAB (by decide) rfl
  | pand | por | pxor | pandn => exact readsBack_rPPP (by decide) rfl
  | pnot | lmaskSome | lmaskEvery => exact readsBack_rPP (by decide) rfl
  | setp | lmaskSame => exact readsBack_rPA (by decide) rfl
  | movp | lmaskMask | lmaskCount => exact readsBack_rDP (by decide) rfl
  | fabs | fneg | fsqrt | frcp | frsq | fex2 | flg2 | fsin | fcos | ftanh | fsigm =>
    exact readsBack_fDA (by decide) rfl
  | fadd | fsub | fmul | fmin | fmax | fsgn | fdiv => exact readsBack_fDAB (by decide) rfl
  | ffma | ffms | fnma | fnms | fdot => exact readsBack_fDABC (by decide) rfl
  | qnt | rqnt => exact readsBack_qDAB (by decide) rfl
  | lxchSel | lxchXor => exact readsBack_lxDAB (by decide) rfl
  | lxchRdn | lxchRup => exact readsBack_lxClip (by decide) rfl
  | trap | brk => exact readsBack_rCode (by decide) rfl
  | cpy | cpyq => exact readsBack_cpDA (by decide) rfl
  | cpyg | cpys => exact readsBack_cpDAB (by decide) rfl
  | csrs | csrc => exact readsBack_csrDA (by decide) rfl
  | ltab => exact readsBack_eR (by simp [parseR, parse11])
  | icmp => exact readsBack_icmp _ _
  | sel => exact readsBack_eR (by simp [parseR, parse17])
  | fcmp h f cond => exact readsBack_fcmp cond
  | fclass => exact readsBack_eR (by simp [parseR, parse24])
  | fcvt => exact readsBack_eR (by simp [parseR, parse25])
  | fcvti => exact readsBack_fcvti _ _ _
  | ficvt => exact readsBack_ficvt _ _
  | fsum => exact readsBack_eR (by simp [parseR, parse26])
  | setfs | getfs | getsr | rdflag | clrflag => exact readsBack_eR (by simp [parseR, parse27, rD])
  | qntr | dqnt => exact readsBack_eR (by simp [parseR, parse28])
  | lxchRev => exact readsBack_eR (by simp [parseR, parse30])
  | rdsr | prof => exact readsBack_eR (by simp [parseR])
  | objqRec => exact readsBack_eR (by simp [parseR, parse61])
  | cinv => exact readsBack_cinv _ _
  | fence => exact readsBack_fence _ _ _
  | fencex => exact readsBack_fencex _ _ _
  | barSync | barArv | barWait => exact readsBack_eR (by simp [parseR, parse70])
  | mbarTest => exact readsBack_eR (by simp [parseR, parse71])
  | qctlQbind => exact readsBack_qctlQbind _
  | qctlQstat => exact readsBack_qctlQstat _
  | pchk => exact readsBack_eR (by simp [parseR, parse40])
  | pyield g dead => exact readsBack_eR (by simp [parseR, parse40, Nat.div_eq_of_lt dead.isLt])
  | mown => exact readsBack_eR (by simp [parseR, parse80, only])
  | mload => exact readsBack_mload _ _ _
  | mstream => exact readsBack_mstream _ _
  | mdrain => exact readsBack_mdrain _ _ _
  | mfill => exact readsBack_mfill _
  | mzero => exact readsBack_mzero _
  | lnch => exact readsBack_eR (by simp [parseR, parseA0])
  | invk => exact readsBack_invk _ _
  | hsend => exact readsBack_hsend _ _
  | coll => exact readsBack_coll _ _
  | csrr | csrw | tqpop => exact readsBack_eR (by simp [parseR, parseC0])
  | iaddi | andi | ori | xori => exact readsBack_iDA (by decide) rfl
  | movi => exact readsBack_eI (by decide) (opnd_code_lt _) (by decide) (by decide) (by simp [parseI])
  | movi2 h zx => exact readsBack_eI (by decide) (opnd_code_lt _) (by decide) (flagBit_lt zx) (by simp [parseI])
  | ld8 | ld8s | ld16 | ld16s | ld32 | ld64 | ld128 | ldp | lds32 | lds64 | lds128 =>
    exact readsBack_mLoad (by decide) rfl
  | st8 | st16 | st32 | st64 | st128 | stp | sts32 | sts64 | sts128 => exact readsBack_mStore (by decide) rfl
  | pref => exact readsBack_eM (by decide) (by decide) (by simp [parseM])
  | atomAdd | atomSub | atomMin | atomMax | atomMinu | atomMaxu | atomAnd | atomOr | atomXor | atomXchg | atomCas
  | atomsAdd | atomsSub | atomsMin | atomsMax | atomsMinu | atomsMaxu | atomsAnd | atomsOr | atomsXor | atomsXchg
  | atomsCas => exact readsBack_aInt (by decide) (by decide) rfl
  | atomFadd | atomFmin | atomFmax | atomsFadd | atomsFmin | atomsFmax =>
    exact readsBack_aSlot (by decide) (by decide) rfl
  | bra => exact readsBack_eB (by decide) (by decide) (by simp [parseB])
  | call => exact readsBack_eB (by decide) (opnd_code_lt _) (by simp [parseB])
  -- an event is no instruction word
  | _ => cases hw

/-! ### Words and their bytes (R25, R34) -/

theorem decodeWord_of_readsBack {x : Nat} {i : Instr} (hw : wellFormed i = true) (h : ReadsBack x i) :
    decodeWord x = .ok i := by
  rw [decodeWord, h.2]
  exact if_pos hw

theorem wordBytes_eq_natBytes (x : Nat) : wordBytes x = natBytes 8 x := by
  simp [wordBytes, natBytes, List.range_succ, Nat.div_div_eq_div_mul]

theorem decode_wordBytes_append {x : Nat} (hx : x < 2 ^ 64) (rest : List Byte) :
    decode (wordBytes x ++ rest) = (decodeWord x).map fun i => (i, rest) := by
  have hl : (wordBytes x).length = 8 := by simp [wordBytes]
  have hv : wordOf (wordBytes x) = x := by
    rw [wordOf_eq_bytesNat, wordBytes_eq_natBytes, bytesNat_natBytes]
    exact Nat.mod_eq_of_lt hx
  rw [decode, if_neg (by simp [hl]), List.take_left' hl, List.drop_left' hl, hv]
  cases decodeWord x <;> rfl

/-- Settles O57: in every format the fields of a word read back, and so does the word from its bytes. -/
theorem encodeDecodeRoundTrip : Obligations.EncodeDecodeRoundTrip := by
  intro i rest hw
  have hr := readsBack_encode hw
  have hd := decodeWord_of_readsBack hw hr
  refine ⟨hd, ?_⟩
  show decode (wordBytes (encode i) ++ rest) = .ok (i, rest)
  rw [decode_wordBytes_append hr.1, hd]
  rfl

/-- An example's bytes give the well-formed instruction that encodes to its word. -/
theorem decode_wordBytes_of_encode {x : Nat} {i : Instr} (hw : wellFormed i = true) (he : encode i = x) :
    decode (wordBytes x) = .ok (i, []) := by
  obtain ⟨-, hd⟩ := encodeDecodeRoundTrip i [] hw
  rw [List.append_nil] at hd
  rw [← he]
  exact hd

/-- Settles O55: each instruction is well-formed and encodes to the word beside it. -/
theorem decodeExamples : Obligations.DecodeExamples := by
  refine ⟨?_, ?_, ?_, ?_, ?_, ?_, ?_, ?_, ?_⟩ <;> exact decode_wordBytes_of_encode rfl rfl

end Sys2Proof.Machine

/-! ## Direct branches (R40, R101, R309) -/

namespace Sys2Proof.Machine

/-! ### Targets and lanes -/

theorem codeTarget_of_indexOk {pc : DWord} {off : Int} (h : indexOk (indexFrom pc off)) :
    codeTarget pc off = some (placeOf pc (indexFrom pc off)) := by
  obtain ⟨hlo, hhi⟩ := h
  exact if_neg (by simp only [indexFrom] at hlo hhi; omega)

theorem codeTarget_of_not_indexOk {pc : DWord} {off : Int} (h : ¬ indexOk (indexFrom pc off)) :
    codeTarget pc off = none :=
  if_pos (by simp only [indexOk, indexFrom] at h; omega)

/-- The lanes that take part are lanes of the path: unless they are all of them, some are left over. -/
theorem rest_ne_zero_of_takers_ne {s : State} {c : Cur} {g : Guard} (h : takers s c g ≠ (envOf s c).mask) :
    (envOf s c).mask &&& ~~~ takers s c g ≠ 0 := by
  intro hz
  refine h (BitVec.eq_of_getLsbD_eq fun l hl => ?_)
  have hb := congrArg (BitVec.getLsbD · l) hz
  unfold takers taking at hb ⊢
  simp only [BitVec.getLsbD_and, BitVec.getLsbD_not] at hb ⊢
  cases ha : (envOf s c).mask.getLsbD l <;> simp_all

/-- A link leaves the slots and the split stack of its warp as they are. -/
theorem goesTo_linked {s : State} {c : Cur} (hw : c.w < s.warps.length) (k : Option Opnd) (m : Mask) (pc : DWord) :
    goesTo (warpAt (linked s c k m) c.w) c.which pc = goesTo (warpAt s c.w) c.which pc := by
  cases k with
  | none => rfl
  | some o =>
    simp only [linked, warpAt_setWarp _ _ _ hw]
    exact goesTo_congr _ _ _ _ (by simp) (by simp) (by simp) (by simp)

theorem linked_length (s : State) (c : Cur) (k : Option Opnd) (m : Mask) :
    (linked s c k m).warps.length = s.warps.length := by
  cases k <;> simp [linked]

/-! ### What a branch does, by its target and the lanes that take it -/

section
variable {s : State} {c : Cur} {g : Guard} {u : Bool} {rj : BitVec 17} {tgt : BitVec 24} {k : Option Opnd}
  (hi : issuing s c = true) (hr : regsOk (linkSrc k) (envOf s c) = true)
include hi hr

theorem branch_of_not_indexOk (hx : ¬ indexOk (indexFrom (envOf s c).pc (sx 24 tgt.toNat))) :
    branch s g u rj tgt k = .next (takeTrap s (envOf s c) 0 ⟨6, takers s c g, (envOf s c).pc.toNat, 0⟩) := by
  unfold branch
  refine runInstr_trap s c _ _ _ _ _ _ hi hr rfl ?_
  simp only [codeTarget_of_not_indexOk hx]
  rfl

variable (hx : indexOk (indexFrom (envOf s c).pc (sx 24 tgt.toNat)))
include hx

theorem branch_of_no_takers (hm : takers s c g = 0) (hp : plain s c = true) :
    branch s g u rj tgt k = .next (stepped s c) := by
  unfold branch
  refine runInstr_ok s _ c _ _ _ _ _ hi hr rfl ?_
  simp only [codeTarget_of_indexOk hx]
  exact (if_pos hm).trans (advance_same s s c hp rfl (samePaths_refl _))

variable (hm : takers s c g ≠ 0)
include hm

theorem branch_of_all_take (ha : takers s c g = (envOf s c).mask)
    (hg : goesTo (warpAt s c.w) c.which (placeOf (envOf s c).pc (indexFrom (envOf s c).pc (sx 24 tgt.toNat))) = true) :
    branch s g u rj tgt k = .next (movedTo (linked s c k (takers s c g)) c
      (placeOf (envOf s c).pc (indexFrom (envOf s c).pc (sx 24 tgt.toNat)))) := by
  have hw : c.w < s.warps.length := by
    simp only [issuing, Bool.and_eq_true, decide_eq_true_eq] at hi
    obtain ⟨⟨⟨-, hw⟩, -⟩, -⟩ := hi
    exact hw
  have hrest : (envOf s c).mask &&& ~~~ taking (envOf s c) g = 0 := by
    rw [show taking (envOf s c) g = (envOf s c).mask from ha, BitVec.and_not_self]
  have hj := jump_goesTo (linked s c k (takers s c g)) (envOf s c) _ (by rw [linked_length]; exact hw)
    ((goesTo_linked hw k _ _).trans hg)
  unfold branch
  refine runInstr_ok s _ c _ _ _ _ _ hi hr rfl ?_
  simp only [codeTarget_of_indexOk hx]
  refine (if_neg hm).trans ((if_pos hrest).trans ?_)
  cases k <;> exact hj

variable (ha : takers s c g ≠ (envOf s c).mask)
include ha

theorem branch_of_lanes_differ_uniform {l : Nat} (hl : lowest (envOf s c).mask = some l) (hu : u = true) :
    branch s g u rj tgt k = .next (takeTrap s (envOf s c) 0 ⟨0x0A,
      if (takers s c g).getLsbD l then (envOf s c).mask &&& ~~~ takers s c g else takers s c g,
      (envOf s c).pc.toNat, 0⟩) := by
  unfold branch
  refine runInstr_trap s c _ _ _ _ _ _ hi hr rfl ?_
  simp only [codeTarget_of_indexOk hx, hl, Option.any_some]
  exact (if_neg hm).trans ((if_neg (rest_ne_zero_of_takers_ne ha)).trans (if_pos hu))

theorem branch_of_handler_splits (hu : u = false) (hh : c.which = .handler) :
    branch s g u rj tgt k = .next (takeTrap s (envOf s c) 0
      ⟨0x0A, (envOf s c).mask &&& ~~~ takers s c g, (envOf s c).pc.toNat, 0⟩) := by
  subst hu
  unfold branch
  refine runInstr_trap s c _ _ _ _ _ _ hi hr rfl ?_
  simp only [codeTarget_of_indexOk hx]
  exact (if_neg hm).trans ((if_neg (rest_ne_zero_of_takers_ne ha)).trans ((if_neg Bool.false_ne_true).trans (if_pos hh)))

end

theorem exec_of_branchForm {i : Instr} {g : Guard} {u : Bool} {rj : BitVec 17} {tgt : BitVec 24} {k : Option Opnd}
    (h : branchForm i = some (g, u, rj, tgt, k)) (s : State) : exec i s = branch s g u rj tgt k := by
  unfold branchForm at h
  split at h
  · cases h
    rfl
  · cases h
    rfl
  · cases h

/-- Settles O12, by the target and the lanes that take the branch. -/
theorem branches : Obligations.Branches := by
  intro i g u rj tgt k h s c e m ix hi hr
  rw [exec_of_branchForm h]
  exact ⟨fun hm hx hp => branch_of_no_takers hi hr hx hm hp, fun hx => branch_of_not_indexOk hi hr hx,
    fun hm ha hx hg => branch_of_all_take hi hr hx hm ha hg,
    fun l hl hm ha hx hu => branch_of_lanes_differ_uniform hi hr hx hm ha hl hu,
    fun hm ha hx hu hh => branch_of_handler_splits hi hr hx hm ha hu hh⟩

end Sys2Proof.Machine

/-! ## Writes of slots, SRGEN and status words (R127) -/

namespace Sys2Proof.Machine

section
variable {s s1 : State} {c : Cur} {g : Guard} {a : Opnd} {k l fs : Nat} {v : Nat → List Nat}
  {act : State → Env → Mask → Nat → Except Stop State} (hp : plain s c = true)
  (hr : regsOk [(a, k)] (envOf s c) = true) (hl : lowest (takers s c g) = some l)
  (hs : readSrcs s (envOf s c) (takers s c g) [(a, k)] none false = .ok (s1, v))
include hl

theorem warpValue_of_lowest : warpValue (takers s c g) v 0 = (v l).getD 0 0 := by
  unfold warpValue
  rw [hl]

theorem takers_ne_zero_of_lowest : takers s c g ≠ 0 := fun h => by
  rw [(lowest_eq_none _).2 h] at hl
  cases hl

include hp hr hs

/-- A status write whose action changes the issuing warp, and leaves its paths, changes nothing else. -/
theorem statusWrite_plain {f : Warp → Warp} (hf : ∀ x, samePaths x (f x))
    (ha : act s1 (envOf s c) (takers s c g) ((v l).getD 0 0) = .ok (setWarp s1 c.w (f (warpAt s1 c.w)))) :
    statusWrite s fs g a k act = .next (stepped (setWarp s1 c.w (f (warpAt s1 c.w))) c) := by
  obtain ⟨hlen, hpaths, -, -⟩ := readSrcs_same s s1 c _ _ _ _ v hp hs
  have hw : c.w < s1.warps.length := hlen ▸ warp_lt_of_plain hp
  refine runInstr_ok s _ c _ _ _ _ _ (issuing_of_plain hp) hr rfl ?_
  simp only [show taking (envOf s c) g = takers s c g from rfl, hs, if_neg (takers_ne_zero_of_lowest hl),
    warpValue_of_lowest hl, ha]
  refine advance_same s _ c hp (by rw [setWarp_length, hlen]) ?_
  rw [warpAt_setWarp _ _ _ hw]
  exact samePaths_trans hpaths (hf _)

/-- A status write whose action traps changes nothing but by the trap. -/
theorem statusWrite_trap {r : Raise} (ha : act s1 (envOf s c) (takers s c g) ((v l).getD 0 0) = .error (.trap r)) :
    statusWrite s fs g a k act = .next (takeTrap s (envOf s c) fs r) := by
  refine runInstr_trap s c _ _ _ _ _ r (issuing_of_plain hp) hr rfl ?_
  simp only [show taking (envOf s c) g = takers s c g from rfl, hs, if_neg (takers_ne_zero_of_lowest hl),
    warpValue_of_lowest hl, ha]

end

/-- What a status update writes leaves the paths of the warp as they are. -/
theorem samePaths_of_statusUpdate {i : Instr} {g : Guard} {a : Opnd} {k n : Nat} {u : Nat → Option (Warp → Warp)}
    {f : Warp → Warp} (h : statusUpdate i = some (g, a, k, u)) (hu : u n = some f) (x : Warp) : samePaths x (f x) := by
  unfold statusUpdate at h
  split at h
  case h_1 =>
    cases h
    simp only at hu
    split at hu
    · cases hu
    · cases hu
      exact ⟨rfl, rfl, rfl, rfl, rfl⟩
  case h_2 =>
    cases h
    cases hu
    exact ⟨rfl, rfl, rfl, rfl, rfl⟩
  case h_3 sel _ =>
    cases h
    cases hu
    cases sel <;> exact ⟨rfl, rfl, rfl, rfl, rfl⟩
  case h_4 => cases h

/-- An instruction of a status update is a status write that makes this update. -/
theorem exec_statusUpdate {i : Instr} {g : Guard} {a : Opnd} {k n : Nat} {u : Nat → Option (Warp → Warp)}
    {f : Warp → Warp} (h : statusUpdate i = some (g, a, k, u)) (hu : u n = some f) (s : State) :
    ∃ fs act, exec i s = statusWrite s fs g a k act ∧
      ∀ t c m, act t (envOf s c) m n = .ok (setWarp t c.w (f (warpAt t c.w))) := by
  unfold statusUpdate at h
  split at h
  case h_1 =>
    cases h
    simp only at hu
    split at hu
    · cases hu
    case isFalse hlegal =>
    cases hu
    exact ⟨_, _, execSetfs.eq_1 _ _ _ _, fun t c m => if_neg hlegal⟩
  case h_2 =>
    cases h
    cases hu
    exact ⟨_, _, execSrseed.eq_1 _ _ _, fun t c m => rfl⟩
  case h_3 sel _ =>
    cases h
    cases hu
    refine ⟨_, _, execClrflag.eq_1 _ _ _ _, fun t c m => ?_⟩
    cases sel <;> rfl
  case h_4 => cases h

/-- Settles O10: each write changes the register that its form names, and an illegal slot word traps. -/
theorem statusWrites : Obligations.StatusWrites := by
  refine ⟨fun i g a k u h s c s1 v l f hp hr hl hs hu => ?_, fun g f a s c s1 v l hp hr hl hs hill => ?_⟩
  · obtain ⟨fs, act, hexec, hact⟩ := exec_statusUpdate h hu s
    rw [hexec]
    exact statusWrite_plain hp hr hl hs (samePaths_of_statusUpdate h hu) (hact _ _ _)
  · show execSetfs g f a s = _
    unfold execSetfs
    exact statusWrite_trap hp hr hl hs (if_pos hill)

end Sys2Proof.Machine

/-! ## Rounding to a grid (R66) -/

namespace Sys2Proof.Machine

/-- Whether a magnitude a strictly between the neighbours lo and hi goes to hi, in every mode but RM 5; `odd` tells
whether the encoding of lo has bit 0 set. -/
def goesUp (rm : Nat) (neg odd : Bool) (lo a hi : ℚ) : Prop :=
  match rm with
  | 0 => lo + hi < 2 * a ∨ (2 * a = lo + hi ∧ odd = true)
  | 1 => False
  | 2 => neg = true
  | 3 => neg = false
  | 4 => lo + hi ≤ 2 * a
  | _ => odd = false

/-- Rounding takes a magnitude a from between lo and hi to hi, where `up` says so, and to lo otherwise. -/
structure Rounds (rm : Nat) (neg odd : Bool) (lo a hi : ℚ) (up : Bool) : Prop where
  lower : lo ≤ a
  upper : a < hi
  stays : a = lo → up = false
  picks : a ≠ lo → rm ≠ 5 → (up = true ↔ goesUp rm neg odd lo a hi)

/-- The magnitude of a real in units of 2^g: its quotient and the fraction of a step that remains. -/
theorem exGrid_spec (x : Ex) (g : Int) (hd : 0 < x.den) :
    0 < (exGrid x g).2.2 ∧ (exGrid x g).2.1 < (exGrid x g).2.2 ∧
    |exQ x| = ((exGrid x g).1 + (exGrid x g).2.1 / (exGrid x g).2.2) * (2 : ℚ) ^ g := by
  have key : ∀ n d : Nat, 0 < d → (n : ℚ) / d * (2 : ℚ) ^ g = |exQ x| →
      0 < d ∧ n % d < d ∧ |exQ x| = (((n / d : Nat) : ℚ) + ((n % d : Nat) : ℚ) / d) * (2 : ℚ) ^ g := fun n d hd h => by
    have hd' : (d : ℚ) ≠ 0 := by exact_mod_cast hd.ne'
    have hn : (n : ℚ) = d * (n / d : Nat) + (n % d : Nat) := by exact_mod_cast (Nat.div_add_mod n d).symm
    refine ⟨hd, Nat.mod_lt _ hd, ?_⟩
    rw [← h, hn]
    field_simp
  unfold exGrid
  by_cases hg : g ≤ x.exp
  · simp only [if_pos hg]
    refine key _ _ hd ?_
    rw [abs_exQ, Nat.cast_mul, Nat.cast_pow, Nat.cast_two, ← zpow_natCast, Int.toNat_of_nonneg (by omega),
      zpow_sub₀ (by norm_num)]
    field_simp
  · simp only [if_neg hg]
    refine key _ _ (Nat.mul_pos hd (Nat.two_pow_pos _)) ?_
    rw [abs_exQ, Nat.cast_mul, Nat.cast_pow, Nat.cast_two, ← zpow_natCast, Int.toNat_of_nonneg (by omega),
      zpow_sub₀ (by norm_num)]
    field_simp

/-- The rule of each mode, for q + r / d steps of a grid of spacing G. -/
theorem roundsUp_iff {rm q r d : Nat} {neg odd : Bool} {rw : Word} {G : ℚ} (hd : 0 < d) (hG : 0 < G) (hrm : rm ≠ 5) :
    roundsUp rm neg odd r d rw = true ↔ goesUp rm neg odd (q * G) ((q + r / d) * G) ((q + 1) * G) := by
  have hd' : (0 : ℚ) < d := by exact_mod_cast hd
  have hsum : (q : ℚ) * G + (q + 1) * G = (2 * q + 1) * G := by ring
  have htwice : 2 * ((q + r / d : ℚ) * G) = (2 * q + 2 * r / d) * G := by ring
  have hlt : (q : ℚ) * G + (q + 1) * G < 2 * ((q + r / d : ℚ) * G) ↔ d < 2 * r := by
    rw [hsum, htwice, mul_lt_mul_iff_left₀ hG, add_lt_add_iff_left, lt_div_iff₀ hd', one_mul]
    exact_mod_cast Iff.rfl
  have heq : 2 * ((q + r / d : ℚ) * G) = (q : ℚ) * G + (q + 1) * G ↔ 2 * r = d := by
    rw [hsum, htwice, mul_left_inj' hG.ne', add_right_inj, div_eq_one_iff_eq hd'.ne']
    exact_mod_cast Iff.rfl
  have hle : (q : ℚ) * G + (q + 1) * G ≤ 2 * ((q + r / d : ℚ) * G) ↔ d ≤ 2 * r := by
    rw [le_iff_lt_or_eq, hlt, eq_comm, heq]
    omega
  unfold roundsUp goesUp
  split
  · simp only [Bool.or_eq_true, decide_eq_true_eq, Bool.and_eq_true, beq_iff_eq, hlt, heq]
  · simp
  · rfl
  · simp
  · simp only [decide_eq_true_eq, hle]
  · exact absurd rfl hrm
  · simp

/-- `nearest` rounds to the grid: the quotient, or the next step where the mode says so. -/
theorem nearest_rounds (rm : Nat) (x : Ex) (g : Int) (odd : Nat → Bool) (rw : Word) (hd : 0 < x.den) :
    ∃ (q : Nat) (up : Bool), nearest rm x g odd rw = q + up.toNat ∧
      Rounds rm x.neg (odd q) (q * (2 : ℚ) ^ g) |exQ x| ((q + 1) * (2 : ℚ) ^ g) up ∧
      ((exGrid x g).2.1 = 0 ↔ |exQ x| = q * (2 : ℚ) ^ g) := by
  obtain ⟨hpos, hlt, hval⟩ := exGrid_spec x g hd
  unfold nearest
  simp only
  generalize exGrid x g = t at hpos hlt hval ⊢
  obtain ⟨q, r, d⟩ := t
  simp only at hpos hlt hval ⊢
  have hd' : (0 : ℚ) < d := by exact_mod_cast hpos
  have hG : (0 : ℚ) < (2 : ℚ) ^ g := zpow_pos (by norm_num) _
  have hr0 : (0 : ℚ) ≤ r / d := by positivity
  have hr1 : (r : ℚ) / d < 1 := by
    rw [div_lt_one hd']
    exact_mod_cast hlt
  have hzero : |exQ x| = q * (2 : ℚ) ^ g ↔ r = 0 := by
    rw [hval, mul_left_inj' hG.ne', add_eq_left, div_eq_zero_iff, Nat.cast_eq_zero, Nat.cast_eq_zero]
    omega
  refine ⟨q, if r = 0 then false else roundsUp rm x.neg (odd q) r d rw, ?_, ⟨?_, ?_, ?_, ?_⟩, hzero.symm⟩
  · split
    · rfl
    · cases roundsUp rm x.neg (odd q) r d rw <;> rfl
  · rw [hval]
    exact mul_le_mul_of_nonneg_right (by linarith) hG.le
  · rw [hval]
    exact mul_lt_mul_of_pos_right (by linarith) hG
  · exact fun h => if_pos (hzero.1 h)
  · intro h hrm
    rw [if_neg (fun hr => h (hzero.2 hr)), hval]
    exact roundsUp_iff hpos hG hrm

end Sys2Proof.Machine

/-! ## The finite values of a slot by their magnitudes (R60 to R65) -/

namespace Sys2Proof.Machine

/-! ### Legal slots and signs -/

/-- What R61 keeps of a slot that its values rest on. -/
structure SlotSound (f : Word) : Prop extends NanFits f where
  width   : 2 ≤ fmW f
  inf_le  : fmInf f ≤ 2
  integer : fmE f = 0 → fmNan f = 0 ∧ fmSub f = 0

theorem slotSound_of_not_illegal {f : Word} (h : fmIllegal f = false) : SlotSound f := by
  have hnan := nanFits_of_not_illegal h
  have hinf : fmInf f < 4 := bits_lt _ _ _
  simp only [fmIllegal, Bool.or_eq_false_iff, Bool.and_eq_false_iff, beq_eq_false_iff_ne, bne_eq_false_iff_eq,
    decide_eq_false_iff_not, not_lt] at h
  obtain ⟨⟨⟨⟨⟨⟨⟨⟨⟨⟨-, h3⟩, -⟩, hw⟩, -⟩, hint⟩, -⟩, -⟩, -⟩, -⟩, -⟩ := h
  exact ⟨hnan, hw, by omega, fun he => (hint.resolve_left (fun hn => hn he)).imp_left (·.2)⟩

/-- The factor of a sign. -/
def sgn (neg : Bool) : ℚ := if neg then -1 else 1

theorem sgn_false : sgn false = 1 := rfl
theorem sgn_true : sgn true = -1 := rfl

theorem exQ_eq_sgn (x : Ex) : exQ x = sgn x.neg * |exQ x| := by
  rw [abs_exQ]
  unfold exQ sgn
  ring

theorem abs_sgn_mul (neg : Bool) {a : ℚ} (h : 0 ≤ a) : |sgn neg * a| = a := by
  cases neg <;> simp [sgn, abs_of_nonneg h]

theorem abs_sgn (neg : Bool) : |sgn neg| = 1 := by cases neg <;> norm_num [sgn]

theorem sgn_mul_self (neg : Bool) : sgn neg * sgn neg = 1 := by cases neg <;> norm_num [sgn]

theorem abs_sgn_sub (neg : Bool) (a t : ℚ) : |sgn neg * a - sgn neg * t| = |a - t| := by
  rw [← mul_sub, abs_mul, abs_sgn, one_mul]

/-! ### Magnitudes by their codes -/

theorem two_pow_even {k : Nat} (h : k ≠ 0) : 2 ^ k % 2 = 0 := by
  obtain ⟨j, rfl⟩ := Nat.exists_eq_succ_of_ne_zero h
  rw [pow_succ, Nat.mul_mod_left]

/-- The magnitude of code n: n grid steps in an integer slot; otherwise the value of the exponent and mantissa fields, where
a code past the slot's last counts as if the exponent field were wider (R63, R64, R66). -/
def magOf (f : Word) (n : Nat) : ℚ :=
  if fmE f = 0 then n * (2 : ℚ) ^ (-fmBias f)
  else if n < 2 ^ fmM f then n * (2 : ℚ) ^ (1 - fmBias f - fmM f)
  else (2 ^ fmM f + n % 2 ^ fmM f : Nat) * (2 : ℚ) ^ ((n / 2 ^ fmM f : Nat) - fmBias f - fmM f)

theorem magOf_integer {f : Word} (he : fmE f = 0) (n : Nat) : magOf f n = n * (2 : ℚ) ^ (-fmBias f) := if_pos he

/-- Codes up to the smallest normal value lie on the subnormal grid. -/
theorem magOf_subnormal {f : Word} (he : fmE f ≠ 0) {q : Nat} (hq : q ≤ 2 ^ fmM f) :
    magOf f q = q * (2 : ℚ) ^ (1 - fmBias f - fmM f) := by
  unfold magOf
  rw [if_neg he]
  obtain hlt | rfl := hq.lt_or_eq
  · rw [if_pos hlt]
  · rw [if_neg (lt_irrefl _), Nat.mod_self, Nat.add_zero, Nat.div_self (Nat.two_pow_pos _), Nat.cast_one]

/-- The codes of exponent field k, and the first code of the next, lie on one grid. -/
theorem magOf_normal {f : Word} (he : fmE f ≠ 0) {k q : Nat} (hk : 1 ≤ k) (hlo : 2 ^ fmM f ≤ q) (hhi : q ≤ 2 ^ (fmM f + 1)) :
    magOf f (k * 2 ^ fmM f + (q - 2 ^ fmM f)) = q * (2 : ℚ) ^ ((k : Int) - fmBias f - fmM f) := by
  obtain ⟨r, rfl⟩ := Nat.exists_eq_add_of_le hlo
  have hpos := Nat.two_pow_pos (fmM f)
  have hmul : 2 ^ fmM f ≤ k * 2 ^ fmM f := Nat.le_mul_of_pos_left _ hk
  unfold magOf
  rw [if_neg he, Nat.add_sub_cancel_left, if_neg (by omega)]
  rw [pow_succ] at hhi
  obtain hlt | rfl : r < 2 ^ fmM f ∨ r = 2 ^ fmM f := by omega
  · rw [Nat.mul_add_mod', Nat.mod_eq_of_lt hlt, Nat.add_comm (k * _), Nat.add_mul_div_right _ _ hpos, Nat.div_eq_of_lt hlt,
      Nat.zero_add]
  · rw [← Nat.succ_mul, Nat.mul_mod_left, Nat.mul_div_cancel _ hpos, Nat.add_zero, ← Nat.two_mul, Nat.cast_mul,
      Nat.cast_succ, show ((k : Int) + 1 - fmBias f - fmM f) = (k - fmBias f - fmM f) + 1 by ring,
      zpow_add_one₀ (by norm_num)]
    push_cast
    ring

/-- A code from the smallest normal one up, by its exponent and mantissa fields. -/
theorem normal_code_eq (f : Word) (n : Nat) :
    n = n / 2 ^ fmM f * 2 ^ fmM f + (2 ^ fmM f + n % 2 ^ fmM f - 2 ^ fmM f) := by
  rw [Nat.add_sub_cancel_left, Nat.mul_comm]
  exact (Nat.div_add_mod _ _).symm

/-- The magnitudes of a normal code and of the next are neighbours on the grid of their binade. -/
theorem magOf_step_normal {f : Word} (he : fmE f ≠ 0) {n : Nat} (hn : 2 ^ fmM f ≤ n) :
    ∃ (q : Nat) (g : Int), 2 ^ fmM f ≤ q ∧ q < 2 ^ (fmM f + 1) ∧
      magOf f n = q * (2 : ℚ) ^ g ∧ magOf f (n + 1) = (q + 1) * (2 : ℚ) ^ g := by
  have hpos := Nat.two_pow_pos (fmM f)
  have hk : 1 ≤ n / 2 ^ fmM f := (Nat.one_le_div_iff hpos).2 hn
  have hlt := Nat.mod_lt n hpos
  have h2 : 2 ^ (fmM f + 1) = 2 ^ fmM f + 2 ^ fmM f := by rw [pow_succ]; omega
  refine ⟨2 ^ fmM f + n % 2 ^ fmM f, (n / 2 ^ fmM f : Nat) - fmBias f - fmM f, by omega, by omega, ?_, ?_⟩
  · conv_lhs => rw [normal_code_eq f n]
    exact magOf_normal he hk (by omega) (by omega)
  · have h := magOf_normal he hk (q := 2 ^ fmM f + n % 2 ^ fmM f + 1) (by omega) (by omega)
    rw [Nat.cast_succ] at h
    rw [← h]
    congr 1
    conv_lhs => rw [normal_code_eq f n]
    omega

/-- The magnitudes of a code and of the next are neighbours on a grid. -/
theorem magOf_step (f : Word) (n : Nat) : ∃ (q : Nat) (g : Int),
    magOf f n = q * (2 : ℚ) ^ g ∧ magOf f (n + 1) = (q + 1) * (2 : ℚ) ^ g := by
  by_cases he : fmE f = 0
  · exact ⟨n, -fmBias f, magOf_integer he n, by rw [magOf_integer he, Nat.cast_succ]⟩
  by_cases hn : n < 2 ^ fmM f
  · exact ⟨n, _, magOf_subnormal he hn.le, by rw [magOf_subnormal he hn, Nat.cast_succ]⟩
  · obtain ⟨q, g, -, -, hlo, hhi⟩ := magOf_step_normal he (not_lt.1 hn)
    exact ⟨q, g, hlo, hhi⟩

theorem magOf_strictMono (f : Word) : StrictMono (magOf f) := by
  refine strictMono_nat_of_lt_succ (fun n => ?_)
  obtain ⟨q, g, hlo, hhi⟩ := magOf_step f n
  rw [hlo, hhi]
  exact mul_lt_mul_of_pos_right (by linarith) (zpow_pos (by norm_num) _)

@[simp] theorem magOf_zero (f : Word) : magOf f 0 = 0 := by
  unfold magOf
  simp

theorem magOf_nonneg (f : Word) (n : Nat) : 0 ≤ magOf f n := by
  rw [← magOf_zero f]
  exact (magOf_strictMono f).monotone (Nat.zero_le n)

/-- The first code with a mantissa in full is that of the smallest normal value. -/
theorem magOf_slotNormal {f : Word} (he : fmE f ≠ 0) : magOf f (2 ^ fmM f) = slotNormal f := by
  rw [magOf_subnormal he le_rfl, slotNormal, zpow_sub₀ (by norm_num) (1 - fmBias f), zpow_natCast]
  push_cast
  field_simp

/-! ### Encodings of the finite values -/

/-- The code of the largest magnitude with a sign (R65). -/
def lastCode (f : Word) (neg : Bool) : Nat :=
  if neg then (if fmS f = 0 then 0 else if fmE f = 0 then 2 ^ fmM f else fmMaxCode f) else fmMaxCode f

/-- The encoding of a sign and a magnitude's code. -/
def codeOf (f : Word) (neg : Bool) (n : Nat) : Nat :=
  if n = 0 then fmZero f neg
  else if fmE f = 0 then (if neg then 2 ^ fmW f - n else n)
  else fmSign f neg + n

theorem fmW_of_signed {f : Word} (h : fmS f ≠ 0) : fmW f = fmE f + fmM f + 1 := by
  have := fmS_le_one f
  unfold fmW
  omega

theorem fmSign_false (f : Word) : fmSign f false = 0 := rfl

theorem fmSign_unsigned {f : Word} (h : fmS f = 0) (neg : Bool) : fmSign f neg = 0 := by
  unfold fmSign
  simp [h]

theorem fmSign_true {f : Word} (h : fmS f ≠ 0) : fmSign f true = 2 ^ (fmE f + fmM f) := by
  have hs : fmS f = 1 := by have := fmS_le_one f; omega
  unfold fmSign
  rw [hs, fmW_of_signed h]
  rfl

/-- The value of an encoding of an integer slot. -/
theorem slotValue_integer {f : Word} {w : Nat} (he : fmE f = 0) (hw : w < 2 ^ fmW f) :
    slotValue f w = some ((if fmS f = 1 ∧ 2 ^ fmM f ≤ w then (w : ℚ) - 2 ^ fmW f else w) * (2 : ℚ) ^ (-fmBias f)) := by
  have hsp : codeSpecial f w = false := by
    unfold codeSpecial
    rw [he]
    rfl
  unfold slotValue
  rw [if_neg (not_or.2 ⟨not_le.2 hw, by rw [hsp]; decide⟩), if_pos he]

/-- The special encodings are those past the last finite one, and the negative zero of NAN = 3 (R62, R65). -/
theorem codeSpecial_eq_false_iff {f : Word} {w : Nat} (hf : SlotSound f) (he : fmE f ≠ 0) :
    codeSpecial f w = false ↔ codeBody f w ≤ fmMaxCode f ∧ ¬(fmNan f = 3 ∧ w = 2 ^ (fmE f + fmM f)) := by
  have hpow : 2 ^ (fmE f + fmM f) = (2 ^ fmE f - 1) * 2 ^ fmM f + 2 ^ fmM f := by
    rw [pow_add, ← Nat.succ_mul, Nat.succ_eq_add_one, Nat.sub_add_cancel Nat.one_le_two_pow]
  have hX : 1 ≤ (2 ^ fmE f - 1) * 2 ^ fmM f := by
    have : 2 ^ 1 ≤ 2 ^ fmE f := Nat.pow_le_pow_right (by omega) (by omega)
    exact Nat.mul_pos (by omega) (Nat.two_pow_pos _)
  have hP := Nat.two_pow_pos (fmM f)
  have hP2 : fmM f ≠ 0 → 2 ≤ 2 ^ fmM f := fun h => by
    have : 2 ^ 1 ≤ 2 ^ fmM f := Nat.pow_le_pow_right (by omega) (by omega)
    omega
  have hB : codeBody f w < 2 ^ (fmE f + fmM f) := Nat.mod_lt _ (Nat.two_pow_pos _)
  have hones : codeExp f w = 2 ^ fmE f - 1 ↔ (2 ^ fmE f - 1) * 2 ^ fmM f ≤ codeBody f w := by
    rw [← Nat.le_div_iff_mul_le hP]
    have : codeExp f w < 2 ^ fmE f := (Nat.div_lt_iff_lt_mul hP).2 (by rwa [← pow_add])
    unfold codeExp at *
    omega
  have hman : codeExp f w = 2 ^ fmE f - 1 → codeBody f w = (2 ^ fmE f - 1) * 2 ^ fmM f + codeMan f w := fun h => by
    rw [← h, Nat.mul_comm]
    exact (Nat.div_add_mod _ _).symm
  have hinf := hf.inf_le
  have hnan := fmNan_le_three f
  have hnm := hf.nan_man
  unfold codeSpecial fmMaxCode fmTop
  simp only [bne_iff_ne.2 he, Bool.true_and, Bool.or_eq_false_iff, Bool.and_eq_false_iff, beq_eq_false_iff_ne,
    bne_eq_false_iff_eq, Bool.or_eq_false_iff, if_neg he, ne_eq, hpow] at *
  generalize (2 ^ fmE f - 1) * 2 ^ fmM f = X at *
  generalize 2 ^ fmM f = P at *
  generalize codeBody f w = B at *
  generalize codeMan f w = m at *
  split_ifs <;> omega

end Sys2Proof.Machine

namespace Sys2Proof.Machine

/-- The value of an encoding that is not special: its sign and the magnitude of the bits below it. -/
theorem slotValue_float {f : Word} {w : Nat} (hf : SlotSound f) (he : fmE f ≠ 0) (hw : w < 2 ^ fmW f)
    (hb : codeBody f w ≤ fmMaxCode f) (h3 : ¬(fmNan f = 3 ∧ w = 2 ^ (fmE f + fmM f))) :
    slotValue f w = some (sgn (decide (2 ^ (fmE f + fmM f) ≤ w)) * magOf f (codeBody f w)) := by
  have hsp := (codeSpecial_eq_false_iff hf he).2 ⟨hb, h3⟩
  have hsg : (if 2 ^ (fmE f + fmM f) ≤ w then -1 else 1 : ℚ) = sgn (decide (2 ^ (fmE f + fmM f) ≤ w)) := by
    simp only [sgn, decide_eq_true_eq]
  unfold slotValue
  rw [if_neg (not_or.2 ⟨not_le.2 hw, by rw [hsp]; decide⟩), if_neg he]
  simp only [hsg]
  by_cases hz : codeExp f w = 0
  · have hlt : codeBody f w < 2 ^ fmM f := (Nat.div_eq_zero_iff_lt (Nat.two_pow_pos _)).1 hz
    rw [if_pos hz, magOf_subnormal he hlt.le, codeMan, Nat.mod_eq_of_lt hlt,
      zpow_sub₀ (by norm_num) (1 - fmBias f), zpow_natCast]
    congr 1
    ring
  · have hge : ¬ codeBody f w < 2 ^ fmM f := fun h => hz (Nat.div_eq_of_lt h)
    unfold magOf
    rw [if_neg hz, if_neg he, if_neg hge, show codeBody f w / 2 ^ fmM f = codeExp f w from rfl,
      show codeBody f w % 2 ^ fmM f = codeMan f w from rfl, zpow_sub₀ (by norm_num) ((codeExp f w : Int) - fmBias f),
      zpow_natCast]
    push_cast
    congr 1
    field_simp

/-- The codes of a sign lie below the sign bit. -/
theorem lastCode_lt {f : Word} (he : fmE f ≠ 0) (neg : Bool) : lastCode f neg < 2 ^ (fmE f + fmM f) := by
  have := fmMaxCode_lt f
  have := Nat.two_pow_pos (fmE f + fmM f)
  unfold lastCode
  split_ifs <;> omega

/-- A code with a sign bit of an unsigned slot is the code of zero. -/
theorem signed_of_lastCode {f : Word} {neg : Bool} {n : Nat} (hn : n ≤ lastCode f neg) (h0 : n ≠ 0) :
    neg = true → fmS f ≠ 0 := by
  rintro rfl hs
  rw [lastCode, if_pos rfl, if_pos hs] at hn
  omega

theorem slotValue_codeOf_integer {f : Word} {neg : Bool} {n : Nat} (he : fmE f = 0) (hn : n ≤ lastCode f neg) :
    slotValue f (codeOf f neg n) = some (sgn neg * magOf f n) := by
  have hbody := two_pow_body_le f
  have hmax := fmMaxCode_lt f
  rw [he, Nat.zero_add] at hbody hmax
  unfold codeOf
  by_cases h0 : n = 0
  · subst h0
    rw [if_pos rfl, fmZero, if_pos (.inl he), slotValue_integer he (Nat.two_pow_pos _), magOf_zero,
      if_neg (fun h => absurd h.2 (not_le.2 (Nat.two_pow_pos _)))]
    simp
  rw [if_neg h0, if_pos he, magOf_integer he]
  cases neg with
  | false =>
    have hlt : n < 2 ^ fmM f := lt_of_le_of_lt hn hmax
    rw [if_neg Bool.false_ne_true, slotValue_integer he (by omega), if_neg (fun h => absurd h.2 (not_le.2 hlt))]
    simp [sgn]
  | true =>
    have hs := signed_of_lastCode hn h0 rfl
    have hs1 : fmS f = 1 := by have := fmS_le_one f; omega
    have hW : 2 ^ fmW f = 2 ^ fmM f + 2 ^ fmM f := by
      rw [fmW_of_signed hs, he, Nat.zero_add, pow_succ]
      omega
    rw [lastCode, if_pos rfl, if_neg hs, if_pos he] at hn
    have hWq : (2 : ℚ) ^ fmW f = ((2 ^ fmW f : Nat) : ℚ) := by push_cast; rfl
    rw [if_pos rfl, slotValue_integer he (by omega), if_pos ⟨hs1, by omega⟩, Nat.cast_sub (by omega), hWq]
    simp only [sgn, if_true]
    congr 1
    ring

theorem slotValue_codeOf_float {f : Word} {neg : Bool} {n : Nat} (hf : SlotSound f) (he : fmE f ≠ 0)
    (hn : n ≤ lastCode f neg) : slotValue f (codeOf f neg n) = some (sgn neg * magOf f n) := by
  have hlt := lt_of_le_of_lt hn (lastCode_lt he neg)
  have hmax : n ≤ fmMaxCode f := by
    unfold lastCode at hn
    split_ifs at hn <;> omega
  have hpos := Nat.two_pow_pos (fmE f + fmM f)
  have hplain : slotValue f n = some (magOf f n) := by
    have hb : codeBody f n = n := Nat.mod_eq_of_lt hlt
    rw [slotValue_float hf he (lt_of_lt_of_le hlt (two_pow_body_le f)) (by rw [hb]; exact hmax) (by omega), hb,
      decide_eq_false (by omega)]
    simp [sgn]
  have hsigned : fmS f ≠ 0 → (n = 0 → fmNan f ≠ 3) →
      slotValue f (2 ^ (fmE f + fmM f) + n) = some (-magOf f n) := fun hs h3 => by
    have hb : codeBody f (2 ^ (fmE f + fmM f) + n) = n := by
      rw [codeBody, Nat.add_mod_left, Nat.mod_eq_of_lt hlt]
    have hW : 2 ^ fmW f = 2 ^ (fmE f + fmM f) + 2 ^ (fmE f + fmM f) := by
      rw [fmW_of_signed hs, pow_succ]
      omega
    rw [slotValue_float hf he (by omega) (by rw [hb]; exact hmax) (fun h => h3 (by omega) h.1), hb,
      decide_eq_true (by omega)]
    simp [sgn]
  unfold codeOf
  by_cases h0 : n = 0
  · subst h0
    rw [if_pos rfl, magOf_zero, mul_zero]
    rw [magOf_zero] at hplain
    unfold fmZero
    by_cases h3 : fmNan f = 3
    · rw [if_pos (.inr h3)]
      exact hplain
    · rw [if_neg (not_or.2 ⟨he, h3⟩)]
      by_cases hs : fmS f = 0 ∨ neg = false
      · have hz : fmSign f neg = 0 := hs.elim (fun hs => fmSign_unsigned hs neg) (fun hn => hn ▸ fmSign_false f)
        rw [hz]
        exact hplain
      · obtain ⟨hs, hneg⟩ := not_or.1 hs
        rw [Bool.eq_true_of_not_eq_false hneg, fmSign_true hs]
        have := hsigned hs (fun _ => h3)
        rwa [magOf_zero, neg_zero] at this
  · rw [if_neg h0, if_neg he]
    cases neg with
    | false =>
      rw [fmSign_false, Nat.zero_add, hplain]
      simp [sgn]
    | true =>
      have hs := signed_of_lastCode hn h0 rfl
      rw [fmSign_true hs, hsigned hs (fun h => absurd h h0)]
      simp [sgn]

/-- The encoding of a sign and a magnitude has their value (R63, R64). -/
theorem slotValue_codeOf {f : Word} {neg : Bool} {n : Nat} (hf : SlotSound f) (hn : n ≤ lastCode f neg) :
    slotValue f (codeOf f neg n) = some (sgn neg * magOf f n) := by
  by_cases he : fmE f = 0
  · exact slotValue_codeOf_integer he hn
  · exact slotValue_codeOf_float hf he hn

/-- w is an encoding of the magnitude of code n with a sign; zero may have two of them. -/
structure Encodes (f : Word) (w : Nat) (neg : Bool) (n : Nat) : Prop where
  le   : n ≤ lastCode f neg
  code : n ≠ 0 → w = codeOf f neg n
  zero : n = 0 → slotValue f w = some 0

theorem Encodes.slotValue_eq {f : Word} {w n : Nat} {neg : Bool} (hf : SlotSound f) (h : Encodes f w neg n) :
    slotValue f w = some (sgn neg * magOf f n) := by
  by_cases h0 : n = 0
  · rw [h.zero h0, h0, magOf_zero, mul_zero]
  · rw [h.code h0]
    exact slotValue_codeOf hf h.le

section
variable {f : Word} {w : Nat} (hw : w < 2 ^ fmW f)
include hw

theorem exists_encodes_integer (he : fmE f = 0) : ∃ neg n, Encodes f w neg n := by
  have hv := slotValue_integer he hw
  have hmax : lastCode f false = 2 ^ fmM f - 1 := by simp [lastCode, fmMaxCode, fmTop, he]
  by_cases hneg : fmS f = 1 ∧ 2 ^ fmM f ≤ w
  · have hs : fmS f ≠ 0 := by omega
    have hW : 2 ^ fmW f = 2 ^ fmM f + 2 ^ fmM f := by
      rw [fmW_of_signed hs, he, Nat.zero_add, pow_succ]
      omega
    refine ⟨true, 2 ^ fmW f - w, ?_, fun h0 => ?_, fun h0 => by omega⟩
    · rw [lastCode, if_pos rfl, if_neg hs, if_pos he]
      omega
    · rw [codeOf, if_neg h0, if_pos he, if_pos rfl]
      omega
  · have hlt : w < 2 ^ fmM f := by
      by_contra hge
      have hs : fmS f = 0 := by have := fmS_le_one f; omega
      have : fmW f = fmM f := by unfold fmW; omega
      rw [this] at hw
      omega
    refine ⟨false, w, by omega, fun h0 => ?_, fun h0 => ?_⟩
    · rw [codeOf, if_neg h0, if_pos he, if_neg Bool.false_ne_true]
    · rw [hv, if_neg hneg, h0]
      simp

theorem exists_encodes_float (hf : SlotSound f) (he : fmE f ≠ 0) (hsp : codeSpecial f w = false) :
    ∃ neg n, Encodes f w neg n := by
  obtain ⟨hb, h3⟩ := (codeSpecial_eq_false_iff hf he).1 hsp
  have hv := slotValue_float hf he hw hb h3
  by_cases hlt : w < 2 ^ (fmE f + fmM f)
  · have hbody : codeBody f w = w := Nat.mod_eq_of_lt hlt
    refine ⟨false, w, by rw [← hbody]; exact hb, fun h0 => ?_, fun h0 => ?_⟩
    · rw [codeOf, if_neg h0, if_neg he, fmSign_false, Nat.zero_add]
    · rw [hv, hbody, h0]
      simp
  · have hs : fmS f ≠ 0 := fun hs => by
      have : fmW f = fmE f + fmM f := by unfold fmW; omega
      rw [this] at hw
      exact hlt hw
    have hW : 2 ^ fmW f = 2 ^ (fmE f + fmM f) + 2 ^ (fmE f + fmM f) := by
      rw [fmW_of_signed hs, pow_succ]
      omega
    have hbody : w = 2 ^ (fmE f + fmM f) + codeBody f w := by
      rw [codeBody, Nat.mod_eq_sub_mod (by omega), Nat.mod_eq_of_lt (by omega)]
      omega
    refine ⟨true, codeBody f w, ?_, fun h0 => ?_, fun h0 => ?_⟩
    · rw [lastCode, if_pos rfl, if_neg hs, if_neg he]
      exact hb
    · rw [codeOf, if_neg h0, if_neg he, fmSign_true hs]
      exact hbody
    · rw [hv, h0]
      simp

end

/-- Every finite value is that of a sign and a magnitude, and only zero has two encodings (R65). -/
theorem exists_codeOf_of_slotValue {f : Word} {w : Nat} {u : ℚ} (hf : SlotSound f) (h : slotValue f w = some u) :
    ∃ neg n, n ≤ lastCode f neg ∧ u = sgn neg * magOf f n ∧ (n ≠ 0 → w = codeOf f neg n) := by
  have hfin : w < 2 ^ fmW f ∧ codeSpecial f w = false := by
    unfold slotValue at h
    split at h
    · cases h
    case isFalse hn => exact (not_or.1 hn).imp not_le.1 Bool.eq_false_iff.2
  obtain ⟨hw, hsp⟩ := hfin
  obtain ⟨neg, n, henc⟩ : ∃ neg n, Encodes f w neg n := by
    by_cases he : fmE f = 0
    · exact exists_encodes_integer hw he
    · exact exists_encodes_float hw hf he hsp
  exact ⟨neg, n, henc.le, Option.some.inj (h.symm.trans (henc.slotValue_eq hf)), henc.code⟩

/-- Bit 0 of an encoding is that of its magnitude's code. -/
theorem codeOf_mod_two {f : Word} {neg : Bool} {n : Nat} (hf : SlotSound f) (hn : n ≤ lastCode f neg) :
    codeOf f neg n % 2 = n % 2 := by
  have hsign : fmSign f neg % 2 = 0 := by
    unfold fmSign
    split
    · exact two_pow_even (by have := hf.width; omega)
    · rfl
  have hlast : lastCode f neg ≤ 2 ^ fmW f := by
    have := fmMaxCode_lt f
    have := two_pow_body_le f
    have : 2 ^ fmM f ≤ 2 ^ fmW f := Nat.pow_le_pow_right (by omega) (by unfold fmW; omega)
    unfold lastCode
    split_ifs <;> omega
  have hW := two_pow_even (k := fmW f) (by have := hf.width; omega)
  unfold codeOf fmZero
  split_ifs <;> omega

end Sys2Proof.Machine

/-! ## The rounding of a real under a slot (R66, R67) -/

namespace Sys2Proof.Machine

/-! ### The end of a rounding -/

/-- The result of a rounding to the magnitude of code k, past the last one perhaps, with the flags raised so far. -/
def finishCode (f : Word) (neg : Bool) (k fl : Nat) : Rnd :=
  if k = 0 then ⟨fmZero f neg, fl⟩
  else if fmS f = 0 ∧ neg then ⟨(nanOut f).code, fl ||| flNV⟩
  else if lastCode f neg < k then ⟨overflowOut f neg, fl ||| flOF⟩
  else ⟨codeOf f neg k, fl⟩

theorem roundEnd_integer {f : Word} (he : fmE f = 0) (x : Ex) (q : Nat) (g : Int) (fl : Nat) :
    roundEnd f x q g fl = finishCode f x.neg q (if (exGrid x g).2.1 ≠ 0 then fl ||| flNX else fl) := by
  unfold roundEnd finishCode
  by_cases h0 : q = 0
  · simp only [if_pos h0]
  by_cases hneg : fmS f = 0 ∧ x.neg = true
  · simp only [if_neg h0, if_pos hneg]
  have hlast : lastCode f x.neg = if x.neg then 2 ^ fmM f else fmMaxCode f := by
    unfold lastCode
    split
    case isTrue hx => rw [if_neg (fun hs => hneg ⟨hs, hx⟩)]
    case isFalse => rfl
  simp only [if_neg h0, if_neg hneg, if_pos he, hlast, codeOf]

theorem roundEnd_float {f : Word} (he : fmE f ≠ 0) (x : Ex) {q : Nat} {g : Int} (fl : Nat)
    (h0 : fmCode f q g = 0 ↔ q = 0) : roundEnd f x q g fl =
      finishCode f x.neg (fmCode f q g) (if (exGrid x g).2.1 ≠ 0 then fl ||| flNX else fl) := by
  unfold roundEnd finishCode
  by_cases hq : q = 0
  · simp only [if_pos hq, if_pos (h0.2 hq)]
  have hk : fmCode f q g ≠ 0 := fun h => hq (h0.1 h)
  by_cases hneg : fmS f = 0 ∧ x.neg = true
  · simp only [if_neg hq, if_neg hk, if_pos hneg]
  have hlast : lastCode f x.neg = fmMaxCode f := by
    unfold lastCode
    split
    case isTrue hx => rw [if_neg (fun hs => hneg ⟨hs, hx⟩)]
    case isFalse => rfl
  simp only [if_neg hq, if_neg hk, if_neg hneg, if_neg he, hlast, codeOf]

/-! ### Codes of grid steps -/

/-- The steps of the grid of a binade, the last of them the first value of the next, as codes of exponent field k. -/
theorem fmCode_normal {f : Word} {q k : Nat} {g : Int} (hk : g + fmM f + fmBias f = k) (hlo : 2 ^ fmM f ≤ q)
    (hhi : q ≤ 2 ^ (fmM f + 1)) : fmCode f q g = k * 2 ^ fmM f + (q - 2 ^ fmM f) := by
  have h2 : 2 ^ (fmM f + 1) = 2 ^ fmM f + 2 ^ fmM f := by rw [pow_succ]; omega
  unfold fmCode
  rw [if_neg (by omega), hk]
  by_cases hup : 2 ^ (fmM f + 1) ≤ q
  · have hq : q = 2 ^ fmM f + 2 ^ fmM f := by omega
    simp only [decide_eq_true hup, if_true, Nat.add_zero]
    rw [show ((k : Int) + 1).toNat = k + 1 by omega, Nat.succ_mul, hq, Nat.add_sub_cancel]
  · simp [decide_eq_false hup]

/-- The steps of the subnormal grid up to the smallest normal value are their own codes. -/
theorem fmCode_subnormal {f : Word} {q : Nat} (hq : q ≤ 2 ^ fmM f) : fmCode f q (1 - fmBias f - fmM f) = q := by
  obtain hlt | rfl := hq.lt_or_eq
  · exact if_pos hlt
  · have h := fmCode_normal (f := f) (q := 2 ^ fmM f) (k := 1) (g := 1 - fmBias f - fmM f) (by push_cast; ring) le_rfl
      (Nat.pow_le_pow_right (by omega) (by omega))
    rw [h]
    omega

/-! ### The rounding with an unbounded exponent -/

/-- The grid of the binade of a real, and bit 0 of the encoding of its step q. -/
def binadeGrid (f : Word) (x : Ex) : Int := exLog2 x - fmM f
def binadeOdd (f : Word) (x : Ex) : Nat → Bool :=
  if fmM f = 0 then fun _ => (binadeGrid f x + fmBias f) % 2 == 1 else fun q => q % 2 == 1

/-- A real rounded with an unbounded exponent: the magnitude in steps of its binade's grid. -/
def binadeSteps (f : Word) (x : Ex) (rw : Word) : Nat := nearest (fmRm f) x (binadeGrid f x) (binadeOdd f x) rw

/-- The real is tiny: rounded with an unbounded exponent it lies below the normal values. -/
def isTiny (f : Word) (x : Ex) (rw : Word) : Prop :=
  binadeGrid f x + exLog2 ⟨false, binadeSteps f x rw, 1, 0⟩ < 1 - fmBias f

/-- The magnitude in steps of the subnormal grid. -/
def lowSteps (f : Word) (x : Ex) (rw : Word) : Nat :=
  nearest (fmRm f) x (1 - fmBias f - fmM f) (fun q => q % 2 == 1) rw

section
variable {f : Word} {x : Ex} {rw : Word} (he : fmE f ≠ 0)
include he

theorem roundEx_not_tiny (h : ¬ isTiny f x rw) :
    roundEx f x rw = roundEnd f x (binadeSteps f x rw) (binadeGrid f x) 0 := by
  unfold roundEx
  rw [if_neg he]
  exact if_neg h

theorem roundEx_flush (h : isTiny f x rw) (hs : fmSub f = 1 ∨ fmSub f = 2) : roundEx f x rw = ⟨fmZero f x.neg, 3⟩ := by
  unfold roundEx
  rw [if_neg he]
  exact (if_pos h).trans (if_pos hs)

theorem roundEx_subnormal (h : isTiny f x rw) (hs : ¬(fmSub f = 1 ∨ fmSub f = 2)) :
    roundEx f x rw = roundEnd f x (lowSteps f x rw) (1 - fmBias f - fmM f)
      (if (exGrid x (1 - fmBias f - fmM f)).2.1 ≠ 0 then flUF else 0) := by
  unfold roundEx
  rw [if_neg he]
  exact (if_pos h).trans (if_neg hs)

end

section
variable {f : Word} {x : Ex} (hn : 0 < x.num) (hd : 0 < x.den)
include hn hd

theorem abs_exQ_pos : 0 < |exQ x| := by
  rw [abs_exQ]
  positivity

/-- A real lies in the binade of its binary logarithm. -/
theorem binade_bounds : (2 : ℚ) ^ exLog2 x ≤ |exQ x| ∧ |exQ x| < (2 : ℚ) ^ (exLog2 x + 1) := by
  have hpos := abs_exQ_pos hn hd
  rw [exLog2_eq x hn hd]
  exact ⟨by exact_mod_cast Int.zpow_log_le_self (b := 2) (by norm_num) hpos,
    by exact_mod_cast Int.lt_zpow_succ_log_self (b := 2) (by norm_num) |exQ x|⟩

theorem zpow_le_abs_exQ_iff (k : Int) : (2 : ℚ) ^ k ≤ |exQ x| ↔ k ≤ exLog2 x := by
  rw [exLog2_eq x hn hd]
  exact_mod_cast Int.zpow_le_iff_le_log (b := 2) (by norm_num) (abs_exQ_pos hn hd)

/-- The steps of a real on its binade's grid fill M + 1 bits. -/
theorem binadeSteps_rounds (rw : Word) : ∃ (q : Nat) (up : Bool), binadeSteps f x rw = q + up.toNat ∧
    2 ^ fmM f ≤ q ∧ q < 2 ^ (fmM f + 1) ∧
    Rounds (fmRm f) x.neg (binadeOdd f x q) (q * (2 : ℚ) ^ binadeGrid f x) |exQ x| ((q + 1) * (2 : ℚ) ^ binadeGrid f x) up ∧
    ((exGrid x (binadeGrid f x)).2.1 = 0 ↔ |exQ x| = q * (2 : ℚ) ^ binadeGrid f x) := by
  obtain ⟨q, up, hsteps, hr, hex⟩ := nearest_rounds (fmRm f) x (binadeGrid f x) (binadeOdd f x) rw hd
  obtain ⟨hlo, hhi⟩ := binade_bounds hn hd
  have hG : (0 : ℚ) < (2 : ℚ) ^ binadeGrid f x := zpow_pos (by norm_num) _
  have hscale : ∀ k : Nat, (2 : ℚ) ^ (exLog2 x - fmM f + k) = ((2 ^ k : Nat) : ℚ) * (2 : ℚ) ^ binadeGrid f x := fun k => by
    rw [zpow_add₀ (by norm_num), zpow_natCast, binadeGrid]
    push_cast
    ring
  have h1 := (hscale (fmM f)) ▸ (show (2 : ℚ) ^ (exLog2 x - fmM f + fmM f) ≤ |exQ x| by rwa [sub_add_cancel])
  have h2 := (hscale (fmM f + 1)) ▸ (show |exQ x| < (2 : ℚ) ^ (exLog2 x - fmM f + (fmM f + 1 : Nat)) by
    rwa [show exLog2 x - (fmM f : Int) + (fmM f + 1 : Nat) = exLog2 x + 1 by push_cast; ring])
  have h3 := lt_of_mul_lt_mul_right (lt_of_le_of_lt h1 hr.upper) hG.le
  have h4 := lt_of_mul_lt_mul_right (lt_of_le_of_lt hr.lower h2) hG.le
  exact ⟨q, up, hsteps, Nat.lt_succ_iff.1 (by exact_mod_cast h3), by exact_mod_cast h4, hr, hex⟩

end

theorem exLog2_steps {m p : Nat} (hlo : 2 ^ m ≤ p) (hhi : p < 2 ^ (m + 1)) : exLog2 ⟨false, p, 1, 0⟩ = m := by
  have hp : 0 < p := lt_of_lt_of_le (Nat.two_pow_pos m) hlo
  rw [exLog2_eq _ hp one_pos, abs_exQ]
  refine int_log_eq ?_ ?_
  · simp only [Nat.cast_one, div_one, zpow_zero, mul_one, zpow_natCast]
    exact_mod_cast hlo
  · rw [show ((m : Int) + 1) = ((m + 1 : Nat) : Int) by push_cast; ring]
    simp only [Nat.cast_one, div_one, zpow_zero, mul_one, zpow_natCast]
    exact_mod_cast hhi

/-- A real is tiny when it lies below the normal values, but for one that goes up to the smallest of them. -/
theorem isTiny_iff {f : Word} {x : Ex} {rw : Word} {q : Nat} {up : Bool} (hq : binadeSteps f x rw = q + up.toNat)
    (hlo : 2 ^ fmM f ≤ q) (hhi : q < 2 ^ (fmM f + 1)) : isTiny f x rw ↔
      exLog2 x < 1 - fmBias f ∧ ¬(q + up.toNat = 2 ^ (fmM f + 1) ∧ exLog2 x + 1 = 1 - fmBias f) := by
  unfold isTiny binadeGrid
  rw [hq]
  have hup : up.toNat ≤ 1 := Bool.toNat_le up
  by_cases hp : q + up.toNat = 2 ^ (fmM f + 1)
  · have hlog := exLog2_steps (m := fmM f + 1) hp.ge (by rw [hp]; exact Nat.pow_lt_pow_right (by omega) (by omega))
    rw [hlog, hp]
    push_cast
    omega
  · have hlog := exLog2_steps (m := fmM f) (p := q + up.toNat) (by omega) (by omega)
    rw [hlog]
    omega

end Sys2Proof.Machine

namespace Sys2Proof.Machine

/-! ### A rounding by the codes of its neighbours -/

/-- The flags of a rounding of a magnitude a from above lo to k: NX where it is not exact, and UF with it only for a tiny
a, and for every result below the normal values. -/
def RoundFlags (f : Word) (lo a k : ℚ) (fl : Nat) : Prop :=
  (a = lo ∧ fl = 0) ∨ (a ≠ lo ∧ fl = 1 ∧ (fmE f ≠ 0 → slotNormal f ≤ k)) ∨ (a ≠ lo ∧ fl = 3 ∧ fmE f ≠ 0 ∧ a < slotNormal f)

/-- The rounding of x goes from code n to the next where `up` says so, and ends with these flags. -/
structure RoundedAt (f : Word) (x : Ex) (rw : Word) (n : Nat) (up : Bool) (fl : Nat) : Prop where
  rounds : Rounds (fmRm f) x.neg (n % 2 == 1) (magOf f n) |exQ x| (magOf f (n + 1)) up
  flags  : RoundFlags f (magOf f n) |exQ x| (magOf f (n + up.toNat)) fl
  result : roundEx f x rw = finishCode f x.neg (n + up.toNat) fl

/-- A rounding up stays one when its lower neighbour moves away. -/
theorem Rounds.widen {rm : Nat} {neg odd odd' : Bool} {lo lo' a hi : ℚ} (h : Rounds rm neg odd lo a hi true)
    (hlo : lo' < lo) (hodd : odd = false → odd' = false) : Rounds rm neg odd' lo' a hi true := by
  have hlower := h.lower
  refine ⟨by linarith, h.upper, fun ha => by linarith, fun _ hrm => iff_of_true rfl ?_⟩
  have hup := (h.picks (fun ha => Bool.true_eq_false ▸ h.stays ha) hrm).1 rfl
  unfold goesUp at hup ⊢
  split at hup
  · left
    obtain hlt | ⟨heq, -⟩ := hup <;> linarith
  · exact hup
  · exact hup
  · exact hup
  · show lo' + hi ≤ 2 * a
    linarith
  · exact hodd hup

/-- On the grid of a binade of normal values, bit 0 of an encoding is that of the code. -/
theorem binadeOdd_normal {f : Word} {x : Ex} {k q : Nat} (hk : exLog2 x + fmBias f = k) (hlo : 2 ^ fmM f ≤ q)
    (hhi : q < 2 ^ (fmM f + 1)) : binadeOdd f x q = ((k * 2 ^ fmM f + (q - 2 ^ fmM f)) % 2 == 1) := by
  rw [Bool.eq_iff_iff, beq_iff_eq]
  unfold binadeOdd binadeGrid
  by_cases hM : fmM f = 0
  · rw [hM] at hlo hhi
    rw [if_pos hM, beq_iff_eq, hM]
    omega
  · have h2 := two_pow_even hM
    have : k * 2 ^ fmM f % 2 = 0 := by rw [Nat.mul_mod, h2, Nat.mul_zero, Nat.zero_mod]
    rw [if_neg hM, beq_iff_eq]
    omega

/-- The binade just below the normal values has a grid twice as fine as the subnormal one. -/
theorem magOf_on_finer_grid {f : Word} {x : Ex} (he : fmE f ≠ 0) (hlog : exLog2 x + 1 = 1 - fmBias f) {n : Nat}
    (hn : n ≤ 2 ^ fmM f) : magOf f n = (2 * n) * (2 : ℚ) ^ binadeGrid f x := by
  rw [magOf_subnormal he hn, show 1 - fmBias f - (fmM f : Int) = binadeGrid f x + 1 by unfold binadeGrid; omega,
    zpow_add_one₀ (by norm_num)]
  ring

section
variable {f : Word} {x : Ex} (rw : Word) (hn : 0 < x.num) (hd : 0 < x.den)
include hd

theorem roundedAt_integer (he : fmE f = 0) : ∃ n up fl, RoundedAt f x rw n up fl := by
  obtain ⟨q, up, hsteps, hr, hex⟩ := nearest_rounds (fmRm f) x (-fmBias f) (fun q => q % 2 == 1) rw hd
  have h1 : magOf f (q + 1) = (q + 1) * (2 : ℚ) ^ (-fmBias f) := by rw [magOf_integer he, Nat.cast_succ]
  rw [← magOf_integer he, ← h1] at hr
  rw [← magOf_integer he] at hex
  have hres := roundEnd_integer he x (q + up.toNat) (-fmBias f) 0
  refine ⟨q, up, _, hr, ?_, (show roundEx f x rw = _ from ?_).trans hres⟩
  · by_cases h0 : (exGrid x (-fmBias f)).2.1 = 0
    · exact .inl ⟨hex.1 h0, if_neg (not_not_intro h0)⟩
    · exact .inr (.inl ⟨fun h => h0 (hex.2 h), if_pos h0, fun h => absurd he h⟩)
  · unfold roundEx
    rw [if_pos he]
    exact congrArg (fun p => roundEnd f x p (-fmBias f) 0) hsteps

include hn

/-- The rounding of a real among the normal values. -/
theorem roundedAt_normal (he : fmE f ≠ 0) (hL : 1 - fmBias f ≤ exLog2 x) : ∃ n up fl, RoundedAt f x rw n up fl := by
  obtain ⟨q, up, hsteps, hlo, hhi, hr, hex⟩ := binadeSteps_rounds (f := f) hn hd rw
  have hup : up.toNat ≤ 1 := Bool.toNat_le up
  have htiny : ¬ isTiny f x rw := fun h => absurd ((isTiny_iff hsteps hlo hhi).1 h).1 (not_lt.2 hL)
  obtain ⟨k, hk⟩ := Int.eq_ofNat_of_zero_le (show 0 ≤ exLog2 x + fmBias f by omega)
  have hk1 : 1 ≤ k := by omega
  have hgrid : (k : Int) - fmBias f - fmM f = binadeGrid f x := by unfold binadeGrid; omega
  have hmag : ∀ p, 2 ^ fmM f ≤ p → p ≤ 2 ^ (fmM f + 1) →
      magOf f (k * 2 ^ fmM f + (p - 2 ^ fmM f)) = p * (2 : ℚ) ^ binadeGrid f x := fun p h1 h2 => by
    rw [magOf_normal he hk1 h1 h2, hgrid]
  have hcode : ∀ p, 2 ^ fmM f ≤ p → p ≤ 2 ^ (fmM f + 1) →
      fmCode f p (binadeGrid f x) = k * 2 ^ fmM f + (p - 2 ^ fmM f) := fun p h1 h2 =>
    fmCode_normal (by unfold binadeGrid; omega) h1 h2
  have hpos : 2 ^ fmM f ≤ k * 2 ^ fmM f := Nat.le_mul_of_pos_left _ hk1
  have hparity := binadeOdd_normal hk hlo hhi
  set n := k * 2 ^ fmM f + (q - 2 ^ fmM f) with hndef
  have hn1 : n + 1 = k * 2 ^ fmM f + (q + 1 - 2 ^ fmM f) := by omega
  have h0 : magOf f n = q * (2 : ℚ) ^ binadeGrid f x := hmag q hlo hhi.le
  have h1 : magOf f (n + 1) = (q + 1) * (2 : ℚ) ^ binadeGrid f x := by
    rw [hn1, hmag (q + 1) (by omega) hhi, Nat.cast_succ]
  have hfin : fmCode f (q + up.toNat) (binadeGrid f x) = n + up.toNat := by
    rw [hcode _ (by omega) (by omega)]
    omega
  rw [← h0, ← h1, hparity] at hr
  rw [← h0] at hex
  have hres := roundEx_not_tiny he htiny
  rw [hsteps, roundEnd_float he x 0 (by rw [hfin]; omega), hfin] at hres
  refine ⟨n, up, _, hr, ?_, hres⟩
  by_cases hz : (exGrid x (binadeGrid f x)).2.1 = 0
  · exact .inl ⟨hex.1 hz, if_neg (not_not_intro hz)⟩
  · refine .inr (.inl ⟨fun h => hz (hex.2 h), if_pos hz, fun _ => ?_⟩)
    rw [← magOf_slotNormal he]
    exact (magOf_strictMono f).monotone (by omega)

omit hn in
/-- The rounding of a tiny real, in a slot that keeps subnormal results. -/
theorem roundedAt_subnormal (he : fmE f ≠ 0) (htiny : isTiny f x rw) (ha : |exQ x| < slotNormal f)
    (hs : ¬(fmSub f = 1 ∨ fmSub f = 2)) : ∃ n up fl, RoundedAt f x rw n up fl := by
  obtain ⟨q, up, hsteps, hr, hex⟩ := nearest_rounds (fmRm f) x (1 - fmBias f - fmM f) (fun q => q % 2 == 1) rw hd
  have hup : up.toNat ≤ 1 := Bool.toNat_le up
  have hG : (0 : ℚ) < (2 : ℚ) ^ (1 - fmBias f - fmM f) := zpow_pos (by norm_num) _
  have hq : q < 2 ^ fmM f := by
    rw [← magOf_slotNormal he, magOf_subnormal he le_rfl] at ha
    exact_mod_cast lt_of_mul_lt_mul_right (lt_of_le_of_lt hr.lower ha) hG.le
  have h0 := magOf_subnormal he hq.le
  have h1 := magOf_subnormal he (Nat.succ_le_iff.2 hq)
  rw [Nat.cast_succ] at h1
  have hfin : fmCode f (q + up.toNat) (1 - fmBias f - fmM f) = q + up.toNat := fmCode_subnormal (by omega)
  rw [← h0, ← h1] at hr
  rw [← h0] at hex
  have hres := roundEx_subnormal he htiny hs
  rw [show lowSteps f x rw = q + up.toNat from hsteps, roundEnd_float he x _ (by rw [hfin]), hfin] at hres
  refine ⟨q, up, _, hr, ?_, hres⟩
  by_cases hz : (exGrid x (1 - fmBias f - fmM f)).2.1 = 0
  · refine .inl ⟨hex.1 hz, ?_⟩
    rw [if_neg (not_not_intro hz), if_neg (not_not_intro hz)]
  · refine .inr (.inr ⟨fun h => hz (hex.2 h), ?_, he, ha⟩)
    rw [if_pos hz, if_pos hz]
    rfl

/-- The rounding of a real just below the normal values that goes up to the smallest of them, on the finer grid of its
binade: it goes up on the subnormal grid too. -/
theorem roundedAt_reaches_normal (he : fmE f ≠ 0) (htiny : ¬ isTiny f x rw) (hL : exLog2 x < 1 - fmBias f) :
    ∃ n up fl, RoundedAt f x rw n up fl := by
  obtain ⟨q, up, hsteps, hlo, hhi, hr, hex⟩ := binadeSteps_rounds (f := f) hn hd rw
  have hup : up.toNat ≤ 1 := Bool.toNat_le up
  have hreach : q + up.toNat = 2 ^ (fmM f + 1) ∧ exLog2 x + 1 = 1 - fmBias f := by
    by_contra h
    exact htiny ((isTiny_iff hsteps hlo hhi).2 ⟨hL, h⟩)
  obtain ⟨hp, hlog⟩ := hreach
  have hupt : up = true := by
    cases up with
    | true => rfl
    | false => rw [Bool.toNat_false] at hp; omega
  subst hupt
  rw [Bool.toNat_true] at hp hsteps
  have hpow : 2 ^ (fmM f + 1) = 2 ^ fmM f + 2 ^ fmM f := by rw [pow_succ]; omega
  have hG : (0 : ℚ) < (2 : ℚ) ^ binadeGrid f x := zpow_pos (by norm_num) _
  have hPpos := Nat.two_pow_pos (fmM f)
  obtain ⟨n, hnM⟩ : ∃ n, 2 ^ fmM f = n + 1 := ⟨2 ^ fmM f - 1, by omega⟩
  have hqn : q = 2 * n + 1 := by omega
  have h0 : magOf f n = (q - 1) * (2 : ℚ) ^ binadeGrid f x := by
    rw [magOf_on_finer_grid he hlog (by omega), hqn]
    push_cast
    ring
  have h1 : magOf f (n + 1) = (q + 1) * (2 : ℚ) ^ binadeGrid f x := by
    rw [magOf_on_finer_grid he hlog (by omega), hqn]
    push_cast
    ring
  have hodd : binadeOdd f x q = false → (n % 2 == 1) = false := fun h => by
    rw [beq_eq_false_iff_ne]
    unfold binadeOdd at h
    by_cases hM : fmM f = 0
    · rw [hM] at hnM
      omega
    · rw [if_neg hM, beq_eq_false_iff_ne] at h
      omega
  have hcode : fmCode f (2 ^ (fmM f + 1)) (binadeGrid f x) = n + 1 := by
    rw [fmCode_normal (k := 0) (by unfold binadeGrid; push_cast; omega) (by omega) le_rfl]
    omega
  have hne : |exQ x| ≠ q * (2 : ℚ) ^ binadeGrid f x := fun h => Bool.noConfusion (hr.stays h)
  have hinexact : (exGrid x (binadeGrid f x)).2.1 ≠ 0 := fun h => hne (hex.1 h)
  refine ⟨n, true, 1, ?_, .inr (.inl ⟨?_, rfl, fun _ => ?_⟩), ?_⟩
  · rw [h0, h1]
    exact hr.widen (mul_lt_mul_of_pos_right (by linarith) hG) hodd
  · have := hr.lower
    rw [h0]
    exact (lt_of_lt_of_le (mul_lt_mul_of_pos_right (by linarith) hG) this).ne'
  · rw [← magOf_slotNormal he, hnM]
    rfl
  · rw [roundEx_not_tiny he htiny, hsteps, hp, roundEnd_float he x 0 (by rw [hcode]; omega), hcode, if_pos hinexact]
    rfl

/-- Where no small result is flushed, rounding goes to a neighbour of the real, by its mode. -/
theorem exists_roundedAt (h : isNormal f (exQ x) ∨ fmSub f = 0 ∨ fmSub f = 3) :
    ∃ n up fl, RoundedAt f x rw n up fl := by
  by_cases he : fmE f = 0
  · exact roundedAt_integer rw hd he
  by_cases hL : 1 - fmBias f ≤ exLog2 x
  · exact roundedAt_normal rw hn hd he hL
  have hsmall : |exQ x| < slotNormal f := not_le.1 (fun hle => hL ((zpow_le_abs_exQ_iff hn hd _).1 hle))
  by_cases htiny : isTiny f x rw
  · refine roundedAt_subnormal rw hd he htiny hsmall ?_
    obtain h | h | h := h
    · exact absurd (h he) (not_le.2 hsmall)
    · omega
    · omega
  · exact roundedAt_reaches_normal rw hn hd he htiny (not_le.1 hL)

/-- A slot that flushes makes a real far below the normal values a zero. -/
theorem roundEx_flushed (he : fmE f ≠ 0) (ha : 2 * |exQ x| < slotNormal f) (hs : fmSub f = 1 ∨ fmSub f = 2) :
    roundEx f x rw = ⟨fmZero f x.neg, 3⟩ := by
  obtain ⟨q, up, hsteps, hlo, hhi, -, -⟩ := binadeSteps_rounds (f := f) hn hd rw
  refine roundEx_flush he ((isTiny_iff hsteps hlo hhi).2 ?_) hs
  have hL : ¬ -fmBias f ≤ exLog2 x := fun hle => by
    have := (zpow_le_abs_exQ_iff hn hd _).2 hle
    rw [slotNormal, show 1 - fmBias f = -fmBias f + 1 by ring, zpow_add_one₀ (by norm_num)] at ha
    linarith
  omega

end

end Sys2Proof.Machine

/-! ## What the rounding modes choose (R66, R67) -/

namespace Sys2Proof.Machine

/-! ### A rounded magnitude among the values around it -/

theorem goesUp_odd {rm : Nat} {neg odd : Bool} {lo a hi : ℚ} (h : 5 < rm) :
    goesUp rm neg odd lo a hi ↔ odd = false := by
  obtain ⟨k, rfl⟩ := Nat.exists_eq_add_of_le' (show 6 ≤ rm from h)
  rfl

/-- The neighbour that a rounding goes to. -/
def picked (lo hi : ℚ) (up : Bool) : ℚ := if up then hi else lo

theorem magOf_add_toNat (f : Word) (n : Nat) (up : Bool) :
    magOf f (n + up.toNat) = picked (magOf f n) (magOf f (n + 1)) up := by
  cases up <;> rfl

section
variable {rm : Nat} {neg odd up : Bool} {lo a hi t : ℚ} (h : Rounds rm neg odd lo a hi up)
include h

theorem Rounds.up_or_down : (up = true ∧ lo < a) ∨ up = false := by
  cases up with
  | false => exact .inr rfl
  | true => exact .inl ⟨rfl, lt_of_le_of_ne h.lower (fun he => Bool.noConfusion (h.stays he.symm))⟩

theorem Rounds.picked_eq_iff : picked lo hi up = a ↔ a = lo := by
  have hupper := h.upper
  obtain ⟨rfl, hlt⟩ | rfl := h.up_or_down
  · exact ⟨fun he => absurd he hupper.ne', fun he => absurd he hlt.ne'⟩
  · exact eq_comm

/-- No value lies strictly between a magnitude and what it is rounded to. -/
theorem Rounds.adjacent (ht : t ≤ lo ∨ hi ≤ t) :
    ¬(a < t ∧ t < picked lo hi up) ∧ ¬(picked lo hi up < t ∧ t < a) ∧ (t = a → picked lo hi up = a) := by
  have hlower := h.lower
  have hupper := h.upper
  obtain ⟨rfl, hlt⟩ | rfl := h.up_or_down
  · simp only [picked, if_true]
    refine ⟨fun hc => ?_, fun hc => ?_, fun hc => ?_⟩ <;> obtain ht | ht := ht <;> linarith [hc]
  · simp only [picked, Bool.false_eq_true, if_false]
    refine ⟨fun hc => ?_, fun hc => ?_, fun hc => ?_⟩ <;> obtain ht | ht := ht <;> linarith [hc]

/-- Rounding to nearest leaves the nearer neighbour. -/
theorem Rounds.nearer (hrm : rm = 0 ∨ rm = 4) :
    (up = true → lo + hi ≤ 2 * a) ∧ (up = false → 2 * a ≤ lo + hi) := by
  have hlower := h.lower
  have hupper := h.upper
  by_cases ha : a = lo
  · rw [h.stays ha]
    exact ⟨fun hc => Bool.noConfusion hc, fun _ => by linarith⟩
  · have hpick := h.picks ha (by omega)
    obtain rfl | rfl := hrm
    · refine ⟨fun hu => ?_, fun hu => ?_⟩
      · obtain hlt | ⟨heq, -⟩ := hpick.1 hu <;> linarith
      · by_contra hlt
        exact Bool.noConfusion (hu.symm.trans (hpick.2 (.inl (not_le.1 hlt))))
    · refine ⟨fun hu => hpick.1 hu, fun hu => ?_⟩
      by_contra hlt
      exact Bool.noConfusion (hu.symm.trans (hpick.2 (not_le.1 hlt).le))

theorem Rounds.closest (hrm : rm = 0 ∨ rm = 4) (ht : t ≤ lo ∨ hi ≤ t) : |a - picked lo hi up| ≤ |a - t| := by
  obtain ⟨hu, hd⟩ := h.nearer hrm
  have hlower := h.lower
  have hupper := h.upper
  cases up with
  | true =>
    have := hu rfl
    rw [picked, if_pos rfl, abs_of_neg (by linarith)]
    obtain ht | ht := ht
    · exact le_trans (by linarith) (le_abs_self _)
    · exact le_trans (by linarith) (neg_le_abs _)
  | false =>
    have := hd rfl
    rw [picked, if_neg Bool.false_ne_true, abs_of_nonneg (by linarith)]
    obtain ht | ht := ht
    · exact le_trans (by linarith) (le_abs_self _)
    · exact le_trans (by linarith) (neg_le_abs _)

/-- A value as near as the one chosen is that one or, on a tie, the other neighbour. -/
theorem Rounds.tie (hrm : rm = 0 ∨ rm = 4) (ht : t ≤ lo ∨ hi ≤ t) (heq : |a - t| = |a - picked lo hi up|) :
    t = picked lo hi up ∨ (2 * a = lo + hi ∧ t = picked lo hi (!up)) := by
  obtain ⟨hu, hd⟩ := h.nearer hrm
  have hlower := h.lower
  have hupper := h.upper
  cases up with
  | true =>
    have := hu rfl
    simp only [picked, if_true, Bool.not_true, Bool.false_eq_true, if_false] at heq ⊢
    rw [abs_of_neg (show a - hi < 0 by linarith)] at heq
    obtain ht | ht := ht
    · rw [abs_of_nonneg (by linarith)] at heq
      exact .inr ⟨by linarith, by linarith⟩
    · rw [abs_of_neg (by linarith)] at heq
      exact .inl (by linarith)
  | false =>
    have := hd rfl
    simp only [picked, if_true, Bool.not_false, Bool.false_eq_true, if_false] at heq ⊢
    rw [abs_of_nonneg (show 0 ≤ a - lo by linarith)] at heq
    obtain ht | ht := ht
    · rw [abs_of_nonneg (by linarith)] at heq
      exact .inl (by linarith)
    · rw [abs_of_neg (by linarith)] at heq
      exact .inr ⟨by linarith, by linarith⟩

end

/-- Rounding toward zero leaves the lower neighbour. -/
theorem Rounds.toward_zero {neg odd up : Bool} {lo a hi : ℚ} (h : Rounds 1 neg odd lo a hi up) : picked lo hi up ≤ a := by
  obtain ⟨hu, hlt⟩ | rfl := h.up_or_down
  · exact ((h.picks hlt.ne' (by decide)).1 hu).elim
  · exact h.lower

/-- Rounding down does not go above the value, and rounding up not below it. -/
theorem Rounds.downward {neg odd up : Bool} {lo a hi : ℚ} (h : Rounds 2 neg odd lo a hi up) :
    sgn neg * picked lo hi up ≤ sgn neg * a := by
  by_cases ha : a = lo
  · rw [h.picked_eq_iff.2 ha]
  have hlower := h.lower
  have hupper := h.upper
  have hpick : up = true ↔ neg = true := h.picks ha (by decide)
  obtain rfl := Bool.eq_iff_iff.2 hpick
  cases up with
  | true => simpa [sgn, picked] using hupper.le
  | false => simpa [sgn, picked] using hlower

theorem Rounds.upward {neg odd up : Bool} {lo a hi : ℚ} (h : Rounds 3 neg odd lo a hi up) :
    sgn neg * a ≤ sgn neg * picked lo hi up := by
  by_cases ha : a = lo
  · rw [h.picked_eq_iff.2 ha]
  have hlower := h.lower
  have hupper := h.upper
  have hpick : up = true ↔ neg = false := h.picks ha (by decide)
  obtain rfl : up = !neg := by rw [Bool.eq_iff_iff, hpick, Bool.not_eq_true']
  cases neg with
  | false => simpa [sgn, picked] using hupper.le
  | true => simpa [sgn, picked] using hlower

/-- Ties to even leave the neighbour whose encoding has bit 0 clear. -/
theorem Rounds.tie_even {neg odd up : Bool} {lo a hi t : ℚ} (h : Rounds 0 neg odd lo a hi up) (ht : t ≤ lo ∨ hi ≤ t)
    (hne : t ≠ picked lo hi up) (heq : |a - t| = |a - picked lo hi up|) : odd = up := by
  obtain htie | ⟨htie, -⟩ := h.tie (.inl rfl) ht heq
  · exact absurd htie hne
  have hupper := h.upper
  have hpick := h.picks (fun ha => by linarith) (by decide)
  rw [show goesUp 0 neg odd lo a hi ↔ odd = true from
    ⟨fun hg => hg.elim (fun hlt => absurd htie hlt.ne') (·.2), fun ho => .inr ⟨htie, ho⟩⟩] at hpick
  cases up with
  | true => exact hpick.1 rfl
  | false => exact Bool.eq_false_iff.2 (fun ho => Bool.noConfusion (hpick.2 ho))

/-- Rounding to odd goes up from an even encoding. -/
theorem Rounds.to_odd {rm : Nat} {neg odd up : Bool} {lo a hi : ℚ} (h : Rounds rm neg odd lo a hi up) (hrm : 5 < rm)
    (ha : a ≠ lo) : up = !odd := by
  rw [Bool.eq_iff_iff, h.picks ha (by omega), goesUp_odd hrm, Bool.not_eq_true']

/-- Ties away leave the neighbour farther from zero. -/
theorem Rounds.tie_away {neg odd up : Bool} {lo a hi t : ℚ} (h : Rounds 4 neg odd lo a hi up) (h0 : 0 ≤ lo)
    (ht : t ≤ lo ∨ hi ≤ t) (heq : |a - t| = |a - picked lo hi up|) : |t| ≤ |picked lo hi up| := by
  obtain rfl | ⟨htie, rfl⟩ := h.tie (.inr rfl) ht heq
  · exact le_rfl
  have hlower := h.lower
  have hupper := h.upper
  have hup : up = true := (h.picks (fun ha => by linarith) (by decide)).2 (show lo + hi ≤ 2 * a from htie.ge)
  subst hup
  simp only [picked, Bool.not_true, Bool.false_eq_true, if_false, if_true]
  exact abs_le_abs_of_nonneg h0 (by linarith)

end Sys2Proof.Machine

namespace Sys2Proof.Machine

/-! ### Results between the finite values of the slot -/

/-- A finite value as a multiple of a given sign: a magnitude of that sign, or none above zero. -/
theorem slotValue_toward {f : Word} {w : Nat} {u : ℚ} (hf : SlotSound f) (h : slotValue f w = some u) (neg : Bool) :
    ∃ t, u = sgn neg * t ∧ (t ≤ 0 ∨ ∃ n, n ≤ lastCode f neg ∧ n ≠ 0 ∧ t = magOf f n ∧ w = codeOf f neg n) := by
  obtain ⟨b, n, hn, rfl, hw⟩ := exists_codeOf_of_slotValue hf h
  refine ⟨sgn neg * (sgn b * magOf f n), by rw [← mul_assoc, sgn_mul_self, one_mul], ?_⟩
  by_cases h0 : n = 0
  · left
    simp [h0]
  · by_cases hb : b = neg
    · right
      subst hb
      exact ⟨n, hn, h0, by rw [← mul_assoc, sgn_mul_self, one_mul], hw h0⟩
    · left
      have hopp : sgn neg * sgn b = -1 := by
        rw [Bool.eq_not_of_ne hb]
        cases neg <;> simp [sgn]
      rw [← mul_assoc, hopp, neg_one_mul]
      exact neg_nonpos.2 (magOf_nonneg f n)

/-- No finite value lies between the magnitudes of a code and of the next. -/
theorem slotValue_outside {f : Word} {w : Nat} {u : ℚ} (hf : SlotSound f) (h : slotValue f w = some u) (neg : Bool)
    (n : Nat) : ∃ t, u = sgn neg * t ∧ (t ≤ magOf f n ∨ magOf f (n + 1) ≤ t) := by
  obtain ⟨t, hu, ht | ⟨k, -, -, rfl, -⟩⟩ := slotValue_toward hf h neg
  · exact ⟨t, hu, .inl (ht.trans (magOf_nonneg f n))⟩
  · exact ⟨_, hu, (le_or_gt k n).imp (fun hk => (magOf_strictMono f).monotone hk)
      (fun hk => (magOf_strictMono f).monotone hk)⟩

theorem finishCode_of_le {f : Word} {neg : Bool} {k : Nat} (h : k ≤ lastCode f neg) (fl : Nat) :
    finishCode f neg k fl = ⟨codeOf f neg k, fl⟩ := by
  unfold finishCode
  by_cases h0 : k = 0
  · rw [if_pos h0, codeOf, if_pos h0]
  · rw [if_neg h0, if_neg (fun hs => signed_of_lastCode h h0 hs.2 hs.1), if_neg (not_lt.2 h)]

theorem finishCode_of_gt {f : Word} {neg : Bool} {k : Nat} (h : lastCode f neg < k) (hs : neg = true → fmS f ≠ 0)
    (fl : Nat) : finishCode f neg k fl = ⟨overflowOut f neg, fl ||| flOF⟩ := by
  unfold finishCode
  rw [if_neg (by omega), if_neg (fun hc => hs hc.2 hc.1), if_pos h]

/-- The flags that a rounding raises so far. -/
theorem RoundFlags.cases {f : Word} {lo a k : ℚ} {fl : Nat} (h : RoundFlags f lo a k fl) : fl = 0 ∨ fl = 1 ∨ fl = 3 := by
  obtain ⟨-, h⟩ | ⟨-, h, -⟩ | ⟨-, h, -⟩ := h
  · exact .inl h
  · exact .inr (.inl h)
  · exact .inr (.inr h)

theorem RoundFlags.of_normal {f : Word} {lo a k : ℚ} {fl : Nat} (h : RoundFlags f lo a k fl) (ha : a ≠ lo)
    (hnormal : fmE f ≠ 0 → slotNormal f ≤ a) : fl = 1 := by
  obtain ⟨h, -⟩ | ⟨-, h, -⟩ | ⟨-, -, he, h⟩ := h
  · exact absurd h ha
  · exact h
  · exact absurd (hnormal he) (not_le.2 h)

section
variable {f : Word} {x : Ex} {rw : Word} {n fl : Nat} {up : Bool} (hf : SlotSound f) (hr : RoundedAt f x rw n up fl)
include hf hr

/-- Between the finite values of the slot a rounding stays among them. -/
theorem RoundedAt.code_le (hn : 0 < x.num) (hd : 0 < x.den) (hin : inSlot f (exQ x)) :
    n + up.toNat ≤ lastCode f x.neg := by
  have hmono := magOf_strictMono f
  obtain ⟨w, u, hval, hle⟩ : ∃ w u, slotValue f w = some u ∧ |exQ x| ≤ sgn x.neg * u := by
    obtain ⟨⟨w, u, hw, hu⟩, w', u', hw', hu'⟩ := hin
    rw [exQ_eq_sgn x] at hu hu'
    cases hneg : x.neg with
    | false => exact ⟨w, u, hw, by rw [hneg] at hu; simpa [sgn] using hu⟩
    | true => exact ⟨w', u', hw', by rw [hneg] at hu'; simp [sgn] at hu' ⊢; linarith⟩
  obtain ⟨t, rfl, ht⟩ := slotValue_toward hf hval x.neg
  rw [← mul_assoc, sgn_mul_self, one_mul] at hle
  obtain ht | ⟨k, hk, -, rfl, -⟩ := ht
  · exact absurd (abs_exQ_pos hn hd) (not_lt.2 (hle.trans ht))
  · obtain ⟨rfl, hlt⟩ | rfl := hr.rounds.up_or_down
    · have : n < k := hmono.lt_iff_lt.1 (lt_of_lt_of_le hlt hle)
      simp only [Bool.toNat_true]
      omega
    · have : n ≤ k := hmono.le_iff_le.1 (hr.rounds.lower.trans hle)
      simp only [Bool.toNat_false]
      omega

/-- What a rounding among the finite values gives is what the slot's mode chooses (R66). -/
theorem RoundedAt.chosen (hk : n + up.toNat ≤ lastCode f x.neg) :
    chosen f (exQ x) (codeOf f x.neg (n + up.toNat)) := by
  have hrounds := hr.rounds
  have hparity := codeOf_mod_two hf hk
  have hval := slotValue_codeOf hf hk
  rw [magOf_add_toNat] at hval
  have h0 := magOf_nonneg f n
  have hlower := hrounds.lower
  have hupper := hrounds.upper
  have hout := fun w u (h : slotValue f w = some u) => slotValue_outside hf h x.neg n
  rw [exQ_eq_sgn x]
  generalize |exQ x| = a at *
  generalize magOf f n = lo at *
  generalize magOf f (n + 1) = hi at *
  have hp0 : 0 ≤ picked lo hi up := by
    unfold picked
    split <;> linarith
  refine ⟨_, hval, fun w u hu => ?_, ?_⟩
  · obtain ⟨t, rfl, ht⟩ := hout w u hu
    obtain ⟨h1, h2, h3⟩ := hrounds.adjacent ht
    cases x.neg <;> simp only [sgn, if_true, Bool.false_eq_true, if_false, one_mul, neg_one_mul, neg_lt_neg_iff, neg_inj]
    · exact ⟨h1, h2, h3⟩
    · exact ⟨fun hc => h2 hc.symm, fun hc => h1 hc.symm, h3⟩
  have hcloser : fmRm f = 0 ∨ fmRm f = 4 → closest f (sgn x.neg * a) (sgn x.neg * picked lo hi up) := fun hrm w u hu => by
    obtain ⟨t, rfl, ht⟩ := hout w u hu
    rw [abs_sgn_sub, abs_sgn_sub]
    exact hrounds.closest hrm ht
  split
  case h_1 hrm =>
    refine ⟨hcloser (.inl hrm), fun w u hu hne heq => ?_⟩
    obtain ⟨t, rfl, ht⟩ := hout w u hu
    rw [abs_sgn_sub, abs_sgn_sub] at heq
    rw [hrm] at hrounds
    have hodd := hrounds.tie_even ht (fun hc => hne (by rw [hc])) heq
    rw [hparity]
    cases up <;> simp only [beq_eq_false_iff_ne, beq_iff_eq, Bool.toNat_true, Bool.toNat_false] at hodd ⊢ <;> omega
  case h_2 hrm =>
    rw [abs_sgn_mul _ hp0, abs_sgn_mul _ (by linarith)]
    rw [hrm] at hrounds
    exact hrounds.toward_zero
  case h_3 hrm =>
    rw [hrm] at hrounds
    exact hrounds.downward
  case h_4 hrm =>
    rw [hrm] at hrounds
    exact hrounds.upward
  case h_5 hrm =>
    refine ⟨hcloser (.inr hrm), fun w u hu heq => ?_⟩
    obtain ⟨t, rfl, ht⟩ := hout w u hu
    rw [abs_sgn_sub, abs_sgn_sub] at heq
    rw [hrm] at hrounds
    have := hrounds.tie_away h0 ht heq
    cases x.neg <;> simpa [sgn] using this
  case h_6 => trivial
  case h_7 h0 h1 h2 h3 h4 h5 =>
    intro hne
    have ha : a ≠ lo := fun ha => hne (by rw [hrounds.picked_eq_iff.2 ha])
    have hmodes : fmRm f ≠ 0 ∧ fmRm f ≠ 1 ∧ fmRm f ≠ 2 ∧ fmRm f ≠ 3 ∧ fmRm f ≠ 4 ∧ fmRm f ≠ 5 := ⟨h0, h1, h2, h3, h4, h5⟩
    have hup := hrounds.to_odd (by omega) ha
    rw [hparity, hup]
    obtain hn | hn := Nat.mod_two_eq_zero_or_one n <;> simp [hn, Nat.add_mod]

end

end Sys2Proof.Machine

namespace Sys2Proof.Machine

/-! ### The cases of `round_to` for a real (R67, R68) -/

theorem exQ_pos_iff {x : Ex} (hn : 0 < x.num) (hd : 0 < x.den) : 0 < exQ x ↔ x.neg = false := by
  have ha := abs_exQ_pos hn hd
  rw [exQ_eq_sgn]
  generalize |exQ x| = a at ha ⊢
  cases x.neg <;> simp [sgn, ha, ha.le]

theorem exQ_neg_iff {x : Ex} (hn : 0 < x.num) (hd : 0 < x.den) : exQ x < 0 ↔ x.neg = true := by
  have ha := abs_exQ_pos hn hd
  rw [exQ_eq_sgn]
  generalize |exQ x| = a at ha ⊢
  cases x.neg <;> simp [sgn, ha, ha.le]

section
variable {f : Word} {x : Ex} (rw : Word) (hf : SlotSound f) (hn : 0 < x.num) (hd : 0 < x.den)
include hf hn hd

/-- A real between the finite values of the slot. -/
theorem roundTo_inSlot (hin : inSlot f (exQ x)) (hkeep : isNormal f (exQ x) ∨ fmSub f = 0 ∨ fmSub f = 3) :
    let r := roundTo f (.fin x) rw
    chosen f (exQ x) r.code ∧ (bits r.flags 0 1 = 1 ↔ slotValue f r.code ≠ some (exQ x)) ∧ r.flags < 4 ∧
      (isNormal f (exQ x) → bits r.flags 1 1 = 0) ∧
      (∀ u, slotValue f r.code = some u → u ≠ exQ x → ¬ isNormal f u → bits r.flags 1 1 = 1) := by
  obtain ⟨n, up, fl, hr⟩ := exists_roundedAt rw hn hd hkeep
  have hk := hr.code_le hf hn hd hin
  have hres : roundTo f (.fin x) rw = ⟨codeOf f x.neg (n + up.toNat), fl⟩ := hr.result.trans (finishCode_of_le hk fl)
  have hval := slotValue_codeOf hf hk
  have hmag : |sgn x.neg * magOf f (n + up.toNat)| = magOf f (n + up.toNat) := abs_sgn_mul _ (magOf_nonneg f _)
  have hexact : sgn x.neg * magOf f (n + up.toNat) = exQ x ↔ |exQ x| = magOf f n := by
    rw [magOf_add_toNat, ← hr.rounds.picked_eq_iff]
    constructor
    · intro h
      rw [← h, ← magOf_add_toNat, hmag]
    · intro h
      rw [h, ← exQ_eq_sgn]
  rw [hres]
  refine ⟨hr.chosen hf hk, ?_, ?_, fun hnormal => ?_, fun u hu hne hsub => ?_⟩
  · rw [hval, ne_eq, Option.some_inj, hexact]
    obtain ⟨h, rfl⟩ | ⟨h, rfl, -⟩ | ⟨h, rfl, -⟩ := hr.flags <;> simp [h, bits]
  · obtain h | h | h := hr.flags.cases <;> simp only [h] <;> decide
  · obtain ⟨-, rfl⟩ | ⟨-, rfl, -⟩ | ⟨-, -, he, hlt⟩ := hr.flags
    · exact show bits 0 1 1 = 0 by decide
    · exact show bits 1 1 1 = 0 by decide
    · exact absurd (hnormal he) (not_le.2 hlt)
  · obtain rfl : _ = u := Option.some.inj (hval.symm.trans hu)
    obtain ⟨h, -⟩ | ⟨-, -, h⟩ | ⟨-, rfl, -⟩ := hr.flags
    · exact absurd (hexact.2 h) hne
    · exact absurd (fun he => (h he).trans hmag.ge) hsub
    · exact show bits 3 1 1 = 1 by decide

/-- A small real in a slot that flushes its outputs. -/
theorem roundTo_flushed (he : fmE f ≠ 0) (ha : 2 * |exQ x| < slotNormal f) (hs : fmSub f = 1 ∨ fmSub f = 2) :
    slotValue f (roundTo f (.fin x) rw).code = some 0 ∧ (roundTo f (.fin x) rw).flags = 3 := by
  have hres : roundTo f (.fin x) rw = ⟨fmZero f x.neg, 3⟩ := roundEx_flushed rw hn hd he ha hs
  have hval := slotValue_codeOf hf (Nat.zero_le (lastCode f x.neg))
  rw [magOf_zero, mul_zero, codeOf, if_pos rfl] at hval
  rw [hres]
  exact ⟨hval, rfl⟩

omit hf in
/-- A negative real in an unsigned slot. -/
theorem roundTo_negative (hs : fmS f = 0) (hneg : exQ x < 0) (hnormal : isNormal f (exQ x))
    (hint : fmE f = 0 → (2 : ℚ) ^ (-fmBias f) ≤ |exQ x|) :
    bits (roundTo f (.fin x) rw).flags 4 1 = 1 ∧
      (roundTo f (.fin x) rw).code = (if fmNan f = 0 then 0 else fmNanCode f) := by
  obtain ⟨n, up, fl, hr⟩ := exists_roundedAt rw hn hd (.inl hnormal)
  have hsign := (exQ_neg_iff hn hd).1 hneg
  have hge : magOf f 1 ≤ |exQ x| := by
    by_cases he : fmE f = 0
    · rw [magOf_integer he, Nat.cast_one, one_mul]
      exact hint he
    · exact ((magOf_strictMono f).monotone Nat.one_le_two_pow).trans ((magOf_slotNormal he).trans_le (hnormal he))
  have hpos : 1 < n + 1 := (magOf_strictMono f).lt_iff_lt.1 (lt_of_le_of_lt hge hr.rounds.upper)
  have hres : roundTo f (.fin x) rw = ⟨(nanOut f).code, fl ||| flNV⟩ := by
    refine hr.result.trans ?_
    unfold finishCode
    rw [if_neg (by omega), if_pos ⟨hs, hsign⟩]
  rw [hres]
  constructor
  · obtain h | h | h := hr.flags.cases <;> simp only [h] <;> decide
  · unfold nanOut
    by_cases h0 : fmNan f = 0
    · rw [if_neg (not_not_intro h0), if_pos h0]
    · rw [if_pos h0, if_neg h0]

end

/-! ### Beyond the largest finite value (R67) -/

/-- The largest finite value on a side of zero has the last code of its sign. -/
theorem code_of_beyond {f : Word} {x : Ex} {c : Nat} {m : ℚ} (hf : SlotSound f) (h : beyond f (exQ x) c m) :
    c = codeOf f x.neg (lastCode f x.neg) ∧ |m| = magOf f (lastCode f x.neg) ∧ lastCode f x.neg ≠ 0 := by
  obtain ⟨hval, hside, -, hmax⟩ := h
  have hv := exQ_eq_sgn x
  have hflip : ∀ a t : ℚ, sgn x.neg * t * (sgn x.neg * a) = t * a := fun a t => by
    rw [mul_mul_mul_comm, sgn_mul_self, one_mul]
  obtain ⟨t, rfl, ht⟩ := slotValue_toward hf hval x.neg
  rw [hv, hflip] at hside
  obtain ht | ⟨n, hle, h0, rfl, hc⟩ := ht
  · exact absurd hside (not_lt.2 (mul_nonpos_of_nonpos_of_nonneg ht (abs_nonneg _)))
  have hpos : ∀ k, k ≠ 0 → 0 < magOf f k := fun k hk => by
    rw [← magOf_zero f]
    exact magOf_strictMono f (Nat.pos_of_ne_zero hk)
  have ha : 0 < |exQ x| := (mul_pos_iff_of_pos_left (hpos n h0)).1 hside
  have hlast : lastCode f x.neg ≠ 0 := by omega
  have hge := hmax _ _ (slotValue_codeOf hf le_rfl) (by
    conv_rhs => rw [hv]
    rw [hflip]
    exact mul_pos (hpos _ hlast) ha)
  rw [abs_sgn_mul _ (magOf_nonneg f _), abs_sgn_mul _ (magOf_nonneg f _), (magOf_strictMono f).le_iff_le] at hge
  obtain rfl : n = lastCode f x.neg := le_antisymm hle hge
  exact ⟨hc, abs_sgn_mul _ (magOf_nonneg f _), hlast⟩

/-- The next magnitude lies one step of the grid further. -/
theorem magOf_succ_eq_add_grid {f : Word} {m : ℚ} {n : Nat} (hm : |m| = magOf f n) (hnormal : isNormal f m) :
    magOf f (n + 1) = |m| + gridAt f m := by
  unfold gridAt
  rw [hm]
  by_cases he : fmE f = 0
  · rw [if_pos he, magOf_integer he, magOf_integer he]
    push_cast
    ring
  · have hn : 2 ^ fmM f ≤ n := by
      have := hnormal he
      rwa [hm, ← magOf_slotNormal he, (magOf_strictMono f).le_iff_le] at this
    obtain ⟨q, g, hlo, hhi, h0, h1⟩ := magOf_step_normal he hn
    have hG : (0 : ℚ) < (2 : ℚ) ^ g := zpow_pos (by norm_num) _
    have hlog : Int.log 2 (magOf f n) = g + fmM f := by
      refine int_log_eq ?_ ?_
      · rw [h0, add_comm, zpow_add₀ (by norm_num), zpow_natCast]
        exact mul_le_mul_of_nonneg_right (by exact_mod_cast hlo) hG.le
      · rw [h0, add_assoc, add_comm g, zpow_add₀ (by norm_num),
          show ((fmM f : Int) + 1) = ((fmM f + 1 : Nat) : Int) by push_cast; ring, zpow_natCast]
        exact mul_lt_mul_of_pos_right (by exact_mod_cast hhi) hG
    rw [if_neg he, hlog, add_sub_cancel_right, h0, h1]
    ring

section
variable {f : Word} {x : Ex} {c : Nat} {m : ℚ} (rw : Word) (hf : SlotSound f) (hn : 0 < x.num) (hd : 0 < x.den)
  (h : beyond f (exQ x) c m) (hnormal : isNormal f m)
include hf hn hd h hnormal

/-- A real a step or more beyond the largest finite value overflows. -/
theorem roundTo_far_beyond (hfar : |m| + gridAt f m ≤ |exQ x|) :
    (roundTo f (.fin x) rw).code = overflowOut f x.neg ∧ bits (roundTo f (.fin x) rw).flags 2 1 = 1 := by
  obtain ⟨-, hm, hlast⟩ := code_of_beyond hf h
  obtain ⟨-, -, hlt, -⟩ := h
  obtain ⟨n, up, fl, hr⟩ := exists_roundedAt rw hn hd (.inl (fun he => (hnormal he).trans hlt.le))
  rw [← magOf_succ_eq_add_grid hm hnormal] at hfar
  have hgt : lastCode f x.neg + 1 < n + 1 := (magOf_strictMono f).lt_iff_lt.1 (lt_of_le_of_lt hfar hr.rounds.upper)
  have hres : roundTo f (.fin x) rw = _ :=
    hr.result.trans (finishCode_of_gt (by omega) (signed_of_lastCode le_rfl hlast) fl)
  rw [hres]
  refine ⟨rfl, ?_⟩
  obtain h | h | h := hr.flags.cases <;> simp only [h] <;> decide

/-- Closer to the largest finite value, the slot's mode chooses between it and an overflow. -/
theorem roundTo_near_beyond (hnear : |exQ x| < |m| + gridAt f m) : ∃ up : Bool,
    (fmRm f ≠ 5 → (up = true ↔ goesUp (fmRm f) x.neg (c % 2 == 1) |m| |exQ x| (|m| + gridAt f m))) ∧
    roundTo f (.fin x) rw = if up then ⟨overflowOut f x.neg, 5⟩ else ⟨c, 1⟩ := by
  obtain ⟨hc, hm, hlast⟩ := code_of_beyond hf h
  obtain ⟨-, -, hlt, -⟩ := h
  have hnormal' : isNormal f (exQ x) := fun he => (hnormal he).trans hlt.le
  obtain ⟨n, up, fl, hr⟩ := exists_roundedAt rw hn hd (.inl hnormal')
  have hmono := magOf_strictMono f
  have hgrid := magOf_succ_eq_add_grid hm hnormal
  obtain rfl : n = lastCode f x.neg := by
    have h1 := hmono.lt_iff_lt.1 (lt_of_le_of_lt hr.rounds.lower (hgrid ▸ hnear))
    have h2 := hmono.lt_iff_lt.1 (lt_trans (hm ▸ hlt) hr.rounds.upper)
    omega
  have hne : |exQ x| ≠ magOf f (lastCode f x.neg) := (hm ▸ hlt).ne'
  have hfl : fl = 1 := hr.flags.of_normal hne hnormal'
  refine ⟨up, fun hrm => ?_, ?_⟩
  · rw [hr.rounds.picks hne hrm, ← hgrid, hm, hc, codeOf_mod_two hf le_rfl]
  · refine hr.result.trans ?_
    cases up with
    | true =>
      rw [hfl, finishCode_of_gt (by simp) (signed_of_lastCode le_rfl hlast)]
      rfl
    | false =>
      rw [hfl, finishCode_of_le (by simp), hc]
      rfl

end

end Sys2Proof.Machine

/-! ## Exact sums and products (R69, R73) -/

namespace Sys2Proof.Machine

/-! ### Sums of two reals -/

theorem isReal_ne_zero {x : Ex} {u : ℚ} (h : isReal x u) : u ≠ 0 := by
  obtain ⟨hn, hd, rfl⟩ := h
  exact abs_pos.1 (abs_exQ_pos hn hd)

theorem isReal_exMul {x y : Ex} {u v : ℚ} (hx : isReal x u) (hy : isReal y v) : isReal (exMul x y) (u * v) := by
  obtain ⟨hxn, hxd, rfl⟩ := hx
  obtain ⟨hyn, hyd, rfl⟩ := hy
  refine ⟨Nat.mul_pos hxn hyn, Nat.mul_pos hxd hyd, ?_⟩
  unfold exQ exMul
  simp only
  rw [zpow_add₀ (by norm_num)]
  push_cast
  cases x.neg <;> cases y.neg <;> simp <;> ring

theorem isReal_exDiv {x y : Ex} {u v : ℚ} (hx : isReal x u) (hy : isReal y v) : isReal (exDiv x y) (u / v) := by
  obtain ⟨hxn, hxd, rfl⟩ := hx
  obtain ⟨hyn, hyd, rfl⟩ := hy
  refine ⟨Nat.mul_pos hxn hyd, Nat.mul_pos hxd hyn, ?_⟩
  have hxn' : (x.num : ℚ) ≠ 0 := by exact_mod_cast hxn.ne'
  have hyn' : (y.num : ℚ) ≠ 0 := by exact_mod_cast hyn.ne'
  unfold exQ exDiv
  simp only
  rw [zpow_sub₀ (by norm_num)]
  push_cast
  cases x.neg <;> cases y.neg <;> simp <;> field_simp

/-- A real by its units of 2^e. -/
theorem exQ_eq_units (a : Ex) {e : Int} (h : e ≤ a.exp) : exQ a = (exUnits a e : ℚ) / a.den * (2 : ℚ) ^ e := by
  have hpow : (2 : ℚ) ^ a.exp = (2 : ℚ) ^ (a.exp - e).toNat * (2 : ℚ) ^ e := by
    rw [← zpow_natCast, Int.toNat_of_nonneg (by omega), ← zpow_add₀ (by norm_num), sub_add_cancel]
  unfold exQ exUnits
  rw [hpow]
  cases a.neg <;> simp <;> ring

/-- The sum of two reals is none when it is zero, and else a real. -/
theorem exAdd_spec {a b : Ex} (ha : 0 < a.den) (hb : 0 < b.den) :
    (exAdd a b = none ∧ exQ a + exQ b = 0) ∨ ∃ z, exAdd a b = some z ∧ isReal z (exQ a + exQ b) := by
  have ha' : (a.den : ℚ) ≠ 0 := by exact_mod_cast ha.ne'
  have hb' : (b.den : ℚ) ≠ 0 := by exact_mod_cast hb.ne'
  have hsum : exQ a + exQ b = ((exUnits a (min a.exp b.exp) * b.den + exUnits b (min a.exp b.exp) * a.den : Int) : ℚ) /
      ((a.den * b.den : Nat) : ℚ) * (2 : ℚ) ^ min a.exp b.exp := by
    rw [exQ_eq_units a (min_le_left a.exp b.exp), exQ_eq_units b (min_le_right a.exp b.exp)]
    push_cast
    field_simp
  unfold exAdd
  simp only
  generalize exUnits a (min a.exp b.exp) * b.den + exUnits b (min a.exp b.exp) * a.den = t at hsum ⊢
  by_cases ht : t = 0
  · left
    rw [if_pos ht, hsum, ht]
    simp
  · right
    refine ⟨_, if_neg ht, Int.natAbs_pos.2 ht, Nat.mul_pos ha hb, ?_⟩
    rw [hsum]
    unfold exQ
    congr 2
    rw [Nat.cast_natAbs]
    by_cases hneg : t < 0
    · simp [hneg, abs_of_neg]
    · simp [hneg, abs_of_nonneg (not_lt.1 hneg)]

/-- Sums and products of two reals are exact, and a sum of zero has the sign of the mode (R69). -/
theorem addVals_mulVals_exact (rm : Nat) {x y : Ex} (hxn : 0 < x.num) (hxd : 0 < x.den) (hyn : 0 < y.num)
    (hyd : 0 < y.den) :
    (exQ x + exQ y = 0 → addVals rm (.fin x) (.fin y) = .zero (rm == 2)) ∧
    (exQ x + exQ y ≠ 0 → ∃ z, addVals rm (.fin x) (.fin y) = .fin z ∧ 0 < z.num ∧ 0 < z.den ∧ exQ z = exQ x + exQ y) ∧
    ∃ z, mulVals (.fin x) (.fin y) = .fin z ∧ exQ z = exQ x * exQ y := by
  obtain ⟨-, -, hmul⟩ := isReal_exMul (x := x) (y := y) ⟨hxn, hxd, rfl⟩ ⟨hyn, hyd, rfl⟩
  refine ⟨fun h => ?_, fun h => ?_, _, rfl, hmul⟩
  · obtain ⟨hnone, -⟩ | ⟨z, -, hz⟩ := exAdd_spec (a := x) (b := y) hxd hyd
    · simp only [addVals, hnone]
    · exact absurd h (isReal_ne_zero hz)
  · obtain ⟨-, h0⟩ | ⟨z, hsome, hz⟩ := exAdd_spec (a := x) (b := y) hxd hyd
    · exact absurd h0 h
    · exact ⟨z, by simp only [addVals, hsome], hz⟩

/-! ### Sums of many reals (R73) -/

/-- An exact sum so far: none for zero, and else a real. -/
def sumIs (acc : Option Ex) (u : ℚ) : Prop := (acc = none ∧ u = 0) ∨ ∃ z, acc = some z ∧ isReal z u

/-- One term more. -/
def sumStep (acc : Option Ex) (x : Ex) : Option Ex := acc.elim (some x) (fun a => exAdd a x)

theorem exSum_eq_foldl (xs : List Ex) : exSum xs = xs.foldl sumStep none := by
  unfold exSum
  congr 1
  funext acc x
  cases acc <;> rfl

theorem sumIs_sumStep {acc : Option Ex} {x : Ex} {u : ℚ} (h : sumIs acc u) (hn : 0 < x.num) (hd : 0 < x.den) :
    sumIs (sumStep acc x) (u + exQ x) := by
  obtain ⟨rfl, rfl⟩ | ⟨z, rfl, hzn, hzd, rfl⟩ := h
  · exact .inr ⟨x, rfl, hn, hd, (zero_add _).symm⟩
  · exact exAdd_spec hzd hd

theorem sumIs_exSum {xs : List Ex} (hxs : ∀ x ∈ xs, 0 < x.num ∧ 0 < x.den) : sumIs (exSum xs) (xs.map exQ).sum := by
  have key : ∀ (acc : Option Ex) (u : ℚ), sumIs acc u → sumIs (xs.foldl sumStep acc) (u + (xs.map exQ).sum) := by
    induction xs with
    | nil => intro acc u h; simpa using h
    | cons x xs ih =>
      intro acc u h
      obtain ⟨hn, hd⟩ := hxs x (by simp)
      rw [List.map_cons, List.sum_cons, ← add_assoc, List.foldl_cons]
      exact ih (fun y hy => hxs y (by simp [hy])) _ _ (sumIs_sumStep h hn hd)
  have := key none 0 (.inl ⟨rfl, rfl⟩)
  rwa [zero_add, ← exSum_eq_foldl] at this

section
variable {acc : Word} {ts : List (Ex × Ex)} {u : ℚ} (hne : ts ≠ []) (hacc : slotValue fmB32 acc.toNat = some u)
include hne hacc

/-- An exact sum of finite terms is the sum of the reals among them, rounded as binary32. -/
theorem exactSum_finite : exactSum acc (ts.map (fun p => (.fin p.1, .fin p.2))) =
    (exSum (finVals (fmDecode fmB32 acc.toNat :: ts.map (fun p => .fin (exMul p.1 p.2))))).elim ⟨0, 0⟩
      (fun x => round32 (.fin x)) := by
  have hprods : (ts.map (fun p => (Val.fin p.1, Val.fin p.2))).map (fun t => mulVals t.1 t.2) =
      ts.map (fun p => .fin (exMul p.1 p.2)) := List.map_map
  have hfin : (fmDecode fmB32 acc.toNat).isNan = false ∧ (fmDecode fmB32 acc.toNat).isInf = false := by
    obtain ⟨-, n, h⟩ | ⟨-, x, h, -⟩ := holds_of_slotValue hacc <;> rw [h] <;> exact ⟨rfl, rfl⟩
  have hnan : (ts.map (fun p => (Val.fin p.1, Val.fin p.2))).any (fun t => t.1.isNan || t.2.isNan) = false := by
    simp [Val.isNan]
  have hzero : (ts.map (fun p => (Val.fin p.1, Val.fin p.2))).any (fun t => zeroInf t.1 t.2) = false := by
    simp [zeroInf, Val.isZero, Val.isInf]
  have hinfs : (fmDecode fmB32 acc.toNat :: ts.map (fun p => Val.fin (exMul p.1 p.2))).filter Val.isInf = [] := by
    rw [List.filter_cons, hfin.2, if_neg Bool.false_ne_true, List.filter_eq_nil_iff]
    intro v hv
    obtain ⟨p, -, rfl⟩ := List.mem_map.1 hv
    exact Bool.false_ne_true
  have hempty : (finVals (ts.map (fun p => .fin (exMul p.1 p.2)))).isEmpty = false := by
    cases ts with
    | nil => exact absurd rfl hne
    | cons p ts => rfl
  unfold exactSum
  simp only [hprods, hfin.1, hnan, hzero, hinfs, hempty, List.any_nil, Bool.or_self, Bool.false_eq_true, if_false]
  cases exSum (finVals (fmDecode fmB32 acc.toNat :: ts.map (fun p => .fin (exMul p.1 p.2)))) <;> rfl

/-- The exact sum of a binary32 value and products of reals, rounded once. -/
theorem exactSum_spec (hts : ∀ p ∈ ts, 0 < p.1.num ∧ 0 < p.1.den ∧ 0 < p.2.num ∧ 0 < p.2.den) :
    let v := u + (ts.map (fun p => exQ p.1 * exQ p.2)).sum
    let r := exactSum acc (ts.map (fun p => (.fin p.1, .fin p.2)))
    (v = 0 → r = ⟨0, 0⟩) ∧ (v ≠ 0 → ∃ z, 0 < z.num ∧ 0 < z.den ∧ exQ z = v ∧ r = roundTo fmB32 (.fin z) 0) := by
  intro v r
  have hprod : ∀ p ∈ ts, isReal (exMul p.1 p.2) (exQ p.1 * exQ p.2) := fun p hp => by
    obtain ⟨h1, h2, h3, h4⟩ := hts p hp
    exact isReal_exMul ⟨h1, h2, rfl⟩ ⟨h3, h4, rfl⟩
  have hfins : finVals (ts.map (fun p => .fin (exMul p.1 p.2))) = ts.map (fun p => exMul p.1 p.2) := by
    simp [finVals, List.filterMap_map]
  have hsum : sumIs (exSum (finVals (fmDecode fmB32 acc.toNat :: ts.map (fun p => .fin (exMul p.1 p.2))))) v := by
    have hvals : ((ts.map (fun p => exMul p.1 p.2)).map exQ).sum = (ts.map (fun p => exQ p.1 * exQ p.2)).sum := by
      rw [List.map_map]
      congr 1
      exact List.map_congr_left (fun p hp => (hprod p hp).2.2)
    have hreals : ∀ x ∈ ts.map (fun p => exMul p.1 p.2), 0 < x.num ∧ 0 < x.den := fun x hx => by
      obtain ⟨p, hp, rfl⟩ := List.mem_map.1 hx
      obtain ⟨hn, hd, -⟩ := hprod p hp
      exact ⟨hn, hd⟩
    obtain ⟨h0, n, hc⟩ | ⟨-, y, hc, hyn, hyd, hy⟩ := holds_of_slotValue hacc
    · have hlist : finVals (fmDecode fmB32 acc.toNat :: ts.map (fun p => .fin (exMul p.1 p.2))) =
          ts.map (fun p => exMul p.1 p.2) := by rw [hc, ← hfins]; rfl
      rw [hlist, show v = ((ts.map (fun p => exMul p.1 p.2)).map exQ).sum by rw [hvals, ← zero_add (List.sum _), ← h0]]
      exact sumIs_exSum hreals
    · have hlist : finVals (fmDecode fmB32 acc.toNat :: ts.map (fun p => .fin (exMul p.1 p.2))) =
          y :: ts.map (fun p => exMul p.1 p.2) := by rw [hc, ← hfins]; rfl
      rw [hlist, show v = ((y :: ts.map (fun p => exMul p.1 p.2)).map exQ).sum by
        rw [List.map_cons, List.sum_cons, hvals, hy]]
      exact sumIs_exSum (List.forall_mem_cons.2 ⟨⟨hyn, hyd⟩, hreals⟩)
  have hr : r = _ := exactSum_finite hne hacc
  obtain ⟨hnone, h0⟩ | ⟨z, hsome, hz⟩ := hsum
  · rw [hnone] at hr
    exact ⟨fun _ => hr, fun hv => absurd h0 hv⟩
  · rw [hsome] at hr
    obtain ⟨hzn, hzd, hzv⟩ := hz
    exact ⟨fun hv => absurd hv (isReal_ne_zero ⟨hzn, hzd, hzv⟩), fun _ => ⟨z, hzn, hzd, hzv, hr⟩⟩

end

end Sys2Proof.Machine

/-! ## What rounding is (R63 to R69, R73) -/

namespace Sys2Proof.Machine

/-- Overflowed results, by SAT, INF and NAN (R67). -/
theorem overflowOut_cases (f : Word) (neg : Bool) :
    (fmSat f = true ∨ fmInf f = 0 ∧ fmNan f = 0 → overflowOut f neg = fmMaxOf f neg) ∧
    (fmSat f = false → fmInf f ≠ 0 → overflowOut f neg = fmInfCode f neg) ∧
    (fmSat f = false → fmInf f = 0 → fmNan f ≠ 0 → overflowOut f neg = fmNanCode f) := by
  unfold overflowOut
  refine ⟨?_, fun hs hi => ?_, fun hs hi hn => ?_⟩
  · rintro (hs | ⟨hi, hn⟩)
    · rw [if_pos hs]
    · rw [if_neg (not_not_intro hi), if_neg (not_not_intro hn), ite_self]
  · rw [if_neg (Bool.eq_false_iff.1 hs), if_pos hi]
  · rw [if_neg (Bool.eq_false_iff.1 hs), if_neg (not_not_intro hi), if_pos hn]

/-- Two cases that a choice decides. -/
theorem imp_and_not_imp {D A B : Prop} {up : Bool} (h : D ↔ up = false) (hA : up = false → A) (hB : up = true → B) :
    (D → A) ∧ (¬ D → B) :=
  ⟨fun hd => hA (h.1 hd), fun hd => hB (Bool.eq_true_of_not_eq_false (fun hu => hd (h.2 hu)))⟩

/-- A magnitude goes to its lower neighbour when it is nearer, or on a tie to an even code. -/
theorem nearer_lower_iff {s t : ℚ} {c : Nat} :
    s < t ∨ (s = t ∧ c % 2 = 0) ↔ ¬(t < s ∨ (s = t ∧ (c % 2 == 1) = true)) := by
  obtain h | rfl | h := lt_trichotomy s t
  · simp [h, h.ne, h.le]
  · simp
  · simp [h, h.ne', h.le]

/-- Settles O8: every rounding goes to a neighbour of the real by the mode, and the codes of the neighbours say what
follows. -/
theorem rounding : Obligations.Rounding := by
  unfold Obligations.Rounding
  refine ⟨fun f w u _ h => ⟨fun hu => ?_, fun hu => ?_⟩, fun f x rw => ?_, overflowOut_cases,
    fun rm x y hxn hxd hyn hyd => addVals_mulVals_exact rm hxn hxd hyn hyd,
    fun acc ts u hne hacc hts => exactSum_spec hne hacc hts⟩
  · obtain ⟨h0, -⟩ | ⟨-, x, hx, hn, hd, hv⟩ := holds_of_slotValue h
    · exact absurd h0 hu
    · exact ⟨x, hx, hn, hd, hv⟩
  · obtain ⟨-, hz⟩ | ⟨h0, -⟩ := holds_of_slotValue h
    · exact hz
    · exact absurd hu h0
  · intro v r hlegal hn hd
    have hf := slotSound_of_not_illegal hlegal
    refine ⟨fun hin hkeep => roundTo_inSlot rw hf hn hd hin hkeep,
      fun he ha hs => roundTo_flushed rw hf hn hd he ha hs, fun c m hb hnormal => ?_,
      fun hs hneg hnormal hint => roundTo_negative rw hn hd hs hneg hnormal hint⟩
    refine ⟨fun hfar => roundTo_far_beyond rw hf hn hd hb hnormal hfar, fun hnear => ?_⟩
    intro down hrm
    obtain ⟨up, hup, hres⟩ := roundTo_near_beyond rw hf hn hd hb hnormal hnear
    have hr : r = if up then ⟨overflowOut f x.neg, 5⟩ else ⟨c, 1⟩ := hres
    have hdown : up = false ↔ ¬ goesUp (fmRm f) x.neg (c % 2 == 1) |m| |v| (|m| + gridAt f m) := by
      rw [← hup hrm, Bool.not_eq_true]
    refine imp_and_not_imp (up := up) ?_ (fun h => by rw [hr, h]; exact ⟨rfl, rfl⟩)
      (fun h => by rw [hr, h]; exact ⟨rfl, rfl⟩)
    rw [hdown]
    have htwice : 2 * |m| + gridAt f m = |m| + (|m| + gridAt f m) := by ring
    simp only [down, htwice]
    generalize fmRm f = rm at hrm
    split
    · exact nearer_lower_iff
    · exact iff_of_true trivial id
    · exact (exQ_pos_iff hn hd).trans (Bool.not_eq_true _).symm.to_iff
    · exact (exQ_neg_iff hn hd).trans (Bool.not_eq_false _).symm.to_iff
    · exact not_le.symm
    · rw [goesUp_odd (by simp only [imp_false] at *; omega)]
      simp

end Sys2Proof.Machine

/-! ## Instructions under a slot (R115 to R126) -/

namespace Sys2Proof.Machine

/-- Meanings whose checks and bodies agree on the issuing path agree. -/
theorem runInstr_congr {s : State} {c : Cur} {fs : Nat} {ill ill' priv : Env → Bool} {g : Guard}
    {body body' : Env → Except Stop State} (hc : s.cur = some c) (hi : ill (envOf s c) = ill' (envOf s c))
    (hb : body (envOf s c) = body' (envOf s c)) : runInstr s fs ill priv g body = runInstr s fs ill' priv g body' := by
  unfold runInstr
  simp only [hc, hi, hb]

/-- An instruction that runs the shared operation under a slot gives its result. -/
theorem completesUnderSlot_of_slotLanes {i : Instr} {r : SlotResult} {extra : Env → Bool}
    (hexec : ∀ s c, s.cur = some c → r.legal (envOf s c) = true →
      exec i s = slotLanes s r.h r.f r.d r.srcs extra r.rounds (r.val (envOf s c)) ∧ extra (envOf s c) = true) :
    completesUnderSlot i r := by
  intro s c s1 v e m fw x draws gen out flags hp hregs hf hlegal hq hs
  obtain ⟨hrun, hextra⟩ := hexec s c (cur_of_issuing (issuing_of_plain hp)) hlegal
  exact hrun.trans (slotLanes_plain s s1 c r.h r.f r.d r.srcs extra r.rounds (r.val e) v hp hregs hf hextra hq hs)

/-- An instruction that computes its sub-elements one by one gives their results, packed (R71). -/
theorem completesUnderSlot_of_slotElems {i : Instr} {r : SlotResult} {h : Hdr} {f : FSlot} {d : Opnd} {srcs : List Opnd}
    {fn : Word → (Nat → Nat) → Word → Rnd} {elem : Word → List Nat → Word → Rnd} (hr : perElement h f d srcs fn = some r)
    (helem : ∀ fw v rw, elem fw v rw = fn fw (fun j => v.getD j 0) rw)
    (hexec : ∀ s, exec i s = slotElems s h f d srcs elem) : completesUnderSlot i r := by
  have hget : ∀ (v : List Nat) (lo n j : Nat), (v.map (fun x => bits x lo n)).getD j 0 = bits (v.getD j 0) lo n :=
    fun v lo n j => by
      have h0 : bits 0 lo n = 0 := by rw [bits_eq_div_mod, Nat.zero_div, Nat.zero_mod]
      conv_lhs => rw [← h0, List.getD_map]
  cases hr
  refine completesUnderSlot_of_slotLanes (extra := fun _ => true) (fun s c _ _ => ⟨?_, rfl⟩)
  rw [hexec]
  unfold slotElems
  simp only [helem, hget]

/-- The same, when the operation is written over the encodings. -/
theorem completesUnderSlot_of_encodings {i : Instr} {r : SlotResult} {h : Hdr} {f : FSlot} {d : Opnd} {srcs : List Opnd}
    {fn : Word → (Nat → Nat) → Word → Rnd} (hr : perElement h f d srcs fn = some r)
    (hexec : ∀ s, exec i s = slotElems s h f d srcs (fun fw v rw => fn fw (fun j => v.getD j 0) rw)) :
    completesUnderSlot i r := completesUnderSlot_of_slotElems hr (fun _ _ _ => rfl) hexec

/-- A multiply-add of one sub-element (R118). -/
theorem rndFma_eq_fusedValue (np nc : Bool) (f : Word) (v : List Nat) (rw : Word) :
    rndFma np nc f v rw = fusedValue np nc f (fmIn f (v.getD 0 0)) (fmIn f (v.getD 1 0)) (fmIn f (v.getD 2 0)) rw := by
  unfold rndFma fusedValue argIn
  simp only
  split
  · rfl
  · cases zeroInf (fmIn f (v.getD 0 0)) (fmIn f (v.getD 1 0)) <;> rfl

/-- The sign that `fsgn` reads is bit W - 1 of its second source. -/
theorem fsgn_elem_eq (fw : Word) (v : List Nat) (rw : Word) :
    rndVal fw ((argIn fw v 0).signed (fmS fw == 1 && bits (v.getD 1 0) (fmW fw - 1) 1 == 1)) rw =
      rndVal fw ((fmIn fw (v.getD 0 0)).signed (fmS fw == 1 && bitOf (v.getD 1 0) (fmW fw - 1) == 1)) rw := by
  rw [bits_eq_div_mod, pow_one]
  rfl

/-- A conversion reads its registers itself (R72, R123). -/
theorem exec_fcvt {s : State} {c : Cur} (hc : s.cur = some c) (h : Hdr) (f src : FSlot) (grp : Fin 8) (d a : Opnd) :
    exec (.fcvt h f src grp d a) s = slotLanes s h f d []
      (fun e => !fmIllegal (slotWord e.x src) &&
        decide (grp.val * fmN (slotWord e.x f) + fmN (slotWord e.x f) ≤ 4 * fmN (slotWord e.x src)) &&
        cvtOk e.x a ((grp.val * fmN (slotWord e.x f) + fmN (slotWord e.x f) - 1) / fmN (slotWord e.x src)))
      (fun fw => fmRm fw == 5) (fun fw _ l g =>
        let fa := slotWord (envOf s c).x src
        packRnds (fmW fw) ((List.range (fmN fw)).map (fun k =>
          let t := grp.val * fmN fw + k
          roundTo fw (fmIn fa (subElem fa (t % fmN fa) (regNat (envOf s c).x (opndAfter a (t / fmN fa)) 1 l)))
            (genRot g l k)))) := by
  show execFcvt h f src grp d a s = _
  unfold execFcvt slotLanes
  refine runInstr_congr hc ?_ rfl
  simp only [Bool.and_assoc, Bool.and_comm]

/-- The instructions under a slot give the results of their table (R117 to R126). -/
theorem completesUnderSlot_slotResult (i : Instr) (r : SlotResult) (hr : slotResult i = some r) :
    completesUnderSlot i r := by
  unfold slotResult at hr
  split at hr
  case h_8 => exact completesUnderSlot_of_slotElems hr fsgn_elem_eq (fun _ => rfl)
  case h_9 => exact completesUnderSlot_of_slotElems hr (rndFma_eq_fusedValue false false) (fun _ => rfl)
  case h_10 => exact completesUnderSlot_of_slotElems hr (rndFma_eq_fusedValue false true) (fun _ => rfl)
  case h_11 => exact completesUnderSlot_of_slotElems hr (rndFma_eq_fusedValue true false) (fun _ => rfl)
  case h_12 => exact completesUnderSlot_of_slotElems hr (rndFma_eq_fusedValue true true) (fun _ => rfl)
  case h_23 =>
    cases hr
    exact completesUnderSlot_of_slotLanes (fun s c hc hlegal => ⟨exec_fcvt hc _ _ _ _ _ _, hlegal⟩)
  case h_24 =>
    cases hr
    exact completesUnderSlot_of_slotLanes (fun s c _ hlegal => ⟨rfl, hlegal⟩)
  case h_25 =>
    cases hr
    exact completesUnderSlot_of_slotLanes (fun s c _ hlegal => ⟨rfl, hlegal⟩)
  case h_26 =>
    cases hr
    exact completesUnderSlot_of_slotLanes (extra := fun _ => true) (fun s c _ _ => ⟨rfl, rfl⟩)
  case h_27 =>
    cases hr
    exact completesUnderSlot_of_slotLanes (extra := fun _ => true) (fun s c _ _ => ⟨rfl, rfl⟩)
  case h_28 => cases hr
  all_goals exact completesUnderSlot_of_encodings hr (fun _ => rfl)

end Sys2Proof.Machine

/-! ## The generator (R74, R76) -/

namespace Sys2Proof.Machine

theorem toNat_genStep (s : DWord) : let a := s.toNat ^^^ (s.toNat * 2 ^ 13 % 2 ^ 64)
    let b := a ^^^ (a / 2 ^ 7)
    (genStep s).toNat = b ^^^ (b * 2 ^ 17 % 2 ^ 64) := by
  simp only [genStep, BitVec.toNat_xor, toNat_shl, toNat_shr]

theorem toNat_genOut (s : DWord) : (genOut s).toNat = s.toNat / 2 ^ 32 := by
  have hlt : s.toNat / 2 ^ 32 < 2 ^ 32 := Nat.div_lt_of_lt_mul s.isLt
  rw [genOut, BitVec.toNat_ofNat, bits_eq_div_mod, Nat.mod_mod, Nat.mod_eq_of_lt hlt]

/-- Bit j of a word stands at place j + (5l + 3k), modulo 32, of the word that a lane draws. -/
theorem getLsbD_genRot (o : Word) (l k : Nat) {j : Nat} (hj : j < 32) :
    (genRot o l k).getLsbD ((j + (5 * l + 3 * k)) % 32) = o.getLsbD j := by
  unfold genRot
  generalize 5 * l + 3 * k = s
  have hn : s % 32 < 32 := Nat.mod_lt _ (by omega)
  rw [Nat.add_mod, Nat.mod_eq_of_lt hj]
  generalize s % 32 = n at hn
  simp only [BitVec.getLsbD_or, BitVec.getLsbD_shiftLeft, BitVec.getLsbD_ushiftRight]
  by_cases h : j + n < 32
  · rw [Nat.mod_eq_of_lt h, Nat.add_sub_cancel, BitVec.getLsbD_of_ge o (32 - n + (j + n)) (by omega)]
    simp [h]
  · rw [Nat.mod_eq_sub_mod (by omega), Nat.mod_eq_of_lt (by omega), show 32 - n + (j + n - 32) = j by omega]
    simp [show j + n - 32 < n by omega]

/-! ### Rounding under a drawn word -/

/-- The factors of two that are divided out: they divide, and unless `f` stopped it no more of them do. -/
theorem dropTwos_spec (f x : Nat) : (dropTwos f x).1 ≤ f ∧ 2 ^ (dropTwos f x).1 ∣ x ∧
    ((dropTwos f x).1 < f → ¬ 2 ^ ((dropTwos f x).1 + 1) ∣ x) := by
  induction f generalizing x with
  | zero => simp [dropTwos]
  | succ f ih =>
    unfold dropTwos
    split
    case isTrue h =>
      obtain ⟨hle, hdvd, hmax⟩ := ih (x / 2)
      obtain ⟨y, rfl⟩ := Nat.dvd_of_mod_eq_zero h
      rw [Nat.mul_div_cancel_left y (by omega)] at hle hdvd hmax ⊢
      have htwice : ∀ t, 2 ^ (t + 1) ∣ 2 * y ↔ 2 ^ t ∣ y := fun t => by
        rw [pow_succ', Nat.mul_dvd_mul_iff_left (by omega)]
      exact ⟨by simpa using hle, (htwice _).2 hdvd, fun hlt hc => hmax (by simpa using hlt) ((htwice _).1 hc)⟩
    case isFalse h => exact ⟨by simp, by simp, fun _ hc => h (Nat.mod_eq_zero_of_dvd (by simpa using hc))⟩

/-- A fraction of 32 binary places ends at place j when its last 32 - j places are zeros. -/
theorem mul_two_pow_mod_eq_zero_iff {r d p j : Nat} (hd : 0 < d) (hp : r * 2 ^ 32 = p * d) (hj : j ≤ 32) :
    r * 2 ^ j % d = 0 ↔ 2 ^ (32 - j) ∣ p := by
  rw [← Nat.dvd_iff_mod_eq_zero, ← Nat.mul_dvd_mul_iff_right (Nat.two_pow_pos (32 - j)), mul_assoc, ← pow_add,
    Nat.add_sub_cancel' hj, hp, mul_comm d, Nat.mul_dvd_mul_iff_right hd]

/-- The places of the fraction, 32 at most, that the rounding compares: those that `stochAway` leaves. -/
theorem stochAway_iff {r d k : Nat} (rw : Word) (hd : 0 < d) (h1 : 1 ≤ k) (h32 : k ≤ 32)
    (hend : k = 32 ∨ r * 2 ^ k % d = 0) (hfirst : ∀ j, 1 ≤ j → j < k → r * 2 ^ j % d ≠ 0) :
    stochAway r d rw = true ↔ 2 ^ k ≤ r * 2 ^ k / d + rw.toNat / 2 ^ (32 - k) := by
  have hplaces : (if r * 2 ^ 32 % d = 0 then (dropTwos 31 (r * 2 ^ 32 / d)).1 else 0) = 32 - k := by
    split
    case isTrue h =>
      have hends := fun j hj => mul_two_pow_mod_eq_zero_iff (j := j) hd (Nat.div_mul_cancel (Nat.dvd_of_mod_eq_zero h)).symm hj
      obtain ⟨hle, hdvd, hmax⟩ := dropTwos_spec 31 (r * 2 ^ 32 / d)
      generalize (dropTwos 31 (r * 2 ^ 32 / d)).1 = t at hle hdvd hmax ⊢
      have hk : 2 ^ (32 - k) ∣ r * 2 ^ 32 / d := (hends k h32).1 (hend.elim (fun hk => by rw [hk, h]) id)
      obtain hlt | rfl | hgt := lt_trichotomy t (32 - k)
      · exact absurd (dvd_trans (pow_dvd_pow 2 (by omega)) hk) (hmax (by omega))
      · rfl
      · refine absurd ((hends (32 - t) (by omega)).2 ?_) (hfirst (32 - t) (by omega) (by omega))
        rwa [Nat.sub_sub_self (by omega)]
    case isFalse h =>
      have hk : k = 32 := hend.resolve_right (fun hz => h (by
        rw [show (32 : Nat) = k + (32 - k) by omega, pow_add, ← mul_assoc]
        exact Nat.mod_eq_zero_of_dvd ((Nat.dvd_of_mod_eq_zero hz).mul_right _)))
      omega
  have hquot : r * 2 ^ 32 / d / 2 ^ (32 - k) = r * 2 ^ k / d := by
    rw [Nat.div_div_eq_div_mul, ← Nat.mul_div_mul_right (r * 2 ^ k) d (Nat.two_pow_pos (32 - k)), mul_assoc, ← pow_add,
      Nat.add_sub_cancel' h32]
  have hword : rw.toNat / 2 ^ (32 - k) < 2 ^ k := by
    refine Nat.div_lt_of_lt_mul ?_
    rw [← pow_add, Nat.sub_add_cancel h32]
    exact rw.isLt
  unfold stochAway
  simp only [decide_eq_true_iff]
  rw [hplaces, Nat.sub_sub_self h32, hquot, bits_eq_div_mod, Nat.mod_eq_of_lt hword]

theorem generatorRules_hold : generatorRules :=
  ⟨fun s => ⟨toNat_genStep s, toNat_genOut s⟩, fun o l k _ hj => getLsbD_genRot o l k hj,
    fun _ _ _ rw _ hrd h1 h32 hend hfirst => stochAway_iff rw (by omega) h1 h32 hend hfirst⟩

end Sys2Proof.Machine

/-! ## Quotients and square roots (R119) -/

namespace Sys2Proof.Machine

/-! ### Whole square roots -/

/-- One Newton step from above the root: not below it, and at most half as far from it. -/
theorem newton_step {n x : Nat} (hx : Nat.sqrt n ≤ x) (h0 : 0 < x) : Nat.sqrt n ≤ (x + n / x) / 2 ∧
    (Nat.sqrt n < x → (x + n / x) / 2 < x ∧ (x + n / x) / 2 - Nat.sqrt n ≤ (x - Nat.sqrt n) / 2) := by
  have hroot := Nat.sqrt_le n
  have hnext := Nat.lt_succ_sqrt n
  generalize Nat.sqrt n = s at hx hroot hnext ⊢
  constructor
  · have hquot : 2 * s - x ≤ n / x := by
      rw [Nat.le_div_iff_mul_le h0]
      obtain ⟨d, rfl⟩ := Nat.exists_eq_add_of_le hx
      calc (2 * s - (s + d)) * (s + d) = (s - d) * (s + d) := by rw [two_mul, Nat.add_sub_add_left]
        _ ≤ s * s := by rw [mul_comm, ← Nat.mul_self_sub_mul_self_eq]; exact Nat.sub_le _ _
        _ ≤ n := hroot
    omega
  · intro hlt
    have hquot : n / x ≤ s := Nat.lt_succ_iff.1 (Nat.div_lt_of_lt_mul
      (lt_of_lt_of_le hnext (Nat.mul_le_mul_right _ (Nat.succ_le_of_lt hlt))))
    omega

theorem isqrtGo_eq_sqrt {n : Nat} (h0 : 0 < Nat.sqrt n) (f x : Nat) (hx : Nat.sqrt n ≤ x) (hf : x - Nat.sqrt n < 2 ^ f) :
    isqrtGo f n x = Nat.sqrt n := by
  induction f generalizing x with
  | zero =>
    rw [isqrtGo]
    rw [pow_zero] at hf
    omega
  | succ f ih =>
    obtain ⟨hlow, hnear⟩ := newton_step hx (lt_of_lt_of_le h0 hx)
    rw [isqrtGo]
    obtain rfl | hlt := hx.eq_or_lt
    · exact if_neg (not_lt.2 hlow)
    · obtain ⟨hdown, hhalf⟩ := hnear hlt
      rw [if_pos hdown]
      refine ih _ hlow ?_
      rw [pow_succ] at hf
      omega

theorem isqrt_eq_sqrt (n : Nat) : isqrt n = Nat.sqrt n := by
  unfold isqrt
  split
  case isTrue h => rw [h, Nat.sqrt_zero]
  case isFalse h =>
    have hstart : Nat.sqrt n < 2 ^ (n.log2 / 2 + 1) := by
      rw [Nat.sqrt_lt, ← pow_add]
      exact lt_of_lt_of_le Nat.lt_log2_self (Nat.pow_le_pow_right (by omega) (by omega))
    have hfuel : 2 ^ (n.log2 / 2 + 1) ≤ 2 ^ (n.log2 + 16) := Nat.pow_le_pow_right (by omega) (by omega)
    have hpos : 0 < Nat.sqrt n := Nat.sqrt_pos.2 (Nat.pos_of_ne_zero h)
    exact isqrtGo_eq_sqrt hpos _ _ hstart.le (by omega)

/-! ### Square roots of reals -/

/-- The radicand of `exSqrt` with k places below an even exponent, and the exponent of its root. -/
def rootNum (x : Ex) (k : Nat) : Nat := x.num * (if x.exp % 2 == 1 then 2 else 1) * 2 ^ (2 * k)
def rootExp (x : Ex) (k : Nat) : Int := (x.exp - (if x.exp % 2 == 1 then 1 else 0)) / 2 - k

theorem exSqrt_of_den_one {x : Ex} (hd : x.den = 1) (k : Nat) : exSqrt x k =
    if Nat.sqrt (rootNum x k) * Nat.sqrt (rootNum x k) = rootNum x k then
      (⟨false, Nat.sqrt (rootNum x k), 1, rootExp x k⟩, true)
    else (⟨false, 2 * Nat.sqrt (rootNum x k) + 1, 1, rootExp x k - 1⟩, false) := by
  unfold exSqrt
  simp only [hd, Nat.div_one, Nat.mod_one, and_true, isqrt_eq_sqrt]
  rfl

/-- The radicand in units of the square of the root's unit. -/
theorem abs_exQ_eq_rootNum {x : Ex} (hd : x.den = 1) (k : Nat) :
    |exQ x| = rootNum x k * ((2 : ℚ) ^ rootExp x k * (2 : ℚ) ^ rootExp x k) := by
  have hk : ((2 : ℚ) ^ (2 * k) : ℚ) = (2 : ℚ) ^ (2 * k : Int) := by exact_mod_cast (zpow_natCast (2 : ℚ) (2 * k)).symm
  have hodd : ((if x.exp % 2 == 1 then 2 else 1 : Nat) : ℚ) = (2 : ℚ) ^ (if x.exp % 2 == 1 then 1 else 0 : Int) := by
    split <;> norm_num
  rw [abs_exQ, hd, rootNum, rootExp]
  push_cast [hk]
  push_cast at hodd
  rw [hodd, div_one, mul_assoc, mul_assoc, ← zpow_add₀ (by norm_num), ← zpow_add₀ (by norm_num),
    ← zpow_add₀ (by norm_num)]
  congr 2
  split
  case isTrue h => rw [beq_iff_eq] at h; omega
  case isFalse h => rw [beq_iff_eq] at h; omega

section
variable {x : Ex} {u : ℚ} (h : isReal x u) (hd : x.den = 1) (hu : 0 < u) (k : Nat)
include h hd hu

theorem eq_rootNum : u = rootNum x k * ((2 : ℚ) ^ rootExp x k * (2 : ℚ) ^ rootExp x k) := by
  obtain ⟨-, -, rfl⟩ := h
  rw [← abs_exQ_eq_rootNum hd, abs_of_pos hu]

/-- A dyadic root is found exactly. -/
theorem exSqrt_exact {q : ℚ} (hq : 0 < q) (hsq : u = q * q) : isReal (exSqrt x k).1 q := by
  have hunit : (0 : ℚ) < (2 : ℚ) ^ rootExp x k := zpow_pos (by norm_num) _
  have hn := eq_rootNum h hd hu k
  have hsquare : IsSquare (rootNum x k) := by
    rw [← Rat.isSquare_natCast_iff]
    refine ⟨q / (2 : ℚ) ^ rootExp x k, ?_⟩
    rw [hsq] at hn
    field_simp
    linear_combination -hn
  obtain ⟨m, hm⟩ := hsquare
  have hroot : Nat.sqrt (rootNum x k) = m := by rw [hm, Nat.sqrt_eq]
  have hval : q = m * (2 : ℚ) ^ rootExp x k := by
    rw [← mul_self_inj hq.le (by positivity), ← hsq, hn, hm]
    push_cast
    ring
  have hmpos : 0 < m := Nat.pos_of_ne_zero (fun h0 => by rw [hval, h0] at hq; simp at hq)
  rw [exSqrt_of_den_one hd, hroot, if_pos hm.symm, hval]
  exact ⟨hmpos, one_pos, by simp [exQ]⟩

/-- Any other root is taken half a unit above its whole part, less than a unit from it. -/
theorem exSqrt_near {j : Nat} (hj : j ≤ k) :
    ∃ q, isReal (exSqrt x k).1 q ∧ 0 < q ∧ |q * q - u| * 2 ^ j ≤ u := by
  have hunit : (0 : ℚ) < (2 : ℚ) ^ rootExp x k := zpow_pos (by norm_num) _
  have hn := eq_rootNum h hd hu k
  obtain ⟨hxn, -, -⟩ := h
  have hlarge : 2 ^ j ≤ Nat.sqrt (rootNum x k) := by
    rw [Nat.le_sqrt, ← pow_add]
    refine le_trans (Nat.pow_le_pow_right (by omega) (show j + j ≤ 2 * k by omega)) ?_
    exact Nat.le_mul_of_pos_left _ (Nat.mul_pos hxn (by split <;> omega))
  have hlow := Nat.sqrt_le (rootNum x k)
  have hhigh := Nat.lt_succ_sqrt (rootNum x k)
  rw [exSqrt_of_den_one hd]
  generalize rootNum x k = n at hn hlarge hlow hhigh ⊢
  generalize Nat.sqrt n = r at hlarge hlow hhigh ⊢
  generalize rootExp x k = e at hn hunit ⊢
  have hr : 0 < r := lt_of_lt_of_le (Nat.two_pow_pos _) hlarge
  split
  case isTrue heq =>
    refine ⟨r * (2 : ℚ) ^ e, ⟨hr, one_pos, by simp [exQ]⟩, by positivity, ?_⟩
    rw [hn, ← heq, show (r : ℚ) * (2 : ℚ) ^ e * (r * (2 : ℚ) ^ e) - (r * r : Nat) * ((2 : ℚ) ^ e * (2 : ℚ) ^ e) = 0 by
      push_cast; ring]
    simp only [abs_zero, zero_mul]
    positivity
  case isFalse hne =>
    refine ⟨(2 * r + 1) * (2 : ℚ) ^ (e - 1), ⟨Nat.succ_pos _, one_pos, by simp [exQ]⟩, by positivity, ?_⟩
    have hhalf : (2 : ℚ) ^ (e - 1) = (2 : ℚ) ^ e / 2 := by rw [zpow_sub₀ (by norm_num), zpow_one]
    have hdist : |((r : ℚ) + 1 / 2) * (r + 1 / 2) - n| ≤ r := by
      have h1 : ((r * r + 1 : Nat) : ℚ) ≤ n := by exact_mod_cast Nat.succ_le_of_lt (lt_of_le_of_ne hlow hne)
      have h2 : (n : ℚ) ≤ ((r * r + 2 * r : Nat) : ℚ) := by
        have : n ≤ r * r + 2 * r := by rw [Nat.succ_eq_add_one] at hhigh; linarith
        exact_mod_cast this
      push_cast at h1 h2
      rw [abs_le]
      constructor <;> linarith
    have hnr : (r : ℚ) * 2 ^ j ≤ n := by
      have : r * 2 ^ j ≤ n := le_trans (Nat.mul_le_mul_left r hlarge) hlow
      exact_mod_cast this
    have hdiff : (2 * (r : ℚ) + 1) * (2 : ℚ) ^ (e - 1) * ((2 * r + 1) * (2 : ℚ) ^ (e - 1)) - n * ((2 : ℚ) ^ e * (2 : ℚ) ^ e) =
        ((r + 1 / 2) * (r + 1 / 2) - n) * ((2 : ℚ) ^ e * (2 : ℚ) ^ e) := by
      rw [hhalf]
      ring
    rw [hn, hdiff, abs_mul, abs_of_pos (mul_pos hunit hunit), mul_right_comm]
    refine mul_le_mul_of_nonneg_right (le_trans ?_ hnr) (mul_pos hunit hunit).le
    exact mul_le_mul_of_nonneg_right hdist (by positivity)

end

/-! ### The rules -/

theorem rndSqrt_negative {x : Ex} {u : ℚ} (h : isReal x u) (hu : u < 0) (f rw : Word) :
    rndSqrt f (.fin x) rw = ⟨(nanOut f).code, 16⟩ := by
  obtain ⟨hn, hd, rfl⟩ := h
  exact if_pos ((exQ_neg_iff hn hd).1 hu)

theorem rndSqrt_positive {x : Ex} {u : ℚ} (h : isReal x u) (hu : 0 < u) (f rw : Word) :
    rndSqrt f (.fin x) rw = roundTo f (.fin (exSqrt x 450).1) rw := by
  obtain ⟨hn, hd, rfl⟩ := h
  exact if_neg (by simp [(exQ_pos_iff hn hd).1 hu])

theorem quotientRules_hold : quotientRules := by
  refine ⟨fun f rw x y u v hx hy => ⟨exDiv x y, isReal_exDiv hx hy, rfl⟩,
    fun f rw x n m => ⟨rfl, rfl, rfl, rfl, rfl, rfl⟩, fun f rw y => ⟨rfl, ?_, rfl⟩, fun f rw x u h hd => ⟨?_, ?_, ?_⟩,
    fun f rw n => ⟨rfl, rfl⟩⟩
  · cases y <;> rfl
  · exact fun hu => rndSqrt_negative h hu f rw
  · intro q hq hsq
    have hu : 0 < u := hsq ▸ mul_pos hq hq
    exact ⟨_, exSqrt_exact h hd hu 450 hq hsq, rndSqrt_positive h hu f rw⟩
  · intro hu
    obtain ⟨q, hz, hq, hnear⟩ := exSqrt_near h hd hu 450 (j := 400) (by omega)
    exact ⟨_, q, hz, hq, hnear, rndSqrt_positive h hu f rw⟩

end Sys2Proof.Machine

/-! ## The smaller and the larger value, and integers (R117, R124) -/

namespace Sys2Proof.Machine

/-! ### The order of reals -/

theorem exMagLt_iff {a b : Ex} (ha : 0 < a.den) (hb : 0 < b.den) : exMagLt a b = true ↔ |exQ a| < |exQ b| := by
  have ha' : (0 : ℚ) < a.den := by exact_mod_cast ha
  have hb' : (0 : ℚ) < b.den := by exact_mod_cast hb
  have hunit : (0 : ℚ) < (2 : ℚ) ^ min a.exp b.exp := zpow_pos (by norm_num) _
  have hmag : ∀ c : Ex, min a.exp b.exp ≤ c.exp →
      |exQ c| = ((c.num * 2 ^ (c.exp - min a.exp b.exp).toNat : Nat) : ℚ) / c.den * (2 : ℚ) ^ min a.exp b.exp := fun c hc => by
    rw [exQ_eq_units c hc, abs_mul, abs_div, abs_of_pos hunit, Nat.abs_cast, exUnits]
    split <;> simp
  unfold exMagLt
  rw [decide_eq_true_iff, hmag a (min_le_left _ _), hmag b (min_le_right _ _), mul_lt_mul_iff_left₀ hunit,
    div_lt_div_iff₀ ha' hb']
  exact_mod_cast Iff.rfl

theorem valLt_fin_iff {x y : Ex} {u v : ℚ} (zeros : Bool) (hx : isReal x u) (hy : isReal y v) :
    valLt zeros (.fin x) (.fin y) = true ↔ u < v := by
  obtain ⟨hxn, hxd, rfl⟩ := hx
  obtain ⟨hyn, hyd, rfl⟩ := hy
  have hxpos := abs_exQ_pos hxn hxd
  have hypos := abs_exQ_pos hyn hyd
  have hlt := exMagLt_iff hxd hyd
  have hgt := exMagLt_iff hyd hxd
  rw [exQ_eq_sgn x, exQ_eq_sgn y]
  show (if x.neg != y.neg then x.neg else if x.neg then exMagLt y x else exMagLt x y) = true ↔ _
  generalize x.neg = m, y.neg = n, exMagLt x y = p, exMagLt y x = p', |exQ x| = a, |exQ y| = b at hxpos hypos hlt hgt ⊢
  cases m <;> cases n <;> simp only [sgn_false, sgn_true, one_mul, neg_one_mul, neg_lt_neg_iff]
  · exact hlt
  · exact iff_of_false Bool.false_ne_true (by linarith)
  · exact iff_of_true rfl (by linarith)
  · exact hgt

section
variable {x y : Ex} {u v : ℚ} (hx : isReal x u) (hy : isReal y v)
include hx hy

theorem minVal_fin : ∃ z, minMaxVal false (.fin x) (.fin y) = .fin z ∧ isReal z (min u v) := by
  have hlt := valLt_fin_iff true hy hx
  rw [show minMaxVal false (.fin x) (.fin y) = if valLt true (.fin y) (.fin x) = true then .fin y else .fin x from rfl]
  by_cases h : v < u
  · exact ⟨y, if_pos (hlt.2 h), by rwa [min_eq_right h.le]⟩
  · exact ⟨x, if_neg (fun hc => h (hlt.1 hc)), by rwa [min_eq_left (not_lt.1 h)]⟩

theorem maxVal_fin : ∃ z, minMaxVal true (.fin x) (.fin y) = .fin z ∧ isReal z (max u v) := by
  have hlt := valLt_fin_iff true hx hy
  rw [show minMaxVal true (.fin x) (.fin y) = if valLt true (.fin x) (.fin y) = true then .fin y else .fin x from rfl]
  by_cases h : u < v
  · exact ⟨y, if_pos (hlt.2 h), by rwa [max_eq_right h.le]⟩
  · exact ⟨x, if_neg (fun hc => h (hlt.1 hc)), by rwa [max_eq_left (not_lt.1 h)]⟩

end

theorem minMaxVal_nan (mx : Bool) (v : Val) : minMaxVal mx .nan v = v ∧ minMaxVal mx v .nan = v := by
  refine ⟨rfl, ?_⟩
  cases v <;> rfl

/-- Of two zeros, a negative one is the smaller. -/
theorem minMaxVal_zero (m n : Bool) : minMaxVal false (.zero m) (.zero n) = .zero (m || n) ∧
    minMaxVal true (.zero m) (.zero n) = .zero (m && n) := by
  cases m <;> cases n <;> exact ⟨rfl, rfl⟩

/-! ### The integer of a rounding mode (R66, R124) -/

/-- An integer of a sign and a magnitude. -/
def signedInt (neg : Bool) (m : Nat) : Int := if neg then -m else m

theorem cast_signedInt (neg : Bool) (m : Nat) : ((signedInt neg m : Int) : ℚ) = sgn neg * m := by
  cases neg <;> simp [signedInt, sgn]

/-- `intChosen` for magnitudes: the magnitude m that a rounding mode gives for a value of magnitude a. -/
def magChosen (rm : Nat) (neg : Bool) (a : ℚ) (m : Nat) : Prop :=
  match rm with
  | 0 => 2 * |a - m| < 1 ∨ (2 * |a - m| = 1 ∧ m % 2 = 0)
  | 1 => m ≤ a ∧ |a - m| < 1
  | 2 => if neg then a ≤ m ∧ m < a + 1 else m ≤ a ∧ a < m + 1
  | 3 => if neg then m ≤ a ∧ a < m + 1 else a ≤ m ∧ m < a + 1
  | 4 => 2 * |a - m| < 1 ∨ (2 * |a - m| = 1 ∧ a < m)
  | 5 => a = m
  | _ => a = m ∨ (|a - m| < 1 ∧ m % 2 = 1)

theorem neg_lt_neg_add_one_iff {a b : ℚ} : -a < -b + 1 ↔ b < a + 1 := by
  constructor <;> intro h <;> linarith

section
variable {rm : Nat} {neg : Bool} {a : ℚ}

theorem intChosen_signedInt_iff {m : Nat} (ha : 0 ≤ a) :
    intChosen rm (sgn neg * a) (signedInt neg m) ↔ magChosen rm neg a m := by
  have hm : |sgn neg * (m : ℚ)| = m := abs_sgn_mul neg (by positivity)
  have hparity : signedInt neg m % 2 = ((m % 2 : Nat) : Int) := by
    cases neg <;> simp only [signedInt, if_true, Bool.false_eq_true, if_false] <;> omega
  have heq : sgn neg * a = sgn neg * m ↔ a = m := by cases neg <;> simp [sgn]
  unfold intChosen magChosen
  simp only [cast_signedInt, abs_sgn_sub, abs_sgn_mul neg ha, hm, hparity, heq]
  split
  · norm_cast
  · rfl
  · cases neg with
    | false => simp only [sgn_false, one_mul, Bool.false_eq_true, if_false]
    | true => simp only [sgn_true, neg_one_mul, neg_le_neg_iff, neg_lt_neg_add_one_iff, if_true]
  · cases neg with
    | false => simp only [sgn_false, one_mul, Bool.false_eq_true, if_false]
    | true => simp only [sgn_true, neg_one_mul, neg_le_neg_iff, neg_lt_neg_add_one_iff, if_true]
  · rfl
  · rfl
  case _ h0 h1 h2 h3 h4 h5 =>
    have hmodes : rm ≠ 0 ∧ rm ≠ 1 ∧ rm ≠ 2 ∧ rm ≠ 3 ∧ rm ≠ 4 ∧ rm ≠ 5 := ⟨h0, h1, h2, h3, h4, h5⟩
    obtain ⟨k, rfl⟩ := Nat.exists_eq_add_of_le' (show 6 ≤ rm by omega)
    norm_cast

/-- Each mode gives an integer less than one away, and RM 5 has a choice for integers only. -/
theorem intChosen_near {v : ℚ} {t : Int} (h : intChosen rm v t) : |v - t| < 1 ∧ (rm = 5 → v = t) := by
  unfold intChosen at h
  split at h
  · refine ⟨?_, fun hc => by omega⟩
    obtain h | ⟨h, -⟩ := h <;> linarith
  · exact ⟨h.2, fun hc => by omega⟩
  · refine ⟨?_, fun hc => by omega⟩
    rw [abs_lt]
    constructor <;> linarith [h.1, h.2]
  · refine ⟨?_, fun hc => by omega⟩
    rw [abs_lt]
    constructor <;> linarith [h.1, h.2]
  · refine ⟨?_, fun hc => by omega⟩
    obtain h | ⟨h, -⟩ := h <;> linarith
  · exact ⟨by rw [h]; simp, fun _ => h⟩
  case _ h5 =>
    refine ⟨?_, fun hc => absurd hc h5⟩
    obtain h | ⟨h, -⟩ := h
    · rw [h]
      simp
    · exact h

variable {q : Nat} (h5 : rm ≠ 5)
include h5

/-- A mode that gives the lower of the two integers around a magnitude does not round up. -/
theorem not_goesUp_of_magChosen (hlo : (q : ℚ) < a) (h : magChosen rm neg a q) : ¬ goesUp rm neg (q % 2 == 1) q a (q + 1) := by
  have habs : |a - q| = a - q := abs_of_pos (by linarith)
  unfold magChosen at h
  unfold goesUp
  rw [habs] at h
  intro hup
  split at h
  · obtain hup | ⟨heq, hodd⟩ := hup
    · obtain h | ⟨h, -⟩ := h <;> linarith
    · obtain h | ⟨-, h⟩ := h
      · linarith
      · simp [h] at hodd
  · exact hup
  · subst hup
    linarith [h.1]
  · subst hup
    linarith [h.1]
  · obtain h | ⟨-, h⟩ := h
    · linarith [show (q : ℚ) + (q + 1) ≤ 2 * a from hup]
    · linarith
  · exact h5 rfl
  · obtain h | ⟨-, h⟩ := h
    · linarith
    · simp [h] at hup

/-- A mode that gives the upper of them rounds up. -/
theorem goesUp_of_magChosen (hhi : a < q + 1) (h : magChosen rm neg a (q + 1)) :
    goesUp rm neg (q % 2 == 1) q a (q + 1) := by
  have habs : |a - (q + 1 : Nat)| = q + 1 - a := by
    rw [abs_of_neg (by push_cast; linarith)]
    push_cast
    ring
  unfold magChosen at h
  unfold goesUp
  rw [habs] at h
  split at h
  · obtain h | ⟨h, heven⟩ := h
    · exact .inl (by linarith)
    · exact .inr ⟨by linarith, by simp; omega⟩
  · push_cast at h
    linarith [h.1]
  · cases neg with
    | true => rfl
    | false =>
      simp only [Bool.false_eq_true, if_false] at h
      push_cast at h
      linarith [h.1]
  · cases neg with
    | false => rfl
    | true =>
      simp only [if_true] at h
      push_cast at h
      linarith [h.1]
  · show (q : ℚ) + (q + 1) ≤ 2 * a
    obtain h | ⟨h, -⟩ := h <;> linarith
  · exact absurd rfl h5
  · obtain h | ⟨-, h⟩ := h
    · push_cast at h
      linarith
    · simp
      omega

end

/-- An integer less than one from a value is zero or has its sign. -/
theorem exists_signedInt_of_near {neg : Bool} {a : ℚ} {t : Int} (ha : 0 ≤ a) (h : |sgn neg * a - t| < 1) :
    ∃ m, t = signedInt neg m := by
  obtain ⟨h1, h2⟩ := abs_lt.1 h
  cases neg with
  | false =>
    rw [sgn_false, one_mul] at h2
    have : ((-1 : Int) : ℚ) < t := by push_cast; linarith
    have : -1 < t := by exact_mod_cast this
    exact ⟨t.toNat, (Int.toNat_of_nonneg (by omega)).symm⟩
  | true =>
    rw [sgn_true, neg_one_mul] at h1
    have : (t : ℚ) < (1 : Int) := by push_cast; linarith
    have : t < 1 := by exact_mod_cast this
    exact ⟨(-t).toNat, by rw [signedInt, if_pos rfl]; omega⟩

/-- A rounding to the grid of the integers goes to the integer that the mode gives. -/
theorem Rounds.eq_of_intChosen {rm q : Nat} {neg up : Bool} {a : ℚ} {t : Int}
    (h : Rounds rm neg (q % 2 == 1) q a (q + 1) up) (ht : intChosen rm (sgn neg * a) t) : t = signedInt neg (q + up.toNat) := by
  have hlower := h.lower
  have hupper := h.upper
  obtain ⟨hnear, hexact⟩ := intChosen_near ht
  have ha : 0 ≤ a := le_trans (Nat.cast_nonneg q) hlower
  obtain ⟨m, rfl⟩ := exists_signedInt_of_near ha hnear
  rw [cast_signedInt] at hnear hexact
  rw [abs_sgn_sub, abs_lt] at hnear
  have hm := (intChosen_signedInt_iff ha).1 ht
  have hcases : m = q ∨ m = q + 1 := by
    have h1 : (m : ℚ) < (q + 2 : Nat) := by push_cast; linarith
    have h2 : (q : ℚ) < (m + 1 : Nat) := by push_cast; linarith
    have h1 : m < q + 2 := by exact_mod_cast h1
    have h2 : q < m + 1 := by exact_mod_cast h2
    omega
  congr 1
  by_cases haq : a = q
  · obtain rfl | rfl := hcases
    · rw [h.stays haq]
      rfl
    · push_cast at hnear
      linarith
  · have hlt : (q : ℚ) < a := lt_of_le_of_ne hlower (Ne.symm haq)
    have h5 : rm ≠ 5 := fun hc => by
      have := mul_left_cancel₀ (by cases neg <;> norm_num [sgn]) (hexact hc)
      obtain rfl | rfl := hcases
      · exact haq this
      · push_cast at this
        linarith
    have hpick := h.picks haq h5
    obtain rfl | rfl := hcases
    · rw [Bool.eq_false_iff.2 (fun hu => not_goesUp_of_magChosen h5 hlt hm (hpick.1 hu))]
      rfl
    · rw [hpick.2 (goesUp_of_magChosen h5 hupper hm)]
      rfl

/-- `exToInt` gives the integer of the mode, and its grid has no remainder when that is the value. -/
theorem exToInt_spec {rm : Nat} {x : Ex} {u : ℚ} {t : Int} (rw : Word) (hx : isReal x u) (ht : intChosen rm u t) :
    exToInt rm x rw = t ∧ ((exGrid x 0).2.1 = 0 ↔ (t : ℚ) = u) := by
  obtain ⟨-, hd, rfl⟩ := hx
  obtain ⟨q, up, hsteps, hround, hexact⟩ := nearest_rounds rm x 0 (fun q => q % 2 == 1) rw hd
  rw [zpow_zero, mul_one, mul_one] at hround
  rw [zpow_zero, mul_one] at hexact
  rw [exQ_eq_sgn] at ht ⊢
  have heq := hround.eq_of_intChosen ht
  constructor
  · rw [heq, exToInt, hsteps]
    rfl
  · have hpicked : ((q + up.toNat : Nat) : ℚ) = picked q (q + 1) up := by cases up <;> simp [picked]
    rw [hexact, ← hround.picked_eq_iff, heq, cast_signedInt, hpicked]
    cases x.neg <;> simp [sgn]

theorem toInt32_fin {rm : Nat} {x : Ex} {u : ℚ} {t : Int} (uns : Bool) (rw : Word) (hx : isReal x u)
    (ht : intChosen rm u t) :
    let lo : Int := if uns then 0 else -2 ^ 31
    let hi : Int := if uns then 2 ^ 32 - 1 else 2 ^ 31 - 1
    toInt32 rm uns (.fin x) rw = (if t < lo ∨ hi < t then ⟨intBits 32 (max lo (min hi t)), 16⟩
      else ⟨intBits 32 t, if (t : ℚ) = u then 0 else 1⟩) := by
  obtain ⟨hint, hexact⟩ := exToInt_spec rw hx ht
  simp only [toInt32, hint, hexact]
  rfl

theorem toInt32_special (rm : Nat) (uns n : Bool) (rw : Word) :
    toInt32 rm uns .nan rw = ⟨0, 16⟩ ∧ toInt32 rm uns (.zero n) rw = ⟨0, 0⟩ ∧
    toInt32 rm uns (.inf n) rw =
      ⟨if n then (if uns then 0 else 2 ^ 31) else (if uns then 2 ^ 32 - 1 else 2 ^ 31 - 1), 16⟩ := by
  refine ⟨rfl, rfl, ?_⟩
  cases uns <;> cases n <;> rfl

theorem chosenRules_hold : chosenRules :=
  ⟨fun _ _ _ _ hx hy => ⟨minVal_fin hx hy, maxVal_fin hx hy⟩, minMaxVal_nan, minMaxVal_zero,
    fun _ uns _ rw _ _ hx ht => toInt32_fin uns rw hx ht, toInt32_special⟩

end Sys2Proof.Machine

/-! ## The special functions (R119, R120) -/

namespace Sys2Proof.Machine

/-! ### The rounded input -/

/-- A real rounded to 24 bits is a real, and off by at most half a step of its last bit. -/
theorem r24_spec {x : Ex} {u : ℚ} (h : isReal x u) :
    isReal (r24 x) (exQ (r24 x)) ∧ 2 * |exQ (r24 x) - u| ≤ (2 : ℚ) ^ (Int.log 2 |u| - 23) := by
  obtain ⟨hn, hd, rfl⟩ := h
  obtain ⟨q, up, hsteps, hround, -⟩ := nearest_rounds 0 x (exLog2 x - 23) (fun q => q % 2 == 1) 0 hd
  obtain ⟨hbinade, -⟩ := binade_bounds hn hd
  have hlower := hround.lower
  have hupper := hround.upper
  obtain ⟨hup, hdown⟩ := hround.nearer (.inl rfl)
  have hr24 : r24 x = ⟨x.neg, q + up.toNat, 1, exLog2 x - 23⟩ := by rw [r24, hsteps]
  have hG : (0 : ℚ) < (2 : ℚ) ^ (exLog2 x - 23) := zpow_pos (by norm_num) _
  have hval : exQ (r24 x) = sgn x.neg * ((q + up.toNat : Nat) * (2 : ℚ) ^ (exLog2 x - 23)) := by
    rw [exQ_eq_sgn, abs_exQ, hr24, Nat.cast_one, div_one]
  have hq : 0 < q := Nat.pos_of_ne_zero (fun h0 => by
    have hstep : (2 : ℚ) ^ (exLog2 x - 23) ≤ (2 : ℚ) ^ exLog2 x := zpow_le_zpow_right₀ (by norm_num) (by omega)
    rw [h0] at hupper
    simp only [Nat.cast_zero, zero_add, one_mul] at hupper
    linarith)
  refine ⟨⟨by rw [hr24]; exact Nat.add_pos_left hq _, by rw [hr24]; exact one_pos, rfl⟩, ?_⟩
  rw [← exLog2_eq x hn hd, hval]
  rw [exQ_eq_sgn x, abs_sgn_sub]
  generalize |exQ x| = a at hlower hupper hup hdown ⊢
  cases up with
  | true =>
    have := hup rfl
    rw [abs_of_nonneg (by push_cast [Bool.toNat_true]; linarith)]
    push_cast [Bool.toNat_true]
    linarith
  | false =>
    have := hdown rfl
    rw [abs_of_nonpos (by push_cast [Bool.toNat_false]; linarith)]
    push_cast [Bool.toNat_false]
    linarith

/-! ### Powers of two -/

theorem two_zpow_isReal (n : Int) : isReal ⟨false, 1, 1, n⟩ ((2 : ℚ) ^ n) := ⟨one_pos, one_pos, by simp [exQ]⟩

theorem exToInt_of_exact {x : Ex} (h : (exGrid x 0).2.1 = 0) (rm : Nat) (rw : Word) :
    exToInt rm x rw = if x.neg then -((exGrid x 0).1 : Int) else (exGrid x 0).1 := by
  simp only [exToInt, nearest, if_pos h]

theorem fnEx2_integer {x : Ex} {n : Int} (h : isReal x n) (hsmall : |n| < 2 ^ 14) :
    fnEx2 (.fin x) = ⟨.fin ⟨false, 1, 1, n⟩, 0⟩ := by
  have hself : intChosen 0 (n : ℚ) n := .inl (by simp)
  obtain ⟨hint, hexact⟩ := exToInt_spec 0 h hself
  have hrest := hexact.2 rfl
  rw [exToInt_of_exact hrest] at hint
  obtain ⟨hn, hd, hval⟩ := h
  have hlog : ¬ 14 ≤ exLog2 x := fun hc => by
    have hlarge := (zpow_le_abs_exQ_iff hn hd 14).2 hc
    rw [hval, ← Int.cast_abs] at hlarge
    exact absurd (by exact_mod_cast hlarge) (not_le.2 hsmall)
  have htwo : twoTo x = .fin ⟨false, 1, 1, n⟩ := by
    simp only [twoTo, decide_eq_false hlog, Bool.false_eq_true, if_false, hint]
  rw [← htwo]
  exact if_pos hrest

/-- The binary logarithm of a power of two is found exactly. -/
theorem fnLg2_two_zpow {x : Ex} {n : Int} (h : isReal x ((2 : ℚ) ^ n)) : fnLg2 (.fin x) = ⟨valInt n, 0⟩ := by
  obtain ⟨hn, hd, hval⟩ := h
  have hpow : (0 : ℚ) < (2 : ℚ) ^ n := zpow_pos (by norm_num) _
  have hneg : x.neg = false := (exQ_pos_iff hn hd).1 (hval ▸ hpow)
  have hmag : |exQ x| = (2 : ℚ) ^ n := by rw [hval, abs_of_pos hpow]
  have hlog : exLog2 x = n := by
    rw [exLog2_eq x hn hd, hmag]
    exact int_log_eq le_rfl (zpow_lt_zpow_right₀ (by norm_num) (by omega))
  obtain ⟨q, up, -, hround, hexact⟩ := nearest_rounds 0 x n (fun q => q % 2 == 1) 0 hd
  have hlower := hround.lower
  have hupper := hround.upper
  rw [hmag] at hlower hupper hexact
  have hone : q = 1 := by
    have h1 : (q : ℚ) ≤ 1 := le_of_mul_le_mul_right (by linarith) hpow
    have h2 : (1 : ℚ) < q + 1 := lt_of_mul_lt_mul_right (by linarith) hpow.le
    have h1 : q ≤ 1 := by exact_mod_cast h1
    have h2 : 1 < q + 1 := by exact_mod_cast h2
    omega
  have hrest : (exGrid x n).2.1 = 0 := hexact.2 (by rw [hone, Nat.cast_one, one_mul])
  simp only [fnLg2, hneg, hlog, hrest, Bool.false_eq_true, if_true, if_false]

/-! ### The rules -/

theorem specialFns_nan : ∀ fn ∈ [fnEx2, fnLg2, fnSin, fnCos, fnTanh, fnSigm, fnRsq], fn .nan = ⟨.nan, 0⟩ := by
  simp only [List.mem_cons, List.not_mem_nil, or_false]
  rintro fn (rfl | rfl | rfl | rfl | rfl | rfl | rfl) <;> rfl

theorem specialFns_negative {x : Ex} {u : ℚ} (h : isReal x u) (hu : u < 0) :
    fnLg2 (.fin x) = ⟨.nan, 16⟩ ∧ fnRsq (.fin x) = ⟨.nan, 16⟩ := by
  obtain ⟨hn, hd, rfl⟩ := h
  have hneg := (exQ_neg_iff hn hd).1 hu
  exact ⟨if_pos hneg, if_pos hneg⟩

theorem specialFns_constants (n : Bool) : ∃ one half, isReal one 1 ∧ isReal half (1 / 2) ∧
    fnEx2 (.zero n) = ⟨.fin one, 0⟩ ∧ fnCos (.zero n) = ⟨.fin one, 0⟩ ∧
    fnSigm (.inf false) = ⟨.fin one, 0⟩ ∧ fnSigm (.zero n) = ⟨.fin half, 0⟩ := by
  have hone := two_zpow_isReal 0
  have hhalf := two_zpow_isReal (-1)
  rw [zpow_zero] at hone
  rw [zpow_neg_one, ← one_div] at hhalf
  exact ⟨_, _, hone, hhalf, rfl, rfl, rfl, rfl⟩

theorem fnTanh_inf (n : Bool) : ∃ z, isReal z (if n then -1 else 1) ∧ fnTanh (.inf n) = ⟨.fin z, 0⟩ :=
  ⟨⟨n, 1, 1, 0⟩, ⟨one_pos, one_pos, by simp [exQ]⟩, rfl⟩

theorem specialRules_hold : specialRules :=
  ⟨fun _ _ _ _ => rfl, fun _ _ h => r24_spec h, specialFns_nan, ⟨rfl, rfl, rfl, rfl, rfl, rfl, rfl⟩,
    fun _ => ⟨rfl, rfl, rfl, rfl, rfl, rfl⟩, specialFns_constants, fnTanh_inf, fun _ _ h hu => specialFns_negative h hu,
    fun _ n h hsmall => ⟨_, fnEx2_integer h hsmall, two_zpow_isReal n⟩, fun _ _ h => fnLg2_two_zpow h⟩

/-- Settles O7: the results instruction by instruction, and the rules of their arithmetic one by one. -/
theorem slotArithmetic : Obligations.SlotArithmetic :=
  ⟨completesUnderSlot_slotResult, generatorRules_hold, quotientRules_hold, chosenRules_hold, specialRules_hold⟩

end Sys2Proof.Machine

/-! ## Integer, control and memory instructions (R88 to R106, R160, R161, R274, R275, R334, R335) -/

namespace Sys2Proof.Machine

/-! ### Going on, and legal instructions only -/

/-- Where no arrival follows, the path goes on by 8, whatever has changed in its warp. -/
theorem advance_goesTo {s t : State} {c : Cur} (hw : c.w < t.warps.length)
    (hl : bits (pcOf t c).toNat 0 42 ≠ 2 ^ 42 - 8) (hg : goesTo (warpAt t c.w) c.which (nextPc (pcOf t c)) = true) :
    advance t (envOf s c) = .ok (stepped t c) := by
  have hlast : pcLast (slotOf (warpAt t c.w) c.which).path.pc = false := beq_eq_false_iff_ne.2 hl
  have hstep : stepOn (slotOf (warpAt t c.w) c.which) = { slotOf (warpAt t c.w) c.which with
      path := { (slotOf (warpAt t c.w) c.which).path with pc := nextPc (pcOf t c) }, turned := none } := by
    unfold stepOn
    rw [hlast]
    rfl
  unfold advance
  rw [show stepOn (slotOf (warpAt t (envOf s c).w) (envOf s c).which) = _ from hstep]
  exact jump_goesTo t (envOf s c) (nextPc (pcOf t c)) hw hg

/-- An instruction that is not legal in its warp traps ILL, before anything else (R45, R46). -/
theorem runInstr_ill {s : State} {c : Cur} {fs : Nat} {ill priv : Env → Bool} {g : Guard}
    {body : Env → Except Stop State} (hc : s.cur = some c) (hi : ill (envOf s c) = false) :
    runInstr s fs ill priv g body =
      .next (takeTrap s (envOf s c) fs ⟨1, (envOf s c).mask, (envOf s c).pc.toNat, 0⟩) := by
  unfold runInstr
  simp [hc, hi]

/-- An instruction that has nothing to do goes straight on. -/
theorem advance_self {s : State} {c : Cur} (hp : plain s c = true) : advance s (envOf s c) = .ok (stepped s c) :=
  advance_same s s c hp rfl (samePaths_refl _)

theorem warp_lt_of_issuing {s : State} {c : Cur} (h : issuing s c = true) : c.w < s.warps.length := by
  simp only [issuing, Bool.and_eq_true, decide_eq_true_eq] at h
  obtain ⟨⟨⟨-, hw⟩, -⟩, -⟩ := h
  exact hw

theorem goesTo_of_plain {s : State} {c : Cur} (h : plain s c = true) :
    goesTo (warpAt s c.w) c.which (nextPc (pcOf s c)) = true ∧ bits (pcOf s c).toNat 0 42 ≠ 2 ^ 42 - 8 := by
  simp only [plain, Bool.and_eq_true, bne_iff_ne] at h
  obtain ⟨⟨-, hg⟩, hl⟩ := h
  exact ⟨hg, hl⟩

/-- What it takes for a path of slot A or B to arrive nowhere (R141). -/
theorem goesTo_iff {x : Warp} {k : Which} (hk : k ≠ .handler) (pc : DWord) : goesTo x k pc = true ↔
    (slotOf x k).live = true ∧ (slotOf x k).park = none ∧ (slotOf x k).path.mask ≠ 0 ∧
    (pc ≠ (slotOf x k).path.rjpc ∨ (slotOf x k).path.rjpc = noRejoin) ∧ arrives (slotOf x (otherSlot k)) = false ∧
    ((slotOf x (otherSlot k)).live = true ∨ x.ssn = 0 ∨
      (x.ssn ≤ 4 ∧ entKind (x.ents.getD (x.ssn - 1) 0) ≠ 1)) := by
  cases k with
  | handler => exact absurd rfl hk
  | a => simp [goesTo, and_assoc, or_assoc]
  | b => simp [goesTo, and_assoc, or_assoc]

/-! ### Integer results in a register (R89 to R96, R98, R100) -/

/-- A result that is written to a register or latch only ends with the PC 8 further. -/
theorem completesWith_of_finishesWith {i : Instr} {r : Result} (h : finishesWith i r) : completesWith i r := by
  intro s c s1 v hp hr hq hs
  obtain ⟨hlen, hpaths, -, -⟩ := readSrcs_same s s1 c _ _ _ _ v hp hs
  exact h s c s1 v _ (issuing_of_plain hp) hr hs (finish_same s s1 c r.h r.d _ r.k _ hp hlen hpaths hq)

/-- Settles O1: each table's instructions end with the table's results. -/
theorem integerArithmetic : Obligations.IntegerArithmetic :=
  ⟨fun i r h => completesWith_of_finishesWith (finishesWith_arithResult i r h),
    fun i r h => completesWith_of_finishesWith (finishesWith_logicResult i r h),
    fun i r h => completesWith_of_finishesWith (finishesWith_fieldResult i r h)⟩

/-- Settles O2: a division ends with its quotient or remainder written, and no trap on the way. -/
theorem division : Obligations.Division := fun i r h =>
  completesWith_of_finishesWith (finishesWith_divisionResult i r h)

/-- Settles O3: wide arithmetic, moves and immediates end with the result of their table written. -/
theorem wideMovesImmediates : Obligations.WideMovesImmediates := fun i r h =>
  completesWith_of_finishesWith (finishesWith_wideResult i r h)

end Sys2Proof.Machine

/-! ## Predicates (R97 to R99, R121, R122, R155, R334) -/

namespace Sys2Proof.Machine

/-! ### Compares and predicates as the tables state them -/

theorem icmpRel_eq_relates {n : Nat} (cond : ICond) (x y : BitVec n) :
    icmpRel cond x y = relates cond (sx n x.toNat) (sx n y.toNat) x.toNat y.toNat := by
  cases cond with
  | eq => simp [icmpRel, relates, BitVec.toNat_inj, Bool.beq_eq_decide_eq]
  | ne => simp [icmpRel, relates, BitVec.toNat_inj, bne, Bool.beq_eq_decide_eq]
  | _ => rfl

/-- Whether a predicate holds in some lane that takes part. -/
theorem predMask_and_ne_zero (p m : Mask) : (p &&& m != 0) = (lanesOf m).any (fun l => p.getLsbD l) := by
  rw [Bool.eq_iff_iff, bne_iff_ne, List.any_eq_true, ne_eq, ← lowest_eq_none, lowest, List.head?_eq_none_iff,
    List.eq_nil_iff_forall_not_mem]
  simp only [mem_lanesOf, BitVec.getLsbD_and, Bool.and_eq_true, and_comm, not_forall, not_not]

/-- Whether a predicate holds in every lane that takes part. -/
theorem predMask_and_eq_self (p m : Mask) : (p &&& m == m) = (lanesOf m).all (fun l => p.getLsbD l) := by
  rw [Bool.eq_iff_iff, beq_iff_eq, List.all_eq_true]
  simp only [mem_lanesOf]
  constructor
  · intro h l hl
    rw [← h, BitVec.getLsbD_and, Bool.and_eq_true] at hl
    exact hl.1
  · intro h
    refine BitVec.eq_of_getLsbD_eq fun l _ => ?_
    rw [BitVec.getLsbD_and]
    cases hm : m.getLsbD l with
    | false => rw [Bool.and_false]
    | true => rw [h l hm, Bool.and_true]

/-- Values agree with that of the lowest lane when they agree with one another. -/
theorem all_eq_warpValue (m : Mask) (v : Nat → List Nat) :
    (lanesOf m).all (fun l => (v l).getD 0 0 == warpValue m v 0) =
      (lanesOf m).all (fun l => (lanesOf m).all (fun j => decide ((v l).getD 0 0 = (v j).getD 0 0))) := by
  rw [Bool.eq_iff_iff]
  simp only [List.all_eq_true, beq_iff_eq, decide_eq_true_eq]
  constructor
  · intro h l hl j hj
    rw [h l hl, h j hj]
  · intro h l hl
    cases hlow : lowest m with
    | none =>
      rw [(lowest_eq_none m).1 hlow] at hl
      cases hl
    | some j =>
      have hv : warpValue m v 0 = (v j).getD 0 0 := by rw [warpValue, hlow]
      rw [hv]
      exact h l hl j ((mem_lanesOf m j).2 (lowest_mem m j hlow))

/-! ### Instructions that end by giving a predicate -/

/-- An instruction that reads its sources and gives its predicate a value. -/
theorem runInstr_finishPred {s s1 : State} {c : Cur} {h : Hdr} {p : Pred} {srcs : List Src} {v : Nat → List Nat}
    {fs : Nat} {ill : Env → Bool} {body : Env → Except Stop State} {val : Nat → Bool} (hp : plain s c = true)
    (hi : ill (envOf s c) = true) (hs : readSrcs s (envOf s c) (takers s c h.g) srcs none false = .ok (s1, v))
    (hb : body (envOf s c) = finishPred s1 (envOf s c) h p (takers s c h.g) val) :
    runInstr s fs ill anyMode h.g body =
      .next (stepped (setWarp s1 c.w (writePred (warpAt s1 c.w) h p (takers s c h.g) val)) c) := by
  obtain ⟨hlen, hpaths, -, -⟩ := readSrcs_same s s1 c _ _ _ _ v hp hs
  obtain ⟨ha, hb', hh, hn, he⟩ := hpaths
  refine runInstr_ok s _ c _ _ _ _ _ (issuing_of_plain hp) hi rfl ?_
  rw [hb]
  exact finishPred_plain s s1 c hp h p _ val hlen ha hb' hh hn he

/-- A predicate that a function of the sources gives lane by lane. -/
theorem completesWithPred_lanePred {i : Instr} {h : Hdr} {p : Pred} {srcs : List Src} {f : List Nat → Bool}
    {val : Env → Mask → (Nat → List Nat) → Nat → Bool} (hx : ∀ s, exec i s = lanePred s h p srcs f)
    (hv : ∀ e m (v : Nat → List Nat) l, f (v l) = val e m v l) : completesWithPred i ⟨h, p, srcs, val⟩ := by
  intro s c s1 v hp hr hs
  rw [hx, lanePred_plain s s1 c h p srcs f v hp hr hs]
  simp only [hv (envOf s c) (takers s c h.g)]

/-- A predicate that the warp's predicates give, without a source. -/
theorem completesWithPred_noSource {i : Instr} {h : Hdr} {p : Pred} {val : Env → Mask → (Nat → List Nat) → Nat → Bool}
    {f : Env → Mask → Nat → Bool}
    (hx : ∀ s, exec i s = runInstr s 0 (fun _ => true) anyMode h.g (fun e =>
      finishPred s e h p (taking e h.g) (f e (taking e h.g))))
    (hv : ∀ e m (v : Nat → List Nat) l, f e m l = val e m v l) : completesWithPred i ⟨h, p, [], val⟩ := by
  intro s c s1 v hp hr hs
  obtain rfl := readSrcs_nil hs
  rw [hx]
  exact runInstr_finishPred hp rfl hs (congrArg _ (funext fun l => hv (envOf s1 c) _ v l))

/-- A predicate from two predicates (R99). -/
theorem completesWithPred_predOp {i : Instr} {h : Hdr} {p a b : Pred} {f : Bool → Bool → Bool}
    {val : Env → Mask → (Nat → List Nat) → Nat → Bool} (hx : ∀ s, exec i s = predOp s h p a b f)
    (hv : ∀ e m (v : Nat → List Nat) l, f (predAt e a l) (predAt e b l) = val e m v l) :
    completesWithPred i ⟨h, p, [], val⟩ :=
  completesWithPred_noSource (f := fun e _ l => f (predAt e a l) (predAt e b l)) hx hv

/-- A vote: a predicate from the lanes that take part and those of them in which a predicate holds (R155). -/
theorem completesWithPred_lmaskPred {i : Instr} {h : Hdr} {p a : Pred} {f : Mask → Mask → Bool}
    {val : Env → Mask → (Nat → List Nat) → Nat → Bool} (hx : ∀ s, exec i s = lmaskPred s h p a f)
    (hv : ∀ e m (v : Nat → List Nat) l, f m (predMask e.x a &&& m) = val e m v l) :
    completesWithPred i ⟨h, p, [], val⟩ :=
  completesWithPred_noSource (f := fun e m _ => f m (predMask e.x a &&& m)) hx hv

/-- `lmask` with the question whether the taking lanes agree (R155). -/
theorem completesWithPred_lmaskSame (h : Hdr) (d : Pred) (a : Opnd) : completesWithPred (.lmaskSame h d a)
    ⟨h, d, [(a, 1)], fun _ t v _ =>
      (lanesOf t).all (fun l => (lanesOf t).all (fun j => (v l).getD 0 0 = (v j).getD 0 0))⟩ := by
  intro s c s1 v hp hr hs
  show execLmaskSame h d a s = _
  unfold execLmaskSame
  refine runInstr_finishPred hp hr hs ?_
  simp only [← all_eq_warpValue]
  rw [show readSrcs s (envOf s c) (taking (envOf s c) h.g) [(a, 1)] none false = .ok (s1, v) from hs]
  rfl

/-- Predicates end with the results of their table (R97 to R99, R155, R334). -/
theorem completesWithPred_predResult (i : Instr) (r : PredResult) (h : predResult i = some r) :
    completesWithPred i r := by
  unfold predResult at h
  split at h <;> cases h
  case h_1 cond wide d a b =>
    refine completesWithPred_lanePred (f := fun v => if wide then icmpRel cond (arg64 v 0) (arg64 v 1)
      else icmpRel cond (arg32 v 0) (arg32 v 1)) (fun _ => rfl) (fun _ _ v l => ?_)
    simp only [icmpRel_eq_relates, arg32_toNat, arg64_toNat]
  case h_2 =>
    refine completesWithPred_lanePred (f := fun v => arg32 v 0 != 0) (fun _ => rfl) (fun _ _ v l => ?_)
    rw [Bool.eq_iff_iff, bne_iff_ne, decide_eq_true_eq, ← arg32_toNat, ne_eq, ne_eq, BitVec.toNat_eq]
    rfl
  case h_3 => exact completesWithPred_predOp (f := fun x y => x && y) (fun _ => rfl) (fun _ _ _ _ => rfl)
  case h_4 => exact completesWithPred_predOp (f := fun x y => x || y) (fun _ => rfl) (fun _ _ _ _ => rfl)
  case h_5 => exact completesWithPred_predOp (f := fun x y => x != y) (fun _ => rfl) (fun _ _ _ _ => rfl)
  case h_6 => exact completesWithPred_predOp (b := 7) (f := fun x _ => !x) (fun _ => rfl) (fun _ _ _ _ => rfl)
  case h_7 => exact completesWithPred_predOp (f := fun x y => x && !y) (fun _ => rfl) (fun _ _ _ _ => rfl)
  case h_8 =>
    exact completesWithPred_lmaskPred (f := fun _ t => t != 0) (fun _ => rfl) (fun e m _ _ => predMask_and_ne_zero _ m)
  case h_9 =>
    exact completesWithPred_lmaskPred (f := fun m t => t == m) (fun _ => rfl) (fun e m _ _ => predMask_and_eq_self _ m)
  case h_10 => exact completesWithPred_lmaskSame _ _ _
  case h_11 => exact completesWithPred_noSource (f := fun e _ _ => e.cr.req.isSome) (fun _ => rfl) (fun _ _ _ _ => rfl)

/-! ### Compares and classes under a slot (R121, R122) -/

theorem bits_one_eq_bitOf (x k : Nat) : bits x k 1 = bitOf x k := by rw [bits_eq_div_mod, bitOf, pow_one]

theorem exec_slotPredValue {i : Instr} {h : Hdr} {f : FSlot} {k : Fin 8} {p : Pred} {a b : Opnd}
    {fn : Word → Nat → Nat → Bool} (hi : slotPredValue i = some (h, f, k, p, a, b, fn)) (s : State) :
    exec i s = slotPred s h f k p a b fn := by
  unfold slotPredValue at hi
  split at hi
  case h_1 cond _ _ _ _ =>
    cases hi
    cases cond <;> rfl
  case h_2 =>
    cases hi
    simp only [← bits_one_eq_bitOf]
    rfl
  case h_3 => cases hi

theorem slotPred_plain {s s1 : State} {c : Cur} {h : Hdr} {f : FSlot} {k : Fin 8} {p : Pred} {a b : Opnd}
    {fn : Word → Nat → Nat → Bool} {v : Nat → List Nat} (hp : plain s c = true)
    (hr : regsOk [(a, 1), (b, 1)] (envOf s c) = true) (hf : fmIllegal (slotWord (envOf s c).x f) = false)
    (hk : k.val < fmN (slotWord (envOf s c).x f))
    (hs : readSrcs s (envOf s c) (takers s c h.g) [(a, 1), (b, 1)] none false = .ok (s1, v)) :
    slotPred s h f k p a b fn = .next (stepped (setWarp s1 c.w (writePred (warpAt s1 c.w) h p (takers s c h.g)
      (fun l => fn (slotWord (envOf s c).x f) ((v l).getD 0 0) ((v l).getD 1 0)))) c) := by
  refine runInstr_finishPred hp (by rw [hr, hf, decide_eq_true hk]; rfl) hs ?_
  simp only
  rw [show readSrcs s (envOf s c) (taking (envOf s c) h.g) [(a, 1), (b, 1)] none false = .ok (s1, v) from hs]
  rfl

/-- Settles O5: the predicates by their table, and those under a slot by the two that there are. -/
theorem predicates : Obligations.Predicates :=
  ⟨completesWithPred_predResult, fun i h f k p a b fn hi s c s1 v hp hr hf hk hs => by
    rw [exec_slotPredValue hi]
    exact slotPred_plain hp hr hf hk hs⟩

end Sys2Proof.Machine

/-! ## Traps, indirect transfers, exit and yield (R102 to R106, R142, R143, R171, R326, R335) -/

namespace Sys2Proof.Machine

/-! ### trap, brk and the illegal words (R88, R105, R106, R326) -/

section
variable {s : State} {c : Cur} {g : Guard} {code : BitVec 8}

theorem execIll_traps (hc : s.cur = some c) :
    execIll s = .next (takeTrap s (envOf s c) 0 ⟨1, (envOf s c).mask, (envOf s c).pc.toNat, 0⟩) :=
  runInstr_ill hc rfl

theorem execTrap_of_takers (hi : issuing s c = true) (hm : takers s c g ≠ 0) :
    execTrap g code s = .next (takeTrap s (envOf s c) 0 ⟨0x14, takers s c g, 0, code.toNat⟩) :=
  runInstr_trap s c _ _ _ _ _ _ hi rfl rfl (if_neg hm)

theorem execTrap_of_no_takers (hp : plain s c = true) (hm : takers s c g = 0) :
    execTrap g code s = .next (stepped s c) :=
  runInstr_ok s _ c _ _ _ _ _ (issuing_of_plain hp) rfl rfl ((if_pos hm).trans (advance_self hp))

theorem execBrk_of_no_takers (hp : plain s c = true) (hm : takers s c g = 0) :
    execBrk g code s = .next (stepped s c) :=
  runInstr_ok s _ c _ _ _ _ _ (issuing_of_plain hp) rfl rfl ((if_pos hm).trans (advance_self hp))

theorem execBrk_of_not_dbgen (hi : issuing s c = true) (hm : takers s c g ≠ 0) (hd : bits (dbgctl s c.w) 0 1 = 0) :
    execBrk g code s = .next (takeTrap s (envOf s c) 0 ⟨0x14, takers s c g, 0, 0x100 + code.toNat⟩) := by
  have hoff : ¬ bits (dbgctl s c.w) 0 1 = 1 := by omega
  exact runInstr_trap s c _ _ _ _ _ _ hi rfl rfl ((if_neg hm).trans (if_neg hoff))

/-- A step of a path leaves its warp in its crew, and so under its context's DBGCTL. -/
theorem dbgctl_stepped (hw : c.w < s.warps.length) : dbgctl (stepped s c) c.w = dbgctl s c.w := by
  have hcrew : (warpAt (stepped s c) c.w).crew = (warpAt s c.w).crew := by
    unfold stepped movedTo setSlot
    rw [warpAt_setWarp _ _ _ hw, withSlot_crew]
  have hctx : ctxNumOf (stepped s c) c.w = ctxNumOf s c.w := by
    unfold ctxNumOf crewOf
    rw [hcrew]
    rfl
  unfold dbgctl
  rw [hctx]
  rfl

/-- With STOP 0 a warp halts alone. -/
theorem haltWarp_of_stop_zero {w : Nat} (h : bits (dbgctl s w) 2 2 = 0) :
    haltWarp s w = setWarp s w { warpAt s w with halt := .halted, step := false } := by
  unfold haltWarp
  simp only [h, if_true]

theorem execBrk_of_dbgen (hp : plain s c = true) (hm : takers s c g ≠ 0) (hd : bits (dbgctl s c.w) 0 1 = 1)
    (hstop : bits (dbgctl s c.w) 2 2 = 0) :
    execBrk g code s = .next (setWarp (stepped s c) c.w
      { warpAt (stepped s c) c.w with halt := .halted, step := false }) := by
  refine runInstr_ok s _ c _ _ _ _ _ (issuing_of_plain hp) rfl rfl ((if_neg hm).trans ((if_pos hd).trans ?_))
  rw [advance_self hp]
  exact congrArg _ (haltWarp_of_stop_zero ((congrArg (bits · 2 2) (dbgctl_stepped (warp_lt_of_plain hp))).trans hstop))

end

/-- Settles O17, instruction by instruction. -/
theorem softwareTraps : Obligations.SoftwareTraps := fun _ _ _ _ hi =>
  ⟨execIll_traps (cur_of_issuing hi), fun hm => execTrap_of_takers hi hm, fun hm hd => execBrk_of_not_dbgen hi hm hd,
    fun hm hd hstop hp => execBrk_of_dbgen hp hm hd hstop,
    fun hm hp => ⟨execTrap_of_no_takers hp hm, execBrk_of_no_takers hp hm⟩⟩

/-! ### Indirect transfers (R102, R143) -/

/-- No lane of a mask is off the common value. -/
theorem maskOf_differ_eq_zero_iff {α : Type} [DecidableEq α] (m : Mask) (f : Nat → α) (t : α) :
    maskOf (fun l => m.getLsbD l && f l != t) = 0 ↔ ∀ l ∈ lanesOf m, f l = t := by
  rw [maskOf_eq_zero]
  simp only [mem_lanesOf, Bool.and_eq_false_imp, bne_eq_false_iff_eq]
  refine ⟨fun h l hl => h l ?_ hl, fun h l _ hl => h l hl⟩
  by_contra hge
  rw [BitVec.getLsbD_of_ge _ _ (by omega)] at hl
  cases hl

/-- `s` with the return address of an indirect call where its link goes. -/
def linkedBy (s : State) (c : Cur) (d : Option (Hdr × Opnd)) (m : Mask) : State :=
  match d with
  | some (h, o) => setWarp s c.w (writeDest (warpAt s c.w) ⟨h, o, m⟩ 2 (fun _ => (nextPc (envOf s c).pc).toNat))
  | none => s

theorem linkedBy_length (s : State) (c : Cur) (d : Option (Hdr × Opnd)) (m : Mask) :
    (linkedBy s c d m).warps.length = s.warps.length := by
  cases d with
  | none => rfl
  | some d => exact setWarp_length _ _ _

theorem goesTo_linkedBy {s : State} {c : Cur} (hw : c.w < s.warps.length) (d : Option (Hdr × Opnd)) (m : Mask)
    (pc : DWord) : goesTo (warpAt (linkedBy s c d m) c.w) c.which pc = goesTo (warpAt s c.w) c.which pc := by
  cases d with
  | none => rfl
  | some d =>
    simp only [linkedBy, warpAt_setWarp _ _ _ hw]
    exact goesTo_congr _ _ _ _ (by simp) (by simp) (by simp) (by simp)

section
variable {s : State} {c : Cur} {g : Guard} {a : Opnd} {d : Option (Hdr × Opnd)} {l0 : Nat}
  (hi : issuing s c = true) (hr : regsOk ((a, 2) :: linkSrc (d.map Prod.snd)) (envOf s c) = true)
  (hl : lowest (envOf s c).mask = some l0)
include hi hr hl

theorem indirect_of_lanes_differ
    (h : ∃ l ∈ lanesOf (envOf s c).mask, laneTarget s c (takers s c g) a l ≠ laneTarget s c (takers s c g) a l0) :
    indirect s g a d = .next (takeTrap s (envOf s c) 0 ⟨0x0A, maskOf (fun l => (envOf s c).mask.getLsbD l &&
      laneTarget s c (takers s c g) a l != laneTarget s c (takers s c g) a l0), (envOf s c).pc.toNat, 0⟩) := by
  have hne : maskOf (fun l => (envOf s c).mask.getLsbD l &&
      laneTarget s c (takers s c g) a l != laneTarget s c (takers s c g) a l0) ≠ 0 := fun hz => by
    obtain ⟨l, hm, hd⟩ := h
    exact hd ((maskOf_differ_eq_zero_iff _ _ _).1 hz l hm)
  unfold indirect
  refine runInstr_trap s c _ _ _ _ _ _ hi (by cases d <;> exact hr) rfl ?_
  simp only [hl]
  exact if_pos hne

variable (h : ∀ l ∈ lanesOf (envOf s c).mask, laneTarget s c (takers s c g) a l = laneTarget s c (takers s c g) a l0)
include h

theorem indirect_of_no_takers (hp : plain s c = true) (hm : takers s c g = 0) :
    indirect s g a d = .next (stepped s c) := by
  unfold indirect
  refine runInstr_ok s _ c _ _ _ _ _ hi (by cases d <;> exact hr) rfl ?_
  simp only [hl]
  exact (if_neg (not_not.2 ((maskOf_differ_eq_zero_iff _ _ _).2 h))).trans ((if_pos hm).trans (advance_self hp))

variable (hm : takers s c g ≠ 0)
include hm

theorem indirect_of_aligned (ht : (laneTarget s c (takers s c g) a l0).toNat % 8 = 0)
    (hg : goesTo (warpAt s c.w) c.which (laneTarget s c (takers s c g) a l0) = true) :
    indirect s g a d =
      .next (movedTo (linkedBy s c d (takers s c g)) c (laneTarget s c (takers s c g) a l0)) := by
  have hw := warp_lt_of_issuing hi
  have hj := jump_goesTo (linkedBy s c d (takers s c g)) (envOf s c) _ (by rw [linkedBy_length]; exact hw)
    ((goesTo_linkedBy hw d _ _).trans hg)
  unfold indirect
  refine runInstr_ok s _ c _ _ _ _ _ hi (by cases d <;> exact hr) rfl ?_
  simp only [hl]
  refine (if_neg (not_not.2 ((maskOf_differ_eq_zero_iff _ _ _).2 h))).trans ((if_neg hm).trans
    ((if_neg (not_not.2 ht)).trans ?_))
  cases d <;> exact hj

theorem indirect_of_misaligned (ht : (laneTarget s c (takers s c g) a l0).toNat % 8 ≠ 0) :
    indirect s g a d = .next (takeTrap s (envOf s c) 0
      ⟨3, takers s c g, (laneTarget s c (takers s c g) a l0).toNat, 1⟩) := by
  unfold indirect
  refine runInstr_trap s c _ _ _ _ _ _ hi (by cases d <;> exact hr) rfl ?_
  simp only [hl]
  exact (if_neg (not_not.2 ((maskOf_differ_eq_zero_iff _ _ _).2 h))).trans ((if_neg hm).trans (if_pos ht))

end

theorem exec_of_indirectForm {i : Instr} {g : Guard} {a : Opnd} {d : Option (Hdr × Opnd)}
    (h : indirectForm i = some (g, a, d)) (s : State) : exec i s = indirect s g a d := by
  unfold indirectForm at h
  split at h <;> cases h <;> rfl

/-- Lanes that do not take part all go to the next instruction. -/
theorem laneTarget_of_no_takers (s : State) (c : Cur) (a : Opnd) (l : Nat) :
    laneTarget s c 0 a l = nextPc (pcOf s c) := if_neg (by simp)

/-- Settles O14, by the lanes that take part and where they go. -/
theorem indirectTransfers : Obligations.IndirectTransfers := by
  intro i g a d h s c l0 e m t left hi hr hl
  rw [exec_of_indirectForm h]
  have hleft : left = linkedBy s c d m := by cases d <;> rfl
  refine ⟨fun hm hp => indirect_of_no_takers hi hr hl (fun l _ => ?_) hp hm, fun hm hall ht hg => ?_,
    fun hm hall ht => indirect_of_misaligned hi hr hl hall hm ht, fun hd => indirect_of_lanes_differ hi hr hl hd⟩
  · rw [show takers s c g = 0 from hm, laneTarget_of_no_takers, laneTarget_of_no_takers]
  · rw [hleft]
    exact indirect_of_aligned hi hr hl hall hm ht hg

end Sys2Proof.Machine

/-! ## exit and yield (R103, R104, R141, R142, R171, R335) -/

namespace Sys2Proof.Machine

/-! ### Slots that are written and the arrivals that follow (R141) -/

theorem otherSlot_ne {k : Which} (hk : k ≠ .handler) : k ≠ otherSlot k := by
  cases k with
  | handler => exact absurd rfl hk
  | a => nofun
  | b => nofun

/-- A path that has gone on waits for nothing else than before, and keeps its lanes. -/
theorem stepOn_keeps (sl : Slot) : (stepOn sl).live = sl.live ∧ (stepOn sl).park = sl.park ∧
    (stepOn sl).path.mask = sl.path.mask ∧ (stepOn sl).path.depth = sl.path.depth := by
  unfold stepOn
  split <;> exact ⟨rfl, rfl, rfl, rfl⟩

theorem arrives_ofPath_iff (p : Path) :
    arrives (Slot.ofPath p) = false ↔ p.mask ≠ 0 ∧ (p.pc ≠ p.rjpc ∨ p.rjpc = noRejoin) := by
  simp only [arrives, Slot.ofPath, Slot.free, Option.isNone_none, Bool.true_and, Bool.or_eq_false_iff,
    beq_eq_false_iff_ne, Bool.and_eq_false_iff, bne_eq_false_iff_eq]

theorem arrives_of_not_live {sl : Slot} (h : sl.live = false) : arrives sl = false := by simp [arrives, h]

/-- Where the issuing path of slot A or B lands, and whether its warp has then ended. -/
theorem land_of_settle {s t : State} {e : Env} {sl : Slot} (hk : e.which ≠ .handler)
    (h : settle (setSlot s e.w e.which sl) e.w e.which = .ok t) :
    land s e sl = .ok (if pathsDone (warpAt t e.w) then finishWarp t e.w else t) := by
  unfold land
  split
  · next hh => exact absurd hh hk
  · simp only [h]

/-- The slot that is written last stays. -/
theorem setSlot_setWarp_withSlot {s : State} {w : Nat} (hw : w < s.warps.length) (x : Warp) (k : Which) (a b : Slot) :
    setSlot (setWarp s w (withSlot x k a)) w k b = setWarp s w (withSlot x k b) := by
  unfold setSlot
  rw [warpAt_setWarp _ _ _ hw, setWarp_setWarp, withSlot_withSlot]

/-- A path that has lost its lanes, with no entry of the split stack and no other path, leaves its slot free. -/
theorem settle_last {s : State} {w : Nat} {k : Which} (hk : k ≠ .handler) (hw : w < s.warps.length)
    (hlive : (slotOf (warpAt s w) k).live = true) (hpark : (slotOf (warpAt s w) k).park = none)
    (hmask : (slotOf (warpAt s w) k).path.mask = 0) (hdepth : (slotOf (warpAt s w) k).path.depth = 0)
    (hother : (slotOf (warpAt s w) (otherSlot k)).live = false) (hn : (warpAt s w).ssn = 0) :
    settle s w k = .ok (setSlot s w k Slot.free) := by
  have hwarp : warpAt (setSlot s w k Slot.free) w = withSlot (warpAt s w) k Slot.free := warpAt_setWarp _ _ _ hw
  have hleaves : arrives (slotOf (warpAt s w) k) = true := by simp [arrives, hlive, hpark, hmask]
  have hgone : ∀ fl, arriveAt s fl w k = .ok (setSlot s w k Slot.free) := fun fl => if_pos hdepth
  have hrest : ∀ n fl, settlePaths (n + 1) (setSlot s w k Slot.free) fl w k = .ok (setSlot s w k Slot.free) := by
    intro n fl
    have hfree : arrives (slotOf (warpAt (setSlot s w k Slot.free) w) k) = false := by
      rw [hwarp, slotOf_withSlot]
      rfl
    have hnone : arrives (slotOf (warpAt (setSlot s w k Slot.free) w) (otherSlot k)) = false := by
      rw [hwarp, slotOf_withSlot_ne _ _ (otherSlot_ne hk)]
      exact arrives_of_not_live hother
    have hlive' : (slotOf (warpAt (setSlot s w k Slot.free) w) k).live = false := by
      rw [hwarp, slotOf_withSlot]
      rfl
    have hpop : popInto (setSlot s w k Slot.free) fl w k = .ok none := by
      unfold popInto
      rw [hwarp, withSlot_ssn]
      exact if_pos hn
    unfold settlePaths
    simp only [hfree, hnone, hlive', hpop, Bool.false_eq_true, if_false, Bool.not_false, if_true]
  unfold settle settleFuel settlePaths
  simp only [hleaves, if_true, hgone, Except.bind]
  exact hrest _ _

/-- A warp whose last path has lost its lanes ends (R103, R141). -/
theorem advance_of_last {s : State} {c : Cur} {y : Warp} {sl : Slot} (hk : c.which ≠ .handler)
    (hw : c.w < s.warps.length) (hlive : sl.live = true) (hpark : sl.park = none) (hmask : sl.path.mask = 0)
    (hdepth : sl.path.depth = 0) (hother : (slotOf y (otherSlot c.which)).live = false) (hn : y.ssn = 0) :
    advance (setWarp s c.w (withSlot y c.which sl)) (envOf s c) =
      .ok (finishWarp (setWarp s c.w (withSlot y c.which Slot.free)) c.w) := by
  obtain ⟨hlive', hpark', hmask', hdepth'⟩ := stepOn_keeps sl
  have hwarp : ∀ sl, warpAt (setWarp s c.w (withSlot y c.which sl)) c.w = withSlot y c.which sl := fun sl =>
    warpAt_setWarp _ _ _ hw
  have hsettle : settle (setSlot (setWarp s c.w (withSlot y c.which sl)) c.w c.which (stepOn sl)) c.w c.which =
      .ok (setWarp s c.w (withSlot y c.which Slot.free)) := by
    rw [setSlot_setWarp_withSlot hw, settle_last hk (by rw [setWarp_length]; exact hw), setSlot_setWarp_withSlot hw]
    · rw [hwarp, slotOf_withSlot, hlive', hlive]
    · rw [hwarp, slotOf_withSlot, hpark', hpark]
    · rw [hwarp, slotOf_withSlot, hmask', hmask]
    · rw [hwarp, slotOf_withSlot, hdepth', hdepth]
    · rw [hwarp, slotOf_withSlot_ne _ _ (otherSlot_ne hk), hother]
    · rw [hwarp, withSlot_ssn, hn]
  have hdone : pathsDone (withSlot y c.which Slot.free) = true := by
    cases hc : c.which with
    | handler => exact absurd hc hk
    | a =>
      rw [hc] at hother
      simp [pathsDone, withSlot, hn, show y.sb.live = false from hother, Slot.free]
    | b =>
      rw [hc] at hother
      simp [pathsDone, withSlot, hn, show y.sa.live = false from hother, Slot.free]
  show land (setWarp s c.w (withSlot y c.which sl)) (envOf s c)
    (stepOn (slotOf (warpAt (setWarp s c.w (withSlot y c.which sl)) c.w) c.which)) = _
  rw [hwarp, slotOf_withSlot, land_of_settle hk hsettle]
  show Except.ok (if pathsDone (warpAt (setWarp s c.w (withSlot y c.which Slot.free)) c.w) then _ else _) = _
  rw [hwarp, if_pos hdone]
  rfl

/-! ### exit (R103, R142, R309) -/

/-- A running path that loses the lanes that take part keeps everything else but its latches. -/
theorem cutSlot_takers {s : State} {c : Cur} {g : Guard} (hm : takers s c g ≠ 0) (hlive : (envOf s c).sl.live = true)
    (hpark : (envOf s c).sl.park = none) : cutSlot (envOf s c).sl (takers s c g) = { (envOf s c).sl with
      stale := true
      path := { (envOf s c).sl.path with mask := (envOf s c).sl.path.mask &&& ~~~ takers s c g } } := by
  have hlanes : (envOf s c).sl.path.mask &&& takers s c g = takers s c g := by
    unfold takers taking Env.mask
    rw [← BitVec.and_assoc, BitVec.and_self]
  have hstays : (if (envOf s c).sl.path.mask &&& ~~~ takers s c g = 0 then none else (envOf s c).sl.park) =
      (envOf s c).sl.park := by rw [hpark, ite_self]
  unfold cutSlot
  rw [if_pos ⟨hlive, by rwa [hlanes]⟩, hstays]

theorem slotOf_alive (x : Warp) (m : Mask) (k : Which) : slotOf { x with alive := m } k = slotOf x k := by
  cases k <;> rfl

/-- The warp in which the taking lanes of the issuing path have ended. -/
def lanesEnded (s : State) (c : Cur) (m : Mask) : Warp :=
  withSlot { warpAt s c.w with alive := (warpAt s c.w).alive &&& ~~~m } c.which (cutSlot (envOf s c).sl m)

section
variable {s : State} {c : Cur} {g : Guard}

theorem execExit_of_handler (hi : issuing s c = true) (hk : c.which = .handler) :
    execExit g s = .next (takeTrap s (envOf s c) 0 ⟨1, (envOf s c).mask, (envOf s c).pc.toNat, 0⟩) :=
  runInstr_ill (cur_of_issuing hi) (bne_eq_false_iff_eq.2 hk)

variable (hk : c.which ≠ .handler)
include hk

theorem execExit_of_no_takers (hp : plain s c = true) (hm : takers s c g = 0) : execExit g s = .next (stepped s c) :=
  runInstr_ok s _ c _ _ _ _ _ (issuing_of_plain hp) (bne_iff_ne.2 hk) rfl ((if_pos hm).trans (advance_self hp))

variable (hm : takers s c g ≠ 0)
include hm

/-- `exit` goes on in the warp in which its lanes have ended. -/
theorem execExit_of_advance {t : State} (hi : issuing s c = true) (hlive : (envOf s c).sl.live = true)
    (hpark : (envOf s c).sl.park = none)
    (ht : advance (setWarp s c.w (lanesEnded s c (takers s c g))) (envOf s c) = .ok t) : execExit g s = .next t := by
  unfold lanesEnded at ht
  rw [cutSlot_takers hm hlive hpark] at ht
  exact runInstr_ok s t c _ _ _ _ _ hi (bne_iff_ne.2 hk) rfl ((if_neg hm).trans ht)

theorem execExit_of_some_stay (hp : plain s c = true) (hsome : takers s c g ≠ (envOf s c).mask) :
    execExit g s = .next (stepped (setWarp s c.w (lanesEnded s c (takers s c g))) c) := by
  have hw := warp_lt_of_plain hp
  obtain ⟨hg, hl⟩ := goesTo_of_plain hp
  obtain ⟨hlive, hpark, -, hrj, ho, hpop⟩ := (goesTo_iff hk _).1 hg
  have hcut := cutSlot_takers hm hlive hpark
  have hwarp : warpAt (setWarp s c.w (lanesEnded s c (takers s c g))) c.w = lanesEnded s c (takers s c g) :=
    warpAt_setWarp _ _ _ hw
  have hpc : pcOf (setWarp s c.w (lanesEnded s c (takers s c g))) c = pcOf s c := by
    unfold pcOf
    rw [hwarp, lanesEnded, slotOf_withSlot, hcut]
    rfl
  refine execExit_of_advance hk hm (issuing_of_plain hp) hlive hpark (advance_goesTo ?_ ?_ ?_)
  · rw [setWarp_length]
    exact hw
  · rw [hpc]
    exact hl
  · rw [hpc, hwarp, goesTo_iff hk, lanesEnded, slotOf_withSlot, slotOf_withSlot_ne _ _ (otherSlot_ne hk), slotOf_alive,
      hcut]
    exact ⟨hlive, hpark, rest_ne_zero_of_takers_ne hsome, hrj, ho, by simpa using hpop⟩

theorem execExit_of_all_end (hi : issuing s c = true) (hall : takers s c g = (envOf s c).mask)
    (hlive : (envOf s c).sl.live = true) (hpark : (envOf s c).sl.park = none) (hdepth : (envOf s c).sl.path.depth = 0)
    (hother : (slotOf (warpAt s c.w) (otherSlot c.which)).live = false) (hn : (warpAt s c.w).ssn = 0) :
    execExit g s = .next (finishWarp (setWarp s c.w (withSlot
      { warpAt s c.w with alive := (warpAt s c.w).alive &&& ~~~ takers s c g } c.which Slot.free)) c.w) := by
  have hcut := cutSlot_takers hm hlive hpark
  have hnone : (envOf s c).mask &&& ~~~ takers s c g = 0 := by rw [hall, BitVec.and_not_self]
  refine execExit_of_advance hk hm hi hlive hpark (advance_of_last hk (warp_lt_of_issuing hi) ?_ ?_ ?_ ?_ ?_ hn)
  · rw [hcut]
    exact hlive
  · rw [hcut]
    exact hpark
  · rw [hcut]
    exact hnone
  · rw [hcut]
    exact hdepth
  · rw [slotOf_alive]
    exact hother

end

/-- Settles O15, by the path and the lanes that take part. -/
theorem exit : Obligations.Exit := fun _ _ _ hi =>
  ⟨fun hk => execExit_of_handler hi hk, fun hk hm hp => execExit_of_no_takers hk hp hm,
    fun hk hm hsome hp => execExit_of_some_stay hk hm hp hsome,
    fun hk hm hall hlive hpark hdepth hother hn => execExit_of_all_end hk hm hi hall hlive hpark hdepth hother hn⟩

/-! ### yield (R104, R171) -/

/-- Entry k of a warp's own is read where it stands (R139). -/
theorem entRead_of_lt {s : State} {fl : List (SubTile × Nat × Nat)} {w k : Nat} (hk : k < 4) :
    entRead s fl w k = .ok ((warpAt s w).ents.getD k 0) := if_pos hk

/-- Entry k of a warp's own is replaced where it stands (R139). -/
theorem entPut_of_lt {s : State} {fl : List (SubTile × Nat × Nat)} {w k : Nat} {e : BitVec 256} (hk : k < 4) :
    entPut s fl w k e = .ok (setWarp s w { warpAt s w with ents := (warpAt s w).ents.set k e }) := if_pos hk

theorem slotOf_ents (x : Warp) (es : List (BitVec 256)) (k : Which) : slotOf { x with ents := es } k = slotOf x k := by
  cases k <;> rfl

/-- A path that takes a slot beside a live one stays there, where neither arrives (R141). -/
theorem settle_exchanged {s : State} {w : Nat} {k : Which} {x : Warp} {p : Path} (hk : k ≠ .handler)
    (hw : w < s.warps.length) (harr : arrives (Slot.ofPath p) = false)
    (ho : arrives (slotOf x (otherSlot k)) = false) (hlive : (slotOf x (otherSlot k)).live = true) :
    settle (setSlot (setWarp s w x) w k (Slot.ofPath p)) w k = .ok (setWarp s w (withSlot x k (Slot.ofPath p))) := by
  have hset : setSlot (setWarp s w x) w k (Slot.ofPath p) = setWarp s w (withSlot x k (Slot.ofPath p)) := by
    rw [setSlot, warpAt_setWarp _ _ _ hw, setWarp_setWarp]
  obtain ⟨hmask, hrj⟩ := (arrives_ofPath_iff p).1 harr
  rw [hset]
  refine settle_stays _ w k hk ((goesTo_iff hk _).2 ?_)
  rw [warpAt_setWarp _ _ _ hw, slotOf_withSlot, slotOf_withSlot_ne _ _ (otherSlot_ne hk)]
  exact ⟨rfl, rfl, hmask, hrj, ho, .inl hlive⟩

section
variable {s : State} {c : Cur} {g : Guard} (hp : plain s c = true)
include hp

/-- A path that goes straight on does not reach its rejoin address by it. -/
theorem not_rejoins_of_plain (hk : c.which ≠ .handler) :
    ¬ (nextPc (envOf s c).pc = (envOf s c).sl.path.rjpc ∧ (envOf s c).sl.path.rjpc ≠ noRejoin) := by
  obtain ⟨-, -, -, hrj, -, -⟩ := (goesTo_iff hk _).1 (goesTo_of_plain hp).1
  exact fun ⟨h, hno⟩ => hrj.elim (fun hne => hne h) hno

/-- A path that steps aside goes straight on. -/
theorem advance_aside :
    advance (setSlot s c.w c.which { (envOf s c).sl with aside := true }) (envOf s c) =
      .ok (stepped (setSlot s c.w c.which { (envOf s c).sl with aside := true }) c) := by
  obtain ⟨hg, hl⟩ := goesTo_of_plain hp
  have hw := warp_lt_of_plain hp
  have hwarp : warpAt (setSlot s c.w c.which { (envOf s c).sl with aside := true }) c.w =
      withSlot (warpAt s c.w) c.which { (envOf s c).sl with aside := true } := warpAt_setWarp _ _ _ hw
  have hpc : pcOf (setSlot s c.w c.which { (envOf s c).sl with aside := true }) c = pcOf s c := by
    unfold pcOf
    rw [hwarp, slotOf_withSlot]
    rfl
  refine advance_goesTo (by rw [setSlot, setWarp_length]; exact hw) (by rw [hpc]; exact hl) ?_
  rw [hpc, hwarp]
  refine Eq.trans ?_ hg
  cases hc : c.which <;> simp only [envOf, hc] <;> rfl

theorem execYield_of_idle (h : takers s c g = 0 ∨ c.which = .handler) : execYield g s = .next (stepped s c) :=
  runInstr_ok s _ c _ _ _ _ _ (issuing_of_plain hp) rfl rfl ((if_pos h).trans (advance_self hp))

variable (hm : takers s c g ≠ 0) (hk : c.which ≠ .handler)
include hm hk

theorem execYield_of_no_entry (hn : (envOf s c).x.ssn = 0) :
    execYield g s = .next (stepped (setSlot s c.w c.which { (envOf s c).sl with aside := true }) c) :=
  runInstr_ok s _ c _ _ _ _ _ (issuing_of_plain hp) rfl rfl ((if_neg (not_or.2 ⟨hm, hk⟩)).trans
    ((if_neg (not_rejoins_of_plain hp hk)).trans ((if_pos hn).trans (advance_aside hp))))

variable {en : BitVec 256} (hn : (envOf s c).x.ssn ≠ 0)
  (hen : entRead s (envOf s c).sl.failed (envOf s c).w ((envOf s c).x.ssn - 1) = .ok en)
include hn hen

theorem execYield_of_malformed (hbad : entMalformed en = true) :
    execYield g s = .next (takeTrap s (envOf s c) 0 ⟨0x0B, takers s c g, (envOf s c).pc.toNat, 2⟩) := by
  refine runInstr_trap s c _ _ _ _ _ _ (issuing_of_plain hp) rfl rfl ((if_neg (not_or.2 ⟨hm, hk⟩)).trans
    ((if_neg (not_rejoins_of_plain hp hk)).trans ((if_neg hn).trans ?_)))
  simp only [hen]
  exact if_pos hbad

variable (hwf : entMalformed en = false)
include hwf

theorem execYield_of_join (hkind : entKind en ≠ 1) :
    execYield g s = .next (stepped (setSlot s c.w c.which { (envOf s c).sl with aside := true }) c) := by
  refine runInstr_ok s _ c _ _ _ _ _ (issuing_of_plain hp) rfl rfl ((if_neg (not_or.2 ⟨hm, hk⟩)).trans
    ((if_neg (not_rejoins_of_plain hp hk)).trans ((if_neg hn).trans ?_)))
  simp only [hen]
  exact (if_neg (by simp [hwf])).trans ((if_pos (.inl hkind)).trans (advance_aside hp))

/-- The path goes on the split stack, and the one on its top takes the slot. -/
theorem execYield_of_path (hkind : entKind en = 1) (hlow : (envOf s c).x.ssn ≤ 4)
    (harr : arrives (Slot.ofPath (entPath en)) = false) :
    execYield g s = .next (setWarp s c.w (withSlot { warpAt s c.w with
      ents := (warpAt s c.w).ents.set ((warpAt s c.w).ssn - 1)
        (entMake 1 0 { (envOf s c).sl.path with pc := nextPc (envOf s c).pc }) } c.which
      (Slot.ofPath (entPath en)))) := by
  have hlt : (warpAt s c.w).ssn - 1 < 4 := by
    have : (warpAt s c.w).ssn ≤ 4 := hlow
    omega
  have htop : (warpAt s c.w).ents.getD ((warpAt s c.w).ssn - 1) 0 = en :=
    Except.ok.inj ((entRead_of_lt hlt).symm.trans hen)
  have hlast : pcLast (envOf s c).pc = false := beq_eq_false_iff_ne.2 (goesTo_of_plain hp).2
  obtain ⟨-, -, -, -, ho, hpop⟩ := (goesTo_iff hk _).1 (goesTo_of_plain hp).1
  have hother : (slotOf (warpAt s c.w) (otherSlot c.which)).live = true :=
    hpop.resolve_right (fun h => h.elim hn (fun h => h.2 (htop ▸ hkind)))
  have hsettle := settle_exchanged hk (warp_lt_of_plain hp) harr (x := { warpAt s c.w with
    ents := (warpAt s c.w).ents.set ((warpAt s c.w).ssn - 1)
      (entMake 1 0 { (envOf s c).sl.path with pc := nextPc (envOf s c).pc }) })
    (by rw [slotOf_ents]; exact ho) (by rw [slotOf_ents]; exact hother)
  refine runInstr_ok s _ c _ _ _ _ _ (issuing_of_plain hp) rfl rfl ((if_neg (not_or.2 ⟨hm, hk⟩)).trans
    ((if_neg (not_rejoins_of_plain hp hk)).trans ((if_neg hn).trans ?_)))
  simp only [hen]
  refine (if_neg (by simp [hwf])).trans ((if_neg (by simp [hkind, hlast])).trans ?_)
  rw [show entPut s (envOf s c).sl.failed (envOf s c).w ((envOf s c).x.ssn - 1) _ = _ from entPut_of_lt hlt]
  exact congrArg (orStop (envOf s c)) hsettle

end

/-! ### pyield (R335) -/

/-- A meaning whose body parks leaves its path parked (R146). -/
theorem runInstr_park {s t : State} {c : Cur} {fs : Nat} {ill priv : Env → Bool} {g : Guard}
    {body : Env → Except Stop State} {p : Park} (h : issuing s c = true) (hi : ill (envOf s c) = true)
    (hp : priv (envOf s c) = false) (hb : body (envOf s c) = .error (.park p t)) (hord : p ≠ .reissue .order) :
    runInstr s fs ill priv g body = .next (parkPath t c.w c.which p) := by
  simp only [issuing, Bool.and_eq_true, beq_iff_eq, Option.isNone_iff_eq_none] at h
  obtain ⟨⟨⟨hc, -⟩, -⟩, hd⟩ := h
  unfold runInstr
  simp only [hc, hi, hp, show dueMark (envOf s c).sl = none from hd, hb, Bool.not_true, Bool.false_eq_true, if_false]
  rfl

theorem stepOn_of_plain {s : State} {c : Cur} (hp : plain s c = true) : stepOn (envOf s c).sl =
    { (envOf s c).sl with path := { (envOf s c).sl.path with pc := nextPc (envOf s c).pc }, turned := none } := by
  have hl : pcLast (envOf s c).sl.path.pc = false := beq_eq_false_iff_ne.2 (goesTo_of_plain hp).2
  unfold stepOn
  rw [hl]
  rfl

/-- A path that parks at its next instruction (R146). -/
theorem parkPath_of_plain {s : State} {c : Cur} {p : Park} (hp : plain s c = true) (h : parkAdvances p = true) :
    parkPath s c.w c.which p = setSlot s c.w c.which { (envOf s c).sl with
      park := some p, path := { (envOf s c).sl.path with pc := nextPc (envOf s c).pc }, turned := none } := by
  unfold parkPath
  simp only [h, if_true]
  exact congrArg (fun sl => setSlot s c.w c.which { sl with park := some p }) (stepOn_of_plain hp)

section
variable {s : State} {c : Cur} {g : Guard} {dead : BitVec 3}

theorem not_idle_of_user (hm : takers s c g ≠ 0) (hu : (envOf s c).x.mode = .user) :
    ¬ (takers s c g = 0 ∨ (envOf s c).sup = true) :=
  not_or.2 ⟨hm, by rw [sup_of_user hu]; exact Bool.false_ne_true⟩

variable (hp : plain s c = true)
include hp

theorem execPyield_of_idle (h : takers s c g = 0 ∨ (envOf s c).x.mode = .supervisor) :
    execPyield g dead s = .next (stepped s c) := by
  have hidle : takers s c g = 0 ∨ (envOf s c).sup = true := h.imp_right (fun h => by simp [Env.sup, h])
  exact runInstr_ok s _ c _ _ _ _ _ (issuing_of_plain hp) rfl rfl ((if_pos hidle).trans (advance_self hp))

variable (hm : takers s c g ≠ 0) (hu : (envOf s c).x.mode = .user)
include hm hu

theorem execPyield_of_other_lanes (ho : outside (envOf s c) ≠ 0) :
    execPyield g dead s =
      .next (takeTrap s (envOf s c) 0 ⟨0x0A, outside (envOf s c), (envOf s c).pc.toNat, 0⟩) :=
  runInstr_trap s c _ _ _ _ _ _ (issuing_of_plain hp) rfl rfl
    ((if_neg (not_idle_of_user hm hu)).trans (if_pos ho))

variable (ho : outside (envOf s c) = 0)
include ho

theorem execPyield_of_not_requested (hq : (envOf s c).cr.req = none) : execPyield g dead s = .next (stepped s c) :=
  runInstr_ok s _ c _ _ _ _ _ (issuing_of_plain hp) rfl rfl ((if_neg (not_idle_of_user hm hu)).trans
    ((if_neg (not_not.2 ho)).trans ((if_neg (by simp [hq])).trans (advance_self hp))))

theorem execPyield_of_requested (hq : (envOf s c).cr.req ≠ none) :
    execPyield g dead s = .next (setSlot s c.w c.which { (envOf s c).sl with
      park := some (.pyield dead), path := { (envOf s c).sl.path with pc := nextPc (envOf s c).pc }, turned := none }) := by
  have hsome : (envOf s c).cr.req.isSome = true := Option.isSome_iff_ne_none.2 hq
  refine (runInstr_park (p := .pyield dead) (t := s) (issuing_of_plain hp) rfl rfl ((if_neg (not_idle_of_user hm hu)).trans
    ((if_neg (not_not.2 ho)).trans (if_pos hsome))) nofun).trans ?_
  rw [parkPath_of_plain hp rfl]

end

/-- Settles O24: `yield` by the top of the split stack, `pyield` by the mode, the lanes and the request. -/
theorem yields : Obligations.Yields := by
  constructor
  · intro g s c e x n top hp
    refine ⟨fun h => execYield_of_idle hp h, fun hm hk h => ?_, fun en hm hk h1 hen hbad =>
      execYield_of_malformed hp hm hk (Nat.one_le_iff_ne_zero.1 h1) hen hbad, fun hm hk h1 h4 hwf hkind harr =>
      execYield_of_path hp hm hk (Nat.one_le_iff_ne_zero.1 h1) (entRead_of_lt (show n - 1 < 4 by omega)) hwf hkind h4
        harr⟩
    by_cases hn : n = 0
    · exact execYield_of_no_entry hp hm hk hn
    · obtain ⟨h4, hwf, hkind⟩ := h.resolve_left hn
      exact execYield_of_join hp hm hk hn (entRead_of_lt (show n - 1 < 4 by omega)) hwf hkind
  · intro g dead s c e m hp
    exact ⟨fun h => execPyield_of_idle hp h, fun hm hu ho hq => execPyield_of_not_requested hp hm hu ho hq,
      fun hm hu ho hq => execPyield_of_requested hp hm hu ho hq, fun hm hu ho => execPyield_of_other_lanes hp hm hu ho⟩

end Sys2Proof.Machine

/-! ## Hints, fences and profiling events (R88, R160, R161, R255, R274, R275) -/

namespace Sys2Proof.Machine

/-! ### Instructions that only go on (R88, R255, R274) -/

theorem exec_hintForm {i : Instr} {g : Guard} {srcs : List Src} (h : hintForm i = some (g, srcs)) {s : State} {c : Cur}
    (hp : plain s c = true) (hr : regsOk srcs (envOf s c) = true) : exec i s = .next (stepped s c) := by
  unfold hintForm at h
  split at h
  case h_1 => exact runInstr_ok s _ c _ (fun _ => true) anyMode _ _ (issuing_of_plain hp) rfl rfl (advance_self hp)
  case h_2 =>
    cases h
    exact runInstr_ok s _ c _ _ _ _ _ (issuing_of_plain hp) hr rfl (advance_self hp)
  case h_3 => exact runInstr_ok s _ c _ (fun _ => true) anyMode _ _ (issuing_of_plain hp) rfl rfl (advance_self hp)
  case h_4 => cases h

/-- Where what an instruction has done leaves the warps as they were after its sources were read, it goes straight on. -/
theorem advance_of_warps {s s1 t : State} {c : Cur} (hp : plain s c = true) (hlen : s1.warps.length = s.warps.length)
    (hpaths : samePaths (warpAt s c.w) (warpAt s1 c.w)) (ht : t.warps = s1.warps) :
    advance t (envOf s c) = .ok (stepped t c) := by
  have hwarp : warpAt t c.w = warpAt s1 c.w := by rw [warpAt, ht, warpAt]
  exact advance_same s t c hp (by rw [ht, hlen]) (by rwa [hwarp])

/-! ### fencex (R275) -/

theorem revealed_sublist (hit : Hidden → Bool) (hs : List Hidden) : (revealed hit hs).Sublist hs := by
  induction hs with
  | nil => exact List.Sublist.refl _
  | cons h hs ih =>
    unfold revealed
    split
    · exact ih.cons h
    · exact ih.cons_cons h

/-- No write that is to be seen stays hidden. -/
theorem not_hit_of_mem_revealed {hit : Hidden → Bool} {h : Hidden} {hs : List Hidden} (hm : h ∈ revealed hit hs) :
    hit h = false := by
  induction hs with
  | nil => cases hm
  | cons k ks ih =>
    unfold revealed at hm
    split at hm
    · exact ih hm
    · next hk =>
      obtain rfl | hm := List.mem_cons.1 hm
      · exact Bool.eq_false_iff.2 (fun ht => hk (by rw [ht, Bool.true_or]))
      · exact ih hm

/-- A `fencex` changes what the TO paths see, and through which accesses the other paths' hidden writes are known. -/
theorem seesThrough_fenceViews (s : State) (src dst : PathSet) (mine : Nat → Bool) (w : Nat) :
    seesThrough s (fenceViews s src dst mine w) src dst mine := by
  refine ⟨rfl, ?_, fun i v u hv hu => ?_⟩
  · simp only [fenceViews, List.map_map]
    refine List.map_congr_left (fun v _ => ?_)
    simp only [Function.comp_apply]
    split <;> rfl
  · simp only [fenceViews, List.getElem?_map, hv, Option.map_some, Option.some.injEq] at hu
    subst hu
    constructor
    · intro hto
      rw [if_pos hto]
      refine ⟨revealed_sublist _ _, fun h hh x hx hsrc => ?_⟩
      have hnot := not_hit_of_mem_revealed hh
      simp only [List.any_eq_false, Bool.and_eq_true, not_and, Bool.not_eq_true] at hnot
      exact hnot x hx hsrc
    · intro hother
      rw [if_neg (by simp [hother])]
      simp only [List.map_map]
      refine List.map_congr_left (fun h _ => ?_)
      simp only [Function.comp_apply]
      split <;> rfl

section
variable {s : State} {c : Cur} {g : Guard} (scp : Scope) (src dst : PathSet) (hp : plain s c = true)
include hp

theorem execFencex_of_no_takers (hm : takers s c g = 0) : execFencex g scp src dst s = .next (stepped s c) :=
  runInstr_ok s _ c _ _ _ _ _ (issuing_of_plain hp) rfl rfl ((if_pos hm).trans (advance_self hp))

theorem execFencex_of_takers (hm : takers s c g ≠ 0) : execFencex g scp src dst s =
    .next (stepped (fenceViews s src dst (inScope s scp c.w) c.w) c) :=
  runInstr_ok s _ c _ _ _ _ _ (issuing_of_plain hp) rfl rfl ((if_neg hm).trans
    (advance_of_warps hp rfl (samePaths_refl _) (fenceViews_warps s src dst _ c.w)))

end

/-! ### prof (R160, R161) -/

theorem ringFull_iff (x : Ctx) (w k lg : Nat) :
    ringFull w (csrN x k) lg = true ↔ (w + 2 ^ 32 - csrN x k) % 2 ^ 32 = 2 ^ lg := by
  rw [ringFull, Nat.mod_eq_of_lt (a := csrN x k) (BitVec.isLt _), beq_iff_eq]

theorem becameHalf_iff (used lg : Nat) :
    becameHalf used lg = true ↔ 2 ^ lg ≤ 2 * used ∧ 2 * (used - 1) < 2 ^ lg := by
  rw [becameHalf, Bool.and_eq_true, decide_eq_true_eq, decide_eq_true_eq, Nat.mul_comm used, Nat.mul_comm (used - 1)]

/-- `s` with an event in the ring and the write index advanced. -/
def profWritten (s : State) (e : Env) (x : Ctx) (ev : Nat) : State :=
  ctxPut (physPut s (bits (csrPair x 0x060) 0 56 + 16 * (csrN x 0x063 % 2 ^ bits (csrN x 0x062) 0 5)) 16 ev) e.cr.ctx
    (setCsr { x with profLost := false } 0x063 (csrN x 0x063 + 1))

theorem profWritten_warps (s : State) (e : Env) (x : Ctx) (ev : Nat) : (profWritten s e x ev).warps = s.warps := by
  simp [profWritten]

section
variable {s s1 : State} {c : Cur} {g : Guard} {code : BitVec 8} {a : Opnd} {val : Nat} {x : Ctx}

theorem takers_ne_zero_of_profReads (h : profReads s c g a s1 val) : takers s c g ≠ 0 := by
  obtain ⟨v, l, hl, -, -⟩ | ⟨-, hm, -, -⟩ := h
  · exact takers_ne_zero_of_lowest hl
  · exact hm

theorem prof_not_idle (hv : profReads s c g a s1 val) (hon : bits (csrN x 0x062) 8 1 = 1) :
    ¬ (takers s c g = 0 ∨ bits (csrN x 0x062) 8 1 = 0) :=
  not_or.2 ⟨takers_ne_zero_of_profReads hv, by rw [hon]; exact one_ne_zero⟩

theorem profOperand_of_profReads (h : profReads s c g a s1 val) :
    profOperand s (envOf s c) (takers s c g) a = (s1, val) := by
  unfold profOperand
  obtain ⟨v, l, hl, hs, hval⟩ | ⟨⟨r, hs⟩, -, hs1, hval⟩ := h
  · rw [hs, hval]
    simp only [warpValue_of_lowest hl]
  · rw [hs, hs1, hval]

variable (hp : plain s c = true)
include hp

theorem samePaths_of_profReads (h : profReads s c g a s1 val) :
    s1.warps.length = s.warps.length ∧ samePaths (warpAt s c.w) (warpAt s1 c.w) := by
  obtain ⟨v, l, -, hs, -⟩ | ⟨-, -, hs1, -⟩ := h
  · obtain ⟨hlen, hpaths, -, -⟩ := readSrcs_same s s1 c _ _ _ _ v hp hs
    exact ⟨hlen, hpaths⟩
  · rw [hs1]
    exact ⟨rfl, samePaths_refl _⟩

variable (hr : regsOk [(a, 1)] (envOf s c) = true) (hx : ctxGet s (envOf s c).cr.ctx = some x)
include hr hx

theorem execProf_of_idle (h : takers s c g = 0 ∨ bits (csrN x 0x062) 8 1 = 0) :
    execProf g code a s = .next (stepped s c) := by
  refine runInstr_ok s _ c _ _ _ _ _ (issuing_of_plain hp) hr rfl ?_
  simp only [hx]
  exact (if_pos h).trans (advance_self hp)

variable (hv : profReads s c g a s1 val) (hon : bits (csrN x 0x062) 8 1 = 1)
include hv hon

theorem execProf_of_full (hfull : ringFull (csrN x 0x063) (csrN x 0x064) (bits (csrN x 0x062) 0 5) = true) :
    execProf g code a s = .next (stepped (ctxPut s1 (envOf s c).cr.ctx { x with profLost := true }) c) := by
  obtain ⟨hlen, hpaths⟩ := samePaths_of_profReads hp hv
  refine runInstr_ok s _ c _ _ _ _ _ (issuing_of_plain hp) hr rfl ?_
  simp only [hx, show taking (envOf s c) g = takers s c g from rfl, profOperand_of_profReads hv]
  exact (if_neg (prof_not_idle hv hon)).trans ((if_pos hfull).trans
    (advance_of_warps hp hlen hpaths (ctxPut_warps _ _ _)))

theorem execProf_of_room (hroom : ringFull (csrN x 0x063) (csrN x 0x064) (bits (csrN x 0x062) 0 5) = false) :
    let t := profWritten s1 (envOf s c) x (profEvent s1 (envOf s c) code.toNat val x.profLost)
    execProf g code a s = .next (stepped (if becameHalf ((csrN x 0x063 + 1 + 2 ^ 32 - csrN x 0x064) % 2 ^ 32)
      (bits (csrN x 0x062) 0 5) then raiseMsix t (ctxFunc t (envOf s c).cr.ctx) 5 else t) c) := by
  intro t
  obtain ⟨hlen, hpaths⟩ := samePaths_of_profReads hp hv
  have hwarps : (if becameHalf ((csrN x 0x063 + 1 + 2 ^ 32 - csrN x 0x064) % 2 ^ 32) (bits (csrN x 0x062) 0 5) then
      raiseMsix t (ctxFunc t (envOf s c).cr.ctx) 5 else t).warps = s1.warps := by
    rw [apply_ite State.warps, raiseMsix_warps, ite_self]
    exact profWritten_warps _ _ _ _
  refine runInstr_ok s _ c _ _ _ _ _ (issuing_of_plain hp) hr rfl ?_
  simp only [hx, show taking (envOf s c) g = takers s c g from rfl, profOperand_of_profReads hv]
  exact (if_neg (prof_not_idle hv hon)).trans ((if_neg (by simp [hroom])).trans
    (advance_of_warps hp hlen hpaths hwarps))

end

/-- Settles O11: hints go on, `fencex` by the lanes that take part, `prof` by its ring. -/
theorem hintsAndProfiling : Obligations.HintsAndProfiling := by
  refine ⟨fun i g srcs h s c hp hr => exec_hintForm h hp hr, fun g scp src dst s c hp =>
    ⟨fun hm => execFencex_of_no_takers scp src dst hp hm, fun hm => ⟨_, seesThrough_fenceViews s src dst _ c.w,
      execFencex_of_takers scp src dst hp hm⟩⟩, ?_⟩
  intro g code a s c s1 val x e w n used hp hr hx
  refine ⟨fun h => execProf_of_idle hp hr hx h,
    fun hv hon hfull => execProf_of_full hp hr hx hv hon ((ringFull_iff x _ _ _).2 hfull), fun hv hon hroom => ?_⟩
  intro ev t held
  refine (execProf_of_room hp hr hx hv hon (Bool.eq_false_iff.2 (fun h => hroom ((ringFull_iff x _ _ _).1 h)))).trans ?_
  simp only [becameHalf_iff]
  rfl

end Sys2Proof.Machine

/-! ## Reads of the state (R127, R158, R170, R381) -/

namespace Sys2Proof.Machine

/-- Settles O6: a read has no sources, so it ends with its table's value of the state that it finds, which for the special
registers is `specialReg_eq`. -/
theorem stateReads : Obligations.StateReads := fun i r h =>
  completesWith_of_finishesWith (finishesWith_stateResult i r h)

end Sys2Proof.Machine

/-! ## What resuming a path leaves as it is (R141, R146, R245) -/

namespace Sys2Proof.Machine

/-! ### Units that leave the crews as they are -/

@[simp] theorem hideWrite_crews (s : State) (by_ : Option (ℕ × ℕ)) (rs : List (ℕ × ℕ)) :
    (hideWrite s by_ rs).crews = s.crews := by
  unfold hideWrite; split <;> rfl

@[simp] theorem physPut_crews (s : State) (pa n x : ℕ) : (physPut s pa n x).crews = s.crews := by
  unfold physPut; split <;> simp

@[simp] theorem raiseMsix_crews (s : State) (fn vec : ℕ) : (raiseMsix s fn vec).crews = s.crews := by
  unfold raiseMsix; split <;> rfl

@[simp] theorem dirtyLog_crews (s : State) (t : SubTile) : (dirtyLog s t).crews = s.crews := by
  unfold dirtyLog
  split
  · rfl
  · split
    · rfl
    · simp +zeta only [apply_ite State.crews, raiseMsix_crews, ctxPut_crews, physPut_crews, ite_self]

@[simp] theorem markDirty_crews (s : State) (ctx obj : ℕ) (r : Rec) (sub rep : ℕ) :
    (markDirty s ctx obj r sub rep).crews = s.crews := by
  unfold markDirty; (repeat' split) <;> simp

@[simp] theorem storeLoc_crews (s : State) (by_ : Option (ℕ × ℕ)) (ctx : ℕ) (l : Loc) (ps : List Piece) (x : ℕ) :
    (storeLoc s by_ ctx l ps x).crews = s.crews := by
  have hdirty : (markDirtyLoc s ctx l).crews = s.crews := by
    unfold markDirtyLoc
    split
    · rfl
    · exact foldl_same State.crews _ (fun s _ => foldl_same State.crews _ (fun s _ => markDirty_crews s ..) _ s) _ s
  unfold storeLoc
  simp [hdirty]

@[simp] theorem sendReq_crews (s : State) (w : Owner) (r : FabReq) : (sendReq s w r).crews = s.crews := by
  unfold sendReq
  dsimp only
  split <;> simp

@[simp] theorem sendMissing_crews (s : State) (w : Owner) (rs : List FabReq) :
    (sendMissing s w rs).crews = s.crews := by
  refine foldl_same State.crews _ (fun s r => ?_) rs s
  split <;> simp

@[simp] theorem fetchSet_crews (s : State) (w : Owner) (ls : List LineRef) :
    (fetchSet s w ls).2.crews = s.crews := by
  unfold fetchSet
  dsimp only
  split <;> simp

@[simp] theorem askInvalidate_crews (s : State) (line : ℕ) (ds : List ℕ) (req : FabReq) (atom : Bool) (r : Rec)
    (frames : List (ℕ × ℕ)) : (askInvalidate s line ds req atom r frames).crews = s.crews := by
  unfold askInvalidate
  dsimp only
  split
  · refine foldl_same State.crews _ (fun s leaf => ?_) _ s
    split <;> rfl
  · exact foldl_same State.crews (fun s d => sendNext s _ 4 d _ _ _ _) (fun s d => rfl) ds s

@[simp] theorem clearPeers_crews (s : State) (ls : List LineRef) : (clearPeers s ls).2.crews = s.crews := by
  unfold clearPeers
  split
  · rfl
  · refine foldl_same (fun r : Bool × State => r.2.crews) _ (fun r q => ?_) ls (true, s)
    dsimp only
    split
    · rfl
    · split
      · rfl
      · split
        · rfl
        · exact askInvalidate_crews ..

/-! ### The one warp that an operation on paths changes -/

/-- `t` differs from `s` in no crew, and in no warp but w. -/
def onlyWarp (w : Nat) (s t : State) : Prop :=
  t.crews = s.crews ∧ t.warps.length = s.warps.length ∧ ∀ v ≠ w, warpAt t v = warpAt s v

variable {w : Nat} {s t u : State}

theorem onlyWarp_refl : onlyWarp w s s := ⟨rfl, rfl, fun _ _ => rfl⟩

theorem onlyWarp_trans (h : onlyWarp w s t) (k : onlyWarp w t u) : onlyWarp w s u := by
  obtain ⟨hc, hl, hw⟩ := h
  obtain ⟨kc, kl, kw⟩ := k
  exact ⟨kc.trans hc, kl.trans hl, fun v hv => (kw v hv).trans (hw v hv)⟩

theorem onlyWarp_setWarp (x : Warp) : onlyWarp w s (setWarp s w x) :=
  ⟨rfl, setWarp_length _ _ _, fun _ hv => warpAt_setWarp_ne _ _ hv.symm⟩

theorem onlyWarp_setSlot (k : Which) (sl : Slot) : onlyWarp w s (setSlot s w k sl) := onlyWarp_setWarp _

theorem onlyWarp_of_eq (hw : t.warps = s.warps) (hc : t.crews = s.crews) : onlyWarp w s t :=
  ⟨hc, by rw [hw], fun v _ => by unfold warpAt; rw [hw]⟩

/-- Entries in memory are no part of the warps or the crews (R139). -/
theorem onlyMemory_of_entPut {fl : List (SubTile × Nat × Nat)} {k : Nat} {e : BitVec 256} (hk : 4 ≤ k)
    (h : entPut s fl w k e = .ok t) : t.warps = s.warps ∧ t.crews = s.crews := by
  unfold entPut at h
  rw [if_neg (show ¬ k < 4 by omega)] at h
  dsimp only at h
  split at h
  · cases h
  · split at h
    · cases h
    · cases h
      constructor
      · rw [foldl_same State.warps _ (fun s r => sendReq_warps s _ r), storeLoc_warps]
      · rw [foldl_same State.crews _ (fun s r => sendReq_crews s _ r), storeLoc_crews]

theorem onlyWarp_entPut {fl : List (SubTile × Nat × Nat)} {k : Nat} {e : BitVec 256} (h : entPut s fl w k e = .ok t) :
    onlyWarp w s t := by
  by_cases hk : k < 4
  · unfold entPut at h
    rw [if_pos hk] at h
    cases h
    exact onlyWarp_setWarp _
  · obtain ⟨hw, hc⟩ := onlyMemory_of_entPut (by omega) h
    exact onlyWarp_of_eq hw hc

theorem onlyWarp_arriveAt {fl : List (SubTile × Nat × Nat)} {k : Which} (h : arriveAt s fl w k = .ok t) :
    onlyWarp w s t := by
  unfold arriveAt at h
  dsimp only at h
  split at h
  · cases h
    exact onlyWarp_setSlot _ _
  · split at h
    · cases h
    · split at h
      · cases h
      · split at h
        · cases h
          exact onlyWarp_trans (onlyWarp_trans (onlyWarp_setSlot _ _) (onlyWarp_setWarp _)) (onlyWarp_setSlot _ _)
        · exact onlyWarp_trans (onlyWarp_setSlot _ _) (onlyWarp_entPut h)

theorem onlyWarp_popInto {fl : List (SubTile × Nat × Nat)} {k : Which} (h : popInto s fl w k = .ok (some t)) :
    onlyWarp w s t := by
  unfold popInto at h
  dsimp only at h
  (repeat' split at h) <;> cases h
  exact onlyWarp_trans (onlyWarp_setWarp _) (onlyWarp_setSlot _ _)

theorem onlyWarp_settlePaths {fl : List (SubTile × Nat × Nat)} {k : Which} {f : Nat}
    (h : settlePaths f s fl w k = .ok t) : onlyWarp w s t := by
  induction f generalizing s with
  | zero => cases h; exact onlyWarp_refl
  | succ f ih =>
    have arrived : ∀ j, (arriveAt s fl w j).bind (fun s => settlePaths f s fl w k) = .ok t → onlyWarp w s t := by
      intro j hj
      cases hu : arriveAt s fl w j with
      | error x => rw [hu] at hj; cases hj
      | ok u => rw [hu] at hj; exact onlyWarp_trans (onlyWarp_arriveAt hu) (ih hj)
    unfold settlePaths at h
    dsimp only at h
    split at h
    · exact arrived _ h
    · split at h
      · exact arrived _ h
      · split at h
        · cases h
        · cases h
          exact onlyWarp_refl
        · rename_i u hu
          refine onlyWarp_trans ?_ (ih h)
          split at hu
          · exact onlyWarp_popInto hu
          · split at hu
            · exact onlyWarp_popInto hu
            · cases hu

theorem onlyWarp_fetchSet {ls : List LineRef} {r : Option (List (LineRef × Nat))} {o : Owner}
    (h : fetchSet s o ls = (r, t)) : onlyWarp w s t := by
  rw [show t = (fetchSet s o ls).2 by rw [h]]
  exact onlyWarp_of_eq (fetchSet_warps ..) (fetchSet_crews ..)

/-- Resuming a path changes no crew, and no other warp (R146). -/
theorem onlyWarp_resumeSlot (s : State) (w : Nat) (k : Which) : onlyWarp w s (resumeSlot s w k) := by
  unfold resumeSlot
  dsimp only
  split
  · exact onlyWarp_setSlot _ _
  · split
    · rename_i h
      exact onlyWarp_trans (onlyWarp_setSlot _ _) (onlyWarp_settlePaths h)
    · exact onlyWarp_setSlot _ _
    · exact onlyWarp_trans (onlyWarp_setSlot _ _) (onlyWarp_of_eq rfl rfl)
    · split <;> rename_i hf <;> exact onlyWarp_trans (onlyWarp_fetchSet hf) (onlyWarp_setSlot _ _)
    · exact onlyWarp_trans (onlyWarp_of_eq (clearPeers_warps ..) (clearPeers_crews ..)) (onlyWarp_setSlot _ _)

/-- Resuming waiting paths changes no crew. -/
@[simp] theorem wakeWhere_crews (s : State) (ws : List Nat) (p : Park → Bool) : (wakeWhere s ws p).crews = s.crews := by
  refine foldl_same State.crews _ (fun s w => foldl_same State.crews _ (fun s k => ?_) _ s) ws s
  split
  · dsimp only
    split
    · exact (onlyWarp_resumeSlot s w k).1
    · rfl
  · rfl

@[simp] theorem crewAt_wakeWhere (s : State) (ws : List Nat) (p : Park → Bool) (c : Nat) :
    crewAt (wakeWhere s ws p) c = crewAt s c := by
  unfold crewAt
  rw [wakeWhere_crews]

end Sys2Proof.Machine

/-! ## Instructions that read a warp value, and waits (R146, R153) -/

namespace Sys2Proof.Machine

/-! ### Bodies, parks and results of the issuing path -/

theorem warpValue_eq_getD {m : Mask} {l : Nat} (hl : lowest m = some l) (v : Nat → List Nat) (k : Nat) :
    warpValue m v k = (v l).getD k 0 := by
  unfold warpValue
  rw [hl]

theorem mask_ne_zero_of_lowest {m : Mask} {l : Nat} (hl : lowest m = some l) : m ≠ 0 := fun h => by
  rw [(lowest_eq_none _).2 h] at hl
  cases hl

theorem slotOf_of_samePaths {x y : Warp} (h : samePaths x y) (k : Which) : slotOf y k = slotOf x k := by
  obtain ⟨ha, hb, hh, -, -⟩ := h
  cases k <;> simp only [slotOf, ha, hb, hh]

theorem pcOf_of_samePaths {s t : State} {c : Cur} (h : samePaths (warpAt s c.w) (warpAt t c.w)) :
    pcOf t c = pcOf s c := by
  unfold pcOf
  rw [slotOf_of_samePaths h]

/-- A path that parks for its next instruction has its PC there already (R146). -/
theorem parkPath_waiting {t : State} {c : Cur} {p : Park} (hl : bits (pcOf t c).toNat 0 42 ≠ 2 ^ 42 - 8)
    (h : parkAdvances p = true) : parkPath t c.w c.which p = waiting t c p := by
  have hlast : pcLast (slotOf (warpAt t c.w) c.which).path.pc = false := beq_eq_false_iff_ne.2 hl
  unfold parkPath waiting stepOn
  simp only [h, if_true, hlast, Bool.false_eq_true, if_false]
  rfl

/-- A path that parks for the instruction that it issues keeps its PC (R146). -/
theorem parkPath_retrying {t : State} {c : Cur} {p : Park} (h : parkAdvances p = false) :
    parkPath t c.w c.which p = retrying t c p := by
  unfold parkPath retrying
  simp only [h, Bool.false_eq_true, if_false]

/-- A path that stands where it stood goes straight on. -/
theorem advance_of_unmoved {s t : State} {c : Cur} (h : unmoved s t c) :
    advance t (envOf s c) = .ok (stepped t c) := by
  obtain ⟨hp, -, -⟩ := h
  obtain ⟨hg, hl⟩ := goesTo_of_plain hp
  exact advance_goesTo (warp_lt_of_plain hp) hl hg

/-- A path that stands where it stood writes its result and goes straight on. -/
theorem finish_of_unmoved {s t : State} {c : Cur} (h : unmoved s t c) {hd : Hdr} {d : Opnd} (hq : ∀ n, d ≠ .q n)
    (m : Mask) (k : Nat) (val : Nat → Nat) : finish t (envOf s c) hd d m k val = .ok (wrote t c hd d m k val) := by
  obtain ⟨hp, -, -⟩ := h
  obtain ⟨hg, hl⟩ := goesTo_of_plain hp
  have hw := warp_lt_of_plain hp
  have hpaths : samePaths (warpAt t c.w) (warpAt (setWarp t c.w (writeDest (warpAt t c.w) ⟨hd, d, m⟩ k val)) c.w) := by
    rw [warpAt_setWarp _ _ _ hw]
    exact ⟨writeDest_sa .., writeDest_sb .., writeDest_hdl .., writeDest_ssn .., writeDest_ents ..⟩
  have key : advance (setWarp t c.w (writeDest (warpAt t c.w) ⟨hd, d, m⟩ k val)) (envOf s c) =
      .ok (wrote t c hd d m k val) := by
    refine advance_goesTo (by rw [setWarp_length]; exact hw) (by rwa [pcOf_of_samePaths hpaths]) ?_
    rw [pcOf_of_samePaths hpaths]
    obtain ⟨ha, hb, -, hn, he⟩ := hpaths
    exact (goesTo_congr _ _ _ _ ha hb hn he).trans hg
  cases d with
  | q n => exact absurd rfl (hq n)
  | v _ => exact key
  | s _ => exact key
  | b _ => exact key
  | z => exact key
  | lid => exact key

/-! ### What reading sources leaves of the crew -/

theorem popEach_crew {x y : Warp} {cr cr' : Crew} {ns : List Nat} {hs : List (List Word)}
    (h : popEach x cr ns = some (hs, y, cr')) : ∃ cs, cr' = { cr with chans := cs } := by
  induction ns generalizing x cr hs with
  | nil =>
    simp only [popEach, Option.some.injEq, Prod.mk.injEq] at h
    exact ⟨cr.chans, h.2.2.symm⟩
  | cons n ns ih =>
    simp only [popEach] at h
    split at h
    · cases h
    · rename_i hone
      split at h
      · cases h
      · rename_i hrest
        simp only [Option.some.injEq, Prod.mk.injEq] at h
        obtain ⟨-, rfl, rfl⟩ := h
        obtain ⟨cs, hcs⟩ := ih hrest
        refine ⟨cs, ?_⟩
        split at hone
        · split at hone
          · cases hone
          · simp only [Option.some.injEq, Prod.mk.injEq] at hone
            rw [hcs, ← hone.2.2]
        · split at hone
          · cases hone
          · simp only [Option.some.injEq, Prod.mk.injEq] at hone
            rw [hcs, hone.2.2]

/-- Reading sources changes nothing of the warp's crew but its channels. -/
theorem readSrcs_crew {s s1 : State} {c : Cur} {m : Mask} {srcs : List Src} {dst : Option Opnd} {push : Bool}
    {v : Nat → List Nat} (hc : (warpAt s c.w).crew < s.crews.length)
    (h : readSrcs s (envOf s c) m srcs dst push = .ok (s1, v)) :
    s1.crews.length = s.crews.length ∧ ∃ cs, crewAt s1 (envOf s c).c = { (envOf s c).cr with chans := cs } := by
  unfold readSrcs at h
  simp only at h
  split at h
  · rw [← (Prod.mk.inj (Except.ok.inj h)).1]
    exact ⟨rfl, _, rfl⟩
  · split at h
    · cases h
    · split at h
      · cases h
      · split at h
        · cases h
        · rename_i hpop
          split at h
          · cases h
          · rw [← (Prod.mk.inj (Except.ok.inj h)).1]
            split
            · exact ⟨rfl, _, rfl⟩
            · obtain ⟨cs, hcs⟩ := popEach_crew hpop
              refine ⟨by rw [setCrew_length, setWarp_crews], cs, ?_⟩
              rw [crewAt_setCrew _ _ _ (by rw [setWarp_crews]; exact hc), hcs]

/-! ### What `given` says -/

section
variable {s s1 : State} {c : Cur} {g : Guard} {ds srcs : List Src} {dst : Option Opnd} {push : Bool} {a : Nat → Nat}
  (h : given s c g ds srcs dst push s1 a)
include h

theorem plain_of_given : plain s c = true := h.1
theorem issuing_of_given : issuing s c = true := issuing_of_plain h.1
theorem regsOk_of_given : regsOk (ds ++ srcs) (envOf s c) = true := h.2.1

theorem crews_of_given : s1.crews.length = s.crews.length ∧
    ∃ cs, crewAt s1 (envOf s c).c = { (envOf s c).cr with chans := cs } := by
  obtain ⟨hp, -, l, v, -, hs, -⟩ := h
  exact readSrcs_crew (crew_lt_of_plain hp) hs

theorem crew_lt_of_given : (envOf s c).c < s1.crews.length := by
  rw [(crews_of_given h).1]
  exact crew_lt_of_plain h.1

theorem paths_of_given : s1.warps.length = s.warps.length ∧ samePaths (warpAt s c.w) (warpAt s1 c.w) := by
  obtain ⟨hp, -, l, v, -, hs, -⟩ := h
  obtain ⟨hlen, hpaths, -, -⟩ := readSrcs_same s s1 c _ _ _ _ v hp hs
  exact ⟨hlen, hpaths⟩

/-- Where the warps stand as the sources left them, the path's PC can go on. -/
theorem pc_of_given {t : State} (ht : t.warps = s1.warps) : bits (pcOf t c).toNat 0 42 ≠ 2 ^ 42 - 8 := by
  have hpc : pcOf t c = pcOf s1 c := by rw [pcOf, warpAt, ht, pcOf, warpAt]
  rw [hpc, pcOf_of_samePaths (paths_of_given h).2]
  exact (goesTo_of_plain (plain_of_given h)).2

end

end Sys2Proof.Machine

/-! ## Named barriers (R149, R166) -/

namespace Sys2Proof.Machine

/-! ### Arrivals -/

theorem barAt_set {cr : Crew} {n : Nat} (h : n < cr.bars.length) (b : Barrier) :
    barAt { cr with bars := cr.bars.set n b } n = b := by
  simp [barAt, List.getD_eq_getElem?_getD, h]

theorem barPassed_eq {s : State} {c n : Nat} (h : n < (crewAt s c).bars.length) (ph : Bool) :
    barPassed s c n ph = ((barAt (crewAt s c) n).phase != ph) := by
  simp [barPassed, barAt, List.getD_eq_getElem?_getD, h]

section
variable {s : State} {c n : Nat} (hc : c < s.crews.length) (hn : n < (crewAt s c).bars.length)
include hc hn

/-- An arrival, and the completion test after it (R149). -/
theorem barArrive_eq (cnt : Nat) : barArrive s c n cnt = barReached s c n cnt := by
  have hbar := barAt_set hn { barAt (crewAt s c) n with arr := (barAt (crewAt s c) n).arr + 1, exp := some cnt }
  unfold barArrive barTest barReached
  simp only [crewAt_setCrew _ _ _ hc]
  rw [show ∀ (cr : Crew), cr.bars.getD n { arr := 0, exp := none, phase := false } = barAt cr n from fun _ => rfl]
  unfold barAt at hbar ⊢
  simp only [hbar, liveWarps, crewAt_setCrew _ _ _ hc, warpAt_setCrew, setCrew_setCrew, List.set_set]

/-- An arrival that does not turn the phase leaves the warps as they are (R149). -/
theorem barReached_of_phase_same {cnt : Nat}
    (h : (barAt (crewAt (barReached s c n cnt) c) n).phase = (barAt (crewAt s c) n).phase) :
    (barReached s c n cnt).warps = s.warps := by
  unfold barReached at h ⊢
  extract_lets cr bar need at h ⊢
  split
  · rfl
  · next hle =>
    simp only [if_neg hle, crewAt_wakeWhere, crewAt_setCrew _ _ _ hc, cr, barAt_set hn] at h
    exact absurd h (Bool.not_ne_self _)

omit hn in
theorem barReached_bars_length (cnt : Nat) :
    (crewAt (barReached s c n cnt) c).bars.length = (crewAt s c).bars.length := by
  unfold barReached
  extract_lets
  split
  · rw [crewAt_setCrew _ _ _ hc, List.length_set]
  · rw [crewAt_wakeWhere, crewAt_setCrew _ _ _ hc, List.length_set]

end

/-- Reading sources leaves the crew its 16 barriers. -/
theorem bar_lt_of_given {s s1 : State} {c : Cur} {g : Guard} {srcs : List Src} {a : Nat → Nat}
    (hg : given s c g [] srcs none false s1 a) (hbars : (envOf s c).cr.bars.length = 16) (n : Fin 16) :
    n.val < (crewAt s1 (envOf s c).c).bars.length := by
  obtain ⟨-, cs, hcr⟩ := crews_of_given hg
  rw [hcr]
  show n.val < (envOf s c).cr.bars.length
  omega

/-! ### The three forms -/

section
variable {s s1 : State} {c : Cur} {g : Guard} {n : Fin 16} {b : Opnd} {a : Nat → Nat}
  {after : State → Env → Bool → Except Stop State} (hg : given s c g [] [(b, 1)] none false s1 a)
include hg

theorem barOp_other_lanes (ho : outside (envOf s c) ≠ 0) : barOp s g n b after =
    .next (takeTrap s (envOf s c) 0 ⟨0x0A, outside (envOf s c), (envOf s c).pc.toNat, 0⟩) := by
  obtain ⟨hp, hr, l, v, hl, hs, rfl⟩ := hg
  exact runInstr_trap s c _ _ _ _ _ _ (issuing_of_plain hp) hr rfl
    ((if_neg (mask_ne_zero_of_lowest hl)).trans (if_pos ho))

variable (ho : outside (envOf s c) = 0)
include ho

/-- The body of an arrival of a warp whose one path issues it. -/
theorem barOp_eq : barOp s g n b after = runInstr s 0 (regsOk [(b, 1)]) anyMode g (fun e =>
    if e.cr.warps.length < a 0 then .error (queueTrapOf e (takers s c g) 8)
    else if (barAt (crewAt s1 e.c) n).exp.any (· ≠ a 0) then .error (queueTrapOf e (takers s c g) 5)
    else after (barArrive s1 e.c n (a 0)) e (barAt (crewAt s1 e.c) n).phase) := by
  obtain ⟨hp, hr, l, v, hl, hs, rfl⟩ := hg
  refine runInstr_congr (cur_of_issuing (issuing_of_plain hp)) rfl ?_
  refine (if_neg (mask_ne_zero_of_lowest hl)).trans ((if_neg (not_not.2 ho)).trans ?_)
  simp only [show readSrcs s (envOf s c) (taking (envOf s c) g) [(b, 1)] none false = .ok (s1, v) from hs,
    show warpValue (taking (envOf s c) g) v 0 = _ from warpValue_eq_getD hl v 0]
  rfl

theorem barOp_beyond_nwarps (hcnt : (envOf s c).cr.warps.length < a 0) : barOp s g n b after =
    .next (takeTrap s (envOf s c) 0 ⟨0x0D, takers s c g, (envOf s c).pc.toNat, 8⟩) := by
  rw [barOp_eq hg ho]
  exact runInstr_trap s c _ _ _ _ _ _ (issuing_of_given hg) (regsOk_of_given hg) rfl (if_pos hcnt)

variable (hcnt : a 0 ≤ (envOf s c).cr.warps.length)
include hcnt

theorem barOp_other_count {k : Nat} (hk : (barAt (crewAt s1 (envOf s c).c) n).exp = some k) (hne : k ≠ a 0) :
    barOp s g n b after =
      .next (takeTrap s (envOf s c) 0 ⟨0x0D, takers s c g, (envOf s c).pc.toNat, 5⟩) := by
  rw [barOp_eq hg ho]
  exact runInstr_trap s c _ _ _ _ _ _ (issuing_of_given hg) (regsOk_of_given hg) rfl
    ((if_neg (not_lt.2 hcnt)).trans (if_pos (by simp [hk, hne])))

variable (hexp : ∀ k, (barAt (crewAt s1 (envOf s c).c) n).exp = some k → k = a 0)
  (hbars : (envOf s c).cr.bars.length = 16)
include hexp hbars

/-- An arrival that breaks no rule: what comes after it is given the state that it leaves. -/
theorem barOp_arrives : barOp s g n b after = runInstr s 0 (regsOk [(b, 1)]) anyMode g (fun e =>
    after (barReached s1 e.c n (a 0)) e (barAt (crewAt s1 e.c) n).phase) := by
  have hsame : ¬ (barAt (crewAt s1 (envOf s c).c) n).exp.any (· ≠ a 0) = true := by
    cases hk : (barAt (crewAt s1 (envOf s c).c) n).exp with
    | none => simp
    | some k => simp [hexp k hk]
  rw [barOp_eq hg ho]
  refine runInstr_congr (cur_of_issuing (issuing_of_given hg)) rfl ?_
  refine (if_neg (not_lt.2 hcnt)).trans ((if_neg hsame).trans ?_)
  rw [barArrive_eq (crew_lt_of_given hg) (bar_lt_of_given hg hbars n)]

theorem execBarArv_goes_on (hu : unmoved s (barReached s1 (envOf s c).c n (a 0)) c) :
    execBarArv g n b s = .next (stepped (barReached s1 (envOf s c).c n (a 0)) c) := by
  unfold execBarArv
  rw [barOp_arrives hg ho hcnt hexp hbars]
  exact runInstr_ok s _ c _ _ _ _ _ (issuing_of_given hg) (regsOk_of_given hg) rfl (advance_of_unmoved hu)

omit ho hcnt hexp in
theorem barPassed_barReached (ph : Bool) : barPassed (barReached s1 (envOf s c).c n (a 0)) (envOf s c).c n ph =
    ((barAt (crewAt (barReached s1 (envOf s c).c n (a 0)) (envOf s c).c) n).phase != ph) := by
  refine barPassed_eq ?_ ph
  rw [barReached_bars_length (crew_lt_of_given hg)]
  exact bar_lt_of_given hg hbars n

theorem execBarSync_goes_on (hturn : (barAt (crewAt (barReached s1 (envOf s c).c n (a 0)) (envOf s c).c) n).phase ≠
    (barAt (crewAt s1 (envOf s c).c) n).phase) (hu : unmoved s (barReached s1 (envOf s c).c n (a 0)) c) :
    execBarSync g n b s = .next (stepped (barReached s1 (envOf s c).c n (a 0)) c) := by
  unfold execBarSync
  rw [barOp_arrives hg ho hcnt hexp hbars]
  refine runInstr_ok s _ c _ _ _ _ _ (issuing_of_given hg) (regsOk_of_given hg) rfl ?_
  exact (if_pos ((barPassed_barReached hg hbars _).trans (bne_iff_ne.2 hturn))).trans (advance_of_unmoved hu)

theorem execBarSync_waits (hsame : (barAt (crewAt (barReached s1 (envOf s c).c n (a 0)) (envOf s c).c) n).phase =
    (barAt (crewAt s1 (envOf s c).c) n).phase) : execBarSync g n b s = .next
      (waiting (barReached s1 (envOf s c).c n (a 0)) c (.bar n (barAt (crewAt s1 (envOf s c).c) n).phase)) := by
  have hwarps := barReached_of_phase_same (crew_lt_of_given hg) (bar_lt_of_given hg hbars n) hsame
  have hnot : ¬ barPassed (barReached s1 (envOf s c).c n (a 0)) (envOf s c).c n
      (barAt (crewAt s1 (envOf s c).c) n).phase = true := by
    rw [barPassed_barReached hg hbars, bne_iff_ne]
    exact not_not.2 hsame
  unfold execBarSync
  rw [barOp_arrives hg ho hcnt hexp hbars]
  refine (runInstr_park (p := .bar n _) (issuing_of_given hg) (regsOk_of_given hg) rfl (if_neg hnot) nofun).trans ?_
  rw [parkPath_waiting (pc_of_given hg hwarps) rfl]

end

section
variable {s : State} {c : Cur} {g : Guard} {n : Fin 16} (hi : issuing s c = true) (hm : takers s c g ≠ 0)
include hi hm

theorem execBarWait_other_lanes (ho : outside (envOf s c) ≠ 0) : execBarWait g n s =
    .next (takeTrap s (envOf s c) 0 ⟨0x0A, outside (envOf s c), (envOf s c).pc.toNat, 0⟩) :=
  runInstr_trap s c _ _ _ _ _ _ hi rfl rfl ((if_neg hm).trans (if_pos ho))

/-- `bar.wait` waits for the phase to leave the one that it finds. -/
theorem execBarWait_waits (hl : bits (pcOf s c).toNat 0 42 ≠ 2 ^ 42 - 8) (ho : outside (envOf s c) = 0)
    (hbars : (envOf s c).cr.bars.length = 16) :
    execBarWait g n s = .next (waiting s c (.bar n (barAt (envOf s c).cr n).phase)) := by
  have hph : barPassed s (envOf s c).c n false = (barAt (envOf s c).cr n).phase := by
    exact (barPassed_eq (show n.val < (envOf s c).cr.bars.length by omega) false).trans (Bool.bne_false _)
  refine (runInstr_park (t := s) (p := .bar n (barAt (envOf s c).cr n).phase) hi rfl rfl
    ((if_neg hm).trans ((if_neg (not_not.2 ho)).trans ?_)) nofun).trans ?_
  · rw [hph]
  · rw [parkPath_waiting hl rfl]

end

/-- Settles O35, form by form and check by check. -/
theorem namedBarriers : Obligations.NamedBarriers := by
  intro g n b s c s1 a e m bar t hg hbars
  have hm : takers s c g ≠ 0 := by
    obtain ⟨-, -, l, v, hl, -, -⟩ := hg
    exact mask_ne_zero_of_lowest hl
  have hi := issuing_of_given hg
  refine ⟨fun ho hcnt hexp => ⟨execBarArv_goes_on hg ho hcnt hexp hbars, execBarSync_goes_on hg ho hcnt hexp hbars,
    execBarSync_waits hg ho hcnt hexp hbars⟩,
    fun ho => execBarWait_waits hi hm (goesTo_of_plain (plain_of_given hg)).2 ho hbars, execBarWait_other_lanes hi hm, ?_⟩
  have harrival : ∀ i, (∃ after, ∀ s, exec i s = barOp s g n b after) →
      (e.x.alive &&& ~~~e.mask ≠ 0 → traps i s c 0 0x0A (e.x.alive &&& ~~~e.mask) e.pc.toNat 0) ∧
      (e.x.alive &&& ~~~e.mask = 0 → e.cr.warps.length < a 0 → traps i s c 0 0x0D m e.pc.toNat 8) ∧
      (∀ k, e.x.alive &&& ~~~e.mask = 0 → a 0 ≤ e.cr.warps.length → bar.exp = some k → k ≠ a 0 →
        traps i s c 0 0x0D m e.pc.toNat 5) := by
    intro i ⟨after, hexec⟩
    unfold traps
    rw [hexec]
    exact ⟨barOp_other_lanes hg, barOp_beyond_nwarps hg, fun k ho hcnt hk hne => barOp_other_count hg ho hcnt hk hne⟩
  intro i hmem
  obtain rfl | rfl : i = .barSync g n b ∨ i = .barArv g n b := by simpa using hmem
  · exact harrival _ ⟨_, fun s => execBarSync.eq_1 g n b s⟩
  · exact harrival _ ⟨_, fun s => execBarArv.eq_1 g n b s⟩

end Sys2Proof.Machine

/-! ## Mbar objects (R150, R151, R167, R168) -/

namespace Sys2Proof.Machine

/-! ### The word of an object (R150) -/

/-- An object whose fields fit their places. -/
structure MbarObj.Fits (o : MbarObj) : Prop where
  exp : o.exp < 2 ^ 16
  pend : o.pend < 2 ^ 16
  low : -2 ^ 31 ≤ o.tx
  high : o.tx < 2 ^ 31

/-- The word of an object from its fields, with the two's complement of TX and the flags as bits. -/
theorem mbarWord_eq (o : MbarObj) : mbarWord o = o.exp + 2 ^ 16 * o.pend + 2 ^ 32 * intBits 32 o.tx +
    2 ^ 64 * o.ph.toNat + 2 ^ 65 * o.init.toNat + 2 ^ 66 * o.err.toNat + 2 ^ 67 * o.rest := by
  unfold mbarWord
  cases o.ph <;> cases o.init <;> cases o.err <;> rfl

/-- An object whose TX has been added to, and kept in its range (R151). -/
def mbarTxAdded (o : MbarObj) (d : Int) : MbarObj :=
  { o with
    tx := max (-2 ^ 31) (min (2 ^ 31 - 1) (o.tx + d))
    err := o.err || decide (max (-2 ^ 31) (min (2 ^ 31 - 1) (o.tx + d)) ≠ o.tx + d) }

theorem intBits_32_lt (t : Int) : intBits 32 t < 2 ^ 32 := by
  unfold intBits
  omega

theorem sx_intBits_32 {t : Int} (hl : -2 ^ 31 ≤ t) (hh : t < 2 ^ 31) : sx 32 (intBits 32 t) = t := by
  unfold sx intBits
  simp only
  split <;> omega

theorem beq_one_toNat {x : Nat} (h : x < 2) : (x == 1).toNat = x := by
  obtain rfl | rfl : x = 0 ∨ x = 1 := by omega
  · rfl
  · rfl

theorem mbarWord_mbarObj {v : Nat} (h : v < 2 ^ 128) : mbarWord (mbarObj v) = v := by
  rw [mbarWord_eq]
  simp only [mbarObj, intBits_sx, beq_one_toNat (bits_lt v _ 1)]
  simp only [bits_eq_div_mod]
  omega

theorem mbarObj_fits (v : Nat) : (mbarObj v).Fits := by
  refine ⟨bits_lt .., bits_lt .., ?_, ?_⟩
  · show -2 ^ 31 ≤ sx 32 (bits v 32 32)
    unfold sx
    simp only
    split <;> omega
  · show sx 32 (bits v 32 32) < 2 ^ 31
    unfold sx
    simp only
    split <;> omega

section
variable {o : MbarObj} (h : o.Fits)
include h

theorem mbPend_mbarWord : mbPend (mbarWord o) = o.pend := by
  obtain ⟨he, hp, -, -⟩ := h
  have ht := intBits_32_lt o.tx
  rw [mbarWord_eq, mbPend, bits_eq_div_mod]
  omega

theorem mbExp_mbarWord : mbExp (mbarWord o) = o.exp := by
  obtain ⟨he, hp, -, -⟩ := h
  have ht := intBits_32_lt o.tx
  rw [mbarWord_eq, mbExp, bits_eq_div_mod]
  omega

theorem mbTx_mbarWord : mbTx (mbarWord o) = o.tx := by
  obtain ⟨he, hp, hl, hh⟩ := h
  have ht := intBits_32_lt o.tx
  have hbits : bits (mbarWord o) 32 32 = intBits 32 o.tx := by
    rw [mbarWord_eq, bits_eq_div_mod]
    omega
  rw [mbTx, hbits, sx_intBits_32 hl hh]

theorem mbPh_mbarWord : mbPh (mbarWord o) = o.ph := by
  obtain ⟨he, hp, -, -⟩ := h
  have ht := intBits_32_lt o.tx
  have hbits : bits (mbarWord o) 64 1 = o.ph.toNat := by
    have := Bool.toNat_lt o.ph
    rw [mbarWord_eq, bits_eq_div_mod]
    omega
  rw [mbPh, hbits]
  cases o.ph <;> rfl

/-! Each field is replaced by writing its bits. -/

theorem setBits_mbarWord_pend {p : Nat} (hp' : p < 2 ^ 16) :
    setBits (mbarWord o) 16 16 p = mbarWord { o with pend := p } := by
  obtain ⟨he, hp, -, -⟩ := h
  have ht := intBits_32_lt o.tx
  simp only [setBits, mbarWord_eq]
  omega

theorem setBits_mbarWord_tx (t : Int) : setBits (mbarWord o) 32 32 (intBits 32 t) = mbarWord { o with tx := t } := by
  obtain ⟨he, hp, -, -⟩ := h
  have ht := intBits_32_lt o.tx
  have ht' := intBits_32_lt t
  simp only [setBits, mbarWord_eq]
  omega

theorem setBits_mbarWord_ph (b : Bool) : setBits (mbarWord o) 64 1 b.toNat = mbarWord { o with ph := b } := by
  obtain ⟨he, hp, -, -⟩ := h
  have ht := intBits_32_lt o.tx
  have hb := Bool.toNat_lt b
  have hph := Bool.toNat_lt o.ph
  simp only [setBits, mbarWord_eq]
  omega

theorem setBits_mbarWord_init (b : Bool) : setBits (mbarWord o) 65 1 b.toNat = mbarWord { o with init := b } := by
  obtain ⟨he, hp, -, -⟩ := h
  have ht := intBits_32_lt o.tx
  have hb := Bool.toNat_lt b
  have hph := Bool.toNat_lt o.ph
  have hinit := Bool.toNat_lt o.init
  simp only [setBits, mbarWord_eq]
  omega

theorem setBits_mbarWord_err (b : Bool) : setBits (mbarWord o) 66 1 b.toNat = mbarWord { o with err := b } := by
  obtain ⟨he, hp, -, -⟩ := h
  have ht := intBits_32_lt o.tx
  have hb := Bool.toNat_lt b
  have hph := Bool.toNat_lt o.ph
  have hinit := Bool.toNat_lt o.init
  have herr := Bool.toNat_lt o.err
  simp only [setBits, mbarWord_eq]
  omega

/-! ### Updates (R151) -/

theorem mbarTxAdded_fits (d : Int) : (mbarTxAdded o d).Fits := by
  obtain ⟨he, hp, -, -⟩ := h
  exact ⟨he, hp, by simp only [mbarTxAdded]; omega, by simp only [mbarTxAdded]; omega⟩

theorem mbAddTx_mbarWord (d : Int) : mbAddTx (mbarWord o) d = mbarWord (mbarTxAdded o d) := by
  have clamped : ∀ t : Int, -2 ^ 31 ≤ t → t < 2 ^ 31 →
      setBits (setBits (mbarWord o) 32 32 (intBits 32 t)) 66 1 1 = mbarWord { o with tx := t, err := true } := by
    intro t hl hh
    rw [setBits_mbarWord_tx h, show (1 : Nat) = true.toNat from rfl]
    exact setBits_mbarWord_err (o := { o with tx := t }) ⟨h.exp, h.pend, hl, hh⟩ true
  have hlow : intBits 32 (-2 ^ 31) = 0x80000000 := by decide
  have hhigh : intBits 32 (2 ^ 31 - 1) = 0x7FFFFFFF := by decide
  unfold mbAddTx mbarTxAdded
  simp only [mbTx_mbarWord h]
  split
  · have ht : max (-2 ^ 31) (min (2 ^ 31 - 1) (o.tx + d)) = -2 ^ 31 := by omega
    have hne : (-2 ^ 31 : Int) ≠ o.tx + d := by omega
    rw [ht, decide_eq_true hne, Bool.or_true, ← hlow]
    exact clamped _ le_rfl (by norm_num)
  · split
    · have ht : max (-2 ^ 31) (min (2 ^ 31 - 1) (o.tx + d)) = 2 ^ 31 - 1 := by omega
      have hne : (2 ^ 31 - 1 : Int) ≠ o.tx + d := by omega
      rw [ht, decide_eq_true hne, Bool.or_true, ← hhigh]
      exact clamped _ (by norm_num) (by norm_num)
    · have ht : max (-2 ^ 31) (min (2 ^ 31 - 1) (o.tx + d)) = o.tx + d := by omega
      rw [ht, setBits_mbarWord_tx h]
      simp

/-- An arrival and the completion test after it. -/
theorem mbArrive_mbarWord : mbArrive (mbarWord o) = mbarWord (
    if o.pend = 0 then { o with err := true }
    else if o.pend = 1 ∧ o.tx = 0 then { o with pend := o.exp, ph := !o.ph }
    else { o with pend := o.pend - 1 }) := by
  have hless : ({ o with pend := o.pend - 1 } : MbarObj).Fits := by
    obtain ⟨he, hp, hl, hh⟩ := h
    exact ⟨he, by simp only; omega, hl, hh⟩
  unfold mbArrive mbArr
  rw [mbPend_mbarWord h]
  by_cases h0 : o.pend = 0
  · simp only [if_pos h0]
    exact setBits_mbarWord_err h true
  · simp only [if_neg h0, setBits_mbarWord_pend h hless.pend]
    unfold mbDone
    rw [mbPend_mbarWord hless, mbTx_mbarWord hless, mbPh_mbarWord hless, mbExp_mbarWord hless,
      if_congr (show o.pend - 1 = 0 ∧ o.tx = 0 ↔ o.pend = 1 ∧ o.tx = 0 by omega) rfl rfl]
    by_cases h1 : o.pend = 1 ∧ o.tx = 0
    · rw [if_pos h1, if_pos h1, show (if o.ph = true then 0 else 1) = (!o.ph).toNat by cases o.ph <;> rfl,
        setBits_mbarWord_ph hless]
      exact setBits_mbarWord_pend (o := { o with pend := o.pend - 1, ph := !o.ph })
        ⟨hless.exp, hless.pend, hless.low, hless.high⟩ h.exp
    · rw [if_neg h1, if_neg h1]

/-- An arrival that adds to TX is the arrival of R151. -/
theorem mbArrive_mbAddTx (d : Int) : mbArrive (mbAddTx (mbarWord o) d) = mbarWord (mbarArrival o d) := by
  rw [mbAddTx_mbarWord h, mbArrive_mbarWord (mbarTxAdded_fits h d)]
  unfold mbarArrival mbarTxAdded
  simp only
  congr 1
  split
  · rfl
  · split
    · next h1 => rw [h1.2]
    · rfl

/-- Adding nothing to TX changes nothing. -/
theorem mbAddTx_zero : mbAddTx (mbarWord o) 0 = mbarWord o := by
  have ht : max (-2 ^ 31) (min (2 ^ 31 - 1) (o.tx + 0)) = o.tx + 0 := by
    obtain ⟨-, -, hl, hh⟩ := h
    omega
  rw [mbAddTx_mbarWord h, mbarTxAdded, ht]
  simp

end

end Sys2Proof.Machine

namespace Sys2Proof.Machine

/-! ### Objects of the scratchpad (R150) -/

theorem memNat_lt (m : Memory) (a n : Nat) : memNat m a n < 256 ^ n := by
  have h := bytesNat_lt (memBytes m a n)
  rwa [memBytes_length] at h

/-- The object at an offset, and its word. -/
theorem mbGet_eq (s : State) (c off : Nat) :
    mbGet s c off = mbarWord (mbarObj (memNat (crewAt s c).scr off 16)) :=
  (mbarWord_mbarObj (memNat_lt _ _ _)).symm

/-- Storing an object's word wakes the paths that wait for its phase (R151). -/
theorem mbStore_mbarWord (s : State) (c off : Nat) {o : MbarObj} (h : o.Fits) :
    mbStore s c off (mbarWord o) = mbarStored s c off o := by
  unfold mbStore mbarStored
  rw [mbPh_mbarWord h]

theorem mbarArrival_fits {o : MbarObj} (h : o.Fits) (d : Int) : (mbarArrival o d).Fits := by
  obtain ⟨he, hp, hl, hh⟩ := h
  unfold mbarArrival
  extract_lets t err
  have ht : -2 ^ 31 ≤ t ∧ t < 2 ^ 31 := by omega
  split
  · exact ⟨he, hp, ht.1, ht.2⟩
  · split
    · exact ⟨he, he, by norm_num, by norm_num⟩
    · exact ⟨he, by simp only; omega, ht.1, ht.2⟩

theorem bits_low_bit (v : Nat) : (bits v 0 1 == 1) = (v % 2 == 1) := rfl

/-! ### The shared operation (R167) -/

/-- The sources of an mbar form: the offset, and B where it has one. -/
def mbarSrcs (a : Opnd) : Option Opnd → List Src
  | none => [(a, 1)]
  | some b => [(a, 1), (b, 1)]

theorem scratchWarp_ok {e : Env} {m : Mask} {off n al : Nat} (hin : off + n ≤ e.cr.scrLen) (hal : off % al = 0) :
    scratchWarp e m off n al = .ok off := by
  have hrange : ¬ ((off : Int) < 0 ∨ (e.cr.scrLen : Int) < off + n) := by omega
  unfold scratchWarp scratchCheck
  rw [if_neg hrange, Int.toNat_natCast, if_neg (not_not.2 hal)]

section
variable {s s1 : State} {c : Cur} {g : Guard} {ds : List Src} {dst : Option Opnd} {push : Bool} {a : Opnd}
  {b : Option Opnd} {need : Bool} {v : Nat → Nat} {body : State → Env → Mask → Nat → Nat → Nat → Except Stop State}
  (hg : given s c g ds (mbarSrcs a b) dst push s1 v) (hal : v 0 % 16 = 0) (hin : v 0 + 16 ≤ (envOf s c).cr.scrLen)
include hg hal hin

/-- An mbar form at an aligned offset in the window: the object is checked, then the form's own part runs. -/
theorem mbarOp_eq : mbarOp s g ds dst push a b need body =
    runInstr s 0 (regsOk (ds ++ mbarSrcs a b)) anyMode g (fun e =>
      if need && !mbInit (mbGet s1 e.c (v 0)) then .error (queueTrapOf e (takers s c g) 4)
      else body s1 e (takers s c g) (v 0) (mbGet s1 e.c (v 0)) (v 1)) := by
  obtain ⟨hp, hr, l, vals, hl, hs, rfl⟩ := hg
  have hvals : ∀ k, warpValue (taking (envOf s c) g) vals k = (vals l).getD k 0 := warpValue_eq_getD hl vals
  have hoff := scratchWarp_ok (m := taking (envOf s c) g) hin hal
  have hm : taking (envOf s c) g ≠ 0 := mask_ne_zero_of_lowest hl
  cases b with
  | none =>
    unfold mbarOp mbarSrcs
    refine runInstr_congr (cur_of_issuing (issuing_of_plain hp)) rfl ?_
    simp only [show readSrcs s (envOf s c) (taking (envOf s c) g) [(a, 1)] dst push = .ok (s1, vals) from hs, hvals,
      if_neg hm, hoff]
    rfl
  | some b =>
    unfold mbarOp mbarSrcs
    refine runInstr_congr (cur_of_issuing (issuing_of_plain hp)) rfl ?_
    simp only [show readSrcs s (envOf s c) (taking (envOf s c) g) [(a, 1), (b, 1)] dst push = .ok (s1, vals) from hs, hvals,
      if_neg hm, hoff]
    rfl

/-- A form that needs an initialised object, on one that is not. -/
theorem mbarOp_not_init (hneed : need = true) (hinit : mbInit (mbGet s1 (envOf s c).c (v 0)) = false) :
    mbarOp s g ds dst push a b need body =
      .next (takeTrap s (envOf s c) 0 ⟨0x0D, takers s c g, (envOf s c).pc.toNat, 4⟩) := by
  rw [mbarOp_eq hg hal hin]
  exact runInstr_trap s c _ _ _ _ _ _ (issuing_of_given hg) (regsOk_of_given hg) rfl (if_pos (by simp [hneed, hinit]))

variable (hinit : need = true → mbInit (mbGet s1 (envOf s c).c (v 0)) = true)
include hinit

theorem mbarOp_runs : mbarOp s g ds dst push a b need body = runInstr s 0 (regsOk (ds ++ mbarSrcs a b)) anyMode g
    (fun e => body s1 e (takers s c g) (v 0) (mbGet s1 e.c (v 0)) (v 1)) := by
  have hgo : ¬ (need && !mbInit (mbGet s1 (envOf s c).c (v 0))) = true := by
    cases need with
    | false => simp
    | true => simp [hinit rfl]
  rw [mbarOp_eq hg hal hin]
  exact runInstr_congr (cur_of_issuing (issuing_of_given hg)) rfl (if_neg hgo)

theorem mbarOp_ok {t : State}
    (hb : body s1 (envOf s c) (takers s c g) (v 0) (mbGet s1 (envOf s c).c (v 0)) (v 1) = .ok t) :
    mbarOp s g ds dst push a b need body = .next t := by
  rw [mbarOp_runs hg hal hin hinit]
  exact runInstr_ok s t c _ _ _ _ _ (issuing_of_given hg) (regsOk_of_given hg) rfl hb

end

/-! ### Paths that wait for an object -/

/-- A fold of steps that change nothing changes nothing. -/
theorem foldl_eq_self {α σ : Type} {f : σ → α → σ} {xs : List α} {s : σ} (h : ∀ x ∈ xs, f s x = s) :
    xs.foldl f s = s := by
  induction xs with
  | nil => rfl
  | cons x xs ih =>
    rw [List.foldl_cons, h x List.mem_cons_self]
    exact ih (fun y hy => h y (List.mem_cons_of_mem _ hy))

/-- Where no parked path is one that the action changes, nothing changes. -/
theorem forParked_eq_self {s : State} {ws : List Nat} {f : State → Nat → Which → Park → State}
    (h : ∀ w ∈ ws, ∀ k p, (slotOf (warpAt s w) k).live = true → (slotOf (warpAt s w) k).park = some p → f s w k p = s) :
    forParked s ws f = s := by
  refine foldl_eq_self (fun w hw => foldl_eq_self (fun k _ => ?_))
  split
  · next hl hp => exact h w hw k _ hl hp
  · rfl

theorem waitsFor_of_parked {s : State} {w off : Nat} {k : Which} {par : Bool}
    (hl : (slotOf (warpAt s w) k).live = true) (hp : (slotOf (warpAt s w) k).park = some (.mbar off par)) :
    waitsFor s w off = true := by
  unfold waitsFor
  refine List.any_eq_true.2 ⟨k, by cases k <;> simp, ?_⟩
  simp [hl, hp]

/-! ### The forms (R167, R168) -/

section
variable {s s1 : State} {c : Cur} {h : Hdr} {g : Guard} {d a b : Opnd} {p : Pred} {v : Nat → Nat}

section
variable (hal : v 0 % 16 = 0) (hin : v 0 + 16 ≤ (envOf s c).cr.scrLen)
include hal hin

theorem execMbarInit_stores (hg : given s c g [] [(a, 1), (b, 1)] none false s1 v) (hlo : 1 ≤ v 1) (hhi : v 1 < 2 ^ 16)
    (hu : unmoved s (mbarStored s1 (envOf s c).c (v 0) ⟨v 1, v 1, 0, false, true, false, 0⟩) c) :
    execMbarInit g a b s =
      .next (stepped (mbarStored s1 (envOf s c).c (v 0) ⟨v 1, v 1, 0, false, true, false, 0⟩) c) := by
  have hlegal : ¬ (bits (v 1) 0 16 = 0 ∨ bits (v 1) 16 16 ≠ 0) := by
    simp only [bits_eq_div_mod]
    omega
  have hword : v 1 + 2 ^ 16 * v 1 + 2 ^ 65 = mbarWord ⟨v 1, v 1, 0, false, true, false, 0⟩ := by
    simp [mbarWord, intBits]
  refine mbarOp_ok (b := some b) (need := false) hg hal hin nofun ((if_neg hlegal).trans ?_)
  rw [hword, mbStore_mbarWord _ _ _ ⟨hhi, hhi, by norm_num, by norm_num⟩]
  exact advance_of_unmoved hu

theorem execMbarArv_not_init (hg : given s c h.g [(d, 1)] [(a, 1)] (some d) (!h.w) s1 v)
    (hinit : (mbarObj (memNat (crewAt s1 (envOf s c).c).scr (v 0) 16)).init = false) : execMbarArv h d a s =
      .next (takeTrap s (envOf s c) 0 ⟨0x0D, takers s c h.g, (envOf s c).pc.toNat, 4⟩) :=
  mbarOp_not_init (b := none) hg hal hin rfl hinit

section
variable (hq : ∀ q, d ≠ .q q) (hinit : (mbarObj (memNat (crewAt s1 (envOf s c).c).scr (v 0) 16)).init = true)
include hq hinit

theorem execMbarArv_stores (hg : given s c h.g [(d, 1)] [(a, 1)] (some d) (!h.w) s1 v)
    (hu : unmoved s (mbarStored s1 (envOf s c).c (v 0)
      (mbarArrival (mbarObj (memNat (crewAt s1 (envOf s c).c).scr (v 0) 16)) 0)) c) :
    execMbarArv h d a s = .next (wrote (mbarStored s1 (envOf s c).c (v 0)
      (mbarArrival (mbarObj (memNat (crewAt s1 (envOf s c).c).scr (v 0) 16)) 0)) c h d (takers s c h.g) 1
      (fun _ => if (mbarObj (memNat (crewAt s1 (envOf s c).c).scr (v 0) 16)).ph then 1 else 0)) := by
  have ho := mbarObj_fits (memNat (crewAt s1 (envOf s c).c).scr (v 0) 16)
  refine mbarOp_ok (b := none) hg hal hin (fun _ => hinit) ?_
  rw [mbGet_eq, ← mbAddTx_zero ho, mbArrive_mbAddTx ho, mbStore_mbarWord _ _ _ (mbarArrival_fits ho 0), mbAddTx_zero ho,
    mbPh_mbarWord ho]
  exact finish_of_unmoved hu hq _ _ _

theorem execMbarArvtx_stores (hg : given s c h.g [(d, 1)] [(a, 1), (b, 1)] (some d) (!h.w) s1 v)
    (hu : unmoved s (mbarStored s1 (envOf s c).c (v 0)
      (mbarArrival (mbarObj (memNat (crewAt s1 (envOf s c).c).scr (v 0) 16)) (sx 32 (v 1)))) c) :
    execMbarArvtx h d a b s = .next (wrote (mbarStored s1 (envOf s c).c (v 0)
      (mbarArrival (mbarObj (memNat (crewAt s1 (envOf s c).c).scr (v 0) 16)) (sx 32 (v 1)))) c h d (takers s c h.g) 1
      (fun _ => if (mbarObj (memNat (crewAt s1 (envOf s c).c).scr (v 0) 16)).ph then 1 else 0)) := by
  have ho := mbarObj_fits (memNat (crewAt s1 (envOf s c).c).scr (v 0) 16)
  refine mbarOp_ok (b := some b) hg hal hin (fun _ => hinit) ?_
  rw [mbGet_eq, mbArrive_mbAddTx ho, mbStore_mbarWord _ _ _ (mbarArrival_fits ho _), mbPh_mbarWord ho]
  exact finish_of_unmoved hu hq _ _ _

end

section
variable (hinit : (mbarObj (memNat (crewAt s1 (envOf s c).c).scr (v 0) 16)).init = true)
include hinit

theorem execMbarTest_compares (hg : given s c h.g [] [(a, 1), (b, 1)] none false s1 v) :
    execMbarTest h p a b s = .next (stepped (setWarp s1 c.w (writePred (warpAt s1 c.w) h p (takers s c h.g)
      (fun _ => (mbarObj (memNat (crewAt s1 (envOf s c).c).scr (v 0) 16)).ph != (v 1 % 2 == 1)))) c) := by
  obtain ⟨hp, hr, l, vals, hl, hs, hv⟩ := id hg
  unfold execMbarTest
  rw [mbarOp_runs (b := some b) hg hal hin (fun _ => hinit)]
  exact runInstr_finishPred hp hr hs rfl

section
variable (hg : given s c g [] [(a, 1), (b, 1)] none false s1 v)
include hg

theorem execMbarWait_goes_on
    (hph : (mbarObj (memNat (crewAt s1 (envOf s c).c).scr (v 0) 16)).ph ≠ (v 1 % 2 == 1)) :
    execMbarWait g a b s = .next (stepped s1 c) := by
  obtain ⟨hlen, hpaths⟩ := paths_of_given hg
  refine mbarOp_ok (b := some b) hg hal hin (fun _ => hinit) ((if_pos (bne_iff_ne.2 hph)).trans ?_)
  exact advance_of_warps (plain_of_given hg) hlen hpaths rfl

theorem execMbarWait_waits
    (hph : (mbarObj (memNat (crewAt s1 (envOf s c).c).scr (v 0) 16)).ph = (v 1 % 2 == 1)) :
    execMbarWait g a b s = .next (waiting s1 c (.mbar (v 0) (v 1 % 2 == 1))) := by
  unfold execMbarWait
  rw [mbarOp_runs (b := some b) hg hal hin (fun _ => hinit)]
  refine (runInstr_park (p := .mbar (v 0) (v 1 % 2 == 1)) (issuing_of_given hg) (regsOk_of_given hg) rfl
    (if_neg (fun hne => bne_iff_ne.1 hne hph)) nofun).trans ?_
  rw [parkPath_waiting (pc_of_given hg rfl) rfl]

end

theorem execMbarInval_clears (hg : given s c g [] [(a, 1)] none false s1 v)
    (hnone : ∀ w ∈ (crewAt s1 (envOf s c).c).warps, waitsFor s1 w (v 0) = false) :
    execMbarInval g a s = .next (stepped (setCrew s1 (envOf s c).c { crewAt s1 (envOf s c).c with
      scr := memPutNat (crewAt s1 (envOf s c).c).scr (v 0) 16
        (mbarWord { mbarObj (memNat (crewAt s1 (envOf s c).c).scr (v 0) 16) with init := false }) }) c) := by
  have ho := mbarObj_fits (memNat (crewAt s1 (envOf s c).c).scr (v 0) 16)
  have hclear : setBits (mbarWord (mbarObj (memNat (crewAt s1 (envOf s c).c).scr (v 0) 16))) 65 1 0 = _ :=
    setBits_mbarWord_init ho false
  obtain ⟨hlen, hpaths⟩ := paths_of_given hg
  refine mbarOp_ok (b := none) hg hal hin (fun _ => hinit) ?_
  simp only
  rw [mbGet_eq, hclear, forParked_eq_self]
  · exact advance_of_warps (plain_of_given hg) hlen hpaths rfl
  · intro w hw k q hl hq
    split
    · next o par =>
      refine if_neg (fun hoff => ?_)
      subst hoff
      have hwaits := waitsFor_of_parked (s := s1) hl hq
      rw [hnone w hw] at hwaits
      cases hwaits
    · rfl

end

end

end

/-- Settles O36, form by form. -/
theorem mbarObjects : Obligations.MbarObjects := by
  intro h d a b p s c s1 v e m off o one two bit0 hal hin hq
  refine ⟨?_, ?_, ?_, ?_, ?_, ?_⟩
  · rintro t rfl hg hlo hhi hu
    exact execMbarInit_stores hal hin hg hlo hhi hu
  · rintro t rfl hg hinit hu
    exact execMbarArv_stores hal hin hq hinit hg hu
  · rintro t rfl hg hinit hu
    exact execMbarArvtx_stores hal hin hq hinit hg hu
  · exact fun hg hinit => ⟨execMbarTest_compares hal hin hinit hg, execMbarWait_goes_on hal hin hinit hg,
      execMbarWait_waits hal hin hinit hg⟩
  · exact fun hg hinit hnone => execMbarInval_clears hal hin hinit hg hnone
  · exact fun hg hinit => execMbarArv_not_init hal hin hg hinit

end Sys2Proof.Machine

/-! ## Channels and exchanges between partner warps (R147, R157, R169) -/

namespace Sys2Proof.Machine

/-! ### Binding a channel (R169) -/

section
variable {s s1 : State} {c : Cur} {g : Guard} {n : Fin 6} {a : Opnd} {v : Nat → Nat}
  (hg : given s c g [] [(a, 1)] none false s1 v)
  (hempty : (chanOf (crewAt s1 (envOf s c).c) n.val).entries = [])
  (hfree : ∀ w ∈ (crewAt s1 (envOf s c).c).warps, parkedOnPort s1 w n.val = false)
include hg hempty hfree

/-- A channel that is empty and that no path waits for is bound as a legal word says. -/
theorem execQctlQbind_of_legal {x : Chan}
    (hx : (⟨bits (v 0) 31 1 == 1, bits (v 0) 0 2, bits (v 0) 2 2, bits (v 0) 4 5, []⟩ : Chan) = x)
    (hlegal : ¬ (if bits (v 0) 31 1 == 1 then
        bits (v 0) 9 22 != 0 || bits (v 0) 4 5 == 0 || decide (16 < bits (v 0) 4 5) ||
          !roleDeclared s1 (envOf s c) (bits (v 0) 0 2) || !roleDeclared s1 (envOf s c) (bits (v 0) 2 2)
      else bits (v 0) 0 31 != 0) = true) :
    execQctlQbind g n a s = .next (stepped (setCrew s1 (envOf s c).c { crewAt s1 (envOf s c).c with
      chans := (crewAt s1 (envOf s c).c).chans.set n.val x }) c) := by
  subst hx
  have hidle : ¬ (!(chanOf (crewAt s1 (envOf s c).c) n.val).entries.isEmpty ||
      (crewAt s1 (envOf s c).c).warps.any (fun w => parkedOnPort s1 w n.val)) = true := by
    rw [hempty]
    simpa using hfree
  obtain ⟨hlen, hpaths⟩ := paths_of_given hg
  obtain ⟨hp, hr, l, vals, hl, hs, rfl⟩ := hg
  refine runInstr_ok s _ c _ _ _ _ _ (issuing_of_plain hp) hr rfl ?_
  simp only [show readSrcs s (envOf s c) (taking (envOf s c) g) [(a, 1)] none false = .ok (s1, vals) from hs,
    show warpValue (taking (envOf s c) g) vals 0 = _ from warpValue_eq_getD hl vals 0]
  refine (if_neg (mask_ne_zero_of_lowest hl)).trans ((if_neg hidle).trans ((if_neg hlegal).trans ?_))
  exact advance_of_warps hp hlen hpaths rfl

theorem execQctlQbind_binds (hbind : bits (v 0) 31 1 = 1) (hres : bits (v 0) 9 22 = 0) (hlo : 1 ≤ bits (v 0) 4 5)
    (hhi : bits (v 0) 4 5 ≤ 16) (hprod : roleDeclared s1 (envOf s c) (bits (v 0) 0 2) = true)
    (hcons : roleDeclared s1 (envOf s c) (bits (v 0) 2 2) = true) :
    execQctlQbind g n a s = .next (stepped (setCrew s1 (envOf s c).c { crewAt s1 (envOf s c).c with
      chans := (crewAt s1 (envOf s c).c).chans.set n.val
        ⟨true, bits (v 0) 0 2, bits (v 0) 2 2, bits (v 0) 4 5, []⟩ }) c) := by
  have hdepth : bits (v 0) 4 5 ≠ 0 := by omega
  exact execQctlQbind_of_legal hg hempty hfree (by rw [hbind]; rfl)
    (by simp [hbind, hres, hprod, hcons, hdepth, hhi])

theorem execQctlQbind_unbinds (hzero : v 0 = 0) :
    execQctlQbind g n a s = .next (stepped (setCrew s1 (envOf s c).c { crewAt s1 (envOf s c).c with
      chans := (crewAt s1 (envOf s c).c).chans.set n.val ⟨false, 0, 0, 0, []⟩ }) c) :=
  execQctlQbind_of_legal hg hempty hfree (by rw [hzero]; rfl) (by simp [hzero, bits_eq_div_mod])

end

/-! ### Exchanges (R157) -/

theorem dstPort_of_ne_port {o : Opnd} (h : ∀ q, o ≠ .q q) : dstPort (some o) = none := by
  cases o with
  | q q => exact absurd rfl (h q)
  | _ => rfl

/-- The partner's side of an exchange, whose result is for a register or latch. -/
theorem swapPartner_register {s : State} {w : Nat} {k : Which} {dst : Dest} {val : Nat → Nat}
    (hw : w < s.warps.length) (hq : ∀ q, dst.d ≠ .q q) :
    let y := writeDest (warpAt s w) dst 1 val
    let t := setWarp s w { y with xsn := y.xsn + 1 }
    let sl := slotOf (warpAt t w) k
    bits sl.path.pc.toNat 0 42 ≠ 2 ^ 42 - 8 → swapPartner s w k dst val =
      .ok (resumeSlot (setSlot t w k { sl with path := { sl.path with pc := nextPc sl.path.pc }, turned := none }) w k) := by
  intro y t sl hl
  have ht : countSwap (setWarp s w y) w = t := by
    rw [countSwap, warpAt_setWarp _ _ _ hw, setWarp_setWarp]
  have hstep : stepOn sl = { sl with path := { sl.path with pc := nextPc sl.path.pc }, turned := none } := by
    have hlast : pcLast sl.path.pc = false := beq_eq_false_iff_ne.2 hl
    unfold stepOn
    rw [hlast]
    rfl
  unfold swapPartner
  simp only [show writeDest (warpAt s w) dst 1 val = y from rfl, ht]
  rw [show stepOn (slotOf (warpAt t w) k) = _ from hstep]

section
variable {s s1 : State} {c : Cur} {h : Hdr} {d a : Opnd} {v : Nat → List Nat} (hp : plain s c = true)
  (hr : regsOk [(d, 1), (a, 1)] (envOf s c) = true) (hq : ∀ q, d ≠ .q q) (hm : takers s c h.g ≠ 0)
  (ho : outside (envOf s c) = 0) (hpair : inPairLaunch s (envOf s c) = true)
  (hends : partnerEnded s (envOf s c) = false)
  (hs : readSrcs s (envOf s c) (takers s c h.g) [(a, 1)] (some d) (!h.w) = .ok (s1, v))
include hp hr hm ho hpair hends hs

/-- An exchange that no partner has come to yet waits for it, with its operand read (R157). -/
theorem execXswap_waits (hnone : partnerPark s1 (envOf s c) = none) : execXswap h d a s = .next (retrying s1 c
    (.xswap ⟨h, d, takers s c h.g⟩ (tab (fun l => BitVec.ofNat 32 ((v l).getD 0 0))) (dstPort (some a)))) := by
  refine (runInstr_park (t := s1)
    (p := .xswap ⟨h, d, takers s c h.g⟩ (tab (fun l => arg32 (v l) 0)) (dstPort (some a))) (issuing_of_plain hp) hr rfl
    ((if_neg hm).trans ((if_neg (not_not.2 ho)).trans ((if_neg (by simp [hpair])).trans
      ((if_neg (by simp [hends])).trans ?_)))) nofun).trans ?_
  · simp only [show readSrcs s (envOf s c) (taking (envOf s c) h.g) [(a, 1)] (some d) (!h.w) = .ok (s1, v) from hs, hnone]
    rfl
  · rw [parkPath_retrying rfl]
    rfl

/-- An exchange that its partner waits for gives each side the other's words (R157). -/
theorem execXswap_meets (hq : ∀ q, d ≠ .q q) {w : Nat} {k : Which} {dst : Dest} {theirs : List Word}
    (hpark : partnerPark s1 (envOf s c) = some (w, k, dst, theirs)) (hne : w ≠ c.w) (hw : w < s.warps.length)
    (hdst : ∀ q, dst.d ≠ .q q) :
    let own := tab (fun l => BitVec.ofNat 32 ((v l).getD 0 0))
    let s2 := countSwap s1 c.w
    let y := writeDest (warpAt s2 w) dst 1 (swapVal theirs own (takers s c h.g))
    let s3 := setWarp s2 w { y with xsn := y.xsn + 1 }
    let sl := slotOf (warpAt s3 w) k
    bits sl.path.pc.toNat 0 42 ≠ 2 ^ 42 - 8 →
    let s4 := resumeSlot (setSlot s3 w k { sl with
      path := { sl.path with pc := nextPc sl.path.pc }, turned := none }) w k
    execXswap h d a s = .next (wrote s4 c h d (takers s c h.g) 1 (swapVal own theirs dst.lanes)) := by
  intro own s2 y s3 sl hl s4
  obtain ⟨hlen, hpaths, -, -⟩ := readSrcs_same s s1 c _ _ _ _ v hp hs
  have hcw : c.w < s1.warps.length := hlen ▸ warp_lt_of_plain hp
  have hlen2 : s2.warps.length = s.warps.length := (setWarp_length _ _ _).trans hlen
  have hroom : ¬ swapBlocked s1 w k dst = true := by
    rw [swapBlocked, dstPort_of_ne_port hdst]
    exact Bool.false_ne_true
  have hpartner : swapPartner s2 w k dst (swapVal theirs own (takers s c h.g)) = .ok s4 :=
    swapPartner_register (hlen2 ▸ hw) hdst hl
  obtain ⟨-, hlen4, hothers⟩ : onlyWarp w s2 s4 := onlyWarp_trans (onlyWarp_setWarp _)
    (onlyWarp_trans (onlyWarp_setSlot _ _) (onlyWarp_resumeSlot _ _ _))
  have hpaths4 : samePaths (warpAt s c.w) (warpAt s4 c.w) := by
    rw [hothers _ hne.symm, show warpAt s2 c.w = _ from warpAt_setWarp _ _ _ hcw]
    exact hpaths
  refine runInstr_ok s _ c _ _ _ _ _ (issuing_of_plain hp) hr rfl
    ((if_neg hm).trans ((if_neg (not_not.2 ho)).trans ((if_neg (by simp [hpair])).trans
      ((if_neg (by simp [hends])).trans ?_))))
  simp only [show readSrcs s (envOf s c) (taking (envOf s c) h.g) [(a, 1)] (some d) (!h.w) = .ok (s1, v) from hs, hpark]
  refine (if_neg hroom).trans ?_
  rw [show swapPartner (countSwap s1 (envOf s c).w) w k dst (swapVal theirs (tab (fun l => arg32 (v l) 0))
    (taking (envOf s c) h.g)) = .ok s4 from hpartner]
  exact finish_same s s4 c h d _ 1 _ hp (hlen4.trans hlen2) hpaths4 hq

end

/-- Settles O37: the channel's binding by its word, the exchange by its partner. -/
theorem channelsAndSwap : Obligations.ChannelsAndSwap := by
  constructor
  · intro g d a s c s1 v e cr bound hg hempty hfree
    exact ⟨fun hbind hres hlo hhi hprod hcons => execQctlQbind_binds hg hempty hfree hbind hres hlo hhi hprod hcons,
      execQctlQbind_unbinds hg hempty hfree⟩
  · intro h d a s c s1 v e m own s2 hp hr hq hm ho hpair hends hs
    refine ⟨execXswap_waits hp hr hm ho hpair hends hs, fun w k dst theirs hpark hne hw hdst => ?_⟩
    intro got y s3 sl hl s4
    exact execXswap_meets hp hr hm ho hpair hends hs hq hpark hne hw hdst hl

end Sys2Proof.Machine

/-! ## Branches that split their path (R101, R139, R140, R190) -/

namespace Sys2Proof.Machine

/-! ### The warp of a split -/

theorem slotOf_ents_ssn (x : Warp) (es : List (BitVec 256)) (n : Nat) (k : Which) :
    slotOf { x with ents := es, ssn := n } k = slotOf x k := by
  cases k <;> rfl

theorem slotOf_ssn (x : Warp) (n : Nat) (k : Which) : slotOf { x with ssn := n } k = slotOf x k := by
  cases k <;> rfl

theorem otherSlot_otherSlot (k : Which) : otherSlot (otherSlot k) = k := by
  cases k <;> rfl

/-- The lanes that do not take a branch go on in slot k; the others take the other slot, or go on the split stack. -/
def splitWarp (x : Warp) (k : Which) (p q : Path) : Warp :=
  let y := withSlot x k { slotOf x k with stale := true, path := p, turned := none }
  if (slotOf x (otherSlot k)).live then { y with ents := y.ents.set y.ssn (entMake 1 0 q), ssn := y.ssn + 1 }
  else withSlot y (otherSlot k) (Slot.ofPath q)

/-- A split under a rejoin address pushes its JOIN entry (R140). -/
theorem splitOnto_some {x : Warp} {k : Which} (hk : k ≠ .handler) (tm nm : Mask) (t r : DWord) :
    let p := (slotOf x k).path
    splitOnto x k tm nm t (some r) =
      splitWarp { x with ents := x.ents.set x.ssn (entMake 2 2 { p with pc := r }), ssn := x.ssn + 1 } k
        ⟨nextPc p.pc, nm, r, x.ssn + 1⟩ ⟨t, tm, r, x.ssn + 1⟩ := by
  unfold splitOnto splitWarp
  simp only [slotOf_ents_ssn, slotOf_withSlot_ne _ _ (otherSlot_ne hk)]

/-- A split of a path that rejoins nowhere pushes no JOIN entry (R140). -/
theorem splitOnto_none {x : Warp} {k : Which} (hk : k ≠ .handler) (tm nm : Mask) (t : DWord)
    (hd : (slotOf x k).path.depth = 0) :
    let p := (slotOf x k).path
    splitOnto x k tm nm t none = splitWarp x k ⟨nextPc p.pc, nm, p.rjpc, 0⟩ ⟨t, tm, p.rjpc, 0⟩ := by
  unfold splitOnto splitWarp
  simp only [hd, if_true, slotOf_ents_ssn, slotOf_withSlot_ne _ _ (otherSlot_ne hk)]

/-- A split of a path that rejoins gives its JOIN entry one child more (R140). -/
theorem splitOnto_child {x : Warp} {k : Which} (hk : k ≠ .handler) (tm nm : Mask) (t : DWord)
    (hd : (slotOf x k).path.depth ≠ 0) :
    let p := (slotOf x k).path
    let en := x.ents.getD (p.depth - 1) 0
    splitOnto x k tm nm t none =
      splitWarp { x with ents := x.ents.set (p.depth - 1) (entMake 2 (entCnt en + 1) (entPath en)) } k
        ⟨nextPc p.pc, nm, p.rjpc, p.depth⟩ ⟨t, tm, p.rjpc, p.depth⟩ := by
  unfold splitOnto splitWarp
  simp only [hd, if_false, slotOf_ents_ssn, slotOf_withSlot_ne _ _ (otherSlot_ne hk)]

theorem splitWarp_of_free {x : Warp} {k : Which} (h : (slotOf x (otherSlot k)).live = false) (p q : Path) :
    splitWarp x k p q = withSlot (withSlot x k { slotOf x k with stale := true, path := p, turned := none })
      (otherSlot k) (Slot.ofPath q) := by
  unfold splitWarp
  rw [h]
  rfl

theorem arrives_of_noArrival {x : Warp} (h : noArrival x) {k : Which} (hk : k ≠ .handler) : arrives (slotOf x k) = false := by
  cases k with
  | handler => exact absurd rfl hk
  | a => exact h.1
  | b => exact h.2

theorem otherSlot_ne_handler {k : Which} (hk : k ≠ .handler) : otherSlot k ≠ .handler := by
  cases k with
  | handler => exact absurd rfl hk
  | a => nofun
  | b => nofun

/-- With both slots live and no arrival, nothing is settled (R141). -/
theorem settle_of_noArrival {s : State} {w : Nat} {k : Which} (hk : k ≠ .handler) (hn : noArrival (warpAt s w))
    (hl : (slotOf (warpAt s w) k).live = true) (ho : (slotOf (warpAt s w) (otherSlot k)).live = true) :
    settle s w k = .ok s := by
  unfold settle settleFuel settlePaths
  simp only [arrives_of_noArrival hn hk, arrives_of_noArrival hn (otherSlot_ne_handler hk), hl, ho, Bool.false_eq_true,
    if_false, Bool.not_true]

theorem splitWarp_live {x : Warp} {k : Which} (hk : k ≠ .handler) (hl : (slotOf x k).live = true) (p q : Path) :
    (slotOf (splitWarp x k p q) k).live = true ∧ (slotOf (splitWarp x k p q) (otherSlot k)).live = true := by
  unfold splitWarp
  split
  · next ho =>
    simp only [slotOf_ents_ssn, slotOf_withSlot, slotOf_withSlot_ne _ _ (otherSlot_ne hk)]
    exact ⟨hl, ho⟩
  · simp only [slotOf_withSlot, slotOf_withSlot_ne _ _ (otherSlot_ne hk).symm]
    exact ⟨hl, rfl⟩

theorem warpAt_of_warps {s t : State} (h : t.warps = s.warps) (w : Nat) : warpAt t w = warpAt s w := by
  rw [warpAt, h, warpAt]

/-! ### Splitting -/

/-- A push among the warp's own entries (R139). -/
theorem pushEnt_of_lt {s : State} {e : Env} {en : BitVec 256} (hw : e.w < s.warps.length)
    (h : (warpAt s e.w).ssn < 4) : pushEnt s e en = .ok (setWarp s e.w { warpAt s e.w with
      ents := (warpAt s e.w).ents.set (warpAt s e.w).ssn en, ssn := (warpAt s e.w).ssn + 1 }) := by
  unfold pushEnt
  simp only [entPut_of_lt h, Except.map, setSsn, warpAt_setWarp _ _ _ hw, setWarp_setWarp]

/-- The PC of a path goes on, unless it is at the last offset (R28). -/
theorem stepOn_of_not_last {sl : Slot} (hlast : bits sl.path.pc.toNat 0 42 ≠ 2 ^ 42 - 8) :
    stepOn sl = { sl with
      path := ⟨nextPc sl.path.pc, sl.path.mask, sl.path.rjpc, sl.path.depth⟩, turned := none } := by
  have hl : pcLast sl.path.pc = false := beq_eq_false_iff_ne.2 hlast
  unfold stepOn
  rw [hl]
  rfl

/-- One child more, among the warp's own entries (R140). -/
theorem addChild_of_lt {s : State} {e : Env} {k : Nat} (h : k < 4) :
    addChild s e k = .ok (setWarp s e.w { warpAt s e.w with
      ents := (warpAt s e.w).ents.set k
        (entMake 2 (entCnt ((warpAt s e.w).ents.getD k 0) + 1) (entPath ((warpAt s e.w).ents.getD k 0))) }) := by
  have hown : ¬ entTraps k ((warpAt s e.w).ents.getD k 0) = true := by simp [entTraps, show ¬ 4 ≤ k by omega]
  unfold addChild
  rw [entRead_of_lt h]
  exact (if_neg hown).trans (entPut_of_lt h)

theorem splitWarp_ssn (x : Warp) (k : Which) (p q : Path) :
    (splitWarp x k p q).ssn = x.ssn + (if (slotOf x (otherSlot k)).live then 1 else 0) := by
  unfold splitWarp
  split <;> simp

/-- The last part of a split, from the state in which its rejoin address is in force: the slot goes on with the lanes that
do not take the branch, and the others get a path of their own. -/
def splitFrom (s : State) (e : Env) (tm nm : Mask) (t rjpc : DWord) (dp : Nat) : Except Stop State :=
  let sl := stepOn (slotOf (warpAt s e.w) e.which)
  let s := setSlot s e.w e.which { sl with
    stale := true, path := { sl.path with mask := nm, rjpc := rjpc, depth := dp } }
  let q : Path := { pc := t, mask := tm, rjpc := rjpc, depth := dp }
  let r : Except Unsettled State :=
    if (slotOf (warpAt s e.w) (otherSlot e.which)).live then pushEnt s e (entMake 1 0 q)
    else .ok (setSlot s e.w (otherSlot e.which) (Slot.ofPath q))
  orStop e (r.bind (fun s => settle s e.w e.which))

/-- What a split without a rejoin address does, by the path's depth. -/
theorem splitPath_none (s : State) (e : Env) (tm nm : Mask) (t : DWord) : splitPath s e tm nm t none =
    if e.sl.path.depth = 0 then splitFrom s e tm nm t e.sl.path.rjpc e.sl.path.depth
    else match addChild s e (e.sl.path.depth - 1) with
      | .error x => .error (unsettled e x)
      | .ok u => splitFrom u e tm nm t e.sl.path.rjpc e.sl.path.depth := by
  unfold splitPath
  by_cases hd : e.sl.path.depth = 0
  · simp only [if_pos hd]
    rfl
  · simp only [if_neg hd]
    cases addChild s e (e.sl.path.depth - 1) <;> rfl

/-- What a split under a rejoin address does. -/
theorem splitPath_some (s : State) (e : Env) (tm nm : Mask) (t r : DWord) : splitPath s e tm nm t (some r) =
    match pushEnt s e (entMake 2 2 { e.sl.path with pc := r }) with
      | .error x => .error (unsettled e x)
      | .ok u => splitFrom u e tm nm t r (warpAt u e.w).ssn := by
  unfold splitPath
  dsimp only
  cases pushEnt s e (entMake 2 2 { e.sl.path with pc := r }) <;> rfl

section
variable {s : State} {e : Env} (hw : e.w < s.warps.length) (hk : e.which ≠ .handler)
include hw hk

/-- The issuing path has split in the state `s`, in which its rejoin address is in force (R140). -/
theorem split_parts {x : Warp} {p q : Path} (hx : warpAt s e.w = x) (hlive : (slotOf x e.which).live = true)
    (hroom : (slotOf x (otherSlot e.which)).live = true → x.ssn < 4) (hn : noArrival (splitWarp x e.which p q)) :
    let u := setSlot s e.w e.which { slotOf x e.which with stale := true, path := p, turned := none }
    let r : Except Unsettled State :=
      if (slotOf (warpAt u e.w) (otherSlot e.which)).live then pushEnt u e (entMake 1 0 q)
      else .ok (setSlot u e.w (otherSlot e.which) (Slot.ofPath q))
    r.bind (fun s => settle s e.w e.which) = .ok (setWarp s e.w (splitWarp x e.which p q)) := by
  subst hx
  intro u r
  have hu : warpAt u e.w = withSlot (warpAt s e.w) e.which
      { slotOf (warpAt s e.w) e.which with stale := true, path := p, turned := none } := warpAt_setWarp _ _ _ hw
  have huw : e.w < u.warps.length := by rwa [show u.warps.length = s.warps.length from setWarp_length _ _ _]
  obtain ⟨hlk, hlo⟩ := splitWarp_live hk hlive p q
  have hr : r = .ok (setWarp s e.w (splitWarp (warpAt s e.w) e.which p q)) := by
    unfold r splitWarp
    rw [hu, slotOf_withSlot_ne _ _ (otherSlot_ne hk)]
    split
    · next ho =>
      rw [pushEnt_of_lt huw (by rw [hu, withSlot_ssn]; exact hroom ho), hu]
      exact congrArg Except.ok (setWarp_setWarp _ _ _ _)
    · next ho =>
      rw [setSlot, hu]
      exact congrArg Except.ok (setWarp_setWarp _ _ _ _)
  rw [hr]
  exact settle_of_noArrival hk (by rwa [warpAt_setWarp _ _ _ hw]) (by rwa [warpAt_setWarp _ _ _ hw])
    (by rwa [warpAt_setWarp _ _ _ hw])

theorem splitFrom_eq {x : Warp} {tm nm : Mask} {t rjpc : DWord} {dp : Nat} (hx : warpAt s e.w = x)
    (hsl : slotOf x e.which = e.sl) (hlive : e.sl.live = true) (hlast : bits e.sl.path.pc.toNat 0 42 ≠ 2 ^ 42 - 8)
    (hroom : (slotOf x (otherSlot e.which)).live = true → x.ssn < 4)
    (hn : noArrival (splitWarp x e.which ⟨nextPc e.sl.path.pc, nm, rjpc, dp⟩ ⟨t, tm, rjpc, dp⟩)) :
    splitFrom s e tm nm t rjpc dp =
      .ok (setWarp s e.w (splitWarp x e.which ⟨nextPc e.sl.path.pc, nm, rjpc, dp⟩ ⟨t, tm, rjpc, dp⟩)) := by
  have hparts := split_parts hw hk hx (by rw [hsl]; exact hlive) hroom hn
  unfold splitFrom
  rw [hx, hsl, stepOn_of_not_last hlast]
  rw [hsl] at hparts
  exact congrArg (orStop e) hparts

variable (hsl : slotOf (warpAt s e.w) e.which = e.sl) (hlive : e.sl.live = true)
  (hlast : bits e.sl.path.pc.toNat 0 42 ≠ 2 ^ 42 - 8)
include hsl hlive hlast

/-- A split that needs only the warp's own entries (R140). -/
theorem splitPath_own {tm nm : Mask} {t : DWord} {rj : Option DWord} (hdepth : e.sl.path.depth ≤ 4)
    (hroom : (splitOnto (warpAt s e.w) e.which tm nm t rj).ssn ≤ 4)
    (hn : noArrival (splitOnto (warpAt s e.w) e.which tm nm t rj)) :
    splitPath s e tm nm t rj = .ok (setWarp s e.w (splitOnto (warpAt s e.w) e.which tm nm t rj)) := by
  have parts : ∀ {x : Warp} {rjpc : DWord} {dp : Nat}, slotOf x e.which = e.sl →
      splitOnto (warpAt s e.w) e.which tm nm t rj =
        splitWarp x e.which ⟨nextPc e.sl.path.pc, nm, rjpc, dp⟩ ⟨t, tm, rjpc, dp⟩ →
      splitFrom (setWarp s e.w x) e tm nm t rjpc dp =
        .ok (setWarp s e.w (splitOnto (warpAt s e.w) e.which tm nm t rj)) := by
    intro x rjpc dp hx heq
    rw [heq] at hroom hn ⊢
    have hx' : warpAt (setWarp s e.w x) e.w = x := warpAt_setWarp _ _ _ hw
    refine (splitFrom_eq (by rwa [setWarp_length]) hk hx' hx hlive hlast (fun ho => ?_) hn).trans ?_
    · rw [splitWarp_ssn, if_pos ho] at hroom
      omega
    · rw [setWarp_setWarp]
  cases rj with
  | some r =>
    have hs := splitOnto_some (x := warpAt s e.w) hk tm nm t r
    rw [hsl] at hs
    have hlt : (warpAt s e.w).ssn < 4 := by
      rw [hs, splitWarp_ssn] at hroom
      simp only at hroom
      omega
    rw [splitPath_some, pushEnt_of_lt hw hlt]
    simp only [warpAt_setWarp _ _ _ hw]
    exact parts ((slotOf_ents_ssn ..).trans hsl) hs
  | none =>
    rw [splitPath_none]
    by_cases hd : e.sl.path.depth = 0
    · have hs := splitOnto_none (x := warpAt s e.w) hk tm nm t (by rw [hsl]; exact hd)
      rw [hsl] at hs
      rw [if_pos hd, hd]
      have := parts hsl hs
      rwa [setWarp_self] at this
    · have hs := splitOnto_child (x := warpAt s e.w) hk tm nm t (by rw [hsl]; exact hd)
      rw [hsl] at hs
      have hlt : e.sl.path.depth - 1 < 4 := by omega
      rw [if_neg hd, addChild_of_lt hlt]
      exact parts ((slotOf_ents ..).trans hsl) hs

/-- A split whose JOIN entry lies in memory (R139, R140). -/
theorem splitPath_far {tm nm : Mask} {t r : DWord} {u : State} (hn4 : 4 ≤ (warpAt s e.w).ssn)
    (ho : (slotOf (warpAt s e.w) (otherSlot e.which)).live = false)
    (hput : entPut s e.sl.failed e.w (warpAt s e.w).ssn (entMake 2 2 { e.sl.path with pc := r }) = .ok u)
    {z : Warp} (hz : splitWarp { warpAt u e.w with ssn := (warpAt s e.w).ssn + 1 } e.which
      ⟨nextPc e.sl.path.pc, nm, r, (warpAt s e.w).ssn + 1⟩ ⟨t, tm, r, (warpAt s e.w).ssn + 1⟩ = z) (hn : noArrival z) :
    splitPath s e tm nm t (some r) = .ok (setWarp u e.w z) := by
  subst hz
  obtain ⟨hwarps, -⟩ := onlyMemory_of_entPut hn4 hput
  have hwu : e.w < u.warps.length := by rwa [hwarps]
  have hwarp : warpAt u e.w = warpAt s e.w := warpAt_of_warps hwarps e.w
  have hset : warpAt (setSsn u e.w ((warpAt s e.w).ssn + 1)) e.w = { warpAt u e.w with ssn := (warpAt s e.w).ssn + 1 } :=
    warpAt_setWarp _ _ _ hwu
  have hpush : pushEnt s e (entMake 2 2 { e.sl.path with pc := r }) = .ok (setSsn u e.w ((warpAt s e.w).ssn + 1)) :=
    congrArg (Except.map (setSsn · e.w ((warpAt s e.w).ssn + 1))) hput
  rw [splitPath_some, hpush]
  simp only [hset]
  refine (splitFrom_eq (by rwa [setSsn, setWarp_length]) hk hset ?_ hlive hlast ?_ hn).trans ?_
  · rw [slotOf_ssn, hwarp, hsl]
  · rw [slotOf_ssn, hwarp, ho]
    nofun
  · rw [setSsn, setWarp_setWarp]

omit hw hk hsl hlive hlast in
/-- A split that would give a malformed entry in memory one child more (R139). -/
theorem splitPath_malformed {tm nm : Mask} {t : DWord} {en : BitVec 256} (hd : 4 < e.sl.path.depth)
    (hen : entRead s e.sl.failed e.w (e.sl.path.depth - 1) = .ok en) (hbad : entMalformed en = true) :
    splitPath s e tm nm t none = .error (.trap ⟨0x0B, e.mask, e.pc.toNat, 2⟩) := by
  have htraps : entTraps (e.sl.path.depth - 1) en = true := by
    rw [entTraps, hbad, decide_eq_true (by omega)]
    rfl
  have hadd : addChild s e (e.sl.path.depth - 1) = .error (.bad 0x0B 2) := by
    unfold addChild
    rw [hen]
    exact if_pos htraps
  rw [splitPath_none, if_neg (by omega), hadd]
  rfl

end

/-! ### What a branch that splits does -/

theorem samePaths_linked {s : State} {c : Cur} (hw : c.w < s.warps.length) (k : Option Opnd) (m : Mask) :
    samePaths (warpAt s c.w) (warpAt (linked s c k m) c.w) := by
  cases k with
  | none => exact samePaths_refl _
  | some o =>
    rw [linked, warpAt_setWarp _ _ _ hw]
    exact ⟨writeReg_sa .., writeReg_sb .., writeReg_hdl .., writeReg_ssn .., writeReg_ents ..⟩

/-- Entries that a warp's split stack holds, of its own and in memory (R139). -/
theorem splitCapacity_eq (s : State) (c : Cur) : splitCapacity s c.w =
    4 + ((launchOf s (envOf s c).cr.launch).map (fun l => recBits l.record 400 21)).getD 0 / 32 := by
  unfold splitCapacity splitBytes launchOfWarp
  show 4 + (match launchOf s (envOf s c).cr.launch with | some l => recBits l.record 400 21 | none => 0) / 32 = _
  cases launchOf s (envOf s c).cr.launch <;> rfl

section
variable {s : State} {c : Cur} {g : Guard} {rj : BitVec 17} {tgt : BitVec 24} {k : Option Opnd}
  (hi : issuing s c = true) (hk : c.which ≠ .handler) (hr : regsOk (linkSrc k) (envOf s c) = true)
  (hm : takers s c g ≠ 0) (hn : (envOf s c).mask &&& ~~~ takers s c g ≠ 0)
  (hx : indexOk (indexFrom (envOf s c).pc (sx 24 tgt.toNat)))
include hi hk hr hm hn hx

theorem branch_rejoin_outside (hrj : rj ≠ 0) (hrx : ¬ indexOk (indexFrom (envOf s c).pc (sx 17 rj.toNat))) :
    branch s g false rj tgt k =
      .next (takeTrap s (envOf s c) 0 ⟨6, takers s c g, (envOf s c).pc.toNat, 0⟩) := by
  unfold branch
  refine runInstr_trap s c _ _ _ _ _ _ hi hr rfl ?_
  simp only [codeTarget_of_indexOk hx]
  refine (if_neg hm).trans ((if_neg hn).trans ((if_neg Bool.false_ne_true).trans ((if_neg hk).trans ?_)))
  rw [if_neg hrj, codeTarget_of_not_indexOk hrx]
  rfl

/-- With its target and its rejoin address inside the object, the branch splits where the stack has room (R139). -/
theorem branch_splits (hok : rj = 0 ∨ indexOk (indexFrom (envOf s c).pc (sx 17 rj.toNat))) :
    branch s g false rj tgt k = runInstr s 0 (regsOk (linkSrc k)) anyMode g (fun e =>
      if splitCapacity s c.w < e.x.ssn + ((if rj = 0 then 0 else 1) +
          (if (slotOf e.x (otherSlot c.which)).live then 1 else 0)) then
        .error (.trap ⟨0x0B, takers s c g, e.pc.toNat, 1⟩)
      else splitPath (linked s c k (takers s c g)) e (takers s c g) (e.mask &&& ~~~ takers s c g)
        (placeOf e.pc (indexFrom e.pc (sx 24 tgt.toNat)))
        (if rj = 0 then none else some (placeOf e.pc (indexFrom e.pc (sx 17 rj.toNat))))) := by
  unfold branch
  refine runInstr_congr (cur_of_issuing hi) rfl ?_
  simp only [codeTarget_of_indexOk hx]
  refine (if_neg hm).trans ((if_neg hn).trans ((if_neg Bool.false_ne_true).trans ((if_neg hk).trans ?_)))
  by_cases hrj : rj = 0
  · simp only [if_pos hrj]
    cases k <;> rfl
  · simp only [if_neg hrj, codeTarget_of_indexOk (hok.resolve_left hrj)]
    cases k <;> rfl

/-- A split that needs more entries than the capacity traps SPLIT (R139). -/
theorem branch_no_room (hok : rj = 0 ∨ indexOk (indexFrom (envOf s c).pc (sx 17 rj.toNat)))
    (hroom : splitCapacity s c.w < (envOf s c).x.ssn + ((if rj = 0 then 0 else 1) +
      (if (slotOf (envOf s c).x (otherSlot c.which)).live then 1 else 0))) :
    branch s g false rj tgt k =
      .next (takeTrap s (envOf s c) 0 ⟨0x0B, takers s c g, (envOf s c).pc.toNat, 1⟩) := by
  rw [branch_splits hi hk hr hm hn hx hok]
  exact runInstr_trap s c _ _ _ _ _ _ hi hr rfl (if_pos hroom)

variable (hok : rj = 0 ∨ indexOk (indexFrom (envOf s c).pc (sx 17 rj.toNat)))
  (hroom : (envOf s c).x.ssn + ((if rj = 0 then 0 else 1) +
      (if (slotOf (envOf s c).x (otherSlot c.which)).live then 1 else 0)) ≤ splitCapacity s c.w)
include hok hroom

theorem branch_of_splitPath {t : State} (ht : splitPath (linked s c k (takers s c g)) (envOf s c) (takers s c g)
      ((envOf s c).mask &&& ~~~ takers s c g) (placeOf (envOf s c).pc (indexFrom (envOf s c).pc (sx 24 tgt.toNat)))
      (if rj = 0 then none else some (placeOf (envOf s c).pc (indexFrom (envOf s c).pc (sx 17 rj.toNat)))) = .ok t) :
    branch s g false rj tgt k = .next t := by
  rw [branch_splits hi hk hr hm hn hx hok]
  exact runInstr_ok s t c _ _ _ _ _ hi hr rfl ((if_neg (not_lt.2 hroom)).trans ht)

theorem branch_of_splitPath_trap {r : Raise} (ht : splitPath (linked s c k (takers s c g)) (envOf s c) (takers s c g)
      ((envOf s c).mask &&& ~~~ takers s c g) (placeOf (envOf s c).pc (indexFrom (envOf s c).pc (sx 24 tgt.toNat)))
      (if rj = 0 then none else some (placeOf (envOf s c).pc (indexFrom (envOf s c).pc (sx 17 rj.toNat)))) =
        .error (.trap r)) :
    branch s g false rj tgt k = .next (takeTrap s (envOf s c) 0 r) := by
  rw [branch_splits hi hk hr hm hn hx hok]
  exact runInstr_trap s c _ _ _ _ _ _ hi hr rfl ((if_neg (not_lt.2 hroom)).trans ht)

end

/-- The entries that a split pushes. -/
theorem splitOnto_ssn {x : Warp} {k : Which} (hk : k ≠ .handler) (tm nm : Mask) (t : DWord) (rj : Option DWord) :
    (splitOnto x k tm nm t rj).ssn =
      x.ssn + ((if rj.isSome then 1 else 0) + (if (slotOf x (otherSlot k)).live then 1 else 0)) := by
  cases rj with
  | some r =>
    rw [splitOnto_some hk, splitWarp_ssn, slotOf_ents_ssn, add_assoc]
    rfl
  | none =>
    by_cases hd : (slotOf x k).path.depth = 0
    · rw [splitOnto_none hk _ _ _ hd, splitWarp_ssn]
      simp
    · rw [splitOnto_child hk _ _ _ hd, splitWarp_ssn]
      dsimp only
      rw [slotOf_ents]
      simp

/-! ### Entries in memory (R139, R190) -/

theorem isLocal_of_not_far {q : Piece} (h : ∀ dev sub bit, q.place ≠ .far dev sub bit) : isLocal q = true := by
  unfold isLocal
  split
  · next hq => exact absurd hq (h _ _ _)
  · rfl

section
variable {s : State} {w : Nat} {fl : List (SubTile × Nat × Nat)} {j region : Nat} {l : Launch} {r : Rec}
  (hj : 4 ≤ j) (hl : launchOf s (crewOf s w).launch = some l) (hregion : (crewOf s w).region = some region)

/-- Where entry j of a warp lies in memory (R190). -/
def entByte (s : State) (w : Nat) (l : Launch) (region j : Nat) : Nat :=
  region * ((crewOf s w).warps.length * recBits l.record 400 21) + (warpAt s w).wid * recBits l.record 400 21 + 32 * (j - 4)

variable (hrec : recordOf s (entAgent s w fl) (recBits l.record 554 22) (entByte s w l region j) = .ok r)
  (hbound : 8 * entByte s w l region j + 256 ≤ storageBound r)
include hl hregion hrec hbound

theorem entLoc_eq : entLoc s (entAgent s w fl) w j = .ok ⟨r, recBits l.record 554 22, entByte s w l region j,
    8 * entByte s w l region j, 256⟩ := by
  unfold entByte at hrec hbound ⊢
  unfold entLoc
  simp only [hl, hregion, Nat.reduceAdd, hrec]
  exact if_neg (not_lt.2 hbound)

include hj

/-- An entry in this device's memory is read there. -/
theorem entRead_here {ps : List Piece} (hfind : findAll s (entAgent s w fl) ⟨r, recBits l.record 554 22,
      entByte s w l region j, 8 * entByte s w l region j, 256⟩ false = ⟨none, [], ps⟩) (hsound : soundHere s ps = true) :
    entRead s fl w j = .ok (BitVec.ofNat 256 (readPieces s [] ps)) := by
  have hlocal : ∀ q ∈ ps, isLocal q = true ∧ piecePoisoned s q = false := by
    intro q hq
    have h := List.all_eq_true.1 hsound q hq
    rw [Bool.and_eq_true, Bool.not_eq_true'] at h
    exact h
  have hclean : ¬ ps.any (piecePoisoned s) = true := by
    rw [List.any_eq_true]
    rintro ⟨q, hq, hbad⟩
    rw [(hlocal q hq).2] at hbad
    cases hbad
  have hpieces : entPieces s (entAgent s w fl) ⟨r, recBits l.record 554 22, entByte s w l region j,
      8 * entByte s w l region j, 256⟩ false = .ok ps := by
    unfold entPieces
    simp only [hfind, List.isEmpty_nil, Bool.not_true, Bool.false_eq_true, if_false]
    refine (if_neg hclean).trans ?_
    rw [farLines, farPieces_of_isLocal ps (fun q hq => (hlocal q hq).1)]
    rfl
  unfold entRead
  simp only [if_neg (show ¬ j < 4 by omega), entLoc_eq hl hregion hrec hbound, hpieces,
    readAll_of_isLocal s [] ps (fun q hq => (hlocal q hq).1)]

/-- An entry in this device's memory is replaced there. -/
theorem entPut_here (hown : ownLines s) {ps : List Piece} {en : BitVec 256} (hfind : findAll s (entAgent s w fl)
      ⟨r, recBits l.record 554 22, entByte s w l region j, 8 * entByte s w l region j, 256⟩ true = ⟨none, [], ps⟩)
    (hlocal : ∀ q ∈ ps, isLocal q = true) : entPut s fl w j en = .ok (storeLoc s (some (0, w)) (crewOf s w).ctx
      ⟨r, recBits l.record 554 22, entByte s w l region j, 8 * entByte s w l region j, 256⟩ ps en.toNat) := by
  have hreqs : ∀ x, writeReqs s (entAgent s w fl).ctx (recBits l.record 554 22) x ps = [] := by
    intro x
    rw [writeReqs, farPieces_of_isLocal ps hlocal]
    rfl
  have hpieces : entPieces s (entAgent s w fl) ⟨r, recBits l.record 554 22, entByte s w l region j,
      8 * entByte s w l region j, 256⟩ true = .ok ps := by
    unfold entPieces
    simp only [hfind, List.isEmpty_nil, Bool.not_true, Bool.false_eq_true, if_false, if_true, clearPeers_ownLines hown,
      hreqs, List.any_nil]
  unfold entPut
  simp only [if_neg (show ¬ j < 4 by omega), entLoc_eq hl hregion hrec hbound, hpieces, hreqs, List.foldl_nil]
  rfl

end

/-! ### The obligation -/

/-- Settles O13: the branch by its rejoin address and the room of the stack, the entries by where they lie. -/
theorem divergence : Obligations.Divergence := by
  constructor
  · intro i g rj tgt k hform s c e m n ix rx t p y room pushes hi hk hr hm hn hx
    rw [exec_of_branchForm hform]
    refine ⟨fun hrj hrx => branch_rejoin_outside hi hk hr hm hn hx hrj hrx, fun hok => ?_⟩
    have hw := warp_lt_of_issuing hi
    have hcap : splitCapacity s c.w = room := splitCapacity_eq s c
    have hpaths := samePaths_linked hw k m
    have htw : e.w < t.warps.length := by rwa [show t.warps.length = s.warps.length from linked_length s c k m]
    have hsl : slotOf (warpAt t e.w) e.which = e.sl := slotOf_of_samePaths hpaths c.which
    have hother : slotOf (warpAt t e.w) (otherSlot c.which) = slotOf e.x (otherSlot c.which) :=
      slotOf_of_samePaths hpaths (otherSlot c.which)
    have hssn : (warpAt t e.w).ssn = e.x.ssn := hpaths.2.2.2.1
    refine ⟨fun hroom => branch_no_room hi hk hr hm hn hx hok (by rwa [hcap]), ?_, ?_, ?_⟩
    · intro hlive hdepth hyssn hlast hna
      have hy : y.ssn = e.x.ssn + pushes := by
        have := splitOnto_ssn (x := warpAt t e.w) hk m n (placeOf e.pc ix) (if rj = 0 then none else some (placeOf e.pc rx))
        rw [hssn, hother] at this
        refine this.trans ?_
        by_cases hrj : rj = 0
        · simp only [pushes, if_pos hrj, Option.isSome_none, Bool.false_eq_true, if_false]
        · simp only [pushes, if_neg hrj, Option.isSome_some, if_true]
      have hroom : e.x.ssn + pushes ≤ splitCapacity s c.w := by
        rw [hcap, ← hy]
        exact hyssn.trans (Nat.le_add_right _ _)
      exact branch_of_splitPath hi hk hr hm hn hx hok hroom
        (splitPath_own htw hk hsl hlive hlast hdepth hyssn hna)
    · intro en hrj hdepth hroom hen hbad
      refine branch_of_splitPath_trap hi hk hr hm hn hx hok (by rwa [hcap]) ?_
      rw [if_pos hrj]
      exact splitPath_malformed hdepth hen hbad
    · intro t1 hrj hn4 hroom ho hlive hlast hput x z hna
      refine branch_of_splitPath hi hk hr hm hn hx hok (by rwa [hcap]) ?_
      rw [if_neg hrj]
      have hfree : (slotOf (warpAt t c.w) (otherSlot c.which)).live = false := (congrArg Slot.live hother).trans ho
      have hx1 : x = warpAt t c.w := warpAt_of_warps (onlyMemory_of_entPut hn4 hput).1 c.w
      have hz : splitWarp { x with ssn := e.x.ssn + 1 } c.which ⟨nextPc p.pc, n, placeOf e.pc rx, e.x.ssn + 1⟩
          ⟨placeOf e.pc ix, m, placeOf e.pc rx, e.x.ssn + 1⟩ = z := by
        rw [splitWarp_of_free (by rwa [slotOf_ssn, hx1]), slotOf_ssn]
      have hfar := splitPath_far (e := e) (t := placeOf e.pc ix) (nm := n) (tm := m) (r := placeOf e.pc rx) (u := t1) (z := z)
        htw hk hsl hlive hlast
      rw [hssn] at hfar
      exact hfar hn4 hfree hput hz hna
  · intro s w fl j l region r en cr sb obj byte ag at_ hown hj hl hregion hrec hbound
    exact ⟨fun ps hfind hsound => entRead_here hj hl hregion hrec hbound hfind hsound,
      fun ps hfind hfar => entPut_here hj hl hregion hrec hbound hown hfind (fun q hq => isLocal_of_not_far (hfar q hq))⟩

end Sys2Proof.Machine

/-! ## Arrivals at the rejoin address (R139, R141) -/

namespace Sys2Proof.Machine

/-! ### Entries that are read beside a slot -/

/-- The kind of an entry that is made (R139). -/
theorem entKind_entMake {kind : Nat} (h : kind < 4) (n : Nat) (p : Path) : entKind (entMake kind n p) = kind := by
  have hpc := p.pc.isLt
  have hmask := p.mask.isLt
  unfold entKind entMake
  rw [bits_eq_div_mod, BitVec.toNat_ofNat]
  omega

theorem crewOf_setSlot {s : State} {w : Nat} (hw : w < s.warps.length) (k : Which) (sl : Slot) :
    crewOf (setSlot s w k sl) w = crewOf s w := by
  unfold crewOf
  rw [setSlot, crewAt_setWarp, warpAt_setWarp _ _ _ hw, withSlot_crew]

theorem wid_setSlot {s : State} {w : Nat} (hw : w < s.warps.length) (k : Which) (sl : Slot) :
    (warpAt (setSlot s w k sl) w).wid = (warpAt s w).wid := by
  rw [setSlot, warpAt_setWarp _ _ _ hw, withSlot_wid]

theorem withSlot_setEnts (x : Warp) (k : Which) (sl : Slot) (es : List (BitVec 256)) :
    { withSlot x k sl with ents := es } = withSlot { x with ents := es } k sl := by
  cases k <;> rfl

theorem withSlot_setSsn (x : Warp) (k : Which) (sl : Slot) (n : Nat) :
    { withSlot x k sl with ssn := n } = withSlot { x with ssn := n } k sl := by
  cases k <;> rfl

/-- A slot that is written leaves the split stack as it is (R136). -/
theorem entRead_setSlot {s : State} {w : Nat} (hw : w < s.warps.length) (fl : List (SubTile × Nat × Nat)) (k : Which)
    (sl : Slot) (j : Nat) : entRead (setSlot s w k sl) fl w j = entRead s fl w j := by
  have hcrew := crewOf_setSlot hw k sl
  have hents : (warpAt (setSlot s w k sl) w).ents = (warpAt s w).ents := by
    rw [setSlot, warpAt_setWarp _ _ _ hw, withSlot_ents]
  have hagent : entAgent (setSlot s w k sl) w fl = entAgent s w fl := by
    unfold entAgent warpAgent
    rw [hcrew]
    rfl
  have hloc : entLoc (setSlot s w k sl) (entAgent s w fl) w j = entLoc s (entAgent s w fl) w j := by
    unfold entLoc
    rw [hcrew, wid_setSlot hw]
    rfl
  unfold entRead
  simp only [hents, hagent, hloc]
  rfl

/-! ### One arrival -/

section
variable {s : State} {w : Nat} {k : Which} {sl : Slot} {fl : List (SubTile × Nat × Nat)} {en : BitVec 256}
  (hw : w < s.warps.length) (hd : 1 ≤ sl.path.depth) (hen : entRead s fl w (sl.path.depth - 1) = .ok en)
include hw hd hen

/-- What an arrival does with the JOIN entry that it reads (R141). -/
theorem arriveAt_eq : arriveAt (setSlot s w k sl) fl w k =
    if entTraps (sl.path.depth - 1) en then .error (.bad 0x0B 2)
    else if entCnt en ≤ 1 then .ok (setWarp s w (withSlot { warpAt s w with ssn := (warpAt s w).ssn - 1 } k
      (Slot.ofPath { entPath en with mask := entMask en &&& (warpAt s w).alive })))
    else entPut (setSlot s w k Slot.free) fl w (sl.path.depth - 1) (entMake 2 (entCnt en - 1) (entPath en)) := by
  have hset : setSlot (setSlot s w k sl) w k Slot.free = setSlot s w k Slot.free := setSlot_setWarp_withSlot hw _ _ _ _
  have hfree : warpAt (setSlot s w k Slot.free) w = withSlot (warpAt s w) k Slot.free := warpAt_setWarp _ _ _ hw
  have hjoin : ∀ p, setSlot (setSsn (setSlot s w k Slot.free) w ((warpAt s w).ssn - 1)) w k p =
      setWarp s w (withSlot { warpAt s w with ssn := (warpAt s w).ssn - 1 } k p) := by
    intro p
    rw [setSsn, hfree, withSlot_setSsn]
    change setSlot (setWarp (setWarp s w _) w _) w k p = _
    rw [setWarp_setWarp, setSlot_setWarp_withSlot hw]
  unfold arriveAt
  simp only [slotOf_setSlot s w k sl hw, hset, if_neg (show ¬ sl.path.depth = 0 by omega), entRead_setSlot hw, hen]
  rw [show (warpAt (setSlot s w k Slot.free) w).ssn = (warpAt s w).ssn by rw [hfree, withSlot_ssn],
    show (warpAt (setSlot s w k Slot.free) w).alive = (warpAt s w).alive by rw [hfree, withSlot_alive], hjoin]

end

/-! ### Nothing more arrives -/

/-- With a path in slot k that stays there, and another beside it or no entry left, nothing more happens (R141). -/
theorem settlePaths_of_stays {t : State} {fl : List (SubTile × Nat × Nat)} {w : Nat} {k : Which} (n : Nat)
    (harr : arrives (slotOf (warpAt t w) k) = false) (ho : arrives (slotOf (warpAt t w) (otherSlot k)) = false)
    (hlive : (slotOf (warpAt t w) k).live = true)
    (hrest : (slotOf (warpAt t w) (otherSlot k)).live = true ∨ (warpAt t w).ssn = 0) :
    settlePaths (n + 1) t fl w k = .ok t := by
  have hpop : (slotOf (warpAt t w) (otherSlot k)).live = false → popInto t fl w (otherSlot k) = .ok none := fun h =>
    if_pos (hrest.resolve_left (by rw [h]; exact Bool.false_ne_true))
  unfold settlePaths
  simp only [harr, ho, hlive, Bool.false_eq_true, if_false, Bool.not_true]
  cases hl : (slotOf (warpAt t w) (otherSlot k)).live with
  | true => rfl
  | false => simp only [hpop hl, Bool.not_false, if_true]

/-- A free slot that faces a JOIN entry stays free (R141). -/
theorem settlePaths_of_join {t : State} {fl : List (SubTile × Nat × Nat)} {w : Nat} {k : Which} {en : BitVec 256} (n : Nat)
    (hfree : (slotOf (warpAt t w) k).live = false) (ho : arrives (slotOf (warpAt t w) (otherSlot k)) = false)
    (hen : entRead t fl w ((warpAt t w).ssn - 1) = .ok en) (hkind : entKind en = 2) :
    settlePaths (n + 1) t fl w k = .ok t := by
  have hpop : popInto t fl w k = .ok none := by
    unfold popInto
    simp only [hen, hkind, if_true, ite_self]
  unfold settlePaths
  simp only [arrives_of_not_live hfree, ho, hfree, hpop, Bool.false_eq_true, if_false, Bool.not_false, if_true]

/-! ### The path of a slot has reached its rejoin address -/

section
variable {s : State} {w : Nat} {k : Which} {sl : Slot} {en : BitVec 256} (hk : k ≠ .handler) (hw : w < s.warps.length)
  (harr : arrives sl = true) (hd : 1 ≤ sl.path.depth) (ho : arrives (slotOf (warpAt s w) (otherSlot k)) = false)
  (hen : entRead s sl.failed w (sl.path.depth - 1) = .ok en)

include hw harr in
theorem settle_arriving : settle (setSlot s w k sl) w k =
    (arriveAt (setSlot s w k sl) sl.failed w k).bind (fun t =>
      settlePaths (2 * (warpAt (setSlot s w k sl) w).ssn + 6 + 1) t sl.failed w k) := by
  unfold settle settleFuel settlePaths
  simp only [slotOf_setSlot s w k sl hw, harr, if_true]
  rfl

include hw harr hd hen

/-- A malformed entry in memory traps (R139). -/
theorem settle_malformed (h4 : 4 < sl.path.depth) (hbad : entMalformed en = true) :
    settle (setSlot s w k sl) w k = .error (.bad 0x0B 2) := by
  have htraps : entTraps (sl.path.depth - 1) en = true := by
    rw [entTraps, hbad, decide_eq_true (by omega)]
    rfl
  rw [settle_arriving hw harr, arriveAt_eq hw hd hen, if_pos htraps]
  rfl

variable (hgood : entTraps (sl.path.depth - 1) en = false)
include hk ho hgood

/-- The last path to arrive is joined with the others (R141). -/
theorem settle_joined (hcnt : entCnt en ≤ 1) (hn : sl.path.depth = (warpAt s w).ssn)
    (hjoined : arrives (Slot.ofPath { entPath en with mask := entMask en &&& (warpAt s w).alive }) = false)
    (hrest : (slotOf (warpAt s w) (otherSlot k)).live = true ∨ sl.path.depth = 1) :
    settle (setSlot s w k sl) w k = .ok (setWarp s w (withSlot { warpAt s w with ssn := sl.path.depth - 1 } k
      (Slot.ofPath { entPath en with mask := entMask en &&& (warpAt s w).alive }))) := by
  rw [settle_arriving hw harr, arriveAt_eq hw hd hen, hgood, if_neg Bool.false_ne_true, if_pos hcnt, ← hn]
  refine settlePaths_of_stays _ ?_ ?_ ?_ ?_
  all_goals rw [warpAt_setWarp _ _ _ hw]
  · rwa [slotOf_withSlot]
  · rwa [slotOf_withSlot_ne _ _ (otherSlot_ne hk), slotOf_ssn]
  · rw [slotOf_withSlot]
    rfl
  · rw [slotOf_withSlot_ne _ _ (otherSlot_ne hk), slotOf_ssn, withSlot_ssn]
    exact hrest.imp id (fun h => by rw [h])

/-- A path that arrives while others are expected leaves its slot free (R141). -/
theorem settle_counted {t : State} {left : BitVec 256} (hcnt : 1 < entCnt en)
    (hput : entPut (setSlot s w k Slot.free) sl.failed w (sl.path.depth - 1) (entMake 2 (entCnt en - 1) (entPath en)) =
      .ok t)
    (hslots : ∀ j, j ≠ .handler → slotOf (warpAt t w) j = slotOf (withSlot (warpAt s w) k Slot.free) j)
    (hn : (warpAt t w).ssn = sl.path.depth)
    (hleft : entRead t sl.failed w (sl.path.depth - 1) = .ok left) (hkind : entKind left = 2) :
    settle (setSlot s w k sl) w k = .ok t := by
  rw [settle_arriving hw harr, arriveAt_eq hw hd hen, hgood, if_neg Bool.false_ne_true, if_neg (by omega), hput]
  refine settlePaths_of_join _ ?_ ?_ (by rwa [hn]) hkind
  · rw [hslots k hk, slotOf_withSlot]
    rfl
  · rwa [hslots _ (otherSlot_ne_handler hk), slotOf_withSlot_ne _ _ (otherSlot_ne hk)]

end

section
variable {s : State} {w : Nat} {k : Which} {sl : Slot} (hk : k ≠ .handler) (hw : w < s.warps.length)
  (harr : arrives sl = true) (hd : 1 ≤ sl.path.depth) (h4 : sl.path.depth ≤ 4) (hn : sl.path.depth = (warpAt s w).ssn)
  (ho : arrives (slotOf (warpAt s w) (otherSlot k)) = false)
include hk hw harr hd h4 hn ho

/-- The JOIN entry that still expects others, among the warp's own entries (R141). -/
theorem settle_counted_own (hkind : entKind ((warpAt s w).ents.getD (sl.path.depth - 1) 0) = 2)
    (hcnt : 1 < entCnt ((warpAt s w).ents.getD (sl.path.depth - 1) 0)) : settle (setSlot s w k sl) w k =
      .ok (setWarp s w (withSlot { warpAt s w with
        ents := (warpAt s w).ents.set (sl.path.depth - 1)
          (entMake 2 (entCnt ((warpAt s w).ents.getD (sl.path.depth - 1) 0) - 1)
            (entPath ((warpAt s w).ents.getD (sl.path.depth - 1) 0))) } k Slot.free)) := by
  have hown : sl.path.depth - 1 < 4 := by omega
  have hin : sl.path.depth - 1 < (warpAt s w).ents.length := by
    by_contra hout
    rw [List.getD_eq_default _ _ (not_lt.1 hout)] at hkind
    exact absurd hkind (by decide)
  have hgood : entTraps (sl.path.depth - 1) ((warpAt s w).ents.getD (sl.path.depth - 1) 0) = false := by
    rw [entTraps, decide_eq_false (by omega), Bool.false_and]
  refine settle_counted hk hw harr hd ho (entRead_of_lt hown) hgood hcnt ?_ ?_ ?_ (entRead_of_lt hown) ?_
  · rw [entPut_of_lt hown, setSlot, warpAt_setWarp _ _ _ hw, setWarp_setWarp, withSlot_setEnts, withSlot_ents]
  · intro j _
    rw [warpAt_setWarp _ _ _ hw, ← withSlot_setEnts, slotOf_ents]
  · rw [warpAt_setWarp _ _ _ hw, withSlot_ssn, hn]
  · rw [warpAt_setWarp _ _ _ hw, withSlot_ents, List.getD_eq_getElem?_getD, List.getElem?_set_self hin]
    exact entKind_entMake (by decide) _ _

/-- The JOIN entry that expects no other, among the warp's own entries (R141). -/
theorem settle_joined_own (hcnt : entCnt ((warpAt s w).ents.getD (sl.path.depth - 1) 0) ≤ 1) {joined : Slot}
    (hj : joined = Slot.ofPath { entPath ((warpAt s w).ents.getD (sl.path.depth - 1) 0) with
      mask := entMask ((warpAt s w).ents.getD (sl.path.depth - 1) 0) &&& (warpAt s w).alive })
    (hjoined : arrives joined = false)
    (hrest : (slotOf (warpAt s w) (otherSlot k)).live = true ∨ sl.path.depth = 1) :
    settle (setSlot s w k sl) w k =
      .ok (setWarp s w (withSlot { warpAt s w with ssn := sl.path.depth - 1 } k joined)) := by
  subst hj
  have hgood : entTraps (sl.path.depth - 1) ((warpAt s w).ents.getD (sl.path.depth - 1) 0) = false := by
    rw [entTraps, decide_eq_false (by omega), Bool.false_and]
  exact settle_joined hk hw harr hd ho (entRead_of_lt (by omega)) hgood hcnt hn hjoined hrest

end

/-! ### The instructions by which a path arrives -/

/-- The slot of a path whose PC has become its rejoin address. -/
def rejoined (sl : Slot) : Slot := { sl with path := { sl.path with pc := sl.path.rjpc }, turned := none }

theorem arrives_rejoined {sl : Slot} (hlive : sl.live = true) (hpark : sl.park = none) (hrj : sl.path.rjpc ≠ noRejoin) :
    arrives (rejoined sl) = true := by
  simp [arrives, rejoined, hlive, hpark, hrj]

/-- A warp with an entry on its split stack has not ended. -/
theorem not_pathsDone_of_ssn {x : Warp} (h : 1 ≤ x.ssn) : pathsDone x = false := by
  simp [pathsDone, show x.ssn ≠ 0 by omega]

theorem not_pathsDone_of_live {x : Warp} {k : Which} (hk : k ≠ .handler) (h : (slotOf x k).live = true) :
    pathsDone x = false := by
  cases k with
  | handler => exact absurd rfl hk
  | a => simp [pathsDone, show x.sa.live = true from h]
  | b => simp [pathsDone, show x.sb.live = true from h]

section
variable {i : Instr} {s : State} {c : Cur} (hi : issuing s c = true) (hk : c.which ≠ .handler) (ha : arrivesBy i s c)
include ha

/-- What an instruction does by which a path reaches its rejoin address. -/
theorem exec_of_arrivesBy : ∃ g ill body, exec i s = runInstr s 0 ill anyMode g body ∧ ill (envOf s c) = true ∧
    body (envOf s c) = land s (envOf s c) (rejoined (envOf s c).sl) := by
  obtain ⟨g, rfl, hpc, hlast⟩ | ⟨g, u, rj, tgt, rfl, hm, hall, hx, hpc⟩ := ha
  · refine ⟨g, fun _ => true, _, rfl, rfl, ?_⟩
    show land s (envOf s c) (stepOn (envOf s c).sl) = _
    rw [stepOn_of_not_last (sl := (envOf s c).sl) hlast, show nextPc (envOf s c).sl.path.pc = (envOf s c).sl.path.rjpc from hpc]
    rfl
  · refine ⟨g, regsOk [], _, branch.eq_def s g u rj tgt none, rfl, ?_⟩
    have hrest : (envOf s c).mask &&& ~~~ taking (envOf s c) g = 0 := by
      rw [show taking (envOf s c) g = (envOf s c).mask from hall, BitVec.and_not_self]
    have htgt := codeTarget_of_indexOk (pc := (envOf s c).pc) hx
    simp only [htgt]
    refine (if_neg hm).trans ((if_pos hrest).trans ?_)
    have hgoes : placeOf (envOf s c).pc (indexFrom (envOf s c).pc (sx 24 tgt.toNat)) = (envOf s c).sl.path.rjpc := hpc
    rw [hgoes]
    rfl

include hi hk

theorem exec_arriving {t : State} (ht : settle (setSlot s c.w c.which (rejoined (envOf s c).sl)) c.w c.which = .ok t)
    (hgo : pathsDone (warpAt t c.w) = false) : exec i s = .next t := by
  obtain ⟨g, ill, body, hexec, hill, hbody⟩ := exec_of_arrivesBy ha
  rw [hexec]
  refine runInstr_ok s t c _ _ _ _ _ hi hill rfl ?_
  rw [hbody, land_of_settle hk ht]
  exact congrArg Except.ok (if_neg (by rw [show pathsDone (warpAt t (envOf s c).w) = false from hgo]; exact Bool.false_ne_true))

theorem exec_arriving_traps {cause detail : Nat}
    (ht : settle (setSlot s c.w c.which (rejoined (envOf s c).sl)) c.w c.which = .error (.bad cause detail)) :
    exec i s = .next (takeTrap s (envOf s c) 0 ⟨cause, (envOf s c).mask, (envOf s c).pc.toNat, detail⟩) := by
  obtain ⟨g, ill, body, hexec, hill, hbody⟩ := exec_of_arrivesBy ha
  rw [hexec]
  refine runInstr_trap s c _ _ _ _ _ _ hi hill rfl ?_
  rw [hbody]
  unfold land
  split
  · next hh => exact absurd hh hk
  · simp only [show settle (setSlot s (envOf s c).w (envOf s c).which _) (envOf s c).w (envOf s c).which = _ from ht]
    rfl

end

/-! ### Resuming at the rejoin address -/

theorem resumeSlot_of_settle {s t : State} {w : Nat} {k : Which} (hk : k ≠ .handler)
    (h : settle (setSlot s w k { slotOf (warpAt s w) k with park := none, stale := true }) w k = .ok t) :
    resumeSlot s w k = t := by
  unfold resumeSlot
  split
  · exact absurd rfl hk
  · simp only [h]

/-- A warp that holds a path is one of the machine's. -/
theorem warp_lt_of_live {s : State} {w : Nat} {k : Which} (h : (slotOf (warpAt s w) k).live = true) :
    w < s.warps.length := by
  by_contra hout
  rw [warpAt, List.getD_eq_default _ _ (not_lt.1 hout)] at h
  cases k <;> cases h

/-- Settles O16: the arrival by its JOIN entry, for the instructions that arrive and for the resumption from a park. -/
theorem reconvergence : Obligations.Reconvergence := by
  constructor
  · intro i s c e x d en joined hi hk hlive hpark ha hrj hd hn ho
    have hw := warp_lt_of_issuing hi
    have harr := arrives_rejoined hlive hpark hrj
    have hnone : pathsDone x = false := not_pathsDone_of_ssn (hn ▸ hd)
    refine ⟨?_, ?_, ?_⟩
    · intro h4 hkind hcnt
      refine exec_arriving hi hk ha (settle_counted_own hk hw harr hd h4 hn ho hkind hcnt) ?_
      rw [warpAt_setWarp _ _ _ hw]
      exact not_pathsDone_of_ssn (by rw [withSlot_ssn]; exact hn ▸ hd)
    · intro h4 hkind hcnt hj hrest
      refine exec_arriving hi hk ha (settle_joined_own hk hw harr hd h4 hn ho hcnt rfl hj hrest) ?_
      rw [warpAt_setWarp _ _ _ hw]
      exact not_pathsDone_of_live hk (by rw [slotOf_withSlot]; rfl)
    · intro far h4 hfar
      have good : entMalformed far = false → entTraps (d - 1) far = false := fun h => by
        rw [entTraps, h, Bool.and_false]
      refine ⟨fun hbad => exec_arriving_traps hi hk ha (settle_malformed hw harr hd hfar h4 hbad), ?_, ?_⟩
      · intro t left hgood hcnt hput hleft hkind
        have hwarps := (onlyMemory_of_entPut (by omega) hput).1
        have hwarp : warpAt t c.w = withSlot x c.which Slot.free :=
          (warpAt_of_warps hwarps c.w).trans (warpAt_setWarp _ _ _ hw)
        have hssn : (warpAt t c.w).ssn = d := by rw [hwarp, withSlot_ssn, hn]
        refine exec_arriving hi hk ha (settle_counted hk hw harr hd ho hfar (good hgood) hcnt hput ?_ hssn hleft hkind) ?_
        · intro j _
          rw [hwarp]
        · exact not_pathsDone_of_ssn (by rw [hssn]; exact hd)
      · intro path hpath hgood hcnt hj hother
        subst hpath
        refine exec_arriving hi hk ha (settle_joined hk hw harr hd ho hfar (good hgood) hcnt hn hj (.inl hother)) ?_
        rw [warpAt_setWarp _ _ _ hw]
        exact not_pathsDone_of_live hk (by rw [slotOf_withSlot]; rfl)
  · intro s w k p x sl d en joined hk hlive hpark hpc hrj hd h4 hn ho hkind
    have hw := warp_lt_of_live hlive
    have harr : arrives { sl with park := none, stale := true } = true := by
      simp [arrives, hlive, hpc, hrj]
    exact ⟨fun hcnt => resumeSlot_of_settle hk (settle_counted_own hk hw harr hd h4 hn ho hkind hcnt),
      fun hcnt hj hrest => resumeSlot_of_settle hk (settle_joined_own hk hw harr hd h4 hn ho hcnt rfl hj hrest)⟩

end Sys2Proof.Machine

/-! ## Waiting for copy commands, and cancelling them (R303, R304) -/

namespace Sys2Proof.Machine

theorem tokenOf_eq_tokenWord (ch seq : Nat) : tokenOf ch seq = tokenWord ch seq := rfl

section
variable {s s1 : State} {c : Cur} {g : Guard} {a : Opnd} {v : Nat → Nat} (hg : given s c g [] [(a, 1)] none false s1 v)
include hg

theorem advance_of_given : advance s1 (envOf s c) = .ok (stepped s1 c) := by
  obtain ⟨hlen, hpaths⟩ := paths_of_given hg
  exact advance_same s s1 c (plain_of_given hg) hlen hpaths

/-! ### cwait (R303) -/

/-- `cwait` of a channel's token: it looks for the command. -/
theorem execCwait_eq (hv : bits (v 0) 3 5 = 0) : execCwait g a s = runInstr s 0 (regsOk [(a, 1)]) anyMode g (fun e =>
    if s1.copies.any (fun k => k.crew == e.c && tokenOf k.chan k.seq == v 0) then
      .error (.park (.cwait (BitVec.ofNat 32 (v 0))) s1)
    else advance s1 e) := by
  obtain ⟨hp, hr, l, u, hl, hs, rfl⟩ := hg
  refine runInstr_congr (cur_of_issuing (issuing_of_plain hp)) rfl ?_
  refine (if_neg (mask_ne_zero_of_lowest hl)).trans ?_
  simp only [show readSrcs s (envOf s c) (taking (envOf s c) g) [(a, 1)] none false = .ok (s1, u) from hs,
    show warpValue (taking (envOf s c) g) u 0 = _ from warpValue_eq_getD hl u 0]
  exact if_neg (not_not.2 hv)

variable (hv : bits (v 0) 3 5 = 0)
include hv

theorem execCwait_goes_on
    (hnone : ∀ k ∈ s1.copies, (k.crew == (envOf s c).c) = true → tokenWord k.chan k.seq ≠ v 0) :
    execCwait g a s = .next (stepped s1 c) := by
  have hany : ¬ s1.copies.any (fun k => k.crew == (envOf s c).c && tokenOf k.chan k.seq == v 0) = true := by
    rw [List.any_eq_true]
    rintro ⟨k, hk, htok⟩
    rw [Bool.and_eq_true, beq_iff_eq (b := v 0)] at htok
    exact hnone k hk htok.1 htok.2
  rw [execCwait_eq hg hv]
  exact runInstr_ok s _ c _ _ _ _ _ (issuing_of_given hg) (regsOk_of_given hg) rfl
    ((if_neg hany).trans (advance_of_given hg))

theorem execCwait_waits
    (hsome : ∃ k ∈ s1.copies, (k.crew == (envOf s c).c) = true ∧ tokenWord k.chan k.seq = v 0) :
    execCwait g a s = .next (waiting s1 c (.cwait (BitVec.ofNat 32 (v 0)))) := by
  have hany : s1.copies.any (fun k => k.crew == (envOf s c).c && tokenOf k.chan k.seq == v 0) = true := by
    obtain ⟨k, hk, hmine, htok⟩ := hsome
    exact List.any_eq_true.2 ⟨k, hk, by rw [hmine, Bool.true_and]; exact beq_iff_eq.2 htok⟩
  rw [execCwait_eq hg hv]
  refine (runInstr_park (p := .cwait _) (issuing_of_given hg) (regsOk_of_given hg) rfl (if_pos hany) nofun).trans ?_
  rw [parkPath_waiting (pc_of_given hg rfl) rfl]

end

/-! ### ccan (R304) -/

/-- A command that `ccan` names ends, or is to end once what it has sent is performed. -/
def cancelOne (heads : CopyCmd → Bool) (t : State) (k : CopyCmd) : State :=
  if k.out.isEmpty then copyStop t k 2 none (heads k) else copyDying t k

theorem cancelOne_eq (heads : CopyCmd → Bool) (t : State) (k : CopyCmd) :
    cancelOne heads t k = if k.out = [] then copyStop t k 2 none (heads k) else copyDying t k := by
  simp only [cancelOne, List.isEmpty_iff]

/-- The commands among those that `ccan` names which head their channels. -/
def headsChannel (s : State) (named : List CopyCmd) (k : CopyCmd) : Bool :=
  named.any (fun j => (chanCmds s j.tower j.phys j.chan).head?.any (sameCmd j) && sameCmd k j)

/-- The commands that `ccan` names end (R304). -/
def cancelAll (s : State) (named : List CopyCmd) (t : State) : State :=
  named.foldl (fun t k => copyStop t k 2 none (headsChannel s named k)) t

section
variable {s s1 : State} {c : Cur} {g : Guard} {a : Opnd} {v : Nat → Nat} (hg : given s c g [] [(a, 1)] none false s1 v)
  (hv : v 0 < 2 ^ 8)
include hg hv

/-- `ccan` of channels that exist: what it does with the commands that it names. -/
theorem execCcan_eq : execCcan g a s = runInstr s 0 (regsOk [(a, 1)]) anyMode g (fun e =>
    let ks := cancelled s1 e.c (v 0)
    let sent := ks.filter (fun k => !k.out.isEmpty)
    let endAll := fun t => ks.foldl (cancelOne (headsChannel s1 ks)) t
    if !sent.isEmpty then .error (.park (.ccan (sent.map (fun k => BitVec.ofNat 32 (tokenOf k.chan k.seq)))) (endAll s1))
    else match advance s1 e with
      | .error x => .error x
      | .ok t => .ok (if ks.isEmpty then endAll t else markStale (endAll t) e)) := by
  have hbits : bits (v 0) 8 24 = 0 := by
    rw [bits_eq_div_mod, Nat.div_eq_of_lt hv, Nat.zero_mod]
  obtain ⟨hp, hr, l, u, hl, hs, rfl⟩ := hg
  refine runInstr_congr (cur_of_issuing (issuing_of_plain hp)) rfl ?_
  refine (if_neg (mask_ne_zero_of_lowest hl)).trans ?_
  simp only [show readSrcs s (envOf s c) (taking (envOf s c) g) [(a, 1)] none false = .ok (s1, u) from hs,
    show warpValue (taking (envOf s c) g) u 0 = _ from warpValue_eq_getD hl u 0, List.any_filter]
  exact if_neg (not_not.2 hbits)

/-- With nothing on its way to other devices, the named commands end at once. -/
theorem execCcan_ends (hout : ∀ k ∈ cancelled s1 (envOf s c).c (v 0), k.out = []) : execCcan g a s =
    .next (if (cancelled s1 (envOf s c).c (v 0)).isEmpty then cancelAll s1 (cancelled s1 (envOf s c).c (v 0)) (stepped s1 c)
      else markedStale (cancelAll s1 (cancelled s1 (envOf s c).c (v 0)) (stepped s1 c)) c) := by
  have hsent : (cancelled s1 (envOf s c).c (v 0)).filter (fun k => !k.out.isEmpty) = [] := by
    rw [List.filter_eq_nil_iff]
    intro k hk
    rw [hout k hk]
    nofun
  have hall : ∀ t, (cancelled s1 (envOf s c).c (v 0)).foldl
      (cancelOne (headsChannel s1 (cancelled s1 (envOf s c).c (v 0)))) t =
      cancelAll s1 (cancelled s1 (envOf s c).c (v 0)) t := by
    intro t
    refine List.foldl_ext _ _ _ (fun t k hk => ?_)
    unfold cancelOne
    rw [hout k hk]
    rfl
  rw [execCcan_eq hg hv]
  refine runInstr_ok s _ c _ _ _ _ _ (issuing_of_given hg) (regsOk_of_given hg) rfl ?_
  simp only [hsent, List.isEmpty_nil, Bool.not_true, Bool.false_eq_true, if_false, advance_of_given hg, hall]
  rfl

/-- With accesses on their way to other devices, the path waits for the commands that have them. -/
theorem execCcan_waits (hout : ∃ k ∈ cancelled s1 (envOf s c).c (v 0), k.out ≠ []) {t : State}
    (ht : t = (cancelled s1 (envOf s c).c (v 0)).foldl
      (cancelOne (headsChannel s1 (cancelled s1 (envOf s c).c (v 0)))) s1) (hu : unmoved s t c) :
    execCcan g a s = .next (waiting t c (.ccan (((cancelled s1 (envOf s c).c (v 0)).filter (fun k => !k.out.isEmpty)).map
      (fun k => BitVec.ofNat 32 (tokenWord k.chan k.seq))))) := by
  have hsent : ((cancelled s1 (envOf s c).c (v 0)).filter (fun k => !k.out.isEmpty)).isEmpty = false := by
    obtain ⟨k, hk, hne⟩ := hout
    rw [List.isEmpty_eq_false_iff_exists_mem]
    exact ⟨k, List.mem_filter.2 ⟨hk, by simpa using hne⟩⟩
  obtain ⟨hp, -, -⟩ := hu
  rw [← parkPath_waiting (goesTo_of_plain hp).2 rfl, execCcan_eq hg hv]
  refine runInstr_park (issuing_of_given hg) (regsOk_of_given hg) rfl ?_ nofun
  simp only [hsent, Bool.not_false, if_true, ht]
  rfl

end

end Sys2Proof.Machine

/-! ## Copy commands that are performed (R286 to R296) -/

namespace Sys2Proof.Machine

/-! ### Positions on this device -/

/-- A side that can be read and written here and now (R293). -/
def sideHere (s : State) (k : Walk) (x : CpSide) : Prop :=
  (∀ code addr, x ≠ .fail code addr) ∧ (∀ ts, x ≠ .wait ts) ∧ farPieces (sideWrites x) = [] ∧
    ∀ q ∈ sideNear s k x, lineFree s q.line = true

theorem sideHere_of_posLocal {s : State} {k : Walk} {p : CpPos} (h : posLocal s k p = true) {x : CpSide}
    (hx : x ∈ posSides p) : sideHere s k x := by
  unfold posLocal at h
  rw [Bool.and_eq_true, List.all_eq_true] at h
  have hside := h.2 x hx
  rw [Bool.and_eq_true, List.all_eq_true] at hside
  obtain ⟨hfree, hkind⟩ := hside
  cases x with
  | fail _ _ => cases hkind
  | wait _ => cases hkind
  | drop => exact ⟨nofun, nofun, rfl, hfree⟩
  | scr _ => exact ⟨nofun, nofun, rfl, hfree⟩
  | elem _ _ _ _ => exact ⟨nofun, nofun, List.isEmpty_iff.1 hkind, hfree⟩

theorem clean_of_posLocal {s : State} {k : Walk} {p : CpPos} (h : posLocal s k p = true) {x : CpSide}
    (hx : x ∈ posReads k p) : (sideReads x).any (piecePoisoned s) = false := by
  unfold posLocal readsHere at h
  rw [Bool.and_eq_true, List.all_eq_true] at h
  have hside := h.1 x hx
  cases x with
  | elem _ _ rd _ =>
    rw [Bool.and_eq_true, Bool.not_eq_true'] at hside
    exact hside.1
  | _ => rfl

theorem sideHere_putCopy {s : State} {k : Walk} {x : CpSide} {cmd : CopyCmd} (hout : cmd.out = []) (h : sideHere s k x) :
    sideHere (putCopy s cmd) k x := by
  obtain ⟨hfail, hwait, hfar, hfree⟩ := h
  have locks : ∀ line low, lineLocked s line low = false → lineLocked (putCopy s cmd) line low = false := by
    intro line low h
    unfold lineLocked at h ⊢
    rw [List.any_eq_false] at h ⊢
    intro j hj
    obtain ⟨i, hi, rfl⟩ := List.mem_map.1 hj
    split
    · rw [hout]
      nofun
    · exact h i hi
  refine ⟨hfail, hwait, hfar, fun q hq => ?_⟩
  have hq := hfree q hq
  unfold lineFree lineWaits at hq ⊢
  simp only [Bool.and_eq_true, Bool.not_eq_true', Bool.or_eq_false_iff] at hq ⊢
  obtain ⟨hdir, ⟨hwaits, hhigh⟩, hlow⟩ := hq
  exact ⟨hdir, ⟨hwaits, locks _ _ hhigh⟩, locks _ _ hlow⟩

/-! ### What a command on this device need not wait for -/

/-- Lines that no other device holds need no clearing (R374). -/
theorem clearPeers_of_free {s : State} {ls : List LineRef} (h : ∀ q ∈ ls, lineFree s q.line = true) :
    clearPeers s ls = (true, s) := by
  unfold clearPeers
  split
  · rfl
  · induction ls with
    | nil => rfl
    | cons q ls ih =>
      have hq := h q List.mem_cons_self
      unfold lineFree at hq
      rw [Bool.and_eq_true, Bool.not_eq_true', Option.isNone_iff_eq_none] at hq
      obtain ⟨hdir, hwaits⟩ := hq
      rw [List.foldl_cons]
      simp only [hwaits, hdir, Bool.false_eq_true, if_false]
      exact ih (fun q hq => h q (List.mem_cons_of_mem _ hq))

section
variable {s : State} {k : Walk} {ps : List CpPos} (hps : ∀ p ∈ ps, ∀ x ∈ posSides p, sideHere s k x)
include hps

theorem walkStop_of_here : walkStop ps = ([], none) := by
  induction ps with
  | nil => rfl
  | cons p ps ih =>
    have hp := hps p List.mem_cons_self
    unfold walkStop
    split
    · next f hf =>
      obtain ⟨x, hx, hfail⟩ := List.exists_of_findSome?_eq_some hf
      have hne := (hp x hx).1
      split at hfail
      · exact absurd rfl (hne _ _)
      · cases hfail
    · rw [ih (fun p hp => hps p (List.mem_cons_of_mem _ hp))]
      refine Prod.ext ((List.append_nil _).trans ?_) rfl
      rw [List.flatMap_eq_nil_iff]
      intro x hx
      have hne := (hp x hx).2.1
      split
      · exact absurd rfl (hne _)
      · rfl

theorem clearPeers_of_here : clearPeers s (ps.flatMap (fun p => (posSides p).flatMap (sideNear s k))) = (true, s) := by
  refine clearPeers_of_free (fun q hq => ?_)
  obtain ⟨p, hp, hq⟩ := List.mem_flatMap.1 hq
  obtain ⟨x, hx, hq⟩ := List.mem_flatMap.1 hq
  exact (hps p hp x hx).2.2.2 q hq

theorem splitParts_of_here {p : CpPos} (hp : p ∈ ps) : splitParts k p = none := by
  unfold splitParts
  split
  · split
    · next addr l rd a b hdst =>
      have hfar : farPieces [a, b] = [] := (hps p hp (.elem addr l rd [a, b]) (by simp [posSides, hdst])).2.2.1
      have hparts : farPieces [a, b] = farPieces [a] ++ farPieces [b] := by
        unfold farPieces
        rw [← List.filterMap_append]
        rfl
      obtain ⟨ha, hb⟩ := List.append_eq_nil_iff.1 (hparts ▸ hfar)
      rw [ha, hb]
    · rfl
  · rfl

theorem copySegment_of_here : copySegment k ps = ps := by
  unfold copySegment
  rw [List.takeWhile_eq_self_iff]
  intro p hp
  rw [splitParts_of_here hps hp]
  rfl

/-- The shape of the destination record is known once the walk comes to the destination (R295). -/
theorem copyShaped_of_here (cmd : CopyCmd) :
    copyShaped s cmd ps = { cmd with shape := cmd.shape.or (recordShape s (walkOf s cmd)) } := by
  unfold copyShaped
  cases ps with
  | nil => rfl
  | cons p ps =>
    dsimp only
    rw [if_pos]
    rw [List.all_eq_true]
    intro x hx
    have hx : x ∈ posSides p := by
      simp only [posSides, Option.toList_none, List.append_nil, List.mem_cons, List.mem_append] at hx ⊢
      exact hx.imp id .inl
    have hne := (hps p List.mem_cons_self x hx).1
    split
    · exact absurd rfl (hne _ _)
    · rfl

end

/-- Nothing that a command reads comes from another device, and none of it is poisoned (R293, R325). -/
theorem cpFetch_of_here {s : State} {k : Walk} {ps : List CpPos}
    (hlines : ∀ p ∈ ps, ∀ x ∈ posReads k p, sideLines k x = [])
    (hclean : ∀ p ∈ ps, ∀ x ∈ posReads k p, (sideReads x).any (piecePoisoned s) = false) :
    cpFetch s k ps = (some none, s) := by
  have hnone : ps.flatMap (fun p => (posReads k p).flatMap (sideLines k)) = [] := by
    rw [List.flatMap_eq_nil_iff]
    intro p hp
    rw [List.flatMap_eq_nil_iff]
    exact hlines p hp
  have hread : ps.findSome? (fun p => (posReads k p).findSome? (sideDead s k [] p.q)) = none := by
    rw [List.findSome?_eq_none_iff]
    intro p hp
    rw [List.findSome?_eq_none_iff]
    intro x hx
    unfold sideDead
    simp only [List.find?_nil, hclean p hp x hx, Bool.false_eq_true, if_false]
  unfold cpFetch
  rw [hnone, fetchSet_nil]
  exact congrArg (fun r => (some r, s)) hread

/-! ### Performing sends nothing -/

theorem writeReqs_of_noFar {s : State} {ctx obj x : Nat} {ps : List Piece} (h : farPieces ps = []) :
    writeReqs s ctx obj x ps = [] := by
  unfold writeReqs
  rw [h]
  rfl

theorem cpWrite_out {k : Walk} {q : Nat} {x : CpSide} {n v : Nat} {acc : CpAcc} (h : farPieces (sideWrites x) = []) :
    (cpWrite k q x n v acc).out = acc.out := by
  cases x with
  | elem addr l rd wr =>
    show acc.out ++ List.map _ (writeReqs acc.s k.ag.ctx l.obj v wr) = acc.out
    rw [writeReqs_of_noFar (show farPieces wr = [] from h), List.map_nil, List.append_nil]
  | _ => rfl

theorem combGen_out (k : Walk) (acc : CpAcc) : (combGen k acc).out = acc.out := by
  unfold combGen
  split <;> rfl

theorem cpCombine_out {k : Walk} {q : Nat} {x : CpSide} {v : Nat} {acc : CpAcc} (h : farPieces (sideWrites x) = []) :
    (cpCombine k q x v acc).out = acc.out := by
  cases x with
  | elem addr l rd wr =>
    have hnot : oneFar wr = false := by
      rw [oneFar, show farPieces wr = [] from h]
      exact Bool.and_false _
    unfold cpCombine
    simp only [hnot, Bool.false_eq_true, if_false]
    exact (cpWrite_out h).trans (combGen_out k acc)
  | _ => rfl

theorem cpStep_out {k : Walk} {vals : List (Nat × Nat)} {wrote : Nat → Bool} {acc : CpAcc} {p : CpPos}
    (h : ∀ x ∈ posSides p, farPieces (sideWrites x) = []) : (cpStep k vals wrote acc p).out = acc.out := by
  unfold cpStep
  dsimp only
  split
  · next x hdst =>
    have hx : farPieces (sideWrites x) = [] := h x (by simp [posSides, hdst])
    split
    · split
      · exact cpCombine_out hx
      · exact cpWrite_out hx
    · split
      · exact combGen_out k acc
      · rfl
  · rfl

theorem cpGroup_out {k : Walk} {s0 : State} {wrote : Nat → Bool} {acc : CpAcc} {ps : List CpPos}
    (h : ∀ p ∈ ps, ∀ x ∈ posSides p, farPieces (sideWrites x) = []) : (cpGroup k s0 wrote acc ps).out = acc.out := by
  have stepped : ∀ {c : Prop} [Decidable c] {n : DWord}, (if c then { acc with gen := n } else acc).out =
      acc.out := by intro c _ n; split <;> rfl
  unfold cpGroup
  split
  · rfl
  · next p ps =>
    dsimp only
    split
    · next addr l rd wr hdst =>
      have hgroup : farPieces wr = [] := h p List.mem_cons_self (.elem addr l rd wr) (by simp [posSides, hdst])
      refine List.foldlRecOn (motive := fun a : CpAcc => a.out = acc.out) _ _ ?_ (fun a ha e he => ?_)
      · split
        · exact (cpWrite_out (x := .elem addr l rd wr) hgroup).trans stepped
        · exact stepped
      · have hmem := (List.of_mem_zip he).1
        split
        · next x hres =>
          split
          · exact (cpWrite_out (h e.1 hmem x (by simp [posSides, hres]))).trans ha
          · exact ha
        · exact ha
    · exact stepped

theorem mem_of_mem_groups48 {n : Nat} {ps g : List CpPos} {p : CpPos} (hg : g ∈ groups48 n ps) (hp : p ∈ g) : p ∈ ps := by
  induction n generalizing ps with
  | zero => cases hg
  | succ n ih =>
    unfold groups48 at hg
    split at hg
    · cases hg
    · obtain rfl | hg := List.mem_cons.1 hg
      · exact List.mem_of_mem_take hp
      · exact List.mem_of_mem_drop (ih hg)

/-- With no side on another device, a command sends nothing (R293). -/
theorem cpPerform_out {s : State} {k : Walk} {ps : List CpPos} {whole : List CpPos → Bool} {wrote : Nat → Bool}
    (h : ∀ p ∈ ps, ∀ x ∈ posSides p, farPieces (sideWrites x) = []) : (cpPerform s k ps whole wrote).out = [] := by
  unfold cpPerform
  dsimp only
  split
  · refine List.foldlRecOn (motive := fun a : CpAcc => a.out = []) _ _ rfl (fun a ha g hg => ?_)
    split
    · exact (cpGroup_out (fun p hp => h p (mem_of_mem_groups48 hg hp))).trans ha
    · split <;> exact ha
  · exact List.foldlRecOn (motive := fun a : CpAcc => a.out = []) _ _ rfl
      (fun a ha p hp => (cpStep_out (h p hp)).trans ha)

/-! ### A command whose elements are all on this device -/

section
variable {s : State} {cmd : CopyCmd} (hout : cmd.out = [])

/-- The command with the shape of its destination record (R295). -/
def shapedOf (s : State) (cmd : CopyCmd) : CopyCmd := { cmd with shape := cmd.shape.or (recordShape s (walkOf s cmd)) }

include hout

omit hout in
theorem copyGoOn_done (hdying : cmd.dying = false) (hnext : cmd.next = boxSize (descOf cmd.desc)) :
    copyGoOn s cmd none = copyEnd s cmd 0 none := by
  unfold copyGoOn
  rw [hdying, if_neg Bool.false_ne_true]
  exact (if_neg nofun).trans (if_pos hnext)

theorem copyRun_of_here (hdying : cmd.dying = false) (hnext : cmd.next ≤ boxSize (descOf cmd.desc))
    (hps : ∀ p ∈ cpWalk s (walkOf s (shapedOf s cmd)), posLocal s (walkOf s (shapedOf s cmd)) p = true ∧
      ∀ x ∈ posReads (walkOf s (shapedOf s cmd)) p, sideLines (walkOf s (shapedOf s cmd)) x = []) :
    copyRun s cmd none =
      (let k := walkOf s (shapedOf s cmd)
      let a := cpPerform (copySaw (putCopy s (shapedOf s cmd)) k (cpWalk s k)) k (cpWalk s k) (fun _ => true) (fun _ => true)
      copyEnd a.s { shapedOf s cmd with
        flags := a.flags, cnt := a.cnt, gen := a.gen, next := boxSize k.d } 0 none) := by
  have hwalk : cpWalk s (walkOf s cmd) = cpWalk s (walkOf s (shapedOf s cmd)) := rfl
  have hk : walkOf (putCopy s (shapedOf s cmd)) (shapedOf s cmd) = walkOf s (shapedOf s cmd) := rfl
  generalize hps' : cpWalk s (walkOf s (shapedOf s cmd)) = ps at hps
  generalize hkk : walkOf s (shapedOf s cmd) = k at *
  have hhere : ∀ p ∈ ps, ∀ x ∈ posSides p, sideHere s k x := fun p hp x hx => sideHere_of_posLocal (hps p hp).1 hx
  have hhere' : ∀ p ∈ ps, ∀ x ∈ posSides p, sideHere (putCopy s (shapedOf s cmd)) k x := fun p hp x hx =>
    sideHere_putCopy hout (hhere p hp x hx)
  have hfetch : cpFetch (putCopy s (shapedOf s cmd)) k ps = (some none, putCopy s (shapedOf s cmd)) :=
    cpFetch_of_here (fun p hp => (hps p hp).2) (fun p hp x hx => clean_of_posLocal (hps p hp).1 hx)
  have hparts : ps.head?.bind (fun p => (splitParts k p).map (fun x => (p, x))) = none := by
    cases ps with
    | nil => rfl
    | cons p ps => rw [List.head?_cons, Option.bind_some, splitParts_of_here hhere List.mem_cons_self]; rfl
  have hall : ps.filter (fun p => (none : Option CpFail).all (fun f => decide (p.q < f.q))) = ps :=
    List.filter_eq_self.2 (fun _ _ => rfl)
  have hshaped : copyShaped s cmd ps = shapedOf s cmd := copyShaped_of_here hhere cmd
  unfold copyRun
  simp only [hout, hwalk, hps', hshaped, hk, walkStop_of_here hhere, clearPeers_of_here hhere', hall, hfetch,
    List.isEmpty_nil, Bool.not_true, Bool.false_eq_true, if_false, Option.or_none, eventFail, hparts, copySegment_of_here hhere]
  have ha := cpPerform_out (s := copySaw (putCopy s (shapedOf s cmd)) k ps) (k := k) (whole := fun _ => true)
    (wrote := fun _ => true) (fun p hp x hx => (hhere p hp x hx).2.2.1)
  generalize cpPerform (copySaw (putCopy s (shapedOf s cmd)) k ps) k ps (fun _ => true) (fun _ => true) = a at ha
  have hlen : (shapedOf s cmd).next + ps.length = boxSize k.d := by
    have hcount : ps.length = boxSize k.d - cmd.next := by
      rw [← hps', ← hkk, cpWalk, List.length_map, List.length_range]
      rfl
    rw [← hkk] at hcount ⊢
    rw [hcount]
    exact Nat.add_sub_cancel' hnext
  rw [ha, hlen, copyGoOn_done (by exact hdying) (by rw [← hkk]; rfl)]
  exact congrArg (copyEnd a.s · 0 none) (by rw [show (shapedOf s cmd).out = [] from hout])

end

end Sys2Proof.Machine

/-! ## A copy between scratchpad ranges (R286, R293) -/

namespace Sys2Proof.Machine

/-! ### Where the positions of a box lie (R286) -/

/-- The offset of position q, from the extents and the strides of its dimensions (R286). -/
theorem dotNat_boxCoords (ext str : Nat → Nat) {n m : Nat} (h : n ≤ m) (q : Nat) :
    dotNat (boxCoords ((List.range n).map ext) q) ((List.range m).map str) =
      ((List.range n).map (fun j => q / ((List.range j).map ext).foldl (· * ·) 1 % ext j * str j)).sum := by
  induction n generalizing ext str m q with
  | zero => cases m <;> rfl
  | succ n ih =>
    obtain ⟨m, rfl⟩ : ∃ k, m = k + 1 := ⟨m - 1, by omega⟩
    have hshift : ∀ j, q / ((List.range (j + 1)).map ext).foldl (· * ·) 1 =
        q / ext 0 / ((List.range j).map (ext ∘ Nat.succ)).foldl (· * ·) 1 := by
      intro j
      rw [← List.prod_eq_foldl, ← List.prod_eq_foldl, List.range_succ_eq_map, List.map_cons, List.prod_cons, List.map_map,
        Nat.div_div_eq_div_mul]
    rw [List.range_succ_eq_map, List.range_succ_eq_map, List.map_cons, List.map_cons, List.map_map, List.map_map,
      boxCoords, dotNat, ih (ext ∘ Nat.succ) (str ∘ Nat.succ) (by omega), List.map_cons, List.sum_cons, List.map_map]
    congr 1
    · simp
    · refine congrArg List.sum (List.map_congr_left (fun j _ => ?_))
      exact congrArg (· % ext (j + 1) * str (j + 1)) (hshift j).symm

/-- The extent of dimension j of a descriptor (R285). -/
def extentOf (bs : List Byte) (j : Nat) : Nat := bits (bytesNat bs) (256 + 40 * j) 16 + 1

theorem extents_eq {bs : List Byte} (hnd : (descOf bs).nd ≤ 14) :
    (descOf bs).ext.take (descOf bs).nd = (List.range (descOf bs).nd).map (extentOf bs) := by
  show ((List.range 14).map (extentOf bs)).take (descOf bs).nd = _
  rw [← List.map_take, List.take_range, min_eq_left hnd]

theorem scrLoc_eq {bs : List Byte} (hnd : (descOf bs).nd ≤ 14) (x q : Nat) :
    scrLoc (descOf bs) x (boxCoords ((descOf bs).ext.take (descOf bs).nd) q) =
      bits x 0 22 + (descOf bs).ew * ((List.range (descOf bs).nd).map (fun j =>
        q / ((List.range j).map (extentOf bs)).foldl (· * ·) 1 % extentOf bs j * bits (bytesNat bs) (272 + 40 * j) 24)).sum := by
  unfold scrLoc
  rw [← dotNat_boxCoords _ _ hnd, extents_eq hnd]
  rfl

theorem boxSize_eq {bs : List Byte} (hnd : (descOf bs).nd ≤ 14) :
    boxSize (descOf bs) = ((List.range (descOf bs).nd).map (extentOf bs)).foldl (· * ·) 1 := by
  rw [boxSize, extents_eq hnd]

/-! ### Ending -/

/-- Reading nothing makes nothing known. -/
theorem sawBytes_nil (s : State) (path w : Nat) : sawBytes s path w [] = s := by
  unfold sawBytes
  split
  · rfl
  · have hsame : ∀ v : View, (if v.path = path then v else
        { v with hidden := (v.hidden.take 0).map (fun h =>
            if h.via.contains (path, w) then h else { h with via := h.via ++ [(path, w)] }) ++ v.hidden.drop 0 }) = v := by
      intro v
      split <;> rfl
    exact congrArg (fun vs => { s with views := vs }) ((List.map_congr_left (fun v _ => hsame v)).trans (List.map_id _))

/-- The command that ends leaves the list of those outstanding, whatever stood there for it (R296). -/
theorem copyEnd_putCopy (s : State) {a b : CopyCmd} (hs : ∀ k, sameCmd k b = sameCmd k a) (status : Nat)
    (f : Option CpFail) : copyEnd (putCopy s a) b status f = copyEnd s b status f := by
  have hleft : (putCopy s a).copies.filter (fun k => !sameCmd k b) = s.copies.filter (fun k => !sameCmd k b) := by
    have hself : sameCmd a a = true := by simp [sameCmd]
    show (s.copies.map _).filter _ = _
    rw [List.filter_map]
    have hkeep : s.copies.filter ((fun k => !sameCmd k b) ∘ (fun k => if sameCmd k a then a else k)) =
        s.copies.filter (fun k => !sameCmd k b) := by
      refine List.filter_congr (fun k _ => ?_)
      simp only [Function.comp_apply, hs]
      split
      · next h => rw [hself, h]
      · rfl
    rw [hkeep]
    refine (List.map_congr_left (fun k hk => ?_)).trans (List.map_id _)
    have hne := (List.mem_filter.1 hk).2
    rw [Bool.not_eq_true', hs] at hne
    exact if_neg (by rw [hne]; exact Bool.false_ne_true)
  unfold copyEnd
  rw [hleft]
  rfl

/-! ### Performing position by position -/

/-- A scratchpad side is read and written here and now (R286). -/
theorem posLocal_of_scr (s : State) (k : Walk) {p : CpPos} {a b : Nat} (hsrc : p.src = .scr a) (hres : p.res = none)
    (hdst : p.dst = some (.scr b)) : posLocal s k p = true ∧ ∀ x ∈ posReads k p, sideLines k x = [] := by
  have hsides : posSides p = [.scr a, .scr b] := by
    rw [posSides, hsrc, hres, hdst]
    rfl
  have hreads : ∀ x ∈ posReads k p, x = .scr a ∨ x = .scr b := by
    intro x hx
    unfold posReads at hx
    rw [hsrc, hres, hdst, List.mem_cons, Option.toList_none, List.nil_append] at hx
    exact hx.imp id (fun h => List.mem_singleton.1 (List.mem_filter.1 h).1)
  refine ⟨?_, fun x hx => ?_⟩
  · unfold posLocal readsHere
    rw [hsides, Bool.and_eq_true, List.all_eq_true]
    refine ⟨fun x hx => ?_, rfl⟩
    obtain rfl | rfl := hreads x hx <;> rfl
  · obtain rfl | rfl := hreads x hx <;> rfl

/-- The value of a position, among those of all positions. -/
theorem find_value {n q : Nat} (h : q < n) (val : Nat → Nat) :
    ((((List.range n).map (fun j => (j, val j))).find? (fun e => e.1 == q)).map (·.2)).getD 0 = val q := by
  have hfind : ((List.range n).map (fun j => (j, val j))).find? (fun e => e.1 == q) = some (q, val q) := by
    rw [List.find?_map, Option.map_eq_some_iff]
    refine ⟨q, List.find?_range_eq_some.2 ⟨beq_self_eq_true q, List.mem_range.2 h, fun j hj => ?_⟩, rfl⟩
    exact bne_iff_ne.2 (show j ≠ q by omega)
  rw [hfind]
  rfl

section
variable {s : State} {k : Walk} (hop : k.cmd.op = .plain) (hsrc : k.d.sscr = true) (hdst : k.d.dscr = true)
include hop hsrc hdst

theorem cpPos_of_scr (q : Nat) : cpPos s k q =
    ⟨q, .scr (scrLoc k.d k.d.src (boxCoords (k.d.ext.take k.d.nd) q)), none,
      some (.scr (scrLoc k.d k.d.dst (boxCoords (k.d.ext.take k.d.nd) q)))⟩ := by
  unfold cpPos
  rw [hop, hsrc, hdst]
  rfl

/-- A scratchpad of a crew in which positions have been moved, with the values that the sources had. -/
def movedScr (k : Walk) (src : Memory) (qs : List Nat) (m : Memory) : Memory :=
  qs.foldl (fun m q => memPutBits m (scrLoc k.d k.d.dst (boxCoords (k.d.ext.take k.d.nd) q)) k.d.ew
    (memBits src (scrLoc k.d k.d.src (boxCoords (k.d.ext.take k.d.nd) q)) k.d.ew)) m

theorem cpStep_of_scr {n q : Nat} (h : q < n) (val : Nat → Nat) (acc : CpAcc) :
    cpStep k ((List.range n).map (fun j => (j, val j))) (fun _ => true) acc (cpPos s k q) =
      { acc with
        s := setCrew acc.s k.cmd.crew { crewAt acc.s k.cmd.crew with
          scr := memPutBits (crewAt acc.s k.cmd.crew).scr
            (scrLoc k.d k.d.dst (boxCoords (k.d.ext.take k.d.nd) q)) k.d.ew (val q) } } := by
  have hcomb : ¬ (k.cmd.op = .scatter ∧ k.d.dup = true) := by
    rw [hop]
    exact fun h => nomatch h.1
  rw [cpPos_of_scr hop hsrc hdst]
  unfold cpStep
  simp only [find_value h, if_true, if_neg hcomb]
  rfl

theorem cpSteps_of_scr {n : Nat} {qs : List Nat} (hqs : ∀ q ∈ qs, q < n) (src : Memory) (acc : CpAcc)
    (hc : k.cmd.crew < acc.s.crews.length) :
    (qs.map (cpPos s k)).foldl (cpStep k ((List.range n).map (fun j => (j, memBits src
      (scrLoc k.d k.d.src (boxCoords (k.d.ext.take k.d.nd) j)) k.d.ew))) (fun _ => true)) acc =
      { acc with
        s := setCrew acc.s k.cmd.crew { crewAt acc.s k.cmd.crew with
          scr := movedScr k src qs (crewAt acc.s k.cmd.crew).scr } } := by
  induction qs generalizing acc with
  | nil =>
    show acc = { acc with s := setCrew acc.s k.cmd.crew (crewAt acc.s k.cmd.crew) }
    rw [setCrew_self]
  | cons q qs ih =>
    rw [List.map_cons, List.foldl_cons, cpStep_of_scr hop hsrc hdst (hqs q List.mem_cons_self),
      ih (fun q hq => hqs q (List.mem_cons_of_mem _ hq)) _ (by rwa [setCrew_length])]
    simp only [crewAt_setCrew _ _ _ hc, setCrew_setCrew]
    rfl

/-- All that a copy between scratchpad ranges reads is read before any of it is written (R293). -/
theorem cpPerform_of_scr (hnext : k.cmd.next = 0) (hc : k.cmd.crew < s.crews.length) :
    cpPerform (copySaw s k (cpWalk s k)) k (cpWalk s k) (fun _ => true) (fun _ => true) =
      ⟨setCrew s k.cmd.crew { crewAt s k.cmd.crew with
        scr := movedScr k k.scr (List.range (boxSize k.d)) (crewAt s k.cmd.crew).scr },
        k.cmd.flags, k.cmd.cnt, k.cmd.gen, [], s.fab.peers⟩ := by
  have hwalk : cpWalk s k = (List.range (boxSize k.d)).map (cpPos s k) := by
    rw [cpWalk, hnext, Nat.sub_zero]
    exact List.map_congr_left (fun q _ => by rw [Nat.zero_add])
  have hsaw : copySaw s k (cpWalk s k) = s := by
    have hnone : (cpWalk s k).flatMap (fun p => (posSides p).flatMap sideReads) = [] := by
      rw [hwalk, List.flatMap_eq_nil_iff]
      intro p hp
      obtain ⟨q, -, rfl⟩ := List.mem_map.1 hp
      rw [cpPos_of_scr hop hsrc hdst]
      rfl
    unfold copySaw
    rw [hnone]
    exact sawBytes_nil ..
  rw [hsaw, hwalk]
  have hvals : (((List.range (boxSize k.d)).map (cpPos s k)).filter (fun _ => true)).map
      (fun p => (p.q, sideVal s k k.d.ew p.src)) = (List.range (boxSize k.d)).map (fun j =>
        (j, memBits k.scr (scrLoc k.d k.d.src (boxCoords (k.d.ext.take k.d.nd) j)) k.d.ew)) := by
    rw [List.filter_true, List.map_map]
    refine List.map_congr_left (fun q _ => ?_)
    rw [Function.comp_apply, cpPos_of_scr hop hsrc hdst]
    rfl
  unfold cpPerform
  rw [if_neg (by rw [hop]; nofun)]
  dsimp only
  rw [hvals]
  exact cpSteps_of_scr hop hsrc hdst (fun q hq => List.mem_range.1 hq) k.scr _ hc

end

/-- The command at the head of a channel runs, where its warp is not frozen. -/
theorem exec_copyCommandEnd {spire : Nat} {ch : Fin 8} {s : State} {cmd : CopyCmd} {rest : List CopyCmd}
    (hhead : chanCmds s (spire / 34) (spire % 34) ch = cmd :: rest) (hfrozen : engFrozen s cmd.warp = false)
    (fail : Option ReadFail) : exec (.copyCommandEnd spire ch fail) s = .next (copyRun s cmd fail) := by
  show execCopyCommandEnd spire ch fail s = _
  unfold execCopyCommandEnd
  rw [show chanCmds s (spire / Config.spiresPerTower) (spire % Config.spiresPerTower) ch.val = cmd :: rest from hhead]
  exact congrArg Host.Outcome.next (if_neg (by rw [hfrozen]; exact Bool.false_ne_true))

/-- A plain copy between scratchpad ranges is performed and ends (R286, R293, R296). -/
theorem copyRun_of_scr {s : State} {cmd : CopyCmd} (hop : cmd.op = .plain) (hout : cmd.out = [])
    (hdying : cmd.dying = false) (hnext : cmd.next = 0) (hc : cmd.crew < s.crews.length)
    (hsrc : (descOf cmd.desc).sscr = true) (hdst : (descOf cmd.desc).dscr = true) :
    copyRun s cmd none = copyEnd (setCrew s cmd.crew { crewAt s cmd.crew with
        scr := movedScr (walkOf s cmd) (crewAt s cmd.crew).scr (List.range (boxSize (descOf cmd.desc)))
          (crewAt s cmd.crew).scr }) { cmd with next := boxSize (descOf cmd.desc) } 0 none := by
  have hshaped : shapedOf s cmd = cmd := by
    unfold shapedOf recordShape
    rw [if_neg (by rw [show (walkOf s cmd).cmd.op = .plain from hop]; nofun), Option.or_none]
  have hhere : ∀ p ∈ cpWalk s (walkOf s cmd), posLocal s (walkOf s cmd) p = true ∧
      ∀ x ∈ posReads (walkOf s cmd) p, sideLines (walkOf s cmd) x = [] := by
    intro p hp
    obtain ⟨j, -, rfl⟩ := List.mem_map.1 hp
    rw [cpPos_of_scr hop hsrc hdst]
    exact posLocal_of_scr s _ rfl rfl rfl
  have hrun := copyRun_of_here hout hdying (by rw [hnext]; exact Nat.zero_le _) (by rw [hshaped]; exact hhere)
  have hperform := cpPerform_of_scr (s := putCopy s cmd) (k := walkOf s cmd) hop hsrc hdst hnext hc
  have hput : ∀ x, setCrew (putCopy s cmd) cmd.crew x = putCopy (setCrew s cmd.crew x) cmd := fun _ => rfl
  rw [hrun, hshaped]
  dsimp only
  rw [show cpWalk s (walkOf s cmd) = cpWalk (putCopy s cmd) (walkOf s cmd) from rfl, hperform,
    show (walkOf s cmd).cmd = cmd from rfl, hput]
  dsimp only
  rw [copyEnd_putCopy]
  · rfl
  · intro _
    rfl

theorem execCompletionRecordArrival_w6 {s : State} {w : Nat} {r : BitVec 128} {rest : List (BitVec 128)}
    (h : (warpAt s w).w6 = r :: rest) (hroom : (warpAt s w).q6.length + swapTook (warpAt s w) 6 < 16) :
    execCompletionRecordArrival w false s =
      .next (setWarp s w { warpAt s w with w6 := rest, q6 := (warpAt s w).q6 ++ [r] }) := by
  unfold execCompletionRecordArrival
  simp only [Bool.false_eq_true, if_false, h, if_pos hroom]

theorem execCompletionRecordArrival_w7 {s : State} {w : Nat} {r : BitVec 128} {rest : List (BitVec 128)}
    (h : (warpAt s w).w7 = r :: rest) (hroom : (warpAt s w).q7.length + swapTook (warpAt s w) 7 < 16) :
    execCompletionRecordArrival w true s =
      .next (setWarp s w { warpAt s w with w7 := rest, q7 := (warpAt s w).q7 ++ [r] }) := by
  unfold execCompletionRecordArrival
  simp only [if_true, h, if_pos hroom]

/-- Settles O42, for the waits, the cancellations, the commands that run and the records that arrive. -/
theorem copyProgress : Obligations.CopyProgress := by
  refine ⟨?_, ?_, ?_, fun w s r rest => ⟨execCompletionRecordArrival_w6, execCompletionRecordArrival_w7⟩⟩
  · intro g a s c s1 v e mine named heads hg
    refine ⟨fun hv => execCwait_goes_on hg hv, fun hv => execCwait_waits hg hv, fun hv hnone => ?_, fun hv hsome hout => ?_,
      fun t hv hout ht hu => execCcan_waits hg hv hout (ht.trans ?_) hu⟩
    · have hends := execCcan_ends hg hv (fun k hk => absurd hk (by
        rw [show cancelled s1 (envOf s c).c (v 0) = named from rfl, hnone]
        exact List.not_mem_nil))
      rw [show cancelled s1 (envOf s c).c (v 0) = [] from hnone] at hends
      exact hends
    · have hends := execCcan_ends hg hv hout
      rw [if_neg (by rw [List.isEmpty_iff]; exact hsome)] at hends
      exact hends
    · exact List.foldl_ext _ _ _ (fun t k _ => (cancelOne_eq heads t k).symm)
  · intro spire ch s cmd rest shaped k ps done hhead hfrozen hout hdying hnext hps
    exact (exec_copyCommandEnd hhead hfrozen none).trans (congrArg Host.Outcome.next
      (copyRun_of_here hout hdying hnext hps))
  · intro spire ch s cmd rest f nd ew ext below place cr moved hhead hfrozen hop hout hdying hnext hc hone hnd hsscr hdscr
    have hrun := copyRun_of_scr hop hout hdying hnext hc (beq_iff_eq.2 hsscr) (beq_iff_eq.2 hdscr)
    have hplace : ∀ x q, scrLoc (descOf cmd.desc) x (boxCoords ((descOf cmd.desc).ext.take (descOf cmd.desc).nd) q) =
        place x q := fun x q => scrLoc_eq hnd x q
    rw [exec_copyCommandEnd hhead hfrozen none, hrun, boxSize_eq hnd]
    unfold movedScr
    simp only [show (walkOf s cmd).d = descOf cmd.desc from rfl, hplace]
    rfl

end Sys2Proof.Machine

/-! ## The life of a crew and of a launch (R134, R174, R183, R184, R191, R308, R310) -/

namespace Sys2Proof.Machine

/-! ### Traps that are delivered (R308, R310) -/

theorem trapDue_of_user {x : Warp} (hmode : x.mode = .user) (hhalt : x.halt = .no) (hhold : x.holdSl = none)
    (hgone : x.gone = false) (hdone : pathsDone x = false) (htq : x.tq ≠ []) : trapDue x = true := by
  have hsome : x.tq.isEmpty = false := by simpa using htq
  simp [trapDue, hmode, hhalt, hhold, hgone, hdone, hsome]

/-- The warp in which the handler of an entry starts at an address (R308). -/
def handling (x : Warp) (t : TrapEntry) (rest : List TrapEntry) (pc : DWord) : Warp :=
  let lanes := trLanes t.bits &&& x.alive
  { x with
    tq := rest, cur := some t, tpc := trPc t.bits, tfflags := x.fflags, shadow := x.b
    mode := .supervisor
    hdl := { Slot.free with
      live := true
      path := ⟨pc, if lanes = 0 then maskOf (fun l => lowest x.alive == some l) else lanes, noRejoin, 0⟩ } }

theorem execTrapDelivery_of_due {s : State} {w : Nat} {t : TrapEntry} {rest : List TrapEntry} {k : Ctx}
    (hdue : trapDue (warpAt s w) = true) (htq : (warpAt s w).tq = t :: rest) (hctx : ctxGet s (ctxNumOf s w) = some k) :
    execTrapDelivery w s =
      .next (setWarp s w (handling (warpAt s w) t rest (BitVec.ofNat 64 (csrPair k 0x040)))) := by
  unfold execTrapDelivery deliverTrap
  rw [if_pos hdue]
  simp only [htq, hctx]
  rfl

theorem execTrapQueueOverflow_of_here {s : State} {w : Nat} (h : (warpAt s w).gone = false) :
    execTrapQueueOverflow w s = .next (trapOverflow s w) :=
  congrArg Host.Outcome.next (if_neg (by rw [h]; exact Bool.false_ne_true))

/-! ### Ends (R134, R191) -/

theorem execWarpRelease_of_ended {s : State} {w : Nat} (hgone : (warpAt s w).gone = false)
    (hdone : pathsDone (warpAt s w) = true) (hbusy : warpBusy s w = false) :
    execWarpRelease w s = .next (setWarp s w { warpAt s w with gone := true }) := by
  unfold execWarpRelease
  simp only [hgone, hdone, hbusy, Bool.not_true, Bool.or_self, Bool.false_eq_true, if_false]

theorem execCrewEnd_of_left {s : State} {c : Nat} (hgone : (crewAt s c).gone = false)
    (hwarps : ∀ w ∈ (crewAt s c).warps, (warpAt s w).gone = true) (heng : (crewAt s c).eng = [])
    (hcopies : ∀ j ∈ s.copies, j.crew ≠ c) (hcoll : ∀ j ∈ s.coll.cmds, j.live = true → j.crew ≠ c) :
    execCrewEnd c s = .next (putLaunch (setCrew (releaseFrames s c) c { crewAt (releaseFrames s c) c with gone := true })
      (crewAt s c).launch (fun l => { l with ended := l.ended + 1 })) := by
  have hall : (crewAt s c).warps.all (fun w => (warpAt s w).gone) = true := List.all_eq_true.2 hwarps
  have hcopy : s.copies.any (fun k => k.crew == c) = false := by
    rw [List.any_eq_false]
    exact fun j hj => by simpa using hcopies j hj
  have hlive : s.coll.cmds.any (fun k => k.live && k.crew == c) = false := by
    rw [List.any_eq_false]
    exact fun j hj => by simpa using hcoll j hj
  unfold execCrewEnd
  simp only [hgone, hall, heng, hcopy, hlive, List.isEmpty_nil, Bool.not_true, Bool.or_self, Bool.false_eq_true, if_false]

theorem execLaunchDone_of_ended {s : State} {h : DWord} {l : Launch} (hl : launchOf s h = some l)
    (hst : l.state = .running) (hleft : crewsLeft l = false) (hend : l.ended = gridSize l.record) :
    execLaunchDone h s = .next (settleAll (resolveDone s h)) := by
  unfold execLaunchDone
  simp [hl, hst, hleft, hend]

theorem execLaunchCancel_of_launch {s : State} {h : DWord} {l : Launch} (hl : launchOf s h = some l)
    (hdone : l.state ≠ .done) (hbroken : l.state ≠ .broken) :
    execLaunchCancel h s = .next (settleAll (breakLaunch s h 6 0)) := by
  unfold execLaunchCancel
  simp [hl, hdone, hbroken]

theorem execLaunchCancel_of_record {s : State} {h : DWord} (hl : launchOf s h = none)
    (hr : ∃ q ∈ s.queues, ∃ r ∈ q.ring, r.msg.handle = h) :
    execLaunchCancel h s = .next (settleAll (breakLaunch s h 6 0)) := by
  obtain ⟨q, hq, r, hr, hh⟩ := hr
  have hwaits : waitsHere s h = true := by
    have hring : q.ring.any (fun r => r.msg.handle == h) = true := List.any_eq_true.2 ⟨r, hr, beq_iff_eq.2 hh⟩
    unfold waitsHere
    rw [Bool.or_eq_true, List.any_eq_true]
    exact .inl ⟨q, hq, by rw [hring, Bool.or_true]⟩
  unfold execLaunchCancel
  simp only [hl, hwaits, if_true]

/-! ### Queues (R174, R184) -/

theorem execQueueAgeing_of_due {s : State} {q : Nat} {l : Launch} (hl : candidateOf s q = some l)
    (hage : (s.queues.getD q Queue.zero).ageth ≠ 0)
    (hdue : max l.since (s.queues.getD q Queue.zero).since + (s.queues.getD q Queue.zero).ageth.toNat ≤ s.now)
    (hprio : l.prio + (s.queues.getD q Queue.zero).raised < 7) : execQueueAgeing q s =
      .next { s with
        queues := s.queues.set q { s.queues.getD q Queue.zero with
          raised := (s.queues.getD q Queue.zero).raised + 1
          since := max l.since (s.queues.getD q Queue.zero).since + (s.queues.getD q Queue.zero).ageth.toNat } } := by
  have hage : (s.queues.getD q Queue.zero).ageth.toNat ≠ 0 := fun h => hage (BitVec.eq_of_toNat_eq h)
  unfold execQueueAgeing
  simp only [hl]
  exact congrArg Host.Outcome.next (if_neg (by rintro (h | h | h) <;> omega))

section
variable {s : State} {qn : Nat} {r0 r : RingRec} {s0 s1 : State} (hst : s.plat.st = .ready)
  (hen : (s.queues.getD qn Queue.zero).en = true ∨ (s.queues.getD qn Queue.zero).begun = true)
  (hsome : (s.queues.getD qn Queue.zero).head ≠ (s.queues.getD qn Queue.zero).tail)
  (hwait : (s.queues.getD qn Queue.zero).wait = []) (hruns : ctxRuns s (s.queues.getD qn Queue.zero).owner = true)
  (hhead : headRecord s qn = some (r0, s0)) (hown : ownRecord s0 qn r0 = (r, s1))
include hst hen hsome hwait hruns hhead hown

/-- The record at the head of a queue that may be read is taken up (R174). -/
theorem execLaunchAccept_eq : execLaunchAccept qn s = .next
    (let q := s.queues.getD qn Queue.zero
     let record := slotRecord s1 q
     let d := askDeps s1 (launchCtx r.msg r.kind record) (recordDeps record)
     if recordOver s1 r.msg then passRecord s1 qn
     else if r.kind = .sent then
       (if d.1 then admitLaunch (slotTaken s1 q) qn r.msg .sent record r.msg.args r.msg.fmt r.msg.capFail
         else setBegun d.2 qn)
     else
       let c := capture d.2 (dispAgent d.2 r.msg.ctx q.failed) (acceptOwner qn) record
       if !c.2.units.isEmpty && !c.2.failed then setBegun (askUnit c.1 c.1.disp.master c.2.units) qn
       else if (c.2.wait && !c.2.failed) || !d.1 then setBegun c.1 qn
       else admitLaunch (slotTaken c.1 q) qn r.msg r.kind record c.2.args c.2.fmt c.2.failed) := by
  have hready : ready s = true := beq_iff_eq.2 hst
  have hopen : (!(s.queues.getD qn Queue.zero).en && !(s.queues.getD qn Queue.zero).begun) = false := by
    obtain h | h := hen
    · rw [h]
      rfl
    · rw [h, Bool.not_true, Bool.and_false]
  unfold execLaunchAccept
  simp only [hwait, List.length_nil, fillRing, hready, hopen, beq_eq_false_iff_ne.2 hsome, hruns, hhead, hown, Bool.not_true,
    Bool.or_self, Bool.false_eq_true, if_false]

theorem execLaunchAccept_of_over (hover : recordOver s1 r.msg = true) :
    execLaunchAccept qn s = .next (passRecord s1 qn) :=
  (execLaunchAccept_eq hst hen hsome hwait hruns hhead hown).trans (congrArg Host.Outcome.next (if_pos hover))

variable {record : List Byte} (hover : recordOver s1 r.msg = false)
  (hrange : inOneRange s1.plat (slotAddr (s.queues.getD qn Queue.zero) (s.queues.getD qn Queue.zero).head.toNat) 128 = true)
  (hrec : record = memBytes s1.mem (slotAddr (s.queues.getD qn Queue.zero) (s.queues.getD qn Queue.zero).head.toNat) 128)
  (hdeps : askDeps s1 (launchCtx r.msg r.kind record) (recordDeps record) = (true, s1))
include hover hrange hrec hdeps

/-- A record that was sent with what it needs is admitted (R174, R379). -/
theorem execLaunchAccept_of_sent (hkind : r.kind = .sent) : execLaunchAccept qn s =
    .next (admitLaunch s1 qn r.msg .sent record r.msg.args r.msg.fmt r.msg.capFail) := by
  have hslot : slotRecord s1 (s.queues.getD qn Queue.zero) = record := (if_pos hrange).trans hrec.symm
  have htaken : slotTaken s1 (s.queues.getD qn Queue.zero) = s1 := if_pos hrange
  rw [execLaunchAccept_eq hst hen hsome hwait hruns hhead hown]
  simp only [hslot, hdeps, htaken, hover, Bool.false_eq_true, if_false, if_true]
  exact congrArg Host.Outcome.next (if_pos hkind)

/-- Any other record is admitted once its arguments and its format table are captured (R174, R175). -/
theorem execLaunchAccept_of_captured {s2 : State} {cap : Capture} (hkind : r.kind ≠ .sent)
    (hcap : capture s1 (dispAgent s1 r.msg.ctx (s.queues.getD qn Queue.zero).failed) (acceptOwner qn) record = (s2, cap))
    (hunits : cap.units = []) (hcwait : cap.wait = false) (hplat : s2.plat = s1.plat) : execLaunchAccept qn s =
    .next (admitLaunch s2 qn r.msg r.kind record cap.args cap.fmt cap.failed) := by
  have hslot : slotRecord s1 (s.queues.getD qn Queue.zero) = record := (if_pos hrange).trans hrec.symm
  have htaken : slotTaken s2 (s.queues.getD qn Queue.zero) = s2 := if_pos (by rwa [hplat])
  rw [execLaunchAccept_eq hst hen hsome hwait hruns hhead hown]
  simp only [hslot, hdeps, htaken, hover, hkind, hcap, hunits, hcwait, List.isEmpty_nil, Bool.not_true, Bool.false_and,
    Bool.or_self, Bool.false_eq_true, if_false]

end

/-! ### Placement (R183) -/

theorem execCrewPlace_of_plan {s s1 : State} {spire : Nat} {k : Cand} {plan : List (Nat × Nat)} (hst : s.plat.st = .ready)
    (hchoose : chooseCand s (candidates s spire) = some k) (hplan : k.plan = some plan) (hfresh : (members k.l).2 = false)
    (hplace : placePlan s k.l k.p plan = .ok s1) : execCrewPlace spire s = .next (
      let t := putLaunch s1 k.l.h (fun l => countPlaced l (plan.map Prod.fst))
      let t := if k.l.state = .placed then setLState t k.l.h .running 2 else t
      requestAll (settleAll (forwardHeld (notePlaced t k.q k.p) k.l.h)) spire) := by
  have hready : ready s = true := beq_iff_eq.2 hst
  unfold execCrewPlace placeNext
  simp only [hready, hchoose, hplan, hfresh, hplace, beq_iff_eq, Bool.not_true, Bool.false_eq_true, if_false]

/-- Settles O48, event by event. -/
theorem crewLifecycle : Obligations.CrewLifecycle := by
  intro s
  refine ⟨?_,
    fun w hgone => execTrapQueueOverflow_of_here hgone, fun w => execWarpRelease_of_ended, fun k => execCrewEnd_of_left,
    fun h l => execLaunchDone_of_ended, fun h l => execLaunchCancel_of_launch, fun h => execLaunchCancel_of_record,
    fun q l => execQueueAgeing_of_due, ?_,
    fun spire k plan s1 => execCrewPlace_of_plan⟩
  · intro w t rest k x hmode hhalt hhold hgone hdone htq hctx lanes
    exact execTrapDelivery_of_due (trapDue_of_user hmode hhalt hhold hgone hdone (by rw [htq]; exact List.cons_ne_nil _ _))
      htq hctx
  · intro qn r0 r s0 s1 q rec_ hst hen hsome hwait hruns hhead hown
    exact ⟨execLaunchAccept_of_over hst hen hsome hwait hruns hhead hown, fun hover hrange hdeps =>
      ⟨execLaunchAccept_of_sent hst hen hsome hwait hruns hhead hown hover hrange rfl hdeps, fun s2 cap =>
        execLaunchAccept_of_captured hst hen hsome hwait hruns hhead hown hover hrange rfl hdeps⟩⟩

end Sys2Proof.Machine
